-- ==== Sys2Proof/Word.lean ====
section
/-! DEFINITION. The words of the device: bytes and the register widths of R19 and R20. -/

namespace Sys2Proof

/-- One byte (R20). -/
abbrev Byte := BitVec 8

/-- A 16-bit word. -/
abbrev Word16 := BitVec 16

/-- A 32-bit word. -/
abbrev Word32 := BitVec 32

/-- A 64-bit word: a register of R19, an instruction, a hall address of R32. -/
abbrev Word64 := BitVec 64

/-- A 128-bit word. -/
abbrev Word128 := BitVec 128

end Sys2Proof
end

