-- ==== Sys2Proof/Syntax.lean ====
section
/-! DEFINITION. The commands of the device, one constructor for each row of spec/opcode_table.json, and the data they carry. -/

namespace Sys2Proof

/-- A moment of hall time: seconds, nanoseconds and fractions of 2^-16 ns (R427). -/
structure HallTime where
  sec : Nat := 0
  ns : Nat := 0
  frac : Nat := 0
deriving DecidableEq, Repr

/-- The lease status a JOIN carries (R77). -/
inductive Lease where
  | notNeeded
  | pending
  | confirmed
deriving DecidableEq, Repr

/-- A lost logical device of a ROLLBACK, its position and its spare (R410, R419). -/
structure Lost where
  logical : Nat
  physical : Nat
  spare : Option Nat
deriving DecidableEq, Repr

/-- A straggler of a swap list: the logical device and the spare's position (R422). -/
structure Swap where
  logical : Nat
  spare : Nat
deriving DecidableEq, Repr

/-- The messages of the urgent channel, with ORDER_RETRY (R330, R410, R432). -/
inductive Msg where
  /-- 0x80 JOIN: `spare` is the sender's spare status, `code` its refusal code. -/
  | join (spare : Bool) (logical : Nat) (planId : Word64) (digest : BitVec 384) (code : Nat) (lease : Lease)
  /-- 0x81 WITHDRAW. -/
  | withdraw
  /-- 0x82 VERDICT: GO, or REFUSE with its code, the refusing device and that device's code. -/
  | verdict (go : Bool) (code dev devCode : Nat)
  /-- 0x83 START. -/
  | start (t : HallTime)
  /-- 0x84 ARRIVE: for each device the hall time its epoch ended. -/
  | arrive (commit : Nat) (times : List (Nat × HallTime))
  /-- 0x85 MIRROR. -/
  | mirror (commit : Nat)
  /-- 0x86 SEALED. -/
  | sealed (commit bytes : Nat)
  /-- 0x87 READY. -/
  | ready (commit : Nat) (devs : List Nat)
  /-- 0x88 COMMIT. -/
  | commit (commit : Nat) (t : HallTime) (swaps : List Swap)
  /-- 0x89 COMMIT_ACK. -/
  | commitAck (commit : Nat)
  /-- 0x8A FAULT. -/
  | fault (cause engine : Nat) (selfLost : Bool)
  /-- 0x8B SUSPECT. -/
  | suspect (dev : Nat)
  /-- 0x8C PROBE. -/
  | probe (seq : Nat)
  /-- 0x8D PROBE_ACK. -/
  | probeAck (seq : Nat)
  /-- 0x8E ROLLBACK: the next phase and pass counters of the target are for a spare without shards (R420). -/
  | rollback (target serial : Nat) (lost : List Lost) (next : Nat) (passes : List (Nat × Nat))
  /-- 0x8F RESTORED: the devices restored below the sender. -/
  | restored (serial : Nat) (devs : List Nat)
  /-- 0x90 RESTART. -/
  | restart (t : HallTime)
  /-- 0x91 STOP. -/
  | stop (status : Nat)
  /-- 0x92 LEASE_CHECK. -/
  | leaseCheck (planId : Word64) (size physical : Nat)
  /-- 0x93 LEASE_OK, or a refusal. -/
  | leaseOk (planId : Word64) (ok : Bool)
  /-- 0x94 STOP_REQ. -/
  | stopReq (atBoundary : Bool)
  /-- 0xA0 SYNC. -/
  | sync (seq st flags : Nat)
  /-- 0xA1 FOLLOW. -/
  | follow (t1 : HallTime) (seq st flags : Nat)
  /-- 0xA2 DELAY_REQ. -/
  | delayReq (seq st flags : Nat)
  /-- 0xA3 DELAY_RESP. -/
  | delayResp (t4 : HallTime) (seq st flags : Nat)
  /-- 0xA4 MASTER_TAKE. -/
  | masterTake (t : HallTime) (st flags : Nat)
  /-- 0xA5 ANNOUNCE. -/
  | announce (hops st flags : Nat)
  /-- 0xB0 CLOSE: the lane as the sender names it, the last seq delivered in order, the reason. -/
  | close (port line seq reason : Nat)
  /-- 0xB1 ORDER_SKIP. -/
  | orderSkip (count : Nat)
  /-- 0xB2 ORDER_RETRY. -/
  | orderRetry (count : Nat)
  /-- 0xB3 ADOPT. -/
  | adopt (orphan tier plane : Nat)
  /-- The steward's suspend request and decision (`request`; `ok` for the decision), and a device's answer (R534). -/
  | suspend (request ok : Bool)
deriving DecidableEq, Repr

/-- The memory and coherence fields of R356, and of mirror and restore data (R414).
`core` names the L1 of the sender or of the addressed device for coherence messages. -/
structure MemBody where
  len : Nat := 0
  op : Nat := 0
  elem : Nat := 0
  poison : Bool := false
  err : Bool := false
  slotGen : Nat := 0
  addr : Word64 := 0
  operand : Word128 := 0
  extra : Word128 := 0
  core : Nat := 0
  data : List Byte := []
deriving DecidableEq, Repr

/-- The collective data fields of R394. -/
structure CollBody where
  stage : Nat := 0
  die : Nat := 0
  partialSum : Bool := false
  slotGen : Nat := 0
  seq : Nat := 0
  digest : Nat := 0
  sender : Nat := 0
  offset : Nat := 0
  elements : Nat := 0
  extra : Word128 := 0
  data : List Byte := []
deriving DecidableEq, Repr

/-- What a packet carries after its routing header. -/
inductive Body where
  | mem (m : MemBody)
  | coll (c : CollBody)
  | msg (m : Msg)
deriving DecidableEq, Repr

/-- A packet: the routing header of R329 and its body. `phys` is dest bit [31]. `answers` is the type of the request a response answers,
which its ports need to know (R6), zero for a packet that answers none. -/
structure Packet where
  vc : Nat := 0
  flits : Nat := 1
  ptype : Nat := 0
  phys : Bool := false
  dest : Nat := 0
  source : Nat := 0
  flagged : Bool := false
  hops : Nat := 0
  escaped : Bool := false
  detour : Bool := false
  mcast : Bool := false
  mstage : Nat := 0
  gen : Nat := 0
  cls : Nat := 0
  order : Nat := 0
  tag : Nat := 0
  answers : Nat := 0
  body : Body := .mem {}
deriving DecidableEq, Repr

/-- The kinds of frame (R294). -/
inductive FrameKind where
  | idle
  | data
  | train
deriving DecidableEq, Repr

/-- A frame: the header of R294 and the packets of its payload (R295). `trainByte` is byte 0 of a TRAIN payload. -/
structure Frame where
  kind : FrameKind := .idle
  nak : Bool := false
  swapReq : Bool := false
  marked : Bool := false
  notice : Bool := false
  line : Nat := 0
  sender : Nat := 0
  port : Nat := 0
  rateAdapt : Bool := false
  seq : Nat := 0
  ack : Nat := 0
  creditVc : Nat := 0
  credit : Nat := 0
  closing : Bool := false
  trainByte : Nat := 0
  packets : List Packet := []
deriving DecidableEq, Repr

/-- The blocks that have a COMMIT register (R37, R520). -/
inductive CommitBlock where
  | fab
  | otil (k : Nat)
  | pwr
  | thm
  | time
deriving DecidableEq, Repr

/-- What the error check of a store found on the lines it read: nothing, a corrected error, or an uncorrectable one (R211, R212), with
how many bytes after the first byte read the line in error lies (in rows, for the accumulator). -/
inductive Ecc where
  | ok
  | corrected (off : Nat)
  | uncorrectable (off : Nat)
deriving DecidableEq, Repr

/-- An operand of a command, with what the error check of the memory the command reads finds (log entry 9). -/
structure Checked (α : Type) where
  it : α
  ecc : Ecc := .ok
deriving DecidableEq, Repr

/-- What the residue checks of a collective's sums find (R398): they hold, or one fails, with the self-test before a restart passed or not. -/
inductive Residue where
  | held | failed | failedTest
deriving DecidableEq, Repr

/-- A lane that has lost its frames, and whether the loss lies within a burst (R308). -/
structure LaneLoss where
  lane : Nat
  burst : Bool := false
deriving DecidableEq, Repr

/-- The byte stores of the device: scratchpad, HBM and core store. -/
inductive Store where
  | sp
  | hbm
  | cs
deriving DecidableEq, Repr

/-- What a regulator returns (R445 to R447): an acknowledgement, an action not taken or invalid data, a bad CRC or no response with the
voltage a read then shows, a read-back voltage, or a current in 0.1 A. -/
inductive AvsReply where
  | ack
  | notDone (status : Nat)
  | bad (frame mv : Nat)
  | volts (mv : Nat)
  | current (tenths : Nat)
deriving DecidableEq, Repr

/-- One sensor as the owl reads it in a round (R469, R470): its reading in 1/16 degree, its own diagnostic, and no fresh conversion. -/
structure SensorRead where
  n : Nat
  reading : Int := 0
  diag : Bool := false
  stale : Bool := false
deriving DecidableEq, Repr

/-- A slot of the calibration store in the flash (R497): the bytes programmed of its header, its body and its commit record; a part that is
erased has none. -/
structure CalSlot where
  header : List Byte := []
  body : List Byte := []
  commit : List Byte := []
deriving DecidableEq, Repr

/-- A line that failed the test of R213: its store's space and its byte offset, the lines of its SP bank or CS row that read with an
uncorrectable error, and for HBM whether the repair completed. -/
structure LineTest where
  space : Nat
  addr : Nat
  unread : List Nat := []
  repaired : Bool := true
deriving DecidableEq, Repr

/-- A tile link after training (R502 to R504) and the 64 bytes of the profile the tile sent, none where it sent none. -/
structure TileRead where
  trained : Bool := false
  rate : Nat := 32
  modules : Nat := 8
  profile : List Byte := []
deriving DecidableEq, Repr

/-- A laser feed as its monitor finds it (R283): powers in 1/16 dBm and the tone check. -/
structure FeedRead where
  unit : Nat
  b : Bool
  avg : Int
  low : Int
  tones : Bool
deriving DecidableEq, Repr

/-- What the tests and training of a boot step found (R485, R487): each step takes the fields it names. -/
structure BootResult where
  /-- step 1: the straps (R549) and the hub cores' self-test -/
  position : Nat := 0
  coreFail : Bool := false
  /-- step 2: fuse bits corrected, an uncorrectable word; on the warm path the copy whose CRC failed: 1 fuses, 2 calibration, 3 repairs -/
  fuseCorr : Nat := 0
  fuseBad : Bool := false
  copyBad : Nat := 0
  /-- step 3: a calibration slot whose contents in the flash are not those the device last left there -/
  slotA : Option CalSlot := none
  slotB : Option CalSlot := none
  /-- steps 4 and 5: physical banks, CS rows and units (by unit code, log entry 25) that are bad, those of them in the fuses, and the hub
  links -/
  bad : List Nat := []
  fused : List Nat := []
  hubSpareDown : List Nat := []
  hubSpareUp : List Nat := []
  hubFailed : List Nat := []
  /-- step 6: stacks that are not trained, and stacks absent after repair -/
  untrained : List Nat := []
  absentStacks : List Nat := []
  /-- step 7: the tile links and feeds, ring faults (port, receive bus, ring), and whether the sweeps or fits differ from the store -/
  tiles : List TileRead := []
  feeds : List FeedRead := []
  badRings : List (Nat × Bool × Nat) := []
  changed : Bool := false
  /-- step 8: the duration in microseconds and whether the host link is in L0 -/
  us : Nat := 0
  l0 : Bool := false
deriving DecidableEq, Repr

/-- Test access instructions (R506). -/
inductive TapIns where
  | bypass
  | idcode
  | sample
  | extest
  | clamp
  | highz
  | standalone
deriving DecidableEq, Repr

/-- A configuration request of the host (R514, R516, R517, R522): a read, or a write of what it sets. -/
inductive CfgReq where
  | read (off : Nat)
  | power (d3hot : Bool)
  | msix (enable maskAll : Bool)
  | bar2 (gib : Nat)
  | bar4 (gib : Nat)
  | payload (bytes : Nat)
  | readRequest (bytes : Nat)
deriving DecidableEq, Repr

/-- What host memory answers to a read the device sent (R208): the bytes, or a completion with a PCIe status other than success. -/
inductive HostAnswer where
  | data (d : List Byte)
  | error (status : Nat)
deriving DecidableEq, Repr

/-- A read the device sent to host memory (R208, R527): a hare's copy, by its issue number, or the command of a queue. -/
inductive HostRead where
  | copy (hare issue : Nat)
  | command (queue : Nat)
deriving DecidableEq, Repr


/-- The commands of the device: one constructor for each row of the table of operations and events. -/
inductive Instr where
  /-- COMMIT_GO (R37). Writing 1 to a block's COMMIT.go latches the staged RWS set into its commit buffer. A go written while pending is 1 is ignored and sets overrun. -/
  | commitGo (b : CommitBlock)
  /-- COMMIT_APPLY (R38). At the block's safe point, the latched set is checked and applied whole, and generation increments. -/
  | commitApply (b : CommitBlock)
  /-- REGISTER_WRITE (R518). A BAR0 write to a register or field that has no row of its own takes effect by its type, or is ignored where the offset is reserved or locked. -/
  | registerWrite (off len v : Nat)
  /-- PHASE_END (R27). When every program of the phase has ended and every completion tally has reached its target, the device ends the phase. It transfers holdings, applies the next colour set, applies a pending roster commit and follows R49 to the next phase. -/
  | phaseEnd
  /-- PHASE_START (R27). Once every ring whose line the phase changes has locked and been verified, the next phase's programs start. -/
  | phaseStart
  /-- PLAN_LOAD (R528). The host command that reads a plan image and begins the load of R80. -/
  | planLoad (q id : Nat) (rsv : Bool) (addr len ring vector : Nat)
  /-- LOAD_CHECKS (R74). Once the image read completes, the loader runs stages 1 to 3 in order. It then sends JOIN, posts a refusal, or both. -/
  | loadChecks (image : List Byte) (ok : Bool)
  /-- JOIN (R77). The steward takes a JOIN message and decides or advances the span verdict. -/
  | join (p : Packet)
  /-- WITHDRAW (R77). The steward takes a WITHDRAW: before its verdict it refuses with PR_SPAN_TIMEOUT, and afterwards it resends the verdict. -/
  | withdraw (p : Packet)
  /-- VERDICT (R78). A device receives GO or REFUSE. On GO it commits the roster, initialises tallies, contexts and programs, reserves the hoard and enters HOLD. -/
  | verdict (p : Packet)
  /-- JOIN_TIMEOUT (R77). No verdict has arrived within join_timeout_ms of JOIN, so the device sends WITHDRAW. -/
  | joinTimeout
  /-- WITHDRAW_TIMEOUT (R77). No answer has arrived within 1 ms of WITHDRAW, so the device refuses with PR_SPAN_TIMEOUT. -/
  | withdrawTimeout
  /-- STEWARD_JOIN_TIMEOUT (R77). The steward's join_timeout_ms expires before its verdict, and it issues REFUSE with PR_SPAN_TIMEOUT. -/
  | stewardJoinTimeout
  /-- REFUSING_STEWARD_END (R77). join_timeout_ms has passed since a refusing steward's own refusal, and it stops answering JOINs with REFUSE. -/
  | refusingStewardEnd
  /-- LEASE_CHECK (R60). A hoard lease holder takes a LEASE_CHECK and answers LEASE_OK or a refusal. -/
  | leaseCheck (p : Packet)
  /-- LEASE_OK (R77). A device takes the lease answer. It sends JOIN again as confirmed, or refuses with PR_HOARD_PARTNER. -/
  | leaseOk (p : Packet)
  /-- LEASE_CHECK_TIMEOUT (R77). No lease answer has arrived within 10 ms of LEASE_CHECK, so the device refuses with PR_HOARD_PARTNER. -/
  | leaseCheckTimeout
  /-- START (R79). A device takes the START message naming the hall time of phase 0. -/
  | start (p : Packet)
  /-- PLAN_START_TIME (R79). The hall time named by START is reached, and each non-spare device begins phase 0. -/
  | planStartTime
  /-- NOP (R90). An engine control instruction that does nothing. -/
  | nop (e : Nat)
  /-- END (R90). Ends the engine program once every earlier instruction has completed. -/
  | endProg (e : Nat)
  /-- WAIT (R91). Holds issue until a local tally reaches its target or has its error bit set, optionally ending the program on error. -/
  | waitT (e : Nat)
  /-- SIGNAL (R91). Issues an add to a local tally that is applied once every earlier instruction has completed. -/
  | signal (e : Nat)
  /-- SIGNAL_APPLY (R220). A signal's add is applied at the tally once the accesses it covers are performed, and waiters are released. -/
  | signalApply (e : Nat)
  /-- ERRT (R91). Names the tally that receives this engine's error bits. -/
  | errt (e : Nat)
  /-- SETX (R91). Sets an index register to an immediate value. -/
  | setx (e : Nat)
  /-- ADDX (R91). Adds a signed immediate to an index register, modulo 2^32. -/
  | addx (e : Nat)
  /-- LOOP (R91). A counted backward branch on an index register. -/
  | loopX (e : Nat)
  /-- KEEP (R107). Ramps the current-keeping density up and holds it, or starts the ramp down. -/
  | keep (e : Nat)
  /-- KEEP_RAMP_TICK (R107). Every 512 steps of a ramp, the current-keeping density changes by one eighth. -/
  | keepRampTick (e : Nat)
  /-- KEEP_GAP_EXPIRE (R107). G consecutive free steps have passed, and the ramp down starts. -/
  | keepGapExpire (e : Nat)
  /-- ME_KEEP_ADMIN_OFF (R108). A write of force_off to ME_KEEP_CTL or VE_KEEP_CTL stops dummy rows or groups on the die at once, and is logged if a plan runs. -/
  | meKeepAdminOff (die : Nat) (ve on : Bool)
  /-- MMA (R81). Issues a fill of the stationary B tile into the shadow, followed by a stream of A rows into the accumulator. -/
  | mma (e : Nat) (ecc acc : Ecc)
  /-- MMA_SWAP (R97). Once its fill is complete and the previous stream has entered, the shadow tile is swapped into the array and shadow parity is checked. -/
  | mmaSwap (e : Nat) (parity : Bool) (dummy : Nat)
  /-- TILE_REFILL_DONE (R112). The refill of the shadow tile completes, and the delayed swap follows. -/
  | tileRefillDone (e : Nat) (parity : Bool)
  /-- MMA_COMPLETE (R96). The last row's sums reach the accumulator, and the MMA completes. -/
  | mmaComplete (e : Nat)
  /-- ME_TILE_FAULT (R113). An active-tile parity error, or a second error of one fill, stops the bear and raises an epoch fault. -/
  | meTileFault (e : Nat)
  /-- DRN (R120). Drains bank rows through fused operation, reduction and conversion into SP, writing flag rows. -/
  | drn (e : Nat) (ecc acc : Ecc)
  /-- DRN_COMPLETE (R130). SP has acknowledged every output and flag write of a DRN, and the DRN completes. -/
  | drnComplete (e : Nat)
  /-- DZERO (R128). Sets rows of a bank to all-zero bits. -/
  | dzero (e : Nat)
  /-- ALOAD (R129). Writes rows of a bank from RAW48 data in SP. -/
  | aload (e : Nat) (ecc : Ecc)
  /-- CMODE (R99). Enters or leaves compatibility mode and clears both banks. -/
  | cmode (e : Nat)
  /-- OMMA32 (R101). An Orvyn multiply run on 32x32 cubs. -/
  | omma32 (e : Nat) (ecc acc : Ecc)
  /-- OMMA16 (R101). An Orvyn multiply run on 16x16 cubs. -/
  | omma16 (e : Nat) (ecc acc : Ecc)
  /-- ODRN (R102). A compatibility drain of cub accumulators to SP. -/
  | odrn (e : Nat) (acc : Ecc)
  /-- ACC_SCRUB (R135). Every 2^20 steps, the scrub passes every row of an idle bank and checks its check bits. -/
  | accScrub (e bank row : Nat) (x : Ecc)
  /-- CHAIN (R142). A badger pass over a tile through a fused chain of up to eight stages, with masks. -/
  | chain (e : Nat) (ecc : Ecc) (lane : Bool) (dummy : Nat)
  /-- ARGX (R157). Finds the maximum or minimum with the winner's index along rows or columns. -/
  | argx (e : Nat) (ecc : Ecc) (lane : Bool)
  /-- HSEL (R159). Hamming-select of the k nearest sketches per query. -/
  | hsel (e : Nat) (ecc : Ecc) (lane : Bool)
  /-- VE_ECC_FATAL (R166). A double-bit lane error stops the badger and raises an epoch fault. -/
  | veEccFatal (e : Nat)
  /-- FC_LOAD (R172). A fox core load, scalar or vector, to a permitted space, cached or uncached. -/
  | fcLoad (e : Nat) (ecc : Ecc) (host : List Byte)
  /-- FC_STORE (R172). A fox core store, scalar or vector, including stores to tallies and to the stream context window. -/
  | fcStore (e : Nat)
  /-- FC_AMO (R230). A fox core AMO or AMOCAS performed at the home of its address. -/
  | fcAmo (e : Nat)
  /-- FC_LR (R174). A load-reserved on a cached CS line. -/
  | fcLr (x : Checked Nat)
  /-- FC_SC (R174). A store-conditional on a cached CS line. -/
  | fcSc (e : Nat)
  /-- FC_FENCE (R175). Waits until every earlier access of the core has been performed, host read-back included. -/
  | fcFence (e : Nat)
  /-- FC_CSR (R170). Reads a user CSR. A write is illegal. -/
  | fcCsr (e : Nat)
  /-- FC_COMPUTE (R167). Any other RV64GCV instruction, executed in U mode. -/
  | fcCompute (e : Nat)
  /-- FEND (R171). Ends the fox program once every earlier access has been performed. -/
  | fend (e : Nat)
  /-- TSIG (R171). Adds n to a tally anywhere in the hall after every earlier access of the core. -/
  | tsig (e : Nat)
  /-- TWAIT (R171). Holds issue until a local tally reaches its target or has its error bit set. -/
  | twait (e : Nat)
  /-- TERRT (R171). Names the tally that receives this core's error bits. -/
  | terrt (e : Nat)
  /-- SDF (R171). A flagged 8-byte store applied after the earlier stores to its device. -/
  | sdf (e : Nat)
  /-- PRM (R171). Reads a PARAM word of the binding. -/
  | prm (e : Nat)
  /-- FADDA (R232). An atomic FP32 or BF16 add at the home. -/
  | fadda (e : Nat)
  /-- ECALL_LOG (R178). An ECALL with service 0 logs FC_USER with a0. -/
  | ecallLog (e : Nat)
  /-- ECALL_YIELD (R178). An ECALL with service 1 yields until the tally changes or 1 µs passes. -/
  | ecallYield (e : Nat)
  /-- YIELD_END (R178). A yield ends on a change of the tally or after 1 µs. -/
  | yieldEnd (e : Nat)
  /-- FC_ECC_FATAL (R181). A double-bit error in a dirty L1 line, or a register parity error, stops the core and raises an epoch fault. -/
  | fcEccFatal (e : Nat)
  /-- COPY (R199). A hare copy of rows from source to destination, plain, reducing, multicast or run-ahead. -/
  | copy (e : Nat) (ecc : Ecc)
  /-- GATHER (R200). A hare gather of 64-byte items at listed addresses. -/
  | gather (e : Nat)
  /-- FILL (R200). A hare fill of the destination with a 64-bit pattern. -/
  | fill (e : Nat)
  /-- CHUNK_PERFORMED (R202). A chunk, row or whole copy is performed at its homes, and the arrival post is made. -/
  | chunkPerformed (e i : Nat) (ecc : Ecc × Ecc) (host : HostAnswer)
  /-- HOST_READBACK_DONE (R205). The 4-byte host read-back completes, and the post for the host writes is made. -/
  | hostReadbackDone (e i status : Nat)
  /-- CE_DRAIN_CUT (R207). 200 µs after DRAINING began, a copy still in progress is stopped with its error bits set. -/
  | ceDrainCut (e i : Nat)
  /-- SOPEN (R249). Opens staging slots, zeroes their lines and issues the run-ahead fetches. -/
  | sopen (e : Nat)
  /-- SPUB (R252). Publishes staging slots after their run-ahead copies complete or fail, then posts. -/
  | spub (e : Nat)
  /-- SCAN (R252). Cancels staging slots and zeroes their lines. -/
  | scan (e : Nat)
  /-- SRES (R245). Resolves HSEL records into candidate blocks, gathers their parts and writes CAND32 records. -/
  | sres (e : Nat)
  /-- RUNAHEAD_COPY_DONE (R251). A run-ahead copy completes, or fails silently and marks its slot failed. -/
  | runaheadCopyDone (die n : Nat) (ok : Bool) (host : List Byte)
  /-- SP_SCRUB_STEP (R210). The SP scrub reads and corrects lines of the die. -/
  | spScrubStep (a : Nat) (x : Ecc) (last : Bool)
  /-- CS_SCRUB_STEP (R210). One line per slice is scrubbed every 64 steps. -/
  | csScrubStep (a : Nat) (x : Ecc) (last : Bool)
  /-- HBM_PATROL (R210). A patrol read passes through the stacks once every 24 h. -/
  | hbmPatrol (a : Nat) (x : Ecc) (last : Bool)
  /-- DEV_SYNC (R224). A read of HUB.DEV_SYNC completes after every earlier posted write of the requester has been performed. -/
  | devSync
  /-- HOST_BAR_READ (R517). A host read through BAR2 or BAR4, checked as class 7. -/
  | hostBarRead (bar off len : Nat) (x : Ecc)
  /-- HOST_BAR_WRITE (R517). A host write through BAR2 or BAR4, checked as class 7. -/
  | hostBarWrite (bar off : Nat) (d : List Byte)
  /-- HOST_ATOMIC (R230). A PCIe AtomicOp to BAR2 or BAR4, performed at the home. -/
  | hostAtomic (bar off op size : Nat) (v cmp : Word128) (x : Ecc)
  /-- TALLY_WINDOW_SIGNAL (R403). A host or peer store to offset 0x00 of a tally in BAR0 acts as a flagged signal. -/
  | tallyWindowSignal (i v size : Nat)
  /-- TALLY_SET (R403). A store to the set field replaces the count and clears the error state. -/
  | tallySet (i v size : Nat)
  /-- TALLY_MARK_ERROR (R403). A store to the flags byte sets the tally's error bit. -/
  | tallyMarkError (i v size : Nat)
  /-- STREAM_APPEND (R240). The APPEND command accepts n positions of a context and queues them for sketching. -/
  | streamAppend (e c n : Nat)
  /-- STREAM_OPEN (R238). The OPEN command checks the context, writes its exclusion row and opens it. -/
  | streamOpen (e c : Nat)
  /-- STREAM_CLOSE (R238). The CLOSE command closes the context after its queued appends are sketched. -/
  | streamClose (e c : Nat)
  /-- STREAM_RESET (R238). The RESET command zeroes the context's counts and closes it. -/
  | streamReset (e c : Nat)
  /-- CONTEXT_STORE (R238). A store to a context field other than ctrl is applied or refused by field and state. -/
  | contextStore (e c off : Nat) (d : List Byte)
  /-- APPEND_SERVE (R240). A queued append is served: keys are sketched, tables updated and the sketch tally posted. -/
  | appendServe (c : Nat) (ecc : Ecc)
  /-- DIGITAL_SKETCH_JOB (R244). A badger computes digital-path sketches for up to 16 queued keys. -/
  | digitalSketchJob (c : Nat) (ecc : Ecc)
  /-- CLOSE_COMPLETE (R238). Every accepted append has been sketched, and a pending CLOSE sets the state to closed. -/
  | closeComplete (c : Nat)
  /-- MLOAD (R266). Reads a matrix from SP and begins placing its normalised form in the PPE mesh. -/
  | mload (e : Nat) (ecc : Ecc)
  /-- MLOAD_COMPLETE (R267). Decomposition, heater drive, settling and the verification probe complete, and the mesh enters service. -/
  | mloadComplete (e : Nat)
  /-- SKETCH (R268). Sketches vectors from SP into SK64 words. -/
  | sketch (e : Nat) (ecc : Ecc)
  /-- MVM (R271). Multiplies INT8 vectors by the frozen matrix. -/
  | mvm (e : Nat) (ecc : Ecc)
  /-- PPE_CHANNEL_CAL (R274). Every 1 ms, background calibration measures one converter channel and rotates the spare role. -/
  | ppeChannelCal (k : Nat) (ok : Bool)
  /-- PPE_RECAL_DONE (R275). A full recalibration completes and returns the mesh to service. -/
  | ppeRecalDone (k : Nat) (ok : Bool) (badChan : Option Nat) (us : Nat)
  /-- PPE_CAL_OVERDUE (R276). 900 s pass since the last recalibration, or the temperature drifts beyond 8 °C, and overdue is set. -/
  | ppeCalOverdue (k : Nat)
  /-- TONE_CHECK (R283). Every 2 ms, the monitor checks the 32 identification tones of a laser input. -/
  | toneCheck (k : Nat) (b passed : Bool) (line : Nat)
  /-- LASER_FEED_LOST (R284). A feed's power stays below +4 dBm for 1 µs, and the loss is declared; failover starts, or every lane closes. -/
  | laserFeedLost (k : Nat) (b : Bool) (avg low : Int)
  /-- FEED_RELOCK_DONE (R284). Every active ring has relocked on the new feed, and frames are valid again. -/
  | feedRelockDone (k : Nat)
  /-- LASER_FEED_RESTORED (R285). A feed becomes healthy again and becomes the standby. -/
  | laserFeedRestored (k : Nat) (b : Bool) (avg low : Int)
  /-- NOTICE_WINDOW_END (R284). 1 ms after a feed switch, the tile stops setting the notice flag. -/
  | noticeWindowEnd (k : Nat)
  /-- RING_SWEEP_DONE (R286). A sweep from the reference edge reaches the target line. -/
  | ringSweepDone (port : Nat) (rx : Bool) (r : Nat) (found : Bool)
  /-- RING_LOCK (R288). A retuned ring locks and passes its drive check. -/
  | ringLock (port : Nat) (rx : Bool) (r : Nat) (driveOk : Bool)
  /-- RETUNE_TIMEOUT (R287). A ring not drive-checked within 25 µs is swept from the reference edge. -/
  | retuneTimeout (port : Nat) (rx : Bool) (r : Nat)
  /-- RING_TONE_CHECK_DONE (R288). The 2 ms tone check after a lock completes. -/
  | ringToneCheckDone (port : Nat) (rx : Bool) (r : Nat) (passed : Bool)
  /-- SPARE_MOVE (R291). A lane's traffic moves to the locked spare ring at a frame boundary, and the old ring is parked. -/
  | spareMove (k : Nat) (rx loopOk : Bool)
  /-- FRAME_SEND (R304). At a frame boundary, the sender fills and sends a frame by channel priority, with retransmissions first. -/
  | frameSend (k : Nat)
  /-- FRAME_RECEIVE (R296). A receiver checks a frame, then delivers it or discards it with nak, applying its ack, credit and flags. -/
  | frameReceive (k : Nat) (f : Frame) (places values : List Nat) (read : List Packet) (rtt : Nat)
  /-- RETRY_TIMEOUT (R300). The oldest unacknowledged frame has been outstanding for 4 µs and is retransmitted. -/
  | retryTimeout (k : Nat)
  /-- LOSS_OF_FRAME (R298). No frame has been accepted on an UP or MARKED lane for 30 µs, and the pair closes unplanned. -/
  | lossOfFrame (x : LaneLoss)
  /-- ACQUIRE_TIMEOUT (R298). 1 ms after the first TRAIN frame accepted, without R299 met, the lane goes DOWN. -/
  | acquireTimeout (k : Nat)
  /-- DOWN_RETRY (R298). After 1 ms in DOWN, the lane returns to TUNING. -/
  | downRetry (k : Nat)
  /-- UCW_CLASSIFY (R308). 10 µs after an uncorrectable codeword, it is classed as common-mode or not, and the mark rules are applied. -/
  | ucwClassify (k n lanes ports : Nat) (tiles : List Nat) (retuned : Bool)
  /-- REPAIR_OBSERVATION_END (R311). A 10 ms repair observation of a marked pair ends and passes, or moves on to the next repair step. -/
  | repairObservationEnd (k : Nat)
  /-- PLANNED_CLOSE_TIMEOUT (R305). Acknowledgements are not complete 20 µs into a planned close, and it becomes an unplanned close. -/
  | plannedCloseTimeout (k : Nat)
  /-- CLOSE (R306). A close record on VC3 releases frames up to the named seq and hands the rest back. -/
  | close (p : Packet)
  /-- LANE_CLOSE_TIMEOUT (R306). No close record has arrived within 40 µs, and the unacknowledged packets complete as dead targets. -/
  | laneCloseTimeout (k : Nat)
  /-- LANE_HOLD_END (R313). A lane's hold time ends, and it returns to TUNING. -/
  | laneHoldEnd (k : Nat)
  /-- HOLD_TIME_RESET (R313). After 1,200 s without a flap, the hold time returns to 10 s. -/
  | holdTimeReset (k : Nat)
  /-- LANE_DISAGREE_TIMER (R320). A management-reported state that has differed from the observed state for more than 1 s is counted and reported. -/
  | laneDisagreeTimer (k reported : Nat)
  /-- PLANE_CABLING_CHECK (R323). The line-0 self-check of a port's cabling, repeated every 1 s until it passes. -/
  | planeCablingCheck (port : Nat) (seen : Option (Nat × Nat))
  /-- PACKET_FORWARD (R333). A packet not addressed to this device chooses its next hop by lane, route or escape. -/
  | packetForward (p : Packet)
  /-- ESCAPE_CREDIT_TIMEOUT (R340). A held packet that has waited 4 µs for credit moves to VC4 and the escape route. -/
  | escapeCreditTimeout (k : Nat) (p : Packet)
  /-- DETOUR_WAIT_TIMEOUT (R346). A packet that has waited 20 µs for a live escape lane takes the detour. -/
  | detourWaitTimeout (p : Packet)
  /-- PACKET_HOLD_TIMEOUT (R347). A packet held 50 µs without a next hop is dropped, and the issuer gets an error response. -/
  | packetHoldTimeout (p : Packet)
  /-- ORDER_SKIP (R343). The destination adds the lost count to A[s] and marks the next flagged packet. -/
  | orderSkip (p : Packet)
  /-- ORDER_RETRY (R342). A refused flagged packet is scheduled to be sent again after 1 µs. -/
  | orderRetry (p : Packet)
  /-- ORDER_RETRY_RESEND (R342). 1 µs after ORDER_RETRY, the flagged packet is sent again. -/
  | orderRetryResend (p : Packet)
  /-- ADOPT (R352). A tier root takes an orphan's request and opens a lane pair, or refuses. -/
  | adopt (p : Packet)
  /-- ORPHAN_TIMEOUT (R352). A parent lane that has not been UP for 200 ms makes the member an orphan, and it sends ADOPT. -/
  | orphanTimeout (t : Nat)
  /-- ADOPT_RETRY (R352). A member that stays orphaned asks for adoption again every 1 s. -/
  | adoptRetry (t : Nat)
  /-- TREE_ROOT_CHANGE (R349). The tree root changes, and each device builds its new tree lanes make-before-break. -/
  | treeRootChange
  /-- TREE_OLD_LANE_TIMEOUT (R349). 1 ms after a root change, old tree lanes not named by the new tree are closed. -/
  | treeOldLaneTimeout
  /-- WR_MC (R344). A relay or destination takes a multicast copy, applies it and forwards the next stage. -/
  | wrMc (p : Packet)
  /-- RD (R359). The home takes a remote read and answers RD_DATA or ERR. -/
  | rd (p : Packet) (ecc : Ecc)
  /-- WR (R359). The home takes a remote write and answers ACK or ERR. -/
  | wr (p : Packet)
  /-- ATOM (R358). The home performs a remote atomic and answers with the old value. -/
  | atom (x : Checked Packet)
  /-- RED (R365). The home applies a reducing copy write element by element. -/
  | red (x : Checked Packet)
  /-- SIG (R357). The home applies a flagged remote signal or post to a tally. -/
  | sig (p : Packet)
  /-- RD_DATA (R359). The issuer receives load data and completes the request slot. -/
  | rdData (p : Packet)
  /-- ACK (R359). The issuer receives an acknowledgement and frees the slot. -/
  | ack (p : Packet)
  /-- ERR (R361). The issuer receives an error response and completes the request as refused or dead. -/
  | err (p : Packet)
  /-- REQUEST_SLOT_TIMEOUT (R362). A slot without a response for 80 µs completes as a dead target. -/
  | requestSlotTimeout (i : Nat)
  /-- GETS (R371). The home directory takes a shared-read coherence request. -/
  | gets (p : Packet)
  /-- GETM (R371). The home directory takes an exclusive coherence request. -/
  | getm (p : Packet)
  /-- UPG (R371). The home directory takes an upgrade from S. -/
  | upg (p : Packet)
  /-- PUTM (R371). The home takes a dirty eviction with its data. -/
  | putm (p : Packet)
  /-- PUTE (R371). The home takes a clean exclusive eviction. -/
  | pute (p : Packet)
  /-- SNP_SHARE (R375). An L1 takes a share snoop and answers with its line. -/
  | snpShare (p : Packet)
  /-- SNP_INV (R375). An L1 takes an invalidating snoop and answers with its line. -/
  | snpInv (p : Packet)
  /-- INV (R371). A device invalidates the line in its L1s and answers INV_ACK. -/
  | inv (p : Packet)
  /-- DATA_S (R370). An L1 receives the line in S. -/
  | dataS (p : Packet)
  /-- DATA_E (R370). An L1 receives the line in E. -/
  | dataE (p : Packet)
  /-- DATA_M (R373). An L1 receives the line in M, and the pending store is made. -/
  | dataM (p : Packet)
  /-- GRANT (R373). An L1 receives an upgrade grant without data. -/
  | grant (p : Packet)
  /-- SNP_DATA (R371). The home takes the owner's snoop answer and completes the transaction. -/
  | snpData (p : Packet)
  /-- INV_ACK (R371). The home counts an invalidation acknowledgement. -/
  | invAck (p : Packet)
  /-- DATA_IN_FLIGHT (R374). The home learns that the owner's line is in a crossing eviction notice. -/
  | dataInFlight (p : Packet)
  /-- WB_ACK (R374). An L1 receives an eviction completion and enters I. -/
  | wbAck (p : Packet)
  /-- RETRY (R372). A requester receives RETRY from a home directory or pack unit, and the request is sent again after 1 µs. -/
  | retry (p : Packet)
  /-- RETRY_RESEND (R372). 1 µs after RETRY, the coherence request or collective packet is sent again. -/
  | retryResend (i core key : Nat)
  /-- HOME_WAIT_TIMEOUT (R377). A home has waited 30 µs for a snoop answer or INV_ACK, and completes the transaction or poisons the line. -/
  | homeWaitTimeout (line : Nat)
  /-- COLL (R382). A pack unit issues a collective. -/
  | coll (x : Checked Nat)
  /-- COLL_DATA (R394). A pack unit takes a collective data packet and answers ACK, RETRY or ERR. -/
  | collData (p : Packet)
  /-- COLL_CHUNK_SUM (R396). A 2,048-position chunk is summed once all its operands are present, with residue checks. -/
  | collChunkSum (e k : Nat) (ecc : Ecc × Ecc) (res : Residue)
  /-- COLL_COMPLETE (R397). Results are performed and every packet has been answered, so the COLL posts its tally. -/
  | collComplete (e : Nat)
  /-- ARRIVE (R412). A gatherer or coordinator takes an epoch arrival. -/
  | arrive (p : Packet)
  /-- MIRROR (R412). A device receives MIRROR and writes its copy into its partner's hoard. -/
  | mirror (p : Packet)
  /-- HOARD_DATA (R414). The partner writes mirror, restore or re-mirror data into its hoard and counts it. -/
  | hoardData (p : Packet)
  /-- SEALED (R412). A device receives its partner's seal and sends READY. -/
  | sealed (p : Packet)
  /-- READY (R412). A gatherer or coordinator takes READY. Once all are gathered, the steward sends COMMIT to the deputy. -/
  | ready (p : Packet)
  /-- COMMIT (R413). A device receives COMMIT and writes its keep. -/
  | commit (p : Packet)
  /-- COMMIT_ACK (R413). The steward receives the deputy's acknowledgement, and the commit takes effect. -/
  | commitAck (p : Packet)
  /-- KEEP_WRITE_DONE (R412). The keep copy completes, and the device starts the next phase. -/
  | keepWriteDone
  /-- FAULT (R417). The coordinator takes a FAULT and starts a rollback. -/
  | fault (p : Packet)
  /-- SUSPECT (R416). The coordinator takes a suspicion and confirms it with three probes. -/
  | suspect (p : Packet)
  /-- PROBE (R416). A hub answers a liveness probe. -/
  | probe (p : Packet)
  /-- PROBE_ACK (R416). A prober receives a probe answer. -/
  | probeAck (p : Packet)
  /-- PROBE_TICK (R416). A probe is sent every 10 ms, or every 1 ms while confirming, and missed answers lead to SUSPECT or a declared loss. -/
  | probeTick
  /-- ROLLBACK (R419). A device receives ROLLBACK, stops and frees everything, and commits the roster. -/
  | rollback (p : Packet)
  /-- RESTORE_DONE (R420). A device's restore transfer completes, and it sends RESTORED. -/
  | restoreDone
  /-- RESTORED (R419). A gatherer or coordinator takes RESTORED. Once all are gathered, RESTART is sent. -/
  | restored (p : Packet)
  /-- RESTART (R419). A device receives the hall time of the restart or resumption. -/
  | restart (p : Packet)
  /-- RESTART_TIME (R419). The named restart time is reached, and the phase after the target commit begins. -/
  | restartTime
  /-- SWAP_COPY_DONE (R422). A spare's copy of a straggler's state completes for the swap. -/
  | swapCopyDone
  /-- NO_SPARE (R423). Every 60 s without a spare, the waiting rollback is recorded again. -/
  | noSpare
  /-- STOP (R424). A device receives STOP and ends the plan with the named status. -/
  | stop (p : Packet)
  /-- STOP_REQ (R410). The coordinator takes a stop request at once or at the next boundary. -/
  | stopReq (p : Packet)
  /-- SYNC_TICK (R433). A parent sends SYNC to each time child 32 times per second. -/
  | syncTick (child : Nat) (t1 : HallTime) (resent : Bool)
  /-- SYNC (R433). A child stamps a SYNC arrival. -/
  | sync (p : Packet) (t2 : HallTime)
  /-- FOLLOW (R433). A child receives t1 and answers with DELAY_REQ. -/
  | follow (p : Packet) (t3 : HallTime) (resent : Bool)
  /-- DELAY_REQ (R433). A parent stamps DELAY_REQ and answers with DELAY_RESP. -/
  | delayReq (p : Packet) (t4 : HallTime)
  /-- DELAY_RESP (R433). A child completes an exchange, computes its offset and disciplines its time. -/
  | delayResp (p : Packet)
  /-- ANNOUNCE (R432). A child receives its parent's periodic announcement. -/
  | announce (p : Packet)
  /-- ANNOUNCE_TICK (R432). A parent sends ANNOUNCE every 125 ms. -/
  | announceTick (child : Nat)
  /-- MASTER_TAKE (R430). A device takes the backup as active master. -/
  | masterTake (p : Packet)
  /-- BACKUP_TAKEOVER_TIMER (R430). The backup has had no exchange traceable to the primary for 1 s, and broadcasts MASTER_TAKE. -/
  | backupTakeoverTimer
  /-- TIME_EXCHANGE_TIMEOUT (R436). No valid exchange, or the parent lane down, for 250 ms enters HOLDOVER. -/
  | timeExchangeTimeout (lane : Bool)
  /-- ACQUIRE_FREERUN_TIMEOUT (R436). 10 s in ACQUIRING without discipline enters FREERUN. -/
  | acquireFreerunTimeout
  /-- HOLDOVER_LIMIT (R436). HOLDOVER beyond limit_min minutes enters FREERUN. -/
  | holdoverLimit
  /-- SECOND_BOUNDARY (R439). At a second boundary, the pulse is emitted, a pending step is applied and TIME commits apply. -/
  | secondBoundary (refOk : Bool)
  /-- PPS_IN_EDGE (R431). A rising edge on TIME_PPS_IN marks the master's second boundary. -/
  | ppsInEdge
  /-- TIME_REF_LOST (R431). A missing PPS edge, or an off-frequency 10 MHz reference for 10 ms, is declared lost. -/
  | timeRefLost (ref : Bool)
  /-- TIME_OFFSET_HIGH (R441). A filtered offset beyond its bound for 10 s is recorded. -/
  | timeOffsetHigh
  /-- CONTROL_INTERVAL (R450). Every 10 µs, the rate-keeper compares canary rates with targets and requests voltage changes or pacing. -/
  | controlInterval (rates : List Nat)
  /-- AVS_RESPONSE (R446). An AVSBus response or read-back arrives and confirms, continues or fails a voltage change. -/
  | avsResponse (r : Nat) (a : AvsReply)
  /-- AVS_READBACK_TIMEOUT (R447). No confirming read-back within 50 µs fails the change. -/
  | avsReadbackTimeout (r mv : Nat)
  /-- AVS_RETRY_DELAY (R447). 20 µs after an action reported as not taken, the change is issued again. -/
  | avsRetryDelay (r : Nat)
  /-- RAIL_FAULT_CLEAR (R447). Writing 1 to RAIL_STATUS.faulted resumes the rail. -/
  | railFaultClear (r : Nat)
  /-- POWER_MEASURE (R452). Every 1 ms, package power is measured. Every 10 ms, the power-cap rate is adjusted. -/
  | powerMeasure (w : Nat)
  /-- DROOP (R454). The local VCORE falls more than 40 mV below the confirmed voltage for 50 ns. -/
  | droop (die depth ns : Nat)
  /-- VCORE_UNDERVOLT (R455). A local VCORE below 500 mV for 5 µs raises an epoch fault. -/
  | vcoreUndervolt (die mv ns : Nat)
  /-- WATCH (R457). The host command that enters WATCH. -/
  | watch (q id : Nat) (rsv : Bool)
  /-- WATCH_ROUND (R458). The owl wakes every period_ms and checks the WATCH thresholds. -/
  | watchRound (rs : List SensorRead) (railC : List Nat)
  /-- WATCH_WAKE (R460). A host access, an I3C command or a threshold wakes the device, and it follows the wake table. -/
  | watchWake (cause : Nat)
  /-- DOMAIN_POWER_OFF (R463). DOMAIN_POWER with bit 8 clear powers a domain down or stops the plan. -/
  | domainPowerOff (q id : Nat) (rsv : Bool) (d : Nat) (force : Bool)
  /-- DOMAIN_POWER_ON (R465). DOMAIN_POWER with bit 8 set powers a domain and the domains it depends on up. -/
  | domainPowerOn (q id : Nat) (rsv : Bool) (d : Nat)
  /-- DOMAIN_OFF_COMPLETE (R464). A drained domain's switches open, and the domain is OFF. -/
  | domainOffComplete (d : Nat)
  /-- DOMAIN_ON_COMPLETE (R465). A domain completes power-up and is ON, or FAILED. -/
  | domainOnComplete (d : Nat) (ok : Bool)
  /-- PWR_OK_FALL (R461). PWR_OK falls and everything is lost. -/
  | pwrOkFall
  /-- THERMAL_ROUND (R469). Every 8 ms, the owl reads and classifies all sensors and applies request and enforcement. -/
  | thermalRound (rs : List SensorRead)
  /-- GRACE_EXPIRE (R475). A die's grace timer expires. -/
  | graceExpire (k : Nat)
  /-- THERM_TRIP (R478). A trip comparator or owl trip asserts THERMTRIP_N and opens every switch except the hub's. -/
  | thermTrip (n : Nat) (reading : Int)
  /-- COLD_START (R485). PWR_OK rises, and the cold boot path begins. -/
  | coldStart
  /-- WARM_RST_N (R482). WARM_RST_N held low for 1 µs and released starts a warm reset. -/
  | warmRstN (ns : Nat)
  /-- BOOT_STEP_COMPLETE (R485). A boot step's tests or training complete, and the next step begins. -/
  | bootStepComplete (r : BootResult)
  /-- HBM_STORED_BAD (R488). A background full training of a stack whose stored values failed completes. -/
  | hbmStoredBad (stack : Nat)
  /-- FABRIC_TRAINED (R490). Every port's cabling check and tree lane has resolved once. -/
  | fabricTrained
  /-- UCIE_RETRAIN (R491). A UCIe module retrains after retry exhaustion or a lane failure. -/
  | ucieRetrain (k m : Nat)
  /-- HUB_LINK_SPARE (R505). A hub link lane with errors is replaced by the spare. -/
  | hubLinkSpare (k n : Nat) (up : Bool)
  /-- CAL_WRITTEN (R500). A calibration slot write completes or fails. -/
  | calWritten (ok : Bool)
  /-- POS_STRAP_CHANGED (R549). The once-per-second strap sample differs from FAB.POSITION. -/
  | posStrapChanged (pos : Nat)
  /-- TAP_INSTRUCTION (R507). A test access instruction is loaded, or is locked after READY. -/
  | tapInstruction (ins : TapIns)
  /-- RESET (R528). The host command that starts a warm reset after completing. -/
  | reset (q id : Nat) (rsv : Bool)
  /-- PLAN_START (R528). The steward-only command that sends START. -/
  | planStart (q id : Nat) (rsv : Bool) (delay : Nat)
  /-- PLAN_STOP (R528). Stops the span at once. -/
  | planStop (q id : Nat) (rsv : Bool)
  /-- PLAN_STOP_AT_BOUNDARY (R528). PLAN_STOP with bit 1 set stops the span at the next epoch boundary. -/
  | planStopAtBoundary (q id : Nat) (rsv : Bool)
  /-- PLAN_UNLOAD (R528). Discards a held, suspended or ended plan. -/
  | planUnload (q id : Nat) (rsv : Bool)
  /-- PLAN_SUSPEND (R534). Names the save area. On the steward it also suspends the span. -/
  | planSuspend (q id : Nat) (rsv : Bool) (area : Word64)
  /-- SUSPEND_REQUEST (R534). A device takes the steward's suspend request and accepts or refuses. -/
  | suspendRequest (p : Packet)
  /-- SUSPEND_ANSWER_TIMEOUT (R534). 10 ms without every suspend answer completes the suspend with BUSY. -/
  | suspendAnswerTimeout
  /-- PLAN_RESUME (R534). Restores a suspended plan from its save area into HOLD. -/
  | planResume (q id : Nat) (rsv : Bool) (area : Word64) (host : List Byte) (ok : Bool)
  /-- PLAN_STATUS (R531). Writes one plan status record to host memory. -/
  | planStatus (q id : Nat) (rsv : Bool) (addr status : Nat)
  /-- HOARD_LEASE_GRANT (R532). Grants a hoard lease for a plan_id. -/
  | hoardLeaseGrant (q id : Nat) (rsv : Bool) (plan : Word64) (base size : Nat)
  /-- HOARD_LEASE_REVOKE (R532). HOARD_LEASE with bit 1 set revokes the lease. -/
  | hoardLeaseRevoke (q id : Nat) (rsv : Bool) (plan : Word64) (base size : Nat)
  /-- LICENCE_INSTALL (R510). Verifies and stores a licence in flash. -/
  | licenceInstall (q id : Nat) (rsv : Bool) (addr : Nat) (d : List Byte) (ok : Bool)
  /-- PATCH_INSTALL (R536). Verifies and writes a patch slot. -/
  | patchInstall (q id : Nat) (rsv : Bool) (addr len slot : Nat) (d : List Byte) (ok back : Bool)
  /-- PATCH_CLEAR (R536). PATCH_INSTALL with bit 1 set erases the slot. -/
  | patchClear (q id : Nat) (rsv : Bool) (slot : Nat)
  /-- TALLY_NOTIFY_ARM (R533). Arms a one-shot MSI-X notification on a tally. -/
  | tallyNotifyArm (q id : Nat) (rsv : Bool) (tally target vector : Nat)
  /-- TALLY_NOTIFY_DISARM (R533). TALLY_NOTIFY with bit 1 set disarms it. -/
  | tallyNotifyDisarm (q id : Nat) (rsv : Bool) (tally : Nat)
  /-- SQ_TAIL (R524). The submission doorbell makes commands available for fetch, or faults the queue. -/
  | sqTail (q v size : Nat)
  /-- CQ_HEAD (R524). The completion doorbell frees completion entries. -/
  | cqHead (q v size : Nat)
  /-- QUEUE_ENABLE (R524). Setting Q_CFG.enable resets the queue indices and starts service. -/
  | queueEnable (q v : Nat)
  /-- QUEUE_DISABLE (R524). Clearing Q_CFG.enable stops fetching. -/
  | queueDisable (q v : Nat)
  /-- LOG_ACK (R539). A write of HUB.LOG_ACK re-arms the log vector and tests the threshold. -/
  | logAck (v : Nat)
  /-- HOSTLINK_DOWN (R540). The host link leaves L0 for more than 10 ms, or has no feed. -/
  | hostlinkDown (cause : Nat)
  /-- HOSTLINK_UP (R540). The host link returns to L0, and held messages are sent. -/
  | hostlinkUp
  /-- PLDM_GET_SENSOR (R542). The baseboard manager reads a PLDM sensor. -/
  | pldmGetSensor (n : Nat)
  /-- MGMT_DOMAIN_DISABLE (R543). A PLDM effecter administratively disables a domain or removes the disable. -/
  | mgmtDomainDisable (d : Nat) (off : Bool)
  /-- MGMT_PORT_DISABLE (R543). A PLDM effecter administratively disables a port or removes the disable. -/
  | mgmtPortDisable (n : Nat) (off : Bool)
  /-- MGMT_WARM_RESET (R543). A PLDM effecter requests a warm reset. -/
  | mgmtWarmReset
  /-- MGMT_WAKE (R543). A PLDM effecter wakes the device from WATCH. -/
  | mgmtWake
  /-- MGMT_DISAGREE (R544). A state that has differed between management and data path for 1 s is recorded, or sensor 600 clears after 10 s. -/
  | mgmtDisagree (unit mgmt data : Nat) (clear : Bool)
  /-- LASER_POWER_LOW (R285). A feed's power falls below its healthy limits without being lost; the tile fails over at once if it was the active feed and the standby is healthy. -/
  | laserPowerLow (k : Nat) (b : Bool) (avg low : Int) (line : Nat)
  /-- REF_CLK_LOST (R556). REF_CLK is lost after READY; the hub management domain stops, the trip comparators stay armed and the device is met as a loss. -/
  | refClkLost
  /-- SAVE_AREA_WRITTEN (R534). A suspending device finishes writing its accumulators and state record to its save area, enters suspended and completes its PLAN_SUSPEND. -/
  | saveAreaWritten
  /-- HOST_COMPLETION_TIMEOUT (R208). A read the device sent on the host link reaches its 50 ms completion timeout, so the copy stops at the failing chunk, or the command completes with HOST_ERROR. -/
  | hostCompletionTimeout (r : HostRead)
  /-- WARM_RESET_DELAY (R528). 100 µs after the RESET command's completion has been performed, the device begins a warm reset. -/
  | warmResetDelay
  /-- CAL_WRITE_START (R500). The hub starts writing new contents into the calibration slot not chosen at boot, after a changing cold start, within 60 s of a repair-list change, or once the hourly limit lets recalibration results through. -/
  | calWriteStart
  /-- CONFIGURATION_REQUEST (R516). The host sends a PCIe configuration request: it is answered with Retry Status before READY, and otherwise it sets power state, MSI-X and the Resizable BAR size that R517 uses for window rounding. -/
  | configurationRequest (c : CfgReq)
deriving DecidableEq, Repr

end Sys2Proof
end

