-- ==== Sys2Proof/Decode.lean ====
section
/-! DEFINITION. The words of commands. The table of operations gives no row any bits (every row's fields are empty), so no word spells a command. -/

namespace Sys2Proof

/-- The command a word spells by the table's bits: the table gives no bits, so none. -/
def decodeTableWord (_nbits _w : Nat) : Option Instr := none

end Sys2Proof
end

