-- ==== Sys2Proof/Config.lean ====
section
/-! DEFINITION. What an implementation fixes and the free values: constants without a body, of which nothing can be proved. -/

namespace Sys2Proof

/-- The device's unique number in HUB.IDENT_DEVICE (R11): fused, not stated. -/
opaque Config.deviceId : Word128

/-- The image identity in HUB.ROM_IMAGE_ID (R11): not stated. -/
opaque Config.romImageId : Word32

/-- A free bit pattern for a value the spec leaves open, one for each value of the model's own counter. -/
opaque Config.freeWord : Nat → Word64

/-- Which of the results a stated error bound leaves open an operation gives: a fixed function of the operation and its operand,
the same on every device (R146, R153), and not stated further. -/
opaque Config.pick : Nat → Nat → Nat

/-- The seed of the shift register behind an engine's dummy rows or groups (R106, R162): a function of the engine ID and the plan_id, not
stated further. -/
opaque Config.lfsrSeed : Nat → Word64 → Word32

/-- The error events of an analog sketch (R269), one bit for each of its bits: a free function of the model's counter and of the codes that
drive the converters. -/
opaque Config.sketchError : Nat → List Int → Word64

/-- The error event of a frozen-weight output (R271): a free function of the model's counter. -/
opaque Config.mvmError : Nat → Bool

/-- A message after its routing header where the spec lists what it carries and not where (R77, R410, R534). -/
opaque Config.msgBytes : Msg → List Byte

/-- The fixed pattern of a TRAIN payload after its byte 0 (R299): not stated. -/
opaque Config.trainPattern : Nat → Byte

/-- What the tests of poisoned lines at a restore find (R213): the lines that fail. A free function of the model's counter. -/
opaque Config.lineTests : Nat → List LineTest

/-- The stepping fused in HUB.IDENT_PART (R10): not stated. -/
opaque Config.stepping : BitVec 8

/-- The key revoke mask in the fuses (R495, R509): not stated. -/
opaque Config.revoked : BitVec 4

/-- The factory licence in the fuses (R495, R508): not stated. -/
opaque Config.factoryLicence : List Byte

/-- Whether a signature verifies with a public key in ROM over some bytes (R509, R536): the keys are not stated. The operands are the
key's index, the bytes signed and the signature. -/
opaque Config.signatureOk : Nat → List Byte → List Byte → Bool

/-- The characterised rate in M steps/s that the calibration store's record of it gives for a compute die at a VCORE entry in mV (R57, R498):
how the record lays its values out is not stated. The operands are the record's data, the die and the entry. -/
opaque Config.charRate : List Byte → Nat → Nat → Nat

/-- The data of a record that the device writes to the calibration store (R498, R500): the results of its own training and calibration, in a
layout not stated. The operands are the model's counter and the record's type. -/
opaque Config.calRecord : Nat → Nat → List Byte

end Sys2Proof
end

