-- ==== Sys2Proof/Machine/Maps.lean ====
section
/-! DEFINITION. Sparse maps in one canonical form: keys strictly rising, no entry equal to the default.
Every array of the device (memories, tallies, engines, lanes) is such a map, so equal contents are equal data. -/

namespace Sys2Proof.Machine

/-- A sparse map from numbers: a list of key and value pairs. -/
abbrev SMap (α : Type) := List (Nat × α)

/-- The value at a key, or the default. -/
def SMap.get {α : Type} (d : α) : SMap α → Nat → α
  | [], _ => d
  | (k, v) :: m, i => if i = k then v else SMap.get d m i

/-- Insert a key that is to be listed. -/
def SMap.insert {α : Type} (i : Nat) (v : α) : SMap α → SMap α
  | [] => [(i, v)]
  | (k, w) :: m =>
    if i < k then (i, v) :: (k, w) :: m
    else if i = k then (i, v) :: m
    else (k, w) :: SMap.insert i v m

/-- Remove a key. -/
def SMap.erase {α : Type} (i : Nat) : SMap α → SMap α
  | [] => []
  | (k, w) :: m => if i = k then m else if i < k then (k, w) :: m else (k, w) :: SMap.erase i m

/-- Write a key: writing the default removes the entry, so the form stays canonical. -/
def SMap.set {α : Type} [DecidableEq α] (d : α) (m : SMap α) (i : Nat) (v : α) : SMap α :=
  if v = d then SMap.erase i m else SMap.insert i v m

/-- Change the value at a key. -/
def SMap.modify {α : Type} [DecidableEq α] (d : α) (m : SMap α) (i : Nat) (f : α → α) : SMap α :=
  SMap.set d m i (f (SMap.get d m i))

/-- Change every listed value. -/
def SMap.mapVals {α : Type} [DecidableEq α] (d : α) (m : SMap α) (f : Nat → α → α) : SMap α :=
  (m.map (fun e => (e.1, f e.1 e.2))).filter (fun e => decide (e.2 ≠ d))

/-- The canonical form, with every key at least `lo`. -/
def SMap.wfFrom {α : Type} [DecidableEq α] (d : α) : Nat → SMap α → Bool
  | _, [] => true
  | lo, (k, v) :: m => decide (lo ≤ k) && decide (v ≠ d) && SMap.wfFrom d (k + 1) m

/-- The canonical form: keys strictly rising, no entry equal to the default. -/
def SMap.wf {α : Type} [DecidableEq α] (d : α) (m : SMap α) : Bool :=
  SMap.wfFrom d 0 m

end Sys2Proof.Machine
end

