-- ==== Sys2Proof/Machine/Bits.lean ====
section
/-! DEFINITION. Bit fields, byte order, sign extension, saturation and check codes (R20). -/

namespace Sys2Proof.Machine

open Sys2Proof

/-- Bits `[lo + w - 1 : lo]` of a number (R20). -/
def bits (n lo w : Nat) : Nat := (n >>> lo) % 2 ^ w

/-- One bit of a number. -/
def bit (n i : Nat) : Bool := (n >>> i) % 2 == 1

/-- A Boolean as a bit. -/
def b2n (b : Bool) : Nat := if b then 1 else 0

/-- Replace bits `[lo + w - 1 : lo]` of a number. -/
def setBits (n lo w v : Nat) : Nat :=
  n - (bits n lo w) * 2 ^ lo + (v % 2 ^ w) * 2 ^ lo

/-- Field of a 64-bit word. -/
def fld (x : Word64) (lo w : Nat) : Nat := bits x.toNat lo w

/-- The value of a `w`-bit two's complement pattern. -/
def sext (w n : Nat) : Int :=
  let m := n % 2 ^ w
  if w = 0 then 0 else if 2 ^ (w - 1) ≤ m then (m : Int) - (2 ^ w : Nat) else m

/-- The `w`-bit two's complement pattern of an integer. -/
def ofInt (w : Nat) (z : Int) : Nat := (z % (2 ^ w : Nat)).toNat

/-- Saturating increment of a `w`-bit counter. -/
def satAdd (w n k : Nat) : Nat := min (n + k) (2 ^ w - 1)

/-- Little-endian value of a byte list (R20). -/
def leVal : List Byte → Nat
  | [] => 0
  | b :: bs => b.toNat + 256 * leVal bs

/-- The `n` little-endian bytes of a value (R20). -/
def leBytes : Nat → Nat → List Byte
  | 0, _ => []
  | n + 1, v => BitVec.ofNat 8 v :: leBytes n (v / 256)

/-- Bytes `[off, off + n)` of a byte list, zero where it ends. -/
def slice (l : List Byte) (off n : Nat) : List Byte :=
  let t := (l.drop off).take n
  t ++ List.replicate (n - t.length) 0

/-- The `n`-byte little-endian value at an offset of a byte list. -/
def leAt (l : List Byte) (off n : Nat) : Nat := leVal ((l.drop off).take n)

/-- Round up to a multiple of `a`. -/
def alignUp (n a : Nat) : Nat := (n + a - 1) / a * a

/-- One bit of a reflected CRC. -/
def crcStep (poly w c : Nat) : Nat := if c % 2 = 1 then (c / 2) ^^^ (poly % 2 ^ w) else c / 2

/-- Eight bits of a reflected CRC. -/
def crcByte (poly w : Nat) (c : Nat) (b : Byte) : Nat :=
  let c := c ^^^ b.toNat
  let f := crcStep poly w
  f (f (f (f (f (f (f (f c)))))))

/-- CRC-32 of IEEE 802.3 (R394, R408). -/
def crc32 (l : List Byte) : Nat :=
  (l.foldl (crcByte 0xEDB88320 32) 0xFFFFFFFF) ^^^ 0xFFFFFFFF

/-- The frame CRC of R294: x^16 + x^12 + x^5 + 1, initial value all ones, least significant bit first, inverted. -/
def crc16 (l : List Byte) : Nat :=
  (l.foldl (crcByte 0x8408 16) 0xFFFF) ^^^ 0xFFFF

/-- Insert into an ascending list of numbers without repeats. -/
def insertNat (n : Nat) : List Nat → List Nat
  | [] => [n]
  | m :: l => if n < m then n :: m :: l else if n = m then m :: l else m :: insertNat n l

/-- Insert a number into an ascending list, keeping equal ones. -/
def insertInt (x : Int) : List Int → List Int
  | [] => [x]
  | y :: l => if x ≤ y then x :: y :: l else y :: insertInt x l

/-- A list in ascending order. -/
def sortInts (l : List Int) : List Int := l.foldr insertInt []

/-- Split a list into pieces of `n` elements, with fuel. -/
def chunksOf {α : Type} (n : Nat) : Nat → List α → List (List α)
  | 0, _ => []
  | f + 1, l => if l.isEmpty then [] else l.take n :: chunksOf n f (l.drop n)

end Sys2Proof.Machine
end

