-- ==== Sys2Proof/Machine/StateFabric.lean ====
section
/-! DEFINITION. The state of the optical tiles, ports, rings and lanes, of the fabric block, of remote requests and of the sett. -/

namespace Sys2Proof.Machine

open Sys2Proof

/-- A write of fields of a staged register: its DCS offset, the bits written and their values (R37). -/
structure RegWrite where
  off : Nat
  mask : Nat
  val : Nat
deriving DecidableEq, Repr

/-- The COMMIT register of a block, its staged set and its latched one (R37): the writes they hold, in order. -/
structure Commit where
  staged : List RegWrite := []
  latched : List RegWrite := []
  pending : Bool := false
  rejected : Bool := false
  overrun : Bool := false
  generation : Nat := 0
deriving DecidableEq, Repr

/-! ### Lanes (R298, R319) -/

/-- The states of a lane (R298). -/
inductive LaneState where
  | unused
  | tuning
  | acquiring
  | up
  | marked
  | closing
  | held
  | down
  | admin
deriving DecidableEq, Repr

/-- A DATA frame kept until it is acknowledged, with the times it was retransmitted (R300, R302). -/
structure SentFrame where
  seq : Nat
  packets : List Packet
  resent : Nat := 0
  /-- to be sent again, in order -/
  again : Bool := false
deriving DecidableEq, Repr

/-- A close in progress: planned or not, and the reason (R305, R306). -/
structure Closing where
  planned : Bool
  reason : Nat
  /-- hold time in seconds once the close is complete (R311, R313) -/
  hold : Option Nat := none
  /-- the lane goes DOWN once the close is complete (R289) -/
  down : Bool := false
  /-- a planned close: a frame with closing = 1 has gone since the last DATA frame accepted, and the far end's last frame was an IDLE with
  closing = 1 and no DATA frame before it missing (R305) -/
  sent : Bool := false
  farDone : Bool := false
deriving DecidableEq, Repr

/-- The step of a repair of a marked pair (R311): 1 the own receive ring, 2 the far transmit ring; the rule that marked it. -/
structure Repair where
  step : Nat
  rule : Nat
  crossed : Bool := false
  /-- the receive rings that have carried the lane in this repair (R312) -/
  tried : List Nat := []
deriving DecidableEq, Repr

/-- One lane: the window of R319, its rings, its link state and its queue of packets. -/
structure Lane where
  state : LaneState := .unused
  txRing : Nat := 15
  rxRing : Nat := 15
  far : Nat := 0
  holdLevel : Nat := 0
  downReason : Nat := 0
  corr : Nat := 0
  ucw : Nat := 0
  retry : Nat := 0
  flaps : Nat := 0
  burst : Nat := 0
  ident : Nat := 0
  rtt : Nat := 0
  nextTx : Nat := 0
  nextRx : Nat := 0
  unacked : List SentFrame := []
  pools : List Nat := [0, 0, 0, 0, 0]
  lastCredit : List Nat := [0, 0, 0, 0, 0]
  freed : List Nat := [0, 0, 0, 0, 0]
  creditVc : Nat := 0
  nakDue : Bool := false
  nakSent : Bool := false
  /-- consecutive TRAIN frames accepted, those with byte 0 = 1, and TRAIN frames sent with byte 0 = 1 (R299) -/
  rxTrain : Nat := 0
  rxTrain1 : Nat := 0
  txTrain1 : Nat := 0
  /-- byte 0 of the TRAIN frames sent is 1 from now on (R299) -/
  txOne : Bool := false
  farTrain : Bool := false
  /-- the round trip the last TRAIN frame accepted measured (R316) -/
  trainRtt : Nat := 0
  closing : Option Closing := none
  repair : Option Repair := none
  markedFlag : Bool := false
  swapReq : Bool := false
  /-- the far end's last swap_req, and whether a move it asked for is still to be made (R311) -/
  farSwap : Bool := false
  swapWanted : Bool := false
  farRateAdapt : Bool := false
  wrongIdent : Nat := 0
  queue : List Packet := []
  /-- times of flaps that count toward damping, in ns, the time of the last flap, and the current hold time in seconds (R308, R313) -/
  flapTimes : List Nat := []
  lastFlap : Option Nat := none
  holdTime : Nat := 10
  /-- a hold has not ended, whatever the lane's state (R313) -/
  holdDue : Bool := false
  /-- the colour set, tree or partner rule in force names this lane -/
  named : Bool := false
  /-- codewords waiting for their classification (R308) -/
  unclassed : Nat := 0
  /-- time after which an arrived or carried notice no longer counts (R308) -/
  noticeUntil : Nat := 0
  /-- frames sent (R297), the next of VC2, VC1 and VC0 to be served (R304), the frame on the fibre -/
  sentCount : Nat := 0
  turn : Nat := 0
  tx : Option Frame := none
  /-- the scrambler's register, and its value before the frame on the fibre, none for a frame sent before UP (R293) -/
  scram : Nat := 0x7FFFFFFF
  txScram : Option Nat := none
  /-- corrected symbols and counted codewords with their times in ns, for the windows of R309 -/
  corrLog : List (Nat × Nat) := []
  ucwLog : List (Nat × Nat) := []
deriving DecidableEq, Repr

/-! ### Rings (R286 to R291) -/

/-- The states of a ring. -/
inductive RingState where
  | parked
  | tuning
  | sweeping
  | locked
  | verified
  | faulty
deriving DecidableEq, Repr

/-- One ring: its target line, its state, its failures on this line. -/
structure Ring where
  state : RingState := .parked
  line : Nat := 0
  fails : Nat := 0
deriving DecidableEq, Repr

/-- The administrative fields of a port (R318). -/
structure PortAdmin where
  txDis : Nat := 0
  rxDis : Nat := 0
  portDis : Bool := false
deriving DecidableEq, Repr

/-- One fabric port (R318, R323). -/
structure Port where
  txFaulty : Nat := 0
  rxFaulty : Nat := 0
  txSpare : Nat := 8
  rxSpare : Nat := 8
  unlic : Nat := 0
  disagree : Nat := 0
  admin : PortAdmin := {}
  /-- the cabling check has passed since the port last started training, its last try failed, and it is under way (R323) -/
  cabled : Bool := false
  cablingTried : Bool := false
  cabling : Bool := false
  /-- the TRAIN frame on line 0 -/
  train0 : Option Frame := none
  /-- disabled through the management path (R543) -/
  mgmtDis : Bool := false
deriving DecidableEq, Repr

/-! ### Tiles (R283, R317) -/

/-- One laser feed as its monitor sees it (R283, R317). -/
structure Feed where
  ok : Bool := false
  tones : Bool := false
  avg : Int := 0
  minLine : Int := 0
deriving DecidableEq, Repr

/-- The staged fields of a tile (R317). -/
structure TileCtl where
  select : Bool := false
  aDis : Bool := false
  bDis : Bool := false
  ucwMark : Nat := 8
  serMark : Nat := 850000
  serWarn : Nat := 850000
deriving DecidableEq, Repr

/-- One optical tile: feeds, staged fields, failover in progress and notice (R284). -/
structure Tile where
  active : Nat := 2
  a : Feed := {}
  b : Feed := {}
  switches : Nat := 0
  bursts : Nat := 0
  ctl : TileCtl := {}
  commit : Commit := {}
  failover : Bool := false
  notice : Bool := false
  switchedAt : Nat := 0
deriving DecidableEq, Repr

/-! ### The fabric block -/

/-- A roster entry of R324: role 0 absent, 1 active, 2 spare available, 3 spare unavailable. -/
structure RosterEntry where
  logical : Nat := 0
  role : Nat := 0
deriving DecidableEq, Repr

/-- The staged fields of FAB: the roster and TREE_ROOT (R324, R353). -/
structure FabCtl where
  roster : SMap RosterEntry := []
  treeRoot : Nat := 0
deriving DecidableEq, Repr

/-- Why a packet is held without a next hop (R340, R346, R347). -/
inductive HoldReason where
  | credit
  | noLane
  | unusable
deriving DecidableEq, Repr

/-- A packet held at this device without a next hop. -/
structure HeldPacket where
  p : Packet
  why : HoldReason
deriving DecidableEq, Repr

/-- The lane set in force: 0 none, 1 the bring-up tree, 2 a colour set (R353). -/
structure Fab where
  mode : Nat := 1
  colourSet : Nat := 0xFFFF
  completed : Nat := 0
  position : Nat := 0
  ctl : FabCtl := {}
  commit : Commit := {}
  forwarded : Nat := 0
  escaped : Nat := 0
  detours : Nat := 0
  deadDrops : Nat := 0
  staleDrops : Nat := 0
  orderHolds : Nat := 0
  orderRetries : Nat := 0
  badType : Nat := 0
  lanes : SMap Lane := []
  ports : SMap Port := []
  rings : SMap Ring := []
  tiles : SMap Tile := []
  /-- packets held without a next hop -/
  held : List HeldPacket := []
  /-- packets received for this device and not yet taken, and packets received for others -/
  ingress : List Packet := []
  transit : List (Nat × Packet) := []
  /-- S[d] and A[s] (R341) -/
  sent : SMap Nat := []
  applied : SMap Nat := []
  /-- flagged packets that await their order (R342) -/
  flaggedHeld : List Packet := []
  /-- flagged packets answered with ORDER_RETRY and to be sent again (R342) -/
  orderResend : List Packet := []
  /-- flagged packets sent and not yet answered, so that ORDER_RETRY can name one (R342) -/
  flaggedSent : List Packet := []
  /-- sources whose next flagged packet is marked with an error, and the code behind it (R343, R365) -/
  skipMarked : SMap Nat := []
  /-- root of the tree in force, and the tree lanes of the old root kept until closed (R349) -/
  root : Nat := 0
  oldTree : List Nat := []
  /-- the root before the last change, while old tree lanes stand -/
  oldRoot : Nat := 0
  /-- tiers on which this device is an orphan, with the planes asked (R352) -/
  orphan : SMap Nat := []
  /-- adopted uplinks, and lanes opened for orphans: lane keys -/
  adopted : List Nat := []
  adoptees : List Nat := []
  /-- physical position of a served device outside the span (R339) -/
  served : Option Nat := none
deriving DecidableEq, Repr

/-! ### Remote requests (R354 to R364, R379) -/

/-- What waits for the answers of a request slot. -/
inductive SlotUse where
  /-- a fox core's store or atomic without a result: the core and its issue number -/
  | fox (core issue : Nat)
  /-- a fox core's access whose answer the core waits for -/
  | foxWait (core : Nat)
  /-- a piece of a hare's copy: the hare, the copy's issue number, the byte of the copy it starts at, bytes -/
  | hare (hare issue pos len : Nat)
  /-- a piece of a run-ahead copy: die × 1024 + slot, the slot's generation, the byte of the slot -/
  | staging (slot gen pos len : Nat)
  /-- a block map entry a hare reads; quietly for a run-ahead copy (R251) -/
  | mapEntry (hare : Nat) (quiet : Bool)
  /-- a collective packet of a pack unit -/
  | pack (unit : Nat)
  /-- a coherence transaction of an L1 for a line -/
  | l1 (core line : Nat)
  /-- a sketch word of a stream context -/
  | stream (ctx : Nat)
  /-- the ROM firmware: mirror, restore, re-mirror -/
  | firmware (bytes : Nat)
  /-- a signal or post: nothing waits on it -/
  | post
deriving DecidableEq, Repr

/-- One request slot: the packet it sent, its issuer and the destinations that have not answered. -/
structure Slot where
  busy : Bool := false
  gen : Nat := 0
  engine : Nat := 0xFFFF
  waiting : List Nat := []
  use : SlotUse := .post
  packet : Packet := {}
  /-- destinations that answered RETRY and are to be sent the packet again (R372, R395) -/
  retry : List Nat := []
deriving DecidableEq, Repr

/-- Remote request registers (R379). -/
structure Remote where
  slots : SMap Slot := []
  used : Nat := 0
  peak : Nat := 0
  timeouts : Nat := 0
  late : Nat := 0
  errors : Nat := 0
  deadDevice : Nat := 0
  deadValid : Bool := false
  deadWhen : Nat := 0
deriving DecidableEq, Repr

/-! ### The sett (R368 to R380) -/

/-- States of a directory entry (R369). -/
inductive DirState where
  | inv
  | shared
  | em
  | bSnp
  | bInv
  | bXwb
deriving DecidableEq, Repr

/-- What a home's transaction on a line is for (R371): a coherence request, or an uncached access that needs the line to be
given up (`write`) or clean (not `write`) in the caches. -/
inductive HomeReq where
  | gets (p : Packet)
  | getm (p : Packet) (upgrade : Bool)
  | recall (write : Bool)
deriving DecidableEq, Repr

/-- One directory entry with its transaction record (R369, R374). -/
structure Dir where
  state : DirState := .inv
  sharers : Nat := 0
  owner : Nat := 0
  ext : Bool := false
  req : Option HomeReq := none
  /-- logical devices whose INV_ACK is awaited -/
  acks : List Nat := []
  /-- an eviction notice taken as a snoop's answer, whose DATA_IN_FLIGHT is still to come (R374) -/
  put : Option Packet := none
  wait : List HomeReq := []
deriving DecidableEq, Repr

/-- States of an L1 line (R370). -/
inductive L1State where
  | inv
  | shared
  | excl
  | modif
  | isD
  | imD
  | smG
  | isDI
  | miA
  | eiA
  | iiA
deriving DecidableEq, Repr


/-- One L1 line, with its request slot while an answer is awaited: 0xFFFF where the home is this device, which takes none. -/
structure L1Line where
  state : L1State := .inv
  data : List Byte := []
  poison : Bool := false
  slot : Nat := 0
  /-- the request is to be sent again (R372) -/
  retry : Bool := false
deriving DecidableEq, Repr

/-- The coherence counters of a compute die (R380). -/
structure SettCounts where
  gets : Nat := 0
  getm : Nat := 0
  snoops : Nat := 0
  invs : Nat := 0
  crossings : Nat := 0
  retries : Nat := 0
  uncached : Nat := 0
  snoopTimeout : Bool := false
  ownerLost : Bool := false
  stray : Bool := false
deriving DecidableEq, Repr

/-- The directory by line of this device's CS, the L1s (by core's engine ID, then by home device × 2^23 + line), the counters by die,
and the uncached requests of other devices that wait for lines (R372). -/
structure Sett where
  dir : SMap Dir := []
  l1 : SMap (SMap L1Line) := []
  counts : SMap SettCounts := []
  waiting : List Packet := []
deriving DecidableEq, Repr

end Sys2Proof.Machine
end

