-- ==== Sys2Proof/Machine/StatePlan.lean ====
section
/-! DEFINITION. The state of a loaded plan, of its load and join, and of its epochs (plan images; tallies, epochs and recovery). -/

namespace Sys2Proof.Machine

open Sys2Proof

/-- A roster entry of the SPAN section (R46): no logical number for a spare. -/
structure SpanEntry where
  logical : Option Nat
  physical : Nat
deriving DecidableEq, Repr

/-- A PHASE record (R48). -/
structure Phase where
  kind : Nat := 0
  epoch : Bool := false
  colourSet : Nat := 0xFFFF
  powerClass : Nat := 0
  next : Nat := 0
  alt : Nat := 0
  altCount : Nat := 0
deriving DecidableEq, Repr

/-- A COLOUR record (R52). -/
structure ColourRec where
  shiftKind : Bool := false
  port : Nat := 0
  shift : Nat := 0
  src : Nat := 0
  dst : Nat := 0
deriving DecidableEq, Repr

/-- A POWER record (R56). -/
structure PowerClass where
  stepRate : Nat := 2000
  floorMv : Nat := 550
  ceilMv : Nat := 900
  keepGap : Nat := 2000
  keepEnable : Bool := false
  limitW : Nat := 2600
deriving DecidableEq, Repr

/-- A REGION record (R58). -/
structure Region where
  base : Nat
  size : Nat
  code : Nat
deriving DecidableEq, Repr

/-- A ROUTE record (R55). -/
structure Route where
  colourSet : Nat
  src : Nat
  dst : Nat
  hops : Nat
  vcMask : Nat
  via1 : Nat
  via2 : Nat
deriving DecidableEq, Repr

/-- The EPOCH record (R59). -/
structure EpochRec where
  hoardBase : Nat
  hoardSize : Nat
  lag : Nat
  epochs : Nat
  swap : Bool
deriving DecidableEq, Repr

/-- A program (R62): its code as 64-bit instruction words, or as bytes for a fox program. -/
structure Prog where
  key : Nat
  cls : Nat
  mode : Nat
  entry : Nat
  paramWords : Nat
  code : List Word64
deriving DecidableEq, Repr

/-- A HOLD record (R66). -/
structure Hold where
  first : Nat
  last : Nat
  bank : Nat
  count : Nat
  shared : Bool
  owners : List Nat
deriving DecidableEq, Repr

/-- A BIND record (R64). -/
structure Bind where
  first : Nat
  last : Nat
  engine : Nat
  prog : Nat
  param : Nat
deriving DecidableEq, Repr

/-- A TALLY record (R68). -/
structure TallyRec where
  first : Nat
  count : Nat
  initial : Nat
deriving DecidableEq, Repr

/-- A COMPL record (R69). -/
structure Compl where
  phase : Nat
  tally : Nat
  target : Nat
deriving DecidableEq, Repr

/-- A STREAM record (R70). -/
structure StreamRec where
  first : Nat
  count : Nat
  digital : Bool
  initParam : Option Nat
deriving DecidableEq, Repr

/-- A SHARD record (R71). -/
structure Shard where
  space : Nat
  off : Nat
  size : Nat
deriving DecidableEq, Repr

/-- The per-device sections of one key (R45). -/
structure DevSections where
  holds : List Hold := []
  binds : List Bind := []
  params : List Word64 := []
  tallies : List TallyRec := []
  compls : List Compl := []
  streams : List StreamRec := []
  shards : List Shard := []
deriving DecidableEq, Repr

/-- A plan whose image has passed its checks. -/
structure Plan where
  planId : Word64 := 0
  repro : Bool := false
  joinTimeout : Nat := 10000
  steward : Nat := 0
  spanDevices : Nat := 0
  digest : BitVec 384 := 0
  span : List SpanEntry := []
  phases : List Phase := []
  colours : List (Nat × List ColourRec) := []
  powers : List PowerClass := []
  regions : List Region := []
  routes : List Route := []
  epoch : Option EpochRec := none
  calwins : List (Nat × Nat) := []
  progs : List Prog := []
  /-- the per-device sections by key, 0xFFFF the default (R45) -/
  devs : List (Nat × DevSections) := []
deriving DecidableEq, Repr

/-- Where a load stands (R77, R80). -/
inductive LoadStage where
  | idle
  | reading
  | joining
  | withdrawn
deriving DecidableEq, Repr

/-- What the steward knows of a device that joined (R77): by physical position. -/
structure Joined where
  spare : Bool := false
  logical : Nat := 0
  code : Nat := 0
  matching : Bool := false
  lease : Lease := .notNeeded
deriving DecidableEq, Repr

/-- A verdict: GO, or REFUSE with its code, device and that device's code. -/
structure Verdict where
  go : Bool
  code : Nat
  dev : Nat
  devCode : Nat
deriving DecidableEq, Repr

/-- A load in progress and the steward's record of the join. -/
structure Load where
  stage : LoadStage := .idle
  image : List Byte := []
  length : Nat := 0
  plan : Option Plan := none
  /-- the queue and command that load, with the status ring and vector they name -/
  queue : Nat := 0
  cmdId : Nat := 0
  ring : Word64 := 0
  vector : Nat := 0
  lease : Lease := .notNeeded
  leaseSent : Bool := false
  /-- own refusal code and byte offset, kept after a local refusal -/
  refusal : Option (Nat × Nat) := none
  /-- as steward -/
  joined : SMap (Option Joined) := []
  verdict : Option Verdict := none
  refusing : Bool := false
  /-- GO has been carried out, and the completion waits for recalibrations (R80, R275) -/
  goDue : Bool := false
deriving DecidableEq, Repr

/-- States of HUB.PLAN_STATE (R521). -/
inductive PlanSt where
  | none
  | loading
  | hold
  | run
  | suspended
  | ended
  | waiting
deriving DecidableEq, Repr

/-- The plan as it runs. -/
structure Run where
  st : PlanSt := .none
  completion : Nat := 0
  plan : Option Plan := none
  /-- the phase whose power class is in force (R453) -/
  clsPhase : Nat := 0
  /-- the logical number this device bears, none for a spare -/
  me : Option Nat := none
  phase : Nat := 0
  /-- the phase has ended and the next has not started: between PHASE_END and PHASE_START -/
  between : Bool := false
  passes : SMap Nat := []
  startAt : Option HallTime := none
  /-- the plan has begun: a spare, which holds, gathers and probes from then on (R411, R416) -/
  begun : Bool := false
  stopAtBoundary : Bool := false
  /-- an epoch fault has stopped every engine, until the plan restarts (R417) -/
  halted : Bool := false
  /-- the plan was resumed from a save area and has not started a phase since (R534) -/
  resumed : Bool := false
  /-- plan_id of the plan that last ended (R521) -/
  lastId : Nat := 0
deriving DecidableEq, Repr

/-- Stages of TALLY.EPOCH_STATE (R426). -/
inductive EpochStage where
  | none
  | running
  | arrived
  | mirroring
  | ready
  | keep
  | rollback
  | waitSpare
deriving DecidableEq, Repr

/-- A byte memory: addresses strictly rising, no entry equal to zero, which an unlisted address reads as (DESIGN CHOICE, log entry 2). -/
abbrev Memory := List Host.Cell

/-- What a transfer of the firmware sends (R412, R420, R422): the mirror and a swap's copy the live state, a re-mirror the keep, a restore
the hoard. -/
inductive XferKind where
  | mirror
  | remirror
  | restore
  | swap
deriving DecidableEq, Repr

/-- A transfer of the ROM firmware in progress: to a logical device, or to a position; the offset in space 5 it goes to, its size, the
bytes sent and the bytes acknowledged. -/
structure Xfer where
  kind : XferKind
  dest : Nat
  phys : Bool
  base : Nat
  size : Nat
  sent : Nat := 0
  acked : Nat := 0
deriving DecidableEq, Repr

/-- Epoch registers and records (R407 to R426). -/
structure Epoch where
  stage : EpochStage := .none
  steward : Bool := false
  deputy : Bool := false
  coordinator : Bool := false
  keepValid : Bool := false
  commit : Nat := 0
  boundaryUs : Nat := 0
  lag : Int := 0
  lagCount : Nat := 0
  rollbacks : Nat := 0
  takeovers : Nat := 0
  faults : Nat := 0
  partner : Nat := 0
  inSpan : Bool := false
  lease : Bool := false
  lost : Bool := false
  lostLogical : Nat := 0
  lostPhysical : Nat := 0
  lostCause : Nat := 0
  lostCommit : Nat := 0
  /-- a commit has taken effect since the load, with the pass counters and next phase it holds -/
  has : Bool := false
  passes : SMap Nat := []
  next : Nat := 0
  /-- as gatherer or coordinator: reported arrivals, readies, restoreds -/
  arrivals : List (Nat × HallTime) := []
  readies : List Nat := []
  restoreds : List Nat := []
  /-- lag counts by logical device, as row gatherer and coordinator; the last commit's or RESTART's hall time in ns -/
  lags : SMap Nat := []
  began : Nat := 0
  /-- swap list of the commit under way, or the one in force until its RESTART -/
  swaps : List Swap := []
  /-- a COMMIT has been sent to the deputy and not acknowledged -/
  commitSent : Bool := false
  commitAt : HallTime := {}
  boundaryAt : Nat := 0
  /-- transfers of the firmware; the copy received by a spare, its bytes and its poisoned lines -/
  xfers : List Xfer := []
  incoming : Memory := []
  incomingBad : List Nat := []
  got : Nat := 0
  /-- rollback in progress: its serial, target, lost devices, and whether this device has restored -/
  serial : Nat := 0
  target : Nat := 0
  lostList : List Lost := []
  restored : Bool := false
  /-- the copy is in place, and the report of it waits for recalibrations (R277) -/
  placed : Bool := false
  /-- as coordinator: the serial and the list of the last ROLLBACK sent; a line of the keep has no intact copy (R421, R425) -/
  serialSent : Nat := 0
  lostSent : List Lost := []
  noCopy : Bool := false
  rollbackAt : Nat := 0
  restartAt : Option HallTime := none
  /-- probes: missed answers by position, positions whose answer is awaited, suspects being confirmed with the probes sent to them,
  their causes, and the probe sequence -/
  missed : SMap Nat := []
  awaiting : List Nat := []
  confirming : SMap Nat := []
  causes : SMap Nat := []
  probeSeq : Nat := 0
deriving DecidableEq, Repr

end Sys2Proof.Machine
end

