-- ==== Sys2Proof/Machine/StateCore.lean ====
section
/-! DEFINITION. The state every part of the device shares: memories, tallies, sequencers, the event log and MSI-X. -/

namespace Sys2Proof.Machine

open Sys2Proof

/-- The error registers of one store of one die or stack (R214, R215): offset of the first line poisoned, complete scrub passes. -/
structure EccRegs where
  corrected : Nat := 0
  uncorrected : Nat := 0
  poisonOff : Nat := 0
  poisonValid : Bool := false
  passes : Nat := 0
deriving DecidableEq, Repr

/-- The other registers of an HBM controller (R215); `ppr` lists rows repaired (R213). -/
structure Hbmc where
  trained : Bool := false
  patrolBusy : Bool := false
  latReads : Nat := 0
  bulkBytes : Nat := 0
  patrol : Bool := true
deriving DecidableEq, Repr

/-- The memories (R33, R184, R190, R191), host memory as the device wrote it, and the poisoned 64-byte lines of each store (R210). -/
structure Mem where
  sp : Memory := []
  hbm : Memory := []
  cs : Memory := []
  host : Memory := []
  spPoison : List Nat := []
  hbmPoison : List Nat := []
  csPoison : List Nat := []
  /-- error registers: SP by die, CS by 8 + die, HBM by 16 + stack -/
  ecc : SMap EccRegs := []
  hbmc : SMap Hbmc := []
  /-- physical moves of R213: SP logical bank to spare, CS lines' rows and HBM rows repaired, by store and place -/
  moved : List (Nat × Nat × Nat) := []
deriving DecidableEq, Repr

/-- One tally (R402). `waiters` is derived; an engine that has not failed reads 0xFFFF. -/
structure Tally where
  count : Nat := 0
  error : Bool := false
  allocated : Bool := false
  errCode : Nat := 0
  errEngine : Nat := 0xFFFF
  signals : Nat := 0
deriving DecidableEq, Repr

/-- The states of an engine (R109). -/
inductive EngSt where
  | unbound
  | running
  | waiting
  | ended
  | faulted
deriving DecidableEq, Repr

/-- What an engine waits for: a local tally's target (R91, R171). A fox core gives the register of the answer. -/
structure TWait where
  tally : Nat
  target : Nat
  errEnd : Bool := false
  rd : Option Nat := none
deriving DecidableEq, Repr

/-- A SIGNAL or TSIG that waits for the earlier instructions of its engine, or a hare's post that waits for a free request. `addr` is set
for a tally of another device, `err` where the add marks an error (R209). -/
structure PendSignal where
  issue : Nat
  tally : Nat
  n : Nat
  addr : Option Word64 := none
  err : Bool := false
deriving DecidableEq, Repr

/-- The sequencer of one engine: program binding, pc, index registers, error tally, waits and what it has issued. -/
structure Seq where
  st : EngSt := .unbound
  prog : Nat := 0
  param : Nat := 0
  pc : Nat := 0
  xs : SMap Word32 := []
  errTally : Nat := 65280
  wait : Option TWait := none
  /-- instructions issued, and the issue numbers of those not complete -/
  issued : Nat := 0
  opens : List Nat := []
  signals : List PendSignal := []
  /-- an END has issued and waits for earlier instructions -/
  ending : Bool := false
deriving DecidableEq, Repr

/-- An entry of the event log (R537). -/
structure LogEntry where
  sequence : Nat := 0
  code : Nat := 0
  source : Nat := 0
  seconds : Nat := 0
  ns : Nat := 0
  data : List Byte := []
deriving DecidableEq, Repr

/-- The event log, its registers and the marks behind its rate limits (R521, R537 to R539). -/
structure EventLog where
  next : Nat := 0
  overwritten : Nat := 0
  acked : Nat := 0
  threshold : Nat := 64
  armed : Bool := true
  entries : SMap LogEntry := []
  /-- events recorded at most once a phase: code and key -/
  phaseMarks : List (Nat × Nat) := []
  /-- last time in ns at which an event with a time limit was recorded: code, key, time -/
  lastAt : List (Nat × Nat × Nat) := []
deriving DecidableEq, Repr

/-- One MSI-X message sent (R522). -/
structure MsixMsg where
  vector : Nat
  addr : Nat
  data : Nat
deriving DecidableEq, Repr

/-- The MSI-X table (2,048 vectors of 16 bytes; the mask bit is set at reset as PCIe defines), pending bits and the messages sent. -/
structure Msix where
  table : SMap Word128 := []
  pendingBits : List Nat := []
  sent : List MsixMsg := []
  enabled : Bool := false
  maskAll : Bool := false
deriving DecidableEq, Repr

/-- A table entry at reset: masked. -/
def Msix.entry0 : Word128 := BitVec.ofNat 128 (2 ^ 96)

end Sys2Proof.Machine
end

