-- ==== Sys2Proof/Machine/StateBoot.lean ====
section
/-! DEFINITION. The state of boot, repair, licences and links inside the package (R482 to R513, R549), and the flash the device writes. -/

namespace Sys2Proof.Machine

open Sys2Proof

/-- One licence entry as the last boot found it (R513). -/
structure LicEntry where
  present : Bool := false
  valid : Bool := false
  tier : Nat := 0
  frozen : Bool := false
  key : Nat := 0
  serial : Nat := 0
  reason : Nat := 0
deriving DecidableEq, Repr

/-- The link of a compute die to its tile (R502 to R504): state 0 not trained, 1 full, 2 degraded, 3 refused. -/
structure TileLink where
  st : Nat := 0
  rate : Nat := 0
  modules : Nat := 0
  vendor : Nat := 0
  retrains : Nat := 0
deriving DecidableEq, Repr

/-- The hub link of a compute die (R505). -/
structure HubLink where
  down : Bool := false
  up : Bool := false
  failed : Bool := false
  errors : Nat := 0
deriving DecidableEq, Repr

/-- The path under way to READY: a boot path, or the wake table (R460). -/
inductive BootPath where
  | none
  | cold
  | warm
  | wake
deriving DecidableEq, Repr

/-- Boot, repair, calibration store and licences. -/
structure Boot where
  path : BootPath := .none
  step : Nat := 0
  /-- the last step of the wake table that completed (R460) -/
  wakeStep : Nat := 0
  warm : Bool := false
  fallback : Bool := false
  trained : Bool := false
  /-- READY has been asserted since PWR_OK last rose -/
  everReady : Bool := false
  failStep : Nat := 0
  failCode : Nat := 0
  bootUs : Nat := 0
  fuseCorr : Nat := 0
  fuseBad : Bool := false
  /-- the calibration store: slot in use, validity, a write in progress, newer contents waiting, contents still to be written -/
  slot : Nat := 0
  slotValid : Bool := false
  otherValid : Bool := false
  writeBusy : Bool := false
  writeAgain : Bool := false
  writeDue : Bool := false
  retried : Bool := false
  defaults : Bool := false
  seq : Nat := 0
  written : Nat := 0
  failed : Nat := 0
  /-- recalibration results wait to be written, and the hall second at which such a write last began (R500) -/
  recalDue : Bool := false
  recalWrite : Option Nat := none
  /-- the slots in the flash, 0 A and 1 B, kept without power (R497), and the calibration copy in hub SRAM by record type (R482, R498) -/
  cal : SMap CalSlot := []
  calData : SMap (List Byte) := []
  licences : SMap LicEntry := []
  /-- licence sectors of the flash, 0 to 7, and the trip record: kept without power -/
  flash : SMap (List Byte) := []
  trip : Option (Nat × Int × HallTime) := none
  /-- the strap change and the locked test instruction have been recorded since the last reset -/
  strapLogged : Bool := false
  testLogged : Bool := false
  /-- a test instruction has run that only a cold start ends -/
  testRun : Bool := false
  links : SMap TileLink := []
  hubLinks : SMap HubLink := []
  absentDies : List Nat := []
  /-- HBM stacks absent after repair, logical SP banks absent, and spare banks in use by S-die -/
  absentStacks : List Nat := []
  absentBanks : List Nat := []
  bankSpares : SMap Nat := []
  /-- physical banks and rows found bad at the last cold start, logical banks moved since (by S-die × 256 + bank: physical bank + 1), and CS rows
  replaced (by die × 16384 + row: physical row + 1) -/
  bankBad : List Nat := []
  bankMoves : SMap Nat := []
  rowMoves : SMap Nat := []
  /-- the field repair list, by unit code (log entry 25), and whether its copy in hub SRAM failed its CRC at the last warm reset (R484) -/
  repairs : List Nat := []
  listLost : Bool := false
  /-- the instruction in force at the test access port (R506) -/
  tap : TapIns := .idcode
  clkLost : Bool := false
deriving DecidableEq, Repr

end Sys2Proof.Machine
end

