-- ==== Sys2Proof/Machine/StateEngines.lean ====
section
/-! DEFINITION. The state of the engines beside their sequencers. -/

namespace Sys2Proof.Machine

open Sys2Proof

/-- A fox core (R167, R168, R170, R174, R178, R183). `fcsr` holds fflags in bits [4:0] and frm in [7:5]. -/
structure Fox where
  x : SMap Word64 := []
  f : SMap Word64 := []
  fcsr : Nat := 0
  v : SMap (BitVec 512) := []
  vl : Nat := 0
  vtype : Word64 := BitVec.ofNat 64 (2 ^ 63)
  vstart : Nat := 0
  vcsr : Nat := 0
  /-- the line of a load-reserved, if one stands -/
  reservation : Option Nat := none
  /-- the tally last waited on, and whether the core yields on it -/
  lastTally : Option Nat := none
  yielding : Bool := false
  instret : Nat := 0
  operandFault : Bool := false
  trap : Bool := false
  eccFatal : Bool := false
  eccCorr : Nat := 0
  userDrops : Nat := 0
  userLogged : Nat := 0
  /-- last host address written since the last read-back (R220) -/
  hostWrote : Option Nat := none
  /-- read-backs of host memory that await their completion, by issue number (R220) -/
  readbacks : List Nat := []
  /-- an atomic with aq has retired: the next instruction waits for every earlier access (R175) -/
  acquired : Bool := false
  /-- element accesses of the instruction at issue already performed, and whether the core waits for an answer to the next -/
  pos : Nat := 0
  busy : Bool := false
deriving DecidableEq, Repr

/-! ### Hares (R198 to R209, R214) -/

/-- The kinds of copy instruction (R199). -/
inductive CopyKind where
  | copy
  | gather
  | fill
deriving DecidableEq, Repr

/-- A copy instruction in progress: its resolved descriptor (R200) and how far it has come, in bytes of copy order. -/
structure CopyRec where
  issue : Nat := 0
  index : Nat := 0
  kind : CopyKind := .copy
  prio : Bool := false
  src : Word64 := 0
  dst : Word64 := 0
  rowBytes : Nat := 0
  rows : Nat := 0
  srcStride : Int := 0
  dstStride : Int := 0
  /-- the arrival tally's address; zero for none -/
  tally : Word64 := 0
  unit : Nat := 0
  /-- whether the arrival tally receives posts; a copy without them still sets its error bit (R252, R259) -/
  post : Bool := true
  op : Nat := 0
  elem : Nat := 0
  mcast : Option (Word64 × Word64) := none
  /-- the PARAM slot of its destination-mask record (R366) -/
  mask : Nat := 0
  /-- bytes read and sent, bytes performed, bytes counted by posts -/
  sent : Nat := 0
  done : Nat := 0
  posted : Nat := 0
  /-- pieces of a remote source that have arrived beyond `done`: start and length -/
  got : List (Nat × Nat) := []
  /-- ends of chunks whose host read-back is awaited -/
  readbacks : List Nat := []
  /-- request slots of this copy that await an answer -/
  flight : Nat := 0
  /-- requests to host memory in flight for the next chunk -/
  asked : Nat := 0
  stopped : Bool := false
deriving DecidableEq, Repr

/-- A hare: its copies, oldest first, the registers of R214, and where a SPUB or SRES that takes its slots in turn has come. -/
structure Hare where
  copies : List CopyRec := []
  bytes : Nat := 0
  posts : Nat := 0
  /-- requests to host memory in flight: reads of copies, and read-backs -/
  outstanding : Nat := 0
  operandFault : Bool := false
  domainDown : Bool := false
  hostError : Bool := false
  poison : Bool := false
  /-- SOPEN and SPUB: the next slot; SRES: the next candidate, and the candidates with 1 where the map entry exists -/
  spub : Nat := 0
  sres : Option (Nat × List (Nat × Nat)) := none
  /-- positions sketched in the context of an SRES as it issued (R245) -/
  sresSketched : Nat := 0
  /-- a block map entry read from another device, with the event of a read that failed (else 0), and whether its answer is awaited -/
  entry : Option (Word64 × Nat) := none
  entryWait : Bool := false
deriving DecidableEq, Repr

/-! ### Staging slots (R248 to R254) -/

/-- A part of a run-ahead copy: its source, its place in the slot and its length. -/
structure RunPart where
  src : Word64
  off : Nat
  len : Nat
deriving DecidableEq, Repr

/-- Where a slot's run-ahead copy stands. -/
inductive RunState where
  | none
  | flight
  | done
  | failed
deriving DecidableEq, Repr

/-- An open staging slot: its owner, range, tag, and its run-ahead copy with the data staged so far (hidden until SPUB). -/
structure StgSlot where
  opened : Bool := false
  owner : Nat := 0xFFFF
  base : Nat := 0
  bytes : Nat := 0
  tag : Option Nat := none
  /-- the context and the part an SOPEN fetches from the block map; nothing for a slot without a fetch (R249, R252) -/
  fetch : Option (Nat × Nat) := none
  gen : Nat := 0
  run : RunState := .none
  parts : List RunPart := []
  /-- bytes of the parts, in order, already requested; requests awaiting an answer -/
  sent : Nat := 0
  flight : Nat := 0
  prio : Bool := false
  data : Memory := []
  /-- bytes that hold staged data: start and length -/
  staged : List (Nat × Nat) := []
deriving DecidableEq, Repr

/-! ### Stream contexts (R235 to R258) -/

/-- A stream context (R236): its 256 bytes, the appends accepted and not posted, and a CLOSE that waits for them. -/
structure Ctx where
  alloc : Bool := false
  mem : Memory := []
  queue : List (Nat × Nat) := []
  closing : Bool := false
  /-- command words that reached the stream unit after a pending CLOSE and wait for it (R238) -/
  later : List Nat := []
  /-- sketch words stored to other devices and not yet answered -/
  flight : Nat := 0
deriving DecidableEq, Repr

/-- The stream and staging registers of a compute die (R257). -/
structure StrDie where
  appends : Nat := 0
  tokens : Nat := 0
  digital : Nat := 0
  contextFault : Bool := false
  selectFault : Bool := false
  stagingFault : Bool := false
  copies : Nat := 0
  hits : Nat := 0
  discards : Nat := 0
  failed : Nat := 0
deriving DecidableEq, Repr

/-! ### Pack units (R381 to R401) -/

/-- Elements of a collective to be sent: the stage, the member for a unicast piece, and the positions left. -/
structure CollSend where
  stage : Nat
  dest : Option Nat := none
  lo : Nat
  len : Nat
deriving DecidableEq, Repr

/-- A contribution or gathered piece that has arrived: the stage, the sender's index in its tier (its rank for kinds 2 and 3), and
the positions. -/
structure CollGot where
  stage : Nat
  idx : Nat
  lo : Nat
  len : Nat
deriving DecidableEq, Repr

/-- A collective in progress: its resolved descriptor (R383), and how far it has come. -/
structure Coll where
  issue : Nat := 0
  index : Nat := 0
  seq : Nat := 0
  digest : Nat := 0
  src : Word64 := 0
  dst : Word64 := 0
  work : Word64 := 0
  count : Nat := 0
  inFmt : Nat := 0
  outFmt : Nat := 0
  kind : Nat := 0
  sat : Bool := false
  /-- 1 latency-optimal, 2 bandwidth-optimal, 0 for kinds 2 and 3 -/
  algo : Nat := 0
  root : Nat := 0
  g0 : Word64 := 0
  g1 : Word64 := 0
  tally : Nat := 0
  /-- the stage of R394 it has come to -/
  stage : Nat := 0
  /-- partial sums held inside the PU, by position -/
  sums : SMap Nat := []
  got : List CollGot := []
  /-- senders whose data is missing: stage and index -/
  missing : List (Nat × Nat) := []
  /-- chunks summed in this stage, and those that failed their residue check once -/
  summed : List Nat := []
  failed : List Nat := []
  out : List CollSend := []
  /-- packets sent and not yet answered -/
  flight : Nat := 0
deriving DecidableEq, Repr

/-- A pack unit (R401). -/
structure Pack where
  coll : Option Coll := none
  /-- coll_seq of the next COLL, and of the current or last one -/
  next : Nat := 0
  last : Nat := 0
  colls : Nat := 0
  sent : Nat := 0
  recv : Nat := 0
  adds : Nat := 0
  retries : Nat := 0
  flags : Nat := 0
  operandFault : Bool := false
  mismatch : Bool := false
  workShort : Bool := false
  residueFatal : Bool := false
  residue : Nat := 0
deriving DecidableEq, Repr

/-! ### Bears (R81 to R137) -/

/-- The directions of a current-keeping ramp (R107). -/
inductive Ramp where
  | none
  | up
  | down
deriving DecidableEq, Repr

/-- Current keeping of one bear or badger (R107, R162): density in eighths, its ramp, and KEEP's hold. -/
structure KeepSt where
  density : Nat := 0
  ramp : Ramp := .none
  hold : Bool := false
deriving DecidableEq, Repr

/-- The operands of one MMA, or of one cub of an OMMA: the rows of A, the columns of B, and their block scales, as bit patterns. -/
structure MmaTile where
  a : List (List Nat) := []
  b : List (List Nat) := []
  sa : List (List Nat) := []
  sb : List (List Nat) := []
deriving DecidableEq, Repr

/-- An MMA or OMMA from its issue to its completion, with the operands it read (R93, R97). -/
structure MmaOp where
  issue : Nat := 0
  index : Nat := 0
  word : Word64 := 0
  swapped : Bool := false
  refilling : Bool := false
  /-- an operand fault: what it touches becomes NaN or integer infinity (R111) -/
  fault : Bool := false
  fmtA : Nat := 0
  fmtB : Nat := 0
  tiles : List MmaTile := []
deriving DecidableEq, Repr

/-- A bear (R81 to R137). `acc` holds both banks: bank × 65,536 + row × 128 + column. -/
structure Bear where
  acc : SMap Nat := []
  compat : Bool := false
  cub16 : Bool := false
  instances : Nat := 1
  window : Nat := 0
  aStride : Nat := 0
  bStride : Nat := 0
  cStride : Nat := 0
  mmas : List MmaOp := []
  /-- issue numbers of DRNs whose writes are not acknowledged -/
  drains : List Nat := []
  keep : KeepSt := {}
  /-- the shift register behind dummy rows (R106): its value at the plan's start, and the shifts since -/
  lfsr : Nat := 0
  shifts : Nat := 0
  /-- a fill has completed since the plan's start: before it the active tile is pseudo-random (R106) -/
  filled : Bool := false
  mmaCount : Nat := 0
  rows : Nat := 0
  keepRows : Nat := 0
  operandFault : Bool := false
  tileRetry : Bool := false
  tileFatal : Bool := false
  drainCount : Nat := 0
  drainFlags : Nat := 0
  accCorr : Nat := 0
  accFatal : Bool := false
deriving DecidableEq, Repr

/-- A badger (R138 to R166). -/
structure Badger where
  keep : KeepSt := {}
  /-- the shift register behind dummy groups (R162): its value at the plan's start, and the shifts since -/
  lfsr : Nat := 0
  shifts : Nat := 0
  instrs : Nat := 0
  groups : Nat := 0
  keepSteps : Nat := 0
  flags : Nat := 0
  operandFault : Bool := false
  eccFatal : Bool := false
  positionRange : Bool := false
  corrected : Nat := 0
deriving DecidableEq, Repr

/-! ### Photonic projection engines (R260 to R281) -/

/-- The states of a mesh (R265). -/
inductive Mesh where
  | empty
  | loading
  | sketch
  | frozen
  | recal
deriving DecidableEq, Repr

/-- A matrix record (R266): the 64 × 64 FP32 patterns, the fold signs and the mode. -/
structure MatRec where
  w : List (List Nat)
  fold : Word64
  mode : Nat
deriving DecidableEq, Repr

/-- A photonic projection engine beside its sequencer (R279). -/
structure Ppe where
  mesh : Mesh := .empty
  record : Option MatRec := none
  /-- the MLOAD in progress: its issue number and its matrix -/
  load : Option (Nat × MatRec) := none
  overdue : Bool := false
  spareUsed : Bool := false
  inSpare : Nat := 64
  outSpare : Nat := 64
  /-- the converter channel next measured: inputs 0 to 64, then outputs -/
  turn : Nat := 0
  vectors : Nat := 0
  sketches : Nat := 0
  badkey : Nat := 0
  lastRecal : Nat := 0
  recals : Nat := 0
  recalTemp : Int := 0
  chanCals : Nat := 0
  operandFault : Bool := false
  matrixFault : Bool := false
  meshFault : Bool := false
  channelFatal : Bool := false
  feedSwitch : Bool := false
  /-- cause of the recalibration under way: 0 window, 1 load, 2 restart -/
  cause : Nat := 0
  /-- the record committed at the last epoch boundary (R277) -/
  committed : Option MatRec := none
deriving DecidableEq, Repr

/-- The engines, staging slots and stream contexts beside their sequencers: hares by engine ID, slots by die × 1024 + slot. -/
structure Units where
  fox : SMap Fox := []
  hare : SMap Hare := []
  stg : SMap StgSlot := []
  ctx : SMap Ctx := []
  str : SMap StrDie := []
  pack : SMap Pack := []
  bear : SMap Bear := []
  badger : SMap Badger := []
  /-- by tile -/
  ppe : SMap Ppe := []
  /-- dies whose ME_KEEP_CTL or VE_KEEP_CTL has force_off set (R108, R162) -/
  meOff : List Nat := []
  veOff : List Nat := []
  /-- physical units of engines that do not stand on the unit of their own number, plus one (R113); physical units out of service, by
  unit code (log entry 25) -/
  phys : SMap Nat := []
  badUnits : List Nat := []
  /-- engine IDs absent after repair (R22) -/
  absent : List Nat := []
deriving DecidableEq, Repr

end Sys2Proof.Machine
end

