-- ==== Sys2Proof/Machine/StateHub.lean ====
section
/-! DEFINITION. The state of the hub: the host link, its queues and commands, the lease, notifications, suspension and patches. -/

namespace Sys2Proof.Machine

open Sys2Proof

/-- One queue pair (R524). `vector = none` stands for the reset value, the queue's own number. -/
structure Queue where
  sqBase : Nat := 0
  cqBase : Nat := 0
  sqSize : Nat := 0
  cqSize : Nat := 0
  vector : Option Nat := none
  enable : Bool := false
  sqTail : Nat := 0
  cqHead : Nat := 0
  sqHead : Nat := 0
  cqTail : Nat := 0
  phase : Bool := true
  fault : Bool := false
  /-- command id of a fetched command that has not completed -/
  busy : Option Nat := none
  /-- a completion that waits for room: command id, status, detail -/
  held : Option (Nat × Nat × Nat) := none
deriving DecidableEq, Repr

/-- The plan-state command that waits for its outcome: queue and command id. -/
structure Waiter where
  queue : Nat
  cmdId : Nat
deriving DecidableEq, Repr

/-- A hoard lease granted by this device (R532). -/
structure LeaseRec where
  planId : Word64
  base : Nat
  size : Nat
  /-- the position it serves and the hoard_size of that device's plan, learned from its LEASE_CHECK -/
  served : Option Nat := none
  need : Nat := 0
deriving DecidableEq, Repr

/-- An armed tally notification (R533). -/
structure Notify where
  tally : Nat
  target : Nat
  vector : Nat
deriving DecidableEq, Repr

/-- What waits for the host link to return (R535). Every request's Relaxed Ordering and ID-Based Ordering attributes are clear (R225), so
none is held: a host-memory write or an MSI-X vector. -/
inductive HostOut where
  | write (addr : Nat) (data : List Byte)
  | msix (vector : Nat)
deriving DecidableEq, Repr

/-- What a request of the host or of the baseboard manager got back: data, Unsupported Request, or Configuration Request Retry Status. -/
inductive HostReply where
  | none
  | ur
  | crs
  | data (d : List Byte) (poison : Bool)
deriving DecidableEq, Repr

/-- A patch slot (R536). -/
structure Patch where
  valid : Bool := false
  serial : Nat := 0
  body : List Byte := []
deriving DecidableEq, Repr

/-- The hub. -/
structure Hub where
  ready : Bool := false
  vThermal : Nat := 8
  vLog : Nat := 9
  vLink : Nat := 10
  spBase : Nat := 0
  hbmBase : Nat := 0
  feedActive : Nat := 2
  feedA : Feed := {}
  feedB : Feed := {}
  l0 : Bool := false
  switches : Nat := 0
  downs : Nat := 0
  mgmtDisagree : Nat := 0
  cmdCompleted : Nat := 0
  cmdInvalid : Nat := 0
  hostFaults : Nat := 0
  /-- host-memory writes counted by HUB.DEV_SYNC (R224) -/
  hostWrites : Nat := 0
  queues : SMap Queue := []
  /-- the queue served last (R523) -/
  turn : Nat := 7
  notifies : List Notify := []
  lease : Option LeaseRec := none
  /-- save area named by PLAN_SUSPEND, the command that waits, and the span's request (R534) -/
  saveArea : Option Word64 := none
  suspender : Option Waiter := none
  suspending : Bool := false
  /-- as steward: devices whose answer to the suspend request is awaited -/
  suspendAwait : List Nat := []
  /-- as steward: the request has been sent and not decided -/
  suspendAsked : Bool := false
  /-- the PLAN_START that waits for commit 0 (R415), and its delay in microseconds -/
  starter : Option Waiter := none
  startDelay : Nat := 0
  /-- PLAN_STOP commands that complete when the plan ends -/
  stoppers : List Waiter := []
  /-- the completion of an ended plan whose final record waits for the plan's last access (R225) -/
  endDue : Option Nat := none
  /-- DOMAIN_POWER commands that complete when the domain settles: domain and command -/
  domWaiters : List (Nat × Waiter) := []
  /-- a RESET has completed, and the queue its completion goes to (R528) -/
  resetDue : Bool := false
  resetQueue : Nat := 0
  statusRing : Nat := 0
  planVector : Nat := 0
  statusSeq : Nat := 0
  out : List HostOut := []
  /-- the answers to the last host request and the last sensor read of the baseboard manager -/
  reply : HostReply := .none
  pldm : Option Int := none
  patches : SMap Patch := []
  patchActive : Nat := 0
  /-- link configuration (R514, R517): BAR2 and BAR4 sizes in GiB, payload and read request sizes, D3hot -/
  bar2 : Nat := 32
  bar4 : Nat := 1024
  mps : Nat := 128
  mrrs : Nat := 512
  d3hot : Bool := false
  /-- management: domains, ports and the reset requested (R543, R544) -/
  mgmtDiffer : List Nat := []
  sensor600 : Bool := false
deriving DecidableEq, Repr

end Sys2Proof.Machine
end

