-- ==== Sys2Proof/Machine/StatePower.lean ====
section
/-! DEFINITION. The state of the power machinery (R443 to R467) and of the thermal rounds (R468 to R481). -/

namespace Sys2Proof.Machine

open Sys2Proof

/-- States of a power domain (R467). -/
inductive DomSt where
  | off
  | on
  | draining
  | waking
  | failed
deriving DecidableEq, Repr

/-- One power domain (R462 to R467): OFF until boot powers it. -/
structure Domain where
  st : DomSt := .off
  adminOff : Bool := false
  /-- why it drains: 0 command, 1 FORCE, 2 management, 3 a fault of its rail -/
  cause : Nat := 0
  /-- a power-up that waits for OFF, and a power-down that waits for the plan's stop (FORCE) -/
  upPending : Bool := false
  forced : Bool := false
deriving DecidableEq, Repr

/-- Where a voltage change stands (R446, R447): its write is on the bus, its read-back is awaited, or it is to be issued again. -/
inductive AvsStage where
  | written
  | reading
  | retry
deriving DecidableEq, Repr

/-- One adaptive rail (R443, R467). `change` is the voltage change in progress. -/
structure Rail where
  request : Nat := 0
  confirmed : Nat := 0
  current : Nat := 0
  faulted : Bool := false
  fails : Nat := 0
  crc : Nat := 0
  notDone : Nat := 0
  readback : Nat := 0
  change : Option AvsStage := none
  /-- a voltage to request once the outstanding write has ended (R445) -/
  after : Option Nat := none
  short : Bool := false
  /-- how far the confirmed voltage stood from the request at the last failure -/
  gap : Nat := 0
deriving DecidableEq, Repr

/-- Rates of one compute die: the last canary rate, the pacer, and runs of intervals (R450, R451). -/
structure DieRate where
  canary : Nat := 0
  paced : Bool := false
  fast : Nat := 0
  slow : Nat := 0
  ok : Nat := 0
deriving DecidableEq, Repr

/-- Droops of one VCORE rail (R454, R455). -/
structure Droop where
  count : Nat := 0
  deepest : Nat := 0
  under : Nat := 0
deriving DecidableEq, Repr

/-- Power states (R456). -/
inductive PowerSt where
  | run
  | hold
  | watch
deriving DecidableEq, Repr

/-- The staged fields of PWR in force (R467). -/
structure PwrCtl where
  floorMv : Nat := 0
  ceilMv : Nat := 0
  capW : Nat := 0
  periodMs : Nat := 100
  keeps : SMap (Nat × Nat) := []
deriving DecidableEq, Repr

/-- The power machinery. -/
structure Power where
  domains : SMap Domain := []
  /-- VCORE0 to 3, VSRAM, VOPT, VHTR, at their values at PWR_OK (R443, R467) -/
  rails : List Rail := [{ request := 750 }, { request := 750 }, { request := 750 }, { request := 750 }, { request := 800 },
    { request := 900 }, { request := 2500 }]
  rates : SMap DieRate := []
  droops : SMap Droop := []
  st : PowerSt := .run
  wakeCause : Nat := 0
  waking : Bool := false
  rangeEmpty : Bool := false
  capActive : Bool := false
  avgW : Nat := 0
  /-- the measures of the current 10 ms -/
  samples : List Nat := []
  rateCap : Nat := 0xFFFF
  ctl : PwrCtl := {}
  commit : Commit := {}
  /-- hall times in ns of under-voltages (R455) -/
  underAt : List Nat := []
  /-- PWR_OK has fallen, or the switches are open after a trip -/
  tripped : Bool := false
  pwrOk : Bool := false
deriving DecidableEq, Repr

/-! ### Thermal -/

/-- Classes of a sensor (R470, R481). -/
inductive SensorClass where
  | absent
  | valid
  | openShort
  | range
  | stale
  | masked
deriving DecidableEq, Repr

/-- One sensor: its last reading in 1/16 °C, its class, and its peak. -/
structure Sensor where
  reading : Int := 0
  cls : SensorClass := .absent
  peak : Int := -32768
deriving DecidableEq, Repr

/-- The thermal record of one compute die (R475, R481): governing reading less its threshold, the sensor, the thermal rate, the end of the
grace in ns of hall time while it runs or has run out, and enforcement. -/
structure DieTherm where
  governing : Int := 0
  sensor : Nat := 0
  rate : Nat := 0xFFFF
  grace : Option Nat := none
  expired : Bool := false
  enforce : Bool := false
deriving DecidableEq, Repr

/-- The staged fields of THM in force (R481). -/
structure ThmCtl where
  graceMs : Nat := 50
  mask : List Nat := []
  dieC : Nat := 85
  railC : Nat := 110
deriving DecidableEq, Repr

/-- The owl's thermal state. -/
structure Thermal where
  request : Bool := false
  /-- rounds in which every sensor has read 3 °C below its threshold -/
  cool : Nat := 0
  hottest : Nat := 0
  sensors : SMap Sensor := []
  dies : SMap DieTherm := []
  requests : Nat := 0
  enforcements : Nat := 0
  brokenCount : Nat := 0
  disagree : Nat := 0
  ctl : ThmCtl := {}
  commit : Commit := {}
  tripPin : Bool := false
deriving DecidableEq, Repr

end Sys2Proof.Machine
end

