-- ==== Sys2Proof/Machine/StateTime.lean ====
section
/-! DEFINITION. The state of the timebase (R427 to R442). -/

namespace Sys2Proof.Machine

open Sys2Proof

/-- States of the timebase (R436). -/
inductive TimeSt where
  | acquiring
  | locked
  | holdover
  | freerun
deriving DecidableEq, Repr

/-- The staged fields of TIME in force (R442). TIME.SET acts as it is committed. -/
structure TimeCtl where
  primary : Nat := 0
  backup : Nat := 0
  backupEnable : Bool := false
  usePps : Bool := false
  useRef : Bool := false
  setSec : Nat := 0
  limitMin : Nat := 240
  ppsDelay : Nat := 0
deriving DecidableEq, Repr

/-- An exchange under way at a child (R433): the sequence of its SYNC, whether a timed frame was retransmitted, and its stamps. -/
structure Exchange where
  seq : Nat := 0
  bad : Bool := false
  t1 : Option HallTime := none
  t2 : Option HallTime := none
  t3 : Option HallTime := none
  reqSeq : Nat := 0
deriving DecidableEq, Repr

/-- Hall time and its discipline. -/
structure TimeBase where
  hall : HallTime := {}
  /-- fifths of 2^-16 ns left over by the 6.4 ns tick -/
  fifths : Nat := 0
  /-- what a slew still has to take away, in 2^-16 ns -/
  slew : Int := 0
  st : TimeSt := .acquiring
  /-- TIME.STATUS.upstream_hold -/
  hold : Bool := false
  ctl : TimeCtl := {}
  commit : Commit := {}
  backupActive : Bool := false
  selfRef : Bool := false
  ppsOk : Bool := false
  refOk : Bool := false
  /-- consecutive good seconds of each input, and whether it was lost since it last qualified -/
  ppsRun : Nat := 0
  refRun : Nat := 0
  ppsLost : Bool := false
  refLost : Bool := false
  hops : Nat := 0
  parent : Option Nat := none
  /-- what a read of NOW_S latched -/
  latchNs : Nat := 0
  latchFrac : Nat := 0
  offsetPs : Int := 0
  delayPs : Nat := 0
  steps : Nat := 0
  skipped : Nat := 0
  lastStep : Int := 0
  /-- the step log (R440): hall time in ns after each step, and its amount -/
  stepLog : List (Nat × Int) := []
  /-- offset in 2^-16 ns to be stepped away at the next second boundary -/
  stepDue : Option Int := none
  /-- highest label pulsed since cold reset, pulses emitted, high time of the last in microseconds (R437, R439) -/
  pulsed : Option Nat := none
  pulses : Nat := 0
  pulseUs : Nat := 0
  /-- exchanges: the one under way, sequence numbers sent, offsets since discipline returned, consecutive good ones -/
  ex : Exchange := {}
  syncSeq : Nat := 0
  reqSeq : Nat := 0
  offsets : List Int := []
  corrected : Bool := false
  goodRun : Nat := 0
deriving DecidableEq, Repr

end Sys2Proof.Machine
end

