-- ==== Sys2Proof/Machine/State.lean ====
section
/-! DEFINITION. The state of the device, its faults and refusals, and the state after reset. -/

namespace Sys2Proof.Machine

open Sys2Proof

/-- Why the machine stops. -/
inductive Fault where
  /-- Raised by WARM_RST_N held low for at least 0.9 and less than 1.0 us, which R550 forbids and gives no effect (safe). -/
  | warmResetForbidden
deriving DecidableEq, Repr

/-- Why a command has no meaning here. -/
inductive Refusal where
  /-- Raised by the dispatch for a command that is not modelled yet (safe). -/
  | notModelled (mnemonic : String)
deriving DecidableEq, Repr

/-- The whole device. -/
structure State where
  mem : Mem := {}
  tallies : SMap Tally := []
  eng : SMap Seq := []
  units : Units := {}
  log : EventLog := {}
  msix : Msix := {}
  hub : Hub := {}
  time : TimeBase := {}
  power : Power := {}
  thermal : Thermal := {}
  boot : Boot := {}
  fab : Fab := {}
  remote : Remote := {}
  sett : Sett := {}
  load : Load := {}
  run : Run := {}
  epoch : Epoch := {}
  /-- effective capability (R11): tier 0 to 3, frozen weight -/
  tier : Nat := 0
  frozen : Bool := false
  licences : Nat := 0
  /-- the model's own counter behind free values (not the spec's) -/
  free : Nat := 0
  /-- the commands that are waiting, first in first out -/
  pending : List Instr := []
deriving DecidableEq, Repr

/-- The device right after reset. -/
def State.reset : State := {}

end Sys2Proof.Machine
end

