-- ==== Sys2Proof/Machine/Ops.lean ====
section
/-! DEFINITION. The operations every meaning is built of: time, the event log, interrupts, memories, tallies, engines' errors and address checks. -/

namespace Sys2Proof.Machine

open Sys2Proof

/-- The outcome of a command. -/
abbrev Out := Host.Outcome State Fault Refusal

/-! ### Time and free values -/

/-- A hall time in nanoseconds. -/
def hallNs (t : HallTime) : Nat := 1000000000 * t.sec + t.ns

/-- Hall time now, in nanoseconds. -/
def nowNs (s : State) : Nat := hallNs s.time.hall

/-- A hall time `d` nanoseconds after another. -/
def hallPlus (t : HallTime) (d : Nat) : HallTime :=
  { sec := t.sec + (t.ns + d) / 1000000000, ns := (t.ns + d) % 1000000000, frac := t.frac }

/-- The next free value: nothing constrains it (log entry 3). -/
def freeWord (s : State) : Word64 := Config.freeWord s.free

/-- Step past a free value. -/
def useFree (s : State) : State := { s with free := s.free + 1 }

/-- `n` bytes of free values, eight from each (log entry 3). -/
def freeBytes : Nat → State → List Byte × State
  | 0, s => ([], s)
  | n + 1, s =>
    let r := freeBytes n (useFree s)
    (leBytes 8 (freeWord s).toNat ++ r.1, r.2)

/-- Apply a function on states for each element of a list. -/
def forEach {α : Type} (l : List α) (f : α → State → State) (s : State) : State :=
  l.foldl (fun s a => f a s) s

/-! ### MSI-X (R522) and host output (R535) -/

/-- Send a vector now: nothing with MSI-X off, a pending bit while masked, else a message. -/
def msixNow (v : Nat) (s : State) : State :=
  let e := (SMap.get Msix.entry0 s.msix.table v).toNat
  if !s.msix.enabled then s
  else if s.msix.maskAll || bit e 96 then
    { s with msix := { s.msix with pendingBits := insertNat v s.msix.pendingBits } }
  else
    { s with msix := { s.msix with sent := s.msix.sent ++ [{ vector := v, addr := bits e 0 64, data := bits e 64 32 }] } }

/-- Raise a vector: it waits while the host link is not in L0 (R535). -/
def msixSend (v : Nat) (s : State) : State :=
  if s.hub.l0 then msixNow v s
  else { s with hub := { s.hub with out := s.hub.out ++ [.msix v] } }

/-! ### The event log (R537 to R539) -/

/-- Pack fields of given sizes, each aligned to its size (R537). -/
def packFields (fs : List (Nat × Nat)) : List Byte :=
  fs.foldl (fun acc f =>
    acc ++ List.replicate (alignUp acc.length f.1 - acc.length) 0 ++ leBytes f.1 f.2) []

/-- Bit [30] of an entry's nanosecond word: the device was not LOCKED without the hold flag (R537). -/
def timeHeld (s : State) : Bool := !(decide (s.time.st = .locked) && !s.time.hold)

/-- Record one entry: the oldest is overwritten when the log is full, and counts where the host had not acknowledged it (R538). -/
def logEntry (code src : Nat) (cont : Bool) (data : List Byte) (s : State) : State :=
  let l := s.log
  let i := l.next % 8192
  let old := SMap.get {} l.entries i
  let lost := decide (old.code ≠ 0) && decide ((old.sequence + 2 ^ 32 - l.acked) % 2 ^ 32 < 2 ^ 31)
  let e : LogEntry :=
    { sequence := l.next, code := code, source := src, seconds := s.time.hall.sec % 2 ^ 32
      ns := s.time.hall.ns + b2n (timeHeld s) * 2 ^ 30 + 2 ^ 31 * b2n cont
      data := slice data 0 16 }
  { s with log := { l with
      next := (l.next + 1) % 2 ^ 32
      overwritten := if lost then satAdd 32 l.overwritten 1 else l.overwritten
      entries := SMap.set {} l.entries i e } }

/-- Send the log vector when the threshold is reached, once (R539). -/
def logVector (s : State) : State :=
  let l := s.log
  if l.armed && decide (l.threshold ≠ 0) && decide (l.threshold ≤ (l.next + 2 ^ 32 - l.acked) % 2 ^ 32) then
    msixSend s.hub.vLog { s with log := { l with armed := false } }
  else s

/-- The continuation entries of an event's data beyond 16 bytes, 16 bytes each (R537). -/
def logRest (code src : Nat) : Nat → List Byte → State → State
  | 0, _, s => s
  | f + 1, rest, s =>
    if rest.isEmpty then s
    else
      let s := logVector (logEntry code src (decide (16 < rest.length)) rest s)
      logRest code src f (rest.drop 16) s

/-- Record an event with its fields as (size, value) pairs (R537). -/
def logEvent (code src : Nat) (fs : List (Nat × Nat)) (s : State) : State :=
  let d := packFields fs
  let s := logVector (logEntry code src (decide (16 < d.length)) (d.take 16) s)
  logRest code src d.length (d.drop 16) s

/-- Record an event at most once a phase for a key. -/
def logOncePhase (code key src : Nat) (fs : List (Nat × Nat)) (s : State) : State :=
  if s.log.phaseMarks.contains (code, key) then s
  else logEvent code src fs { s with log := { s.log with phaseMarks := (code, key) :: s.log.phaseMarks } }

/-- Record an event at most once in `period` nanoseconds for a key. -/
def logEvery (code key period src : Nat) (fs : List (Nat × Nat)) (s : State) : State :=
  let t := nowNs s
  if s.log.lastAt.any (fun m => m.1 == code && m.2.1 == key && decide (m.2.2 ≤ t) && decide (t < m.2.2 + period)) then s
  else
    let keep := s.log.lastAt.filter (fun m => !(m.1 == code && m.2.1 == key))
    logEvent code src fs { s with log := { s.log with lastAt := (code, key, t) :: keep } }

/-- Sources of log entries (R537). -/
def srcHost : Nat := 0x7000
/-- The device as a whole (R537). -/
def srcDevice : Nat := 0xFFFF

/-! ### Engines (R63) -/

/-- The class of an engine ID. -/
def engClass (e : Nat) : Nat := bits e 12 4
/-- The die (or tile) of an engine ID. -/
def engDie (e : Nat) : Nat := bits e 8 4
/-- The unit of an engine ID. -/
def engUnit (e : Nat) : Nat := bits e 0 8
/-- An engine ID. -/
def engId (cls die unit : Nat) : Nat := 4096 * cls + die * 256 + unit

/-- Units of each class on a die (R22, R63). -/
def unitsOf (cls : Nat) : Nat :=
  match cls with
  | 0 => 16 | 1 => 4 | 2 => 32 | 3 => 8 | 4 => 1 | 5 => 1 | _ => 0

/-- An engine ID of classes 0 to 5 that names a unit of the device (R63). -/
def engValid (e : Nat) : Bool :=
  decide (engClass e < 6) && decide (engDie e < 8) && decide (engUnit e < unitsOf (engClass e))

/-- The sequencer of an engine. -/
def seqOf (s : State) (e : Nat) : Seq := SMap.get {} s.eng e
/-- Write the sequencer of an engine. -/
def setSeq (e : Nat) (q : Seq) (s : State) : State := { s with eng := SMap.set {} s.eng e q }
/-- Change the sequencer of an engine. -/
def modSeq (e : Nat) (f : Seq → Seq) (s : State) : State := setSeq e (f (seqOf s e)) s
/-- A fox core. -/
def foxOf (s : State) (e : Nat) : Fox := SMap.get {} s.units.fox e
/-- Change a fox core. -/
def modFox (e : Nat) (f : Fox → Fox) (s : State) : State :=
  { s with units := { s.units with fox := SMap.modify {} s.units.fox e f } }

/-- Write a general register of a fox core: x0 discards the write. -/
def setX (e r : Nat) (v : Word64) (s : State) : State :=
  if r % 32 = 0 then s else modFox e (fun c => { c with x := SMap.set 0 c.x (r % 32) v }) s

/-- Read a general register of a fox core: x0 reads zero. -/
def getX (s : State) (e r : Nat) : Word64 :=
  if r % 32 = 0 then 0 else SMap.get 0 (foxOf s e).x (r % 32)

/-- The staging slots a hare holds open are cancelled as its program ends (R252): those with staged lines count as discarded. -/
def dropSlots (e : Nat) (s : State) : State :=
  let mine := fun (g : StgSlot) => g.opened && g.owner == e
  let n := (s.units.stg.filter (fun g => mine g.2 && !g.2.staged.isEmpty)).length
  { s with units := { s.units with
    stg := SMap.mapVals {} s.units.stg (fun _ g => if mine g then { ({} : StgSlot) with gen := g.gen + 1 } else g)
    str := SMap.modify {} s.units.str (engDie e) (fun d => { d with discards := satAdd 64 d.discards n }) } }

/-- An engine whose END has issued ends once all it issued is complete and its adds are applied (R90, R91). -/
def settle (e : Nat) (s : State) : State :=
  let q := seqOf s e
  if q.ending && q.opens.isEmpty && q.signals.isEmpty && decide (q.st ≠ .faulted) then
    let s := setSeq e { q with st := .ended, ending := false } s
    if engClass e = 3 then dropSlots e s else s
  else s

/-- Issue an instruction that completes later: it takes the next issue number. -/
def issueOpen (e : Nat) (s : State) : State :=
  modSeq e (fun q => { q with issued := q.issued + 1, opens := q.opens ++ [q.issued] }) s

/-- An issued instruction is complete. -/
def completeOp (e i : Nat) (s : State) : State :=
  settle e (modSeq e (fun q => { q with opens := q.opens.filter (· != i) }) s)

/-! ### Tallies (R402 to R405) -/

/-- A tally. -/
def tallyOf (s : State) (i : Nat) : Tally := SMap.get {} s.tallies i
/-- Write a tally. -/
def setTally (i : Nat) (t : Tally) (s : State) : State := { s with tallies := SMap.set {} s.tallies i t }

/-- Engines that wait on a tally (R402). -/
def tallyWaiters (s : State) (i : Nat) : Nat :=
  (s.eng.filter (fun p => match p.2.wait with
    | some w => w.tally == i
    | none => false)).length

/-- The release of one engine waiting on a tally whose target is met or whose error bit is set (R404, R91, R171). -/
def releaseOne (i : Nat) (t : Tally) (e : Nat) (s : State) : State :=
  let q := seqOf s e
  match q.wait with
  | some w =>
    if w.tally = i ∧ (w.target ≤ t.count ∨ t.error = true) then
      let q := { q with
        wait := none, st := .running, pc := q.pc + (if engClass e = 2 then 4 else 1), ending := q.ending || (t.error && w.errEnd) }
      let s := settle e (setSeq e q s)
      match w.rd with
      | some r => setX e r (if t.error then 1 else 0) s
      | none => s
    else s
  | none => s

/-- The notifications of a tally that are due send their vector once (R533). -/
def notifyTally (i : Nat) (t : Tally) (s : State) : State :=
  let due := s.hub.notifies.filter (fun n => n.tally == i && (decide (n.target ≤ t.count) || t.error))
  let left := s.hub.notifies.filter (fun n => !(n.tally == i && (decide (n.target ≤ t.count) || t.error)))
  forEach due (fun n s => msixSend n.vector s) { s with hub := { s.hub with notifies := left } }

/-- After every change of a tally: waiters are released, yields on it end, notifications are sent (R404, R178, R533). -/
def tallyChanged (i : Nat) (s : State) : State :=
  let t := tallyOf s i
  let s := forEach (s.eng.map (·.1)) (releaseOne i t) s
  let s := { s with units := { s.units with fox := SMap.mapVals {} s.units.fox (fun _ c =>
    if c.yielding && c.lastTally == some i then { c with yielding := false } else c) } }
  notifyTally i t s

/-- Set a tally's error bit; the code and engine of the first failure stay (R402, R404). -/
def tallyError (i code eng : Nat) (s : State) : State :=
  let t := tallyOf s i
  let t' := if t.error then t else { t with error := true, errCode := code, errEngine := eng }
  tallyChanged i (setTally i t' s)

/-- Add to a tally, saturating (R403, R405); `signal` counts it as a signal operation. -/
def tallyAdd (i n eng : Nat) (s : State) : State :=
  let t := tallyOf s i
  if t.count + n < 2 ^ 64 then
    tallyChanged i (setTally i { t with count := t.count + n, signals := (t.signals + 1) % 2 ^ 64 } s)
  else
    let s := setTally i { t with count := 2 ^ 64 - 1, signals := (t.signals + 1) % 2 ^ 64 } s
    let s := logOncePhase 0x9050 i eng [(4, i), (2, eng)] s
    tallyError i 0x9050 eng s

/-- The set operation (R403). -/
def tallySet (i v : Nat) (s : State) : State :=
  tallyChanged i (setTally i { tallyOf s i with count := v, error := false, errCode := 0, errEngine := 0xFFFF, signals := 0 } s)

/-- A tally a plan engine, the host or a peer may change: allocated and below the firmware's (R403). -/
def tallyOpen (s : State) (i : Nat) : Bool := decide (i < 65280) && (tallyOf s i).allocated

/-- The error bit of the engine's error tally (R91, R402). -/
def engineError (e code : Nat) (s : State) : State := tallyError (seqOf s e).errTally code e s

/-! ### Addresses (R32 to R36, R560) -/

/-- A hall address taken apart (R32). -/
structure HAddr where
  form : Nat
  dev : Nat
  space : Nat
  off : Nat
deriving DecidableEq, Repr

/-- The fields of a hall address. -/
def hallAddr (a : Word64) : HAddr :=
  { form := fld a 62 2, dev := fld a 47 15, space := fld a 44 3, off := fld a 0 44 }

/-- A hall-form address. -/
def mkHall (dev space off : Nat) : Word64 :=
  BitVec.ofNat 64 (2 ^ 62 + 2 ^ 47 * dev + 2 ^ 44 * space + off)

/-- The size of a space in bytes (R33). -/
def spaceSize (s : State) (sp : Nat) : Nat :=
  match sp with
  | 0 => 2 ^ 35
  | 1 => 2 ^ 40
  | 2 => 2 ^ 29
  | 3 => 2 ^ 21
  | 4 => 2 ^ 26
  | 5 => match s.run.plan with
    | some p => match p.epoch with
      | some e => e.hoardSize
      | none => 0
    | none => match s.hub.lease with
      | some l => l.size
      | none => 0
  | 6 => 2 ^ 44
  | _ => 0

/-- The per-device sections of a plan for a logical device (R45). -/
def Plan.sections (p : Plan) (d : Nat) : DevSections :=
  match p.devs.find? (fun x => x.1 == d) with
  | some x => x.2
  | none => match p.devs.find? (fun x => x.1 == 0xFFFF) with
    | some x => x.2
    | none => {}

/-- The sections this device runs: none for a spare. -/
def mySections (s : State) : DevSections :=
  match s.run.plan, s.run.me with
  | some p, some d => p.sections d
  | _, _ => {}

/-- A phase record of the plan. -/
def phaseOf (s : State) (i : Nat) : Phase :=
  match s.run.plan with
  | some p => p.phases.getD i {}
  | none => {}

/-- The roster in force. -/
def roster (s : State) : SMap RosterEntry := s.fab.ctl.roster

/-- Whether a physical position is active. -/
def posActive (s : State) (p : Nat) : Bool := decide ((SMap.get {} (roster s) p).role = 1)

/-- Whether an intermediate position is usable: active or spare available (R336). -/
def posUsable (s : State) (p : Nat) : Bool :=
  let r := (SMap.get {} (roster s) p).role
  decide (r = 1 ∨ r = 2)

/-- The position of a logical device (R324, ROSTER_LOG). -/
def physOf (s : State) (d : Nat) : Option Nat :=
  ((roster s).find? (fun e => decide (e.2.role = 1) && e.2.logical == d)).map (·.1)

/-- This device's logical number: the plan's, or the roster's, or its position's. -/
def myLogical (s : State) : Nat :=
  match s.run.me with
  | some d => d
  | none =>
    let e := SMap.get {} (roster s) s.fab.position
    if e.role = 1 then e.logical else s.fab.position

/-- An address that names another device (R35). -/
def isRemote (s : State) (h : HAddr) : Bool := decide (h.form = 1) && decide (h.dev ≠ myLogical s)

/-- A span of HBM kept for hoard and keep, by plan or lease (R195, R409, R532). -/
def hoardSpans (s : State) : List (Nat × Nat) :=
  (match s.run.plan with
    | some p => match p.epoch with
      | some e => [(e.hoardBase, e.hoardSize + e.hoardSize / 2)]
      | none => []
    | none => []) ++
  (match s.hub.lease with
    | some l => [(l.base, l.size + l.size / 2)]
    | none => [])

/-- Two byte ranges (base, size) that share a byte. -/
def overlaps (a b : Nat × Nat) : Bool := decide (a.1 < b.1 + b.2) && decide (b.1 < a.1 + a.2)

/-- Whether the holdings of the phase in force let an engine reach an SP range (R26, R66, R189). -/
def holdOk (s : State) (e off len : Nat) (write : Bool) : Bool :=
  if s.run.st ≠ .run then true
  else if len = 0 then true
  else
    let hs := (mySections s).holds.filter (fun h =>
      decide (h.first ≤ s.run.phase) && decide (s.run.phase ≤ h.last) && h.owners.contains e && !(write && h.shared))
    let b0 := off / 2 ^ 23
    let b1 := (off + len - 1) / 2 ^ 23
    (List.range (b1 - b0 + 1)).all (fun i =>
      hs.any (fun h => decide (h.bank ≤ b0 + i) && decide (b0 + i < h.bank + h.count)))

/-- Whether a range touches a line of an open staging slot (R248). -/
def stagedRange (s : State) (off len : Nat) : Bool :=
  s.units.stg.any (fun e => e.2.opened && overlaps (e.2.base, e.2.bytes) (off, len))

/-- The first of the checks of R560 that an access of `len` bytes with base alignment `align` fails, by its number 1 to 5:
`may` says whether the issuer may reach the space. A write to an open staging slot's line fails with the holdings (R248). -/
def accessStage (s : State) (e : Nat) (a : Word64) (len align : Nat) (write may : Bool) : Option Nat :=
  let h := hallAddr a
  if h.form ≥ 2 ∨ h.space = 7 then some 1
  else if isRemote s h && (physOf s h.dev).isNone then some 2
  else if !may then some 3
  else if h.space = 6 ∧ h.form = 1 then some 3
  else if decide (h.space = 1) && !isRemote s h && (hoardSpans s).any (overlaps (h.off, len)) then some 3
  else if (!isRemote s h || decide (h.space ≠ 5)) && decide (spaceSize s h.space < h.off + len) then some 4
  else if align ≠ 0 ∧ h.off % align ≠ 0 then some 4
  else if decide (h.space = 0) && !isRemote s h && (!holdOk s e h.off len write || (write && stagedRange s h.off len)) then some 5
  else none

/-- The event code of a check of R560. -/
def stageCode (n : Nat) : Nat := if n = 1 then 0x9001 else if n = 2 then 0x9004 else if n = 4 then 0x9002 else 0x9003

/-- The checks of R560 on one access: the event code of the first that fails. -/
def checkAccess (s : State) (e : Nat) (a : Word64) (len align : Nat) (write may : Bool) : Option Nat :=
  (accessStage s e a len align write may).map stageCode

/-- A refused access is recorded with the issuing engine and the address, and sets the error bit (R36). Ingress of classes 6 and 7 runs no
program and has no error tally (DEDUCED, log entry 38). -/
def addrFault (code e : Nat) (a : Word64) (s : State) : State :=
  let s := logEvent code e [(2, e), (8, a.toNat)] s
  if engClass e < 6 then engineError e code s else s

/-- The value a refused load returns (R36). -/
def bad0 : Word64 := 0xBAD0BAD0BAD0BAD0

/-! ### Memories -/

/-- The bytes of a store. -/
def storeOf (s : State) (st : Store) : Memory :=
  match st with
  | .sp => s.mem.sp
  | .hbm => s.mem.hbm
  | .cs => s.mem.cs

/-- The poisoned lines of a store. -/
def poisonOf (s : State) (st : Store) : List Nat :=
  match st with
  | .sp => s.mem.spPoison
  | .hbm => s.mem.hbmPoison
  | .cs => s.mem.csPoison

/-- Replace the bytes of a store. -/
def setStore (st : Store) (m : Memory) (s : State) : State :=
  match st with
  | .sp => { s with mem := { s.mem with sp := m } }
  | .hbm => { s with mem := { s.mem with hbm := m } }
  | .cs => { s with mem := { s.mem with cs := m } }

/-- Replace the poisoned lines of a store. -/
def setPoison (st : Store) (l : List Nat) (s : State) : State :=
  match st with
  | .sp => { s with mem := { s.mem with spPoison := l } }
  | .hbm => { s with mem := { s.mem with hbmPoison := l } }
  | .cs => { s with mem := { s.mem with csPoison := l } }

/-- One byte of a memory: a byte nothing has written reads zero. -/
def Memory.read (m : Memory) (a : Nat) : Byte := SMap.get 0 m a

/-- Write one byte, keeping the canonical form. -/
def Memory.write (m : Memory) (a : Nat) (b : Byte) : Memory := SMap.set 0 m a b

/-- Whether a memory is in canonical form. -/
def Memory.wf (m : Memory) : Bool := SMap.wf (0 : Byte) m

/-- `n` bytes from an address. -/
def Memory.bytes (m : Memory) (a : Nat) : Nat → List Byte
  | 0 => []
  | n + 1 => m.read a :: Memory.bytes m (a + 1) n

/-- Write bytes from an address. -/
def Memory.writeBytes (m : Memory) (a : Nat) : List Byte → Memory
  | [] => m
  | b :: bs => Memory.writeBytes (m.write a b) (a + 1) bs

/-- Bytes of a store. -/
def readStore (s : State) (st : Store) (a n : Nat) : List Byte := (storeOf s st).bytes a n

/-- The 64-byte lines a range touches. -/
def linesOf (a n : Nat) : List Nat :=
  if n = 0 then [] else (List.range ((a + n - 1) / 64 - a / 64 + 1)).map (· + a / 64)

/-- The lines a range covers whole. -/
def wholeLines (a n : Nat) : List Nat :=
  (linesOf a n).filter (fun l => decide (a ≤ l * 64) && decide (l * 64 + 64 ≤ a + n))

/-- Whether a range touches a poisoned line (R210). -/
def poisoned (s : State) (st : Store) (a n : Nat) : Bool :=
  (linesOf a n).any (fun l => (poisonOf s st).contains l)

/-- Write clean bytes: a line written whole loses its poison (R557). -/
def writeStore (st : Store) (a : Nat) (d : List Byte) (s : State) : State :=
  let w := wholeLines a d.length
  setPoison st ((poisonOf s st).filter (fun l => !w.contains l)) (setStore st ((storeOf s st).writeBytes a d) s)

/-- Set the poison bit of lines. -/
def poisonLines (st : Store) (ls : List Nat) (s : State) : State :=
  setPoison st (ls.foldl (fun acc l => insertNat l acc) (poisonOf s st)) s

/-- Write poisoned bytes: the data is written and every line touched is poisoned (R557). -/
def writePoisoned (st : Store) (a : Nat) (d : List Byte) (s : State) : State :=
  poisonLines st (linesOf a d.length) (setStore st ((storeOf s st).writeBytes a d) s)

/-- The event code of an uncorrectable error of a store (R212). -/
def fatalCode (st : Store) : Nat :=
  match st with
  | .sp => 0x9011
  | .cs => 0x9013
  | .hbm => 0x9015

/-- The store of a space, if it is one of the three byte stores. -/
def spaceStore (sp : Nat) : Option Store :=
  match sp with
  | 0 => some .sp
  | 1 => some .hbm
  | 2 => some .cs
  | _ => none

/-- The space of a store. -/
def storeSpace (st : Store) : Nat :=
  match st with
  | .sp => 0
  | .hbm => 1
  | .cs => 2

/-- Write host memory: it waits while the link is not in L0 (R535). -/
def hostWrite (a : Nat) (d : List Byte) (s : State) : State :=
  if s.hub.l0 then { s with mem := { s.mem with host := s.mem.host.writeBytes a d } }
  else { s with hub := { s.hub with out := s.hub.out ++ [.write a d] } }

/-! ### Completions of queued commands (R524, R526) -/

/-- A queue pair. -/
def queueOf (s : State) (q : Nat) : Queue := SMap.get {} s.hub.queues q
/-- Change a queue pair. -/
def modQueue (q : Nat) (f : Queue → Queue) (s : State) : State :=
  { s with hub := { s.hub with queues := SMap.modify {} s.hub.queues q f } }
/-- The completion vector of a queue: its own number at reset (R524). -/
def queueVector (s : State) (q : Nat) : Nat := ((queueOf s q).vector).getD q

/-- Write a completion entry: only if the queue is enabled, and held while the ring is full (R524). -/
def writeEntry (q id status detail : Nat) (s : State) : State :=
  let k := queueOf s q
  if !k.enable then modQueue q (fun k => { k with busy := none, held := none }) s
  else if (k.cqTail + 1) % (k.cqSize + 1) = k.cqHead then
    modQueue q (fun k => { k with held := some (id, status, detail) }) s
  else
    let e := leBytes 2 id ++ leBytes 2 k.sqHead ++ leBytes 1 status ++ leBytes 1 (b2n k.phase) ++ leBytes 2 0 ++ leBytes 8 detail
    let tail := (k.cqTail + 1) % (k.cqSize + 1)
    let s := hostWrite (k.cqBase + k.cqTail * 16) e s
    let s := modQueue q (fun k => { k with
      busy := none, held := none, cqTail := tail, phase := if tail = 0 then !k.phase else k.phase }) s
    msixSend (queueVector s q) s

/-- Complete a command: it counts, and its entry is written (R521, R524). -/
def postCompletion (q id status : Nat) (detail : Nat) (s : State) : State :=
  writeEntry q id status detail { s with hub := { s.hub with
    cmdCompleted := satAdd 32 s.hub.cmdCompleted 1
    cmdInvalid := if status = 3 then satAdd 32 s.hub.cmdInvalid 1 else s.hub.cmdInvalid } }

/-- Complete a waiting command. -/
def finishWaiter (w : Waiter) (status detail : Nat) (s : State) : State :=
  postCompletion w.queue w.cmdId status detail s

/-! ### Plan status (R404, R531) -/

/-- Allocated tallies with the error bit set: how many, and the lowest (R404). -/
def errSummary (s : State) : Nat × Nat :=
  let l := s.tallies.filter (fun p => p.2.allocated && p.2.error)
  (l.length, match l with
    | [] => 0xFFFF
    | p :: _ => p.1)

/-- The code of HUB.PLAN_STATE.state (R521). -/
def PlanSt.code : PlanSt → Nat
  | .none => 0
  | .loading => 1
  | .hold => 2
  | .run => 3
  | .suspended => 4
  | .waiting => 5
  | .ended => 6

/-- The plan_id of HUB.PLAN_ID: the plan loaded, being loaded, or last ended. -/
def planId (s : State) : Nat :=
  match s.run.plan with
  | some p => p.planId.toNat
  | none => match s.load.plan with
    | some p => p.planId.toNat
    | none => s.run.lastId

/-- The 64 bytes of a plan status record (R531). -/
def statusRecord (s : State) (sequence : Nat) : List Byte :=
  let (n, low) := errSummary s
  leBytes 8 (planId s) ++ leBytes 1 s.run.st.code ++ leBytes 1 s.run.completion ++ leBytes 2 0 ++
  leBytes 4 s.run.phase ++ leBytes 4 n ++ leBytes 2 low ++ leBytes 2 0 ++ leBytes 8 s.epoch.commit ++
  leBytes 4 s.epoch.rollbacks ++ leBytes 2 s.epoch.takeovers ++ leBytes 2 0 ++ leBytes 8 s.time.hall.sec ++
  leBytes 4 s.time.hall.ns ++ leBytes 8 0 ++ leBytes 4 sequence

/-- Write the next record of the status ring and send the plan vector (R531). -/
def postStatus (s : State) : State :=
  let n := s.hub.statusSeq + 1
  let s := { s with hub := { s.hub with statusSeq := n } }
  msixSend s.hub.planVector (hostWrite (s.hub.statusRing + (n - 1) % 16 * 64) (statusRecord s n) s)

end Sys2Proof.Machine
end

