-- ==== Sys2Proof/Machine/Route.lean ====
section
/-! DEFINITION. Positions, lanes and next hops; sending packets, messages and multicast copies; request slots; raising an epoch fault. -/

namespace Sys2Proof.Machine

open Sys2Proof

/-! ### Positions (R46, R53, R321) -/

/-- The row of a position. -/
def posRow (p : Nat) : Nat := p / 1024
/-- The rack of a position. -/
def posRack (p : Nat) : Nat := p / 32 % 32
/-- The slot of a position. -/
def posSlot (p : Nat) : Nat := p % 32
/-- A position. -/
def mkPos (row rack slot : Nat) : Nat := 1024 * row + rack * 32 + slot

/-- The tier of a port (R53): 0 rack, 1 row, 2 hall. -/
def portTier (n : Nat) : Nat := if n < 16 then 0 else if n < 28 then 1 else 2
/-- The lowest port of a tier and the number of its planes (R321). -/
def tierBase (t : Nat) : Nat := if t = 0 then 0 else if t = 1 then 16 else 28
/-- The planes of a tier. -/
def tierPlanes (t : Nat) : Nat := if t = 0 then 16 else if t = 1 then 12 else 4
/-- The coordinate of a position in a tier. -/
def tierCoord (t p : Nat) : Nat := if t = 0 then posSlot p else if t = 1 then posRack p else posRow p
/-- A position with its coordinate in a tier replaced. -/
def withCoord (t p c : Nat) : Nat :=
  if t = 0 then mkPos (posRow p) (posRack p) c
  else if t = 1 then mkPos (posRow p) c (posSlot p)
  else mkPos c (posRack p) (posSlot p)
/-- Two positions of one tier group that differ in the tier's coordinate (R53). -/
def sameGroup (t p q : Nat) : Bool := decide (withCoord t p (tierCoord t q) = q) && decide (p ≠ q)
/-- The line from one position to another in a tier (R35, R292). -/
def lineTo (t p q : Nat) : Nat := (tierCoord t q + 32 - tierCoord t p) % 32

/-! ### Lanes -/

/-- The key of a lane's window: its port and transmit line. -/
def laneKey (port line : Nat) : Nat := port * 32 + line
/-- A lane. -/
def laneOf (s : State) (k : Nat) : Lane := SMap.get {} s.fab.lanes k
/-- Change a lane. -/
def modLane (k : Nat) (f : Lane → Lane) (s : State) : State :=
  { s with fab := { s.fab with lanes := SMap.modify {} s.fab.lanes k f } }
/-- A port. -/
def portOf (s : State) (n : Nat) : Port := SMap.get {} s.fab.ports n
/-- Change a port. -/
def modPort (n : Nat) (f : Port → Port) (s : State) : State :=
  { s with fab := { s.fab with ports := SMap.modify {} s.fab.ports n f } }
/-- Whether a lane carries packets of a channel: UP, or MARKED and not VC3 (R310, R348). -/
def laneLive (l : Lane) (vc : Nat) : Bool :=
  decide (l.state = .up) || (decide (l.state = .marked) && decide (vc ≠ 3))
/-- Flits of a channel queued on a lane (R333). -/
def queuedFlits (l : Lane) (vc : Nat) : Nat :=
  ((l.queue.filter (fun p => p.vc == vc)).map (·.flits)).foldl (· + ·) 0
/-- The free credit of a lane in a channel (R333). -/
def freeCredit (l : Lane) (vc : Nat) : Int := (l.pools.getD vc 0 : Int) - (queuedFlits l vc : Int)

/-- The live lane to a position with the most free credit in a channel, the lowest port on a tie (R333). -/
def bestLane (s : State) (pos vc : Nat) : Option Nat :=
  (s.fab.lanes.foldl (fun (best : Option (Nat × Int)) e =>
    if laneLive e.2 vc && e.2.far == pos then
      match best with
      | some b => if b.2 < freeCredit e.2 vc then some (e.1, freeCredit e.2 vc) else best
      | none => some (e.1, freeCredit e.2 vc)
    else best) none).map (·.1)

/-! ### Lanes of a colour set, displaced lanes and partners (R53, R328, R339) -/

/-- The position of an active logical device in a roster. -/
def rosterPhys (ro : SMap RosterEntry) (d : Nat) : Option Nat :=
  (ro.find? (fun e => decide (e.2.role = 1) && e.2.logical == d)).map (·.1)

/-- The lanes a record makes, in logical terms: port, source, destination (R53). -/
def recordLanes (ro : SMap RosterEntry) (r : ColourRec) : List (Nat × Nat × Nat) :=
  if r.shiftKind then
    let t := portTier r.port
    ro.filterMap (fun e =>
      if e.2.role ≠ 1 then none
      else
        let a := e.2.logical
        let b := withCoord t a ((tierCoord t a + r.shift) % 32)
        if (rosterPhys ro b).isSome then some (r.port, a, b) else none)
  else [(r.port, r.src, r.dst)]

/-- The lanes of a colour set by physical position. -/
def physLanes (ro : SMap RosterEntry) (rs : List ColourRec) : List (Nat × Nat × Nat) :=
  ((rs.map (recordLanes ro)).flatten).filterMap (fun l =>
    match rosterPhys ro l.2.1, rosterPhys ro l.2.2 with
    | some a, some b => some (l.1, a, b)
    | _, _ => none)

/-- Whether two positions lie in one physical tier group of a port's tier. -/
def laneFits (l : Nat × Nat × Nat) : Bool := sameGroup (portTier l.1) l.2.1 l.2.2

/-- The records of a colour set of the plan. -/
def colourRecs (s : State) (c : Nat) : List ColourRec :=
  match s.run.plan with
  | some p => match p.colours.find? (fun x => x.1 == c) with
    | some x => x.2
    | none => []
  | none => []

/-- The hoard partner of a logical device (R60). -/
def partnerOf (d : Nat) : Nat := mkPos ((posRow d + 16) % 32) (posRack d) (posSlot d)

/-- The far ends of the partner lanes this device keeps. -/
def partnerFar (s : State) : List Nat :=
  let own := match s.run.plan, s.run.me with
    | some p, some d => match p.epoch with
      | none => []
      | some _ => match physOf s (partnerOf d) with
        | some q => [q]
        | none => if (p.sections d).shards.isEmpty then [] else [partnerOf d]
    | _, _ => []
  own ++ (match s.hub.lease with
    | some l => match l.served with
      | some q => [q]
      | none => []
    | none => [])

/-- Whether the set in force names a lane from this device to a position that is displaced: its ends share no tier group (R328). -/
def displacedTo (s : State) (pos : Nat) : Bool :=
  decide (s.fab.mode = 2) && (physLanes (roster s) (colourRecs s s.fab.colourSet)).any (fun l =>
    decide (l.2.1 = s.fab.position) && decide (l.2.2 = pos) && !laneFits l)

/-- Hoard mirror, restore and re-mirror data (R330, R414). -/
def isHoardData (ptype : Nat) : Bool := decide (ptype = 0x70 ∨ ptype = 0x71)

/-- The traffic of a partner lane: hoard data, its answers, and the VC3 messages of R410 (R339). -/
def partnerTraffic (p : Packet) : Bool :=
  isHoardData p.ptype || isHoardData p.answers || (decide (p.vc = 3) && decide (p.ptype < 0x96))

/-- Whether a packet's lane to its destination is displaced, so that it takes the detour (R328, R339, R346). -/
def packetDisplaced (s : State) (p : Packet) (dst : Nat) : Bool :=
  !p.detour && ((displacedTo s dst && decide (p.vc ≠ 3)) ||
    (partnerTraffic p && (partnerFar s).contains dst && !sameGroup 2 s.fab.position dst))

/-! ### Next hops -/

/-- The position a packet is for. -/
def destPos (s : State) (p : Packet) : Option Nat := if p.phys then some p.dest else physOf s p.dest

/-- The next position of the escape route, and whether it is the destination (R336). -/
def escapeNext (me dst : Nat) : Nat :=
  if posRow me ≠ posRow dst then mkPos (posRow dst) (posRack me) (posSlot me)
  else if posRack me ≠ posRack dst then mkPos (posRow dst) (posRack dst) (posSlot me)
  else dst

/-- The parent index in a tree of one tier group (R350). -/
def treeParent (planes i : Nat) : Nat := (i - 1) / (planes - 1)

/-- The ancestors of a node of a tree of one tier group, itself first. -/
def treeAncestors (planes : Nat) : Nat → Nat → List Nat
  | 0, i => [i]
  | f + 1, i => if i = 0 then [0] else i :: treeAncestors planes f (treeParent planes i)

/-- The next node on the tree path from one index to another: down towards it, or up to the parent (R351). -/
def treeStep (planes a b : Nat) : Nat :=
  match (treeAncestors planes 4 b).find? (fun x => decide (x ≠ 0) && decide (x ≠ a) && decide (treeParent planes x = a)) with
  | some x => if a ∈ treeAncestors planes 4 b then x else treeParent planes a
  | none => treeParent planes a

/-- The next position in a tier's tree from a position towards a coordinate (R350, R351). -/
def treeHop (root t me coord : Nat) : Nat :=
  let c := tierCoord t root
  let a := (tierCoord t me + 32 - c) % 32
  let b := (coord + 32 - c) % 32
  withCoord t me ((treeStep (tierPlanes t) a b + c) % 32)

/-- The tier in which the tree route goes on from a position, and the coordinate it makes for there (R351). -/
def treeLeg (root me dst : Nat) : Nat × Nat :=
  if posRow me = posRow dst ∧ posRack me = posRack dst then (0, posSlot dst)
  else if posSlot me ≠ posSlot root then (0, posSlot root)
  else if posRow me = posRow dst then (1, posRack dst)
  else if posRack me ≠ posRack root then (1, posRack root)
  else (2, posRow dst)

/-- The next position of the tree route (R351). -/
def treeNext (root me dst : Nat) : Nat :=
  treeHop root (treeLeg root me dst).1 me (treeLeg root me dst).2

/-- The adopted lane that takes the place of a tree hop (R352): down to the orphan under whose index the destination hangs, or up from an
orphan whose parent is out. -/
def adoptedHop (s : State) (dst vc : Nat) : Option Nat :=
  let root := s.fab.root
  let me := s.fab.position
  let t := (treeLeg root me dst).1
  let idx := fun (c : Nat) => (c + 32 - tierCoord t root) % 32
  let under := treeAncestors (tierPlanes t) 4 (idx (treeLeg root me dst).2)
  let live := fun (k : Nat) => decide (portTier (k / 32) = t) && laneLive (laneOf s k) vc
  match s.fab.adoptees.find? (fun k => live k && under.contains (idx (tierCoord t (laneOf s k).far))) with
  | some k => some k
  | none => if under.contains (idx (tierCoord t me)) then none else s.fab.adopted.find? live

/-- The lane of the tree route (R351, R352): an adopted lane, the tree lane, or while the root changes the lane of the old tree (R349). -/
def treeLane (s : State) (dst vc : Nat) : Option Nat :=
  let me := s.fab.position
  match adoptedHop s dst vc, bestLane s (treeNext s.fab.root me dst) vc with
  | some k, _ => some k
  | none, some k => some k
  | none, none => if s.fab.oldTree.isEmpty then none else bestLane s (treeNext s.fab.oldRoot me dst) vc

/-- The plane of a child's uplink (R350): number j of the tier's planes with the parent's own uplink left out. -/
def treeUplink (planes : Nat) : Nat → Nat → Nat
  | 0, _ => 0
  | f + 1, i =>
    let par := treeParent planes i
    let j := (i - 1) % (planes - 1)
    if par = 0 then j
    else
      let u := treeUplink planes f par
      if j < u then j else j + 1

/-- The slot the detour runs through (R346). -/
def detourSlot (s : State) (me dst vc : Nat) : Option Nat :=
  if posSlot dst ≠ posSlot me then some (posSlot dst)
  else
    (List.range 32).find? (fun u =>
      decide (u ≠ posSlot me) && posUsable s (withCoord 0 me u) && (bestLane s (withCoord 0 me u) vc).isSome)

/-- The next hop by ROUTE record of the colour set in force (R333, R55). -/
def routeHop (s : State) (p : Packet) : Option Nat :=
  match s.run.plan with
  | none => none
  | some pl =>
    if s.fab.mode ≠ 2 then none
    else
      match pl.routes.find? (fun r => r.colourSet == s.fab.colourSet && r.src == p.source && r.dst == p.dest && bit r.vcMask p.vc) with
      | none => none
      | some r =>
        let me := myLogical s
        let next := if me = r.src then some r.via1
          else if me = r.via1 then some (if r.hops = 3 then r.via2 else r.dst)
          else if r.hops = 3 ∧ me = r.via2 then some r.dst
          else none
        match next with
        | none => none
        | some d => match physOf s d with
          | none => none
          | some q => bestLane s q p.vc

/-- The escape hop of a packet on VC3 or VC4 (R336), or the reason there is none (R346). -/
def escapeHop (s : State) (dst vc : Nat) : Except HoldReason Nat :=
  let me := s.fab.position
  let n := escapeNext me dst
  if n ≠ dst ∧ posUsable s n = false then .error .unusable
  else match bestLane s n vc with
    | some k => .ok k
    | none => if n ≠ dst ∧ sameGroup 2 me n = false ∧ sameGroup 1 me n = false ∧ sameGroup 0 me n = false then .error .unusable
      else .error .noLane

/-- A packet with its class of service moved to VC4 and the escaped bit set (R340). -/
def escapePacket (p : Packet) : Packet := { p with vc := if p.vc = 3 then 3 else 4, escaped := true }

/-- The first hop of a detour (R346): only one detour is taken. -/
def detourHop (s : State) (p : Packet) (dst : Nat) : Option (Nat × Packet) :=
  if p.detour then none
  else
    let p := { escapePacket p with detour := true }
    match detourSlot s s.fab.position dst p.vc with
    | none => none
    | some u =>
      if u = posSlot s.fab.position then none
      else (bestLane s (withCoord 0 s.fab.position u) p.vc).map (fun k => (k, p))

/-- Whether every live lane of a hop is MARKED, so that VC3 cannot take it (R348). -/
def hopMarked (s : State) (pos : Nat) : Bool :=
  s.fab.lanes.any (fun e => decide (e.2.far = pos) && decide (e.2.state = .marked))

/-- The detour, or the wait it leaves (R346). -/
def detourOr (s : State) (p : Packet) (dst : Nat) (r : HoldReason) : Except HoldReason (Nat × Packet) :=
  match detourHop s p dst with
  | some kp => .ok kp
  | none => .error r

/-- The next hop of a VC3 packet (R336, R339, R346, R348, R349): the partner lane between partners; the tree route while the tree is in force,
with the detour where it has no lane, but any live path for ADOPT (R352); else the escape route, with the detour at once where its lanes are
marked. -/
def urgentHop (s : State) (p : Packet) (dst : Nat) : Except HoldReason (Nat × Packet) :=
  let me := s.fab.position
  let partner := if partnerTraffic p && (partnerFar s).contains dst then bestLane s dst 3 else none
  match partner with
  | some k => .ok (k, p)
  | none =>
    let tree := if s.fab.mode = 1 then treeLane s dst 3 else none
    match tree with
    | some k => .ok (k, p)
    | none =>
      if packetDisplaced s p dst then detourOr s p dst .unusable
      else if s.fab.mode = 1 ∧ p.ptype ≠ 0xB3 then detourOr s p dst .noLane
      else match escapeHop s dst 3 with
        | .ok k => .ok (k, p)
        | .error .noLane =>
          if hopMarked s (escapeNext me dst) || decide (s.fab.mode = 1) then detourOr s p dst .noLane else .error .noLane
        | .error r => detourOr s p dst r

/-- The choice of a next hop (R333, R336, R346, R348, R351): a lane and the packet as it goes on it, or why it is held. -/
def chooseHop (s : State) (p : Packet) : Except HoldReason (Nat × Packet) :=
  match destPos s p with
  | none => .error .unusable
  | some dst =>
    if p.vc = 3 then urgentHop s p dst
    else
      let planned := if p.escaped then none else
        match bestLane s dst p.vc with
        | some k => some k
        | none => routeHop s p
      match planned with
      | some k => .ok (k, p)
      | none =>
        let q := escapePacket p
        if packetDisplaced s p dst then detourOr s q dst .unusable
        else match escapeHop s dst q.vc with
          | .ok k => .ok (k, q)
          | .error .unusable => detourOr s q dst .unusable
          | .error r => .error r

/-- A packet as it is held without a next hop: one that R333 sends to the escape route is on VC4 with the escaped bit set from then on (R340). -/
def heldPacket (s : State) (p : Packet) : Packet :=
  if p.vc = 3 ∨ (destPos s p).isNone then p else escapePacket p

/-! ### Licences on ports (R6) -/

/-- Whether a port's tier is licensed for plan traffic. -/
def portLicensed (s : State) (port : Nat) : Bool := decide (portTier port < s.tier)

/-- Whether a packet may travel on a port: on an unlicensed tier only VC3, hoard data, and the ACK, ERR and RETRY packets on VC2 that
answer it (R6). -/
def licenceOk (s : State) (port : Nat) (p : Packet) : Bool :=
  portLicensed s port || decide (p.vc = 3) || isHoardData p.ptype ||
  (decide (p.vc = 2) && decide (p.ptype = 0x11 ∨ p.ptype = 0x12 ∨ p.ptype = 0x58) && isHoardData p.answers)

/-- A packet discarded on an unlicensed port is counted and logged once a phase (R6). -/
def licenceDrop (port : Nat) (s : State) : State :=
  logOncePhase 0x5021 0 srcDevice [(4, port)] (modPort port (fun q => { q with unlic := satAdd 32 q.unlic 1 }) s)

/-! ### Sending -/

/-- Escapes and detours are counted as a packet takes them (R353). -/
def countEscape (old p : Packet) (s : State) : State :=
  let f := s.fab
  { s with fab := { f with
    escaped := if !old.escaped && p.escaped && decide (p.vc = 4) then satAdd 64 f.escaped 1 else f.escaped
    detours := if !old.detour && p.detour then satAdd 64 f.detours 1 else f.detours } }

/-- Queue a packet on a lane: one more hop is taken (R334). -/
def enqueue (k : Nat) (old p : Packet) (s : State) : State :=
  modLane k (fun l => { l with queue := l.queue ++ [{ p with hops := p.hops + 1 }] }) (countEscape old p s)

/-- Route a packet from this device: onto a lane, into the ingress if it is for this device, or held (R333, R347). -/
def routePacket (p : Packet) (s : State) : State :=
  if destPos s p = some s.fab.position then
    { s with fab := { s.fab with ingress := s.fab.ingress ++ [p] } }
  else match chooseHop s p with
    | .ok (k, q) => enqueue k p q s
    | .error r =>
      let q := heldPacket s p
      let s := countEscape p q s
      { s with fab := { s.fab with held := s.fab.held ++ [{ p := q, why := r }] } }

/-- Put a packet at the front of a lane's queue. -/
def enqueueFirst (k : Nat) (old p : Packet) (s : State) : State :=
  modLane k (fun l => { l with queue := { p with hops := p.hops + 1 } :: l.queue }) (countEscape old p s)

/-- The class of a channel's packets at issue (R329, R331). -/
def vcClass (vc : Nat) : Nat := if vc = 2 then 1 else if vc = 3 then 2 else 0

/-- Flits of a memory packet (R356). -/
def memFlits (addr len : Nat) : Nat := if len ≤ 32 then 1 else 1 + (addr % 64 + len + 63) / 64

/-- The header of a packet this device issues (R329). -/
def issuePacket (s : State) (ptype vc dest tag : Nat) (body : Body) : Packet :=
  { vc := vc, ptype := ptype, dest := dest, source := myLogical s, gen := s.fab.commit.generation % 16
    cls := vcClass vc, tag := tag, body := body
    flits := match body with
      | .mem m => if ptype = 0 then 1
        else if 0x40 ≤ ptype ∧ ptype < 0x60 then (if m.data.isEmpty then 1 else 2)
        else memFlits (fld m.addr 0 44) m.data.length
      | .coll c => 1 + (c.data.length + 63) / 64
      | .msg _ => 1 }

/-- The packet type of an urgent message (R330, R410, R432). -/
def Msg.ptype : Msg → Nat
  | .join .. => 0x80 | .withdraw => 0x81 | .verdict .. => 0x82 | .start .. => 0x83 | .arrive .. => 0x84
  | .mirror .. => 0x85 | .sealed .. => 0x86 | .ready .. => 0x87 | .commit .. => 0x88 | .commitAck .. => 0x89
  | .fault .. => 0x8A | .suspect .. => 0x8B | .probe .. => 0x8C | .probeAck .. => 0x8D | .rollback .. => 0x8E
  | .restored .. => 0x8F | .restart .. => 0x90 | .stop .. => 0x91 | .leaseCheck .. => 0x92 | .leaseOk .. => 0x93
  | .stopReq .. => 0x94 | .sync .. => 0xA0 | .follow .. => 0xA1 | .delayReq .. => 0xA2 | .delayResp .. => 0xA3
  | .masterTake .. => 0xA4 | .announce .. => 0xA5 | .close .. => 0xB0 | .orderSkip .. => 0xB1
  | .orderRetry .. => 0xB2 | .adopt .. => 0xB3 | .suspend .. => 0x95

/-- Send an urgent message to a physical position. -/
def sendMsgPos (m : Msg) (pos : Nat) (s : State) : State :=
  routePacket { issuePacket s (Msg.ptype m) 3 pos 0 (.msg m) with phys := true, source := s.fab.position } s

/-- Send an urgent message to a logical device. A spare of the span, which has no logical number, sends it by position. -/
def sendMsg (m : Msg) (dev : Nat) (s : State) : State :=
  match s.run.plan.isSome && s.run.me.isNone, physOf s dev with
  | true, some pos => sendMsgPos m pos s
  | _, _ => routePacket (issuePacket s (Msg.ptype m) 3 dev 0 (.msg m)) s

/-- The ordered packets of R341: stores, atomics, reducing writes, signals. -/
def isOrdered (ptype : Nat) : Bool := decide (1 ≤ ptype ∧ ptype ≤ 5)

/-- Send an ordered packet: it counts in S[d], and a flagged one carries the count before its own (R341). -/
def sendOrdered (p : Packet) (s : State) : State :=
  let n := SMap.get 0 s.fab.sent p.dest
  let s := { s with fab := { s.fab with sent := SMap.set 0 s.fab.sent p.dest ((n + 1) % 65536) } }
  let q := if p.flagged then { p with order := n } else p
  let s := if p.flagged then { s with fab := { s.fab with flaggedSent := s.fab.flaggedSent ++ [q] } } else s
  routePacket q s

/-- Held flagged packets whose order has come go to the ingress (R341). -/
def releaseFlagged (src : Nat) (s : State) : State :=
  let a := SMap.get 0 s.fab.applied src
  let rdy := s.fab.flaggedHeld.filter (fun p => p.source == src && p.order == a)
  { s with fab := { s.fab with
    flaggedHeld := s.fab.flaggedHeld.filter (fun p => !(p.source == src && p.order == a))
    ingress := s.fab.ingress ++ rdy } }

/-- Count ordered packets of a source as applied (R341, R343). -/
def orderApplied (src n : Nat) (s : State) : State :=
  let a := SMap.get 0 s.fab.applied src
  releaseFlagged src { s with fab := { s.fab with applied := SMap.set 0 s.fab.applied src ((a + n) % 65536) } }

/-! ### Multicast by stages (R344, R345, R411) -/

/-- The copies a device sends: to a relay, at a stage, serving some positions. Stage 3 stands for the source. -/
def stageCopies (me : Nat) (stage : Nat) (dests : List Nat) : List (Nat × Nat × List Nat) :=
  let inRow := dests.filter (fun d => posRow d == posRow me)
  let inRack := inRow.filter (fun d => posRack d == posRack me)
  let hall := if stage = 3 then
      ((List.range 32).filter (fun r => decide (r ≠ posRow me))).filterMap (fun r =>
        let ds := dests.filter (fun d => posRow d == r)
        if ds.isEmpty then none else some (mkPos r (posRack me) (posSlot me), 0, ds))
    else []
  let row := if stage = 3 ∨ stage = 0 then
      ((List.range 32).filter (fun k => decide (k ≠ posRack me))).filterMap (fun k =>
        let ds := inRow.filter (fun d => posRack d == k)
        if ds.isEmpty then none else some (mkPos (posRow me) k (posSlot me), 1, ds))
    else []
  let rack := if stage = 3 ∨ stage = 0 ∨ stage = 1 then
      (inRack.filter (fun d => d != me)).map (fun d => (d, 2, [d]))
    else []
  hall ++ row ++ rack

/-- Active logical devices, ascending. -/
def activeLogicals (s : State) : List Nat :=
  ((roster s).filter (fun e => decide (e.2.role = 1))).foldl (fun acc e => insertNat e.2.logical acc) []

/-- The logical devices of a destination-mask record that are active in the roster (R366). -/
def maskSet (s : State) (w0 w1 : Word64) : List Nat :=
  (activeLogicals s).filter (fun d => bit w0.toNat (posRow d) && bit w0.toNat (32 + posRack d) && bit w1.toNat (posSlot d))

/-- Every position of the roster, spares included, with a served device (R411). -/
def broadcastSet (s : State) : List Nat :=
  ((roster s).filter (fun e => decide (e.2.role ≠ 0))).map (·.1)

/-- The positions a multicast packet is for, by the record it carries; a broadcast message is for every position of the span (R344, R394, R411). -/
def multicastSet (s : State) (p : Packet) : List Nat :=
  let byMask := fun (x : Nat) =>
    ((maskSet s (BitVec.ofNat 64 x) (BitVec.ofNat 64 (x / 2 ^ 64))).filter (fun d => d != p.source)).filterMap (physOf s)
  match p.body with
  | .mem m => byMask m.extra.toNat
  | .coll c => byMask c.extra.toNat
  | .msg _ => broadcastSet s

/-- The unicast copy for one destination of a multicast packet (R345): by its logical number; a broadcast's goes by position (log entry 44). -/
def unicastCopy (s : State) (p : Packet) (pos : Nat) : Packet :=
  if p.phys then { p with dest := pos, mstage := 3 }
  else { p with dest := (SMap.get {} (roster s) pos).logical, mcast := false, mstage := 3 }

/-- The copy for a relay: its destination field names the mask record (R329). -/
def relayCopy (p : Packet) (c : Nat × Nat × List Nat) : Packet :=
  { p with dest := if p.phys then c.1 else p.dest, mstage := c.2.1, mcast := true }

/-- Send one copy to its relay, or unicast copies to everything it would have served (R345). -/
def sendCopy (p : Packet) (c : Nat × Nat × List Nat) (s : State) : State :=
  match bestLane s c.1 p.vc, posUsable s c.1 || c.2.1 == 2 with
  | some k, true => enqueue k p (relayCopy p c) s
  | _, _ => forEach c.2.2 (fun d s => routePacket (unicastCopy s p d) s) s

/-- A packet that leaves a lane to `far` without having gone over it: a copy for a relay becomes the unicast copies it would have served
(R345). -/
def unsent (s : State) (far : Nat) (p : Packet) : List Packet :=
  if p.mcast && !p.phys then
    ((multicastSet s p).filter (fun d =>
      decide (posRow d = posRow far) && decide (p.mstage = 0 ∨ posRack d = posRack far) && decide (p.mstage < 2 ∨ d = far))).map (unicastCopy s p)
  else [p]

/-- Packets that a lane hands back to the fabric, in their order (R306): they go ahead of every packet queued since. `far` is the lane's
far end. -/
def handBack (far : Nat) (ps : List Packet) (s : State) : State :=
  forEach (ps.flatMap (unsent s far)).reverse (fun p s =>
    let p := { p with hops := p.hops - 1 }
    if destPos s p = some s.fab.position then { s with fab := { s.fab with ingress := p :: s.fab.ingress } }
    else match chooseHop s p with
      | .ok (k, q) => enqueueFirst k p q s
      | .error r =>
        let q := heldPacket s p
        let s := countEscape p q s
        { s with fab := { s.fab with held := { p := q, why := r } :: s.fab.held } }) s

/-- Send the copies of a stage. -/
def sendStage (p : Packet) (stage : Nat) (dests : List Nat) (s : State) : State :=
  forEach (stageCopies s.fab.position stage dests) (sendCopy p) s

/-- The lease holder this device's partner is, when it lies outside the span (R411: broadcasts reach it as well). -/
def leaseHolder (s : State) : Option Nat :=
  if s.epoch.lease && !s.epoch.inSpan then some s.epoch.partner else none

/-- Broadcast an urgent message over the span (R411), and take it on this device too. -/
def broadcastMsg (m : Msg) (s : State) : State :=
  let p := { issuePacket s (Msg.ptype m) 3 0 0 (.msg m) with source := s.fab.position, phys := true }
  let s := sendStage p 3 (broadcastSet s) s
  let s := { s with fab := { s.fab with ingress := s.fab.ingress ++ [{ p with dest := s.fab.position }] } }
  match leaseHolder s with
  | some q => sendMsgPos m q s
  | none => s

/-- Pass on a broadcast that arrived as a multicast copy (R344, R411). -/
def relayMsg (p : Packet) (s : State) : State :=
  let s := if p.mcast && decide (p.mstage < 2) then sendStage p p.mstage (broadcastSet s) s else s
  match p.mcast, leaseHolder s, p.body with
  | true, some q, .msg m => sendMsgPos m q s
  | _, _, _ => s

/-- A message's body. -/
def msgOf (p : Packet) : Option Msg :=
  match p.body with
  | .msg m => some m
  | _ => none

/-- Take a packet out of the ingress, where FRAME_RECEIVE or a local send left it. -/
def takeIngress (p : Packet) (s : State) : State :=
  { s with fab := { s.fab with ingress := s.fab.ingress.erase p } }

/-! ### Request slots (R354, R364) -/

/-- The lowest free request slot, if one is free. -/
def freeSlot (s : State) : Option Nat :=
  if s.remote.used ≥ 32768 then none
  else
    let used := (s.remote.slots.filter (fun e => e.2.busy)).map (·.1)
    (List.range (used.length + 1)).find? (fun i => !used.contains i)

/-- A request slot. -/
def slotOf (s : State) (i : Nat) : Slot := SMap.get {} s.remote.slots i

/-- Give a slot to a request: its generation rises, and the slots in use are counted (R364, R379). -/
def openSlot (i e : Nat) (waiting : List Nat) (use : SlotUse) (p : Packet) (s : State) : State :=
  let k := slotOf s i
  let r := s.remote
  { s with remote := { r with
    slots := SMap.set {} r.slots i
      { busy := true, gen := (k.gen + 1) % 16, engine := e, waiting := waiting, use := use, packet := p }
    used := r.used + 1
    peak := max r.peak (r.used + 1) } }

/-- Whether a request of the plan, not the firmware's, still awaits an answer. -/
def planAccesses (s : State) : Bool :=
  s.remote.slots.any (fun e => e.2.busy && (match e.2.use with
    | .firmware _ => false
    | _ => true))

/-- The last word of an ended plan (R225, R531): its record, and the stop commands complete. -/
def postEnd (c : Nat) (s : State) : State :=
  let ws := s.hub.stoppers
  let s := postStatus { s with hub := { s.hub with stoppers := [], endDue := none } }
  forEach ws (fun w s => finishWaiter w (if c = 2 then 0 else 5) 0 s) s

/-- The final record of an ended plan goes once every access of the plan has been performed (R225). -/
def settleEnd (s : State) : State :=
  match s.hub.endDue with
  | some c => if planAccesses s then s else postEnd c s
  | none => s

/-- Free a slot: its generation stays, and a flagged packet it held is not sent again (R342). The plan's last one lets its final record go. -/
def closeSlot (i : Nat) (s : State) : State :=
  let k := slotOf s i
  if k.busy then
    settleEnd { s with
      remote := { s.remote with
        slots := SMap.set {} s.remote.slots i { ({} : Slot) with gen := k.gen }
        used := s.remote.used - 1 }
      fab := { s.fab with
        flaggedSent := s.fab.flaggedSent.filter (fun p => p.tag != i), orderResend := s.fab.orderResend.filter (fun p => p.tag != i) } }
  else s

/-- A request packet with its slot's generation in it (R356, R364). -/
def stampGen (g : Nat) (p : Packet) : Packet :=
  match p.body with
  | .mem m => { p with body := .mem { m with slotGen := g } }
  | .coll c => { p with body := .coll { c with slotGen := g } }
  | .msg _ => p

/-- Send a request that occupies a slot. With no free slot the issuer holds issue: the state is unchanged (R354). -/
def sendRequest (e : Nat) (use : SlotUse) (p : Packet) (s : State) : Option State :=
  match freeSlot s with
  | none => none
  | some i =>
    let g := ((slotOf s i).gen + 1) % 16
    let p := stampGen g { p with tag := i }
    let s := openSlot i e [p.dest] use p s
    some (if isOrdered p.ptype then sendOrdered p s else routePacket p s)

/-! ### Coordinator and epoch faults (R411, R417) -/

/-- The steward's logical number. -/
def stewardOf (s : State) : Nat :=
  match s.run.plan with
  | some p => p.steward
  | none => match s.load.plan with
    | some p => p.steward
    | none => 0

/-- The deputy: the steward's partner if active, else the lowest other active number (R411). -/
def deputyOf (s : State) : Nat :=
  let st := stewardOf s
  let act := activeLogicals s
  if act.contains (partnerOf st) then partnerOf st
  else (act.find? (fun d => decide (d ≠ st))).getD st

/-- The coordinator: the steward, else the deputy, else the next lowest active number that is not lost (R411). -/
def coordinatorOf (s : State) : Nat :=
  let lost := s.epoch.lostList.map (·.logical)
  let cand := stewardOf s :: deputyOf s :: activeLogicals s
  (cand.find? (fun d => !lost.contains d)).getD (stewardOf s)

/-- The coordinator with one logical device left out: where a loss of that device is reported (R411, R416). -/
def coordinatorBut (s : State) (x : Nat) : Nat :=
  let lost := x :: s.epoch.lostList.map (·.logical)
  let cand := stewardOf s :: deputyOf s :: activeLogicals s
  (cand.find? (fun d => !lost.contains d)).getD (stewardOf s)

/-- Whether this device coordinates now. -/
def isCoordinator (s : State) : Bool := decide (s.run.me = some (coordinatorOf s))

/-- Stop every engine: programs, waits and what they issued are abandoned (R417, R419). -/
def stopEngines (s : State) : State :=
  { s with
    eng := SMap.mapVals {} s.eng (fun _ q => { q with
      st := if q.st = .faulted then .faulted else .unbound
      wait := none, opens := [], signals := [], ending := false })
    units := { s.units with
      fox := SMap.mapVals {} s.units.fox (fun _ c => { c with yielding := false, reservation := none, busy := false, pos := 0 })
      hare := SMap.mapVals {} s.units.hare (fun _ h => { h with copies := [], outstanding := 0, spub := 0, sres := none })
      pack := SMap.mapVals {} s.units.pack (fun _ k => { k with coll := none })
      bear := SMap.mapVals {} s.units.bear (fun _ b => { b with mmas := [], drains := [] }) } }

/-- Whether a plan runs (R521). -/
def planRuns (s : State) : Bool := decide (s.run.st = .run ∨ s.run.st = .waiting)

/-- Whether this device takes part in the liveness of a running span: as a device that runs the plan, or as a spare (R411, R416). -/
def spanRuns (s : State) : Bool := planRuns s || (decide (s.run.st = .hold) && s.run.me.isNone && s.run.begun)

/-- Raise an epoch fault while a plan runs: every engine stops and FAULT goes to the coordinator (R417). -/
def epochFault (cause e : Nat) (selfLost : Bool) (s : State) : State :=
  if planRuns s then
    let s := logEvent 0xA002 e [(2, cause), (2, e)] s
    let s := { stopEngines s with
      epoch := { s.epoch with faults := satAdd 16 s.epoch.faults 1 }
      run := { s.run with halted := true } }
    sendMsg (.fault cause e selfLost) (if selfLost then coordinatorBut s (myLogical s) else coordinatorOf s) s
  else s

/-- The register of POISON_ADDR and the record of an uncorrectable error: the line is poisoned, the event names its first
consumer, and a running plan gets an epoch fault (R212). -/
def eccFatal (st : Store) (a e : Nat) (s : State) : State :=
  let s := poisonLines st [a / 64] s
  let s := logEvent (fatalCode st) e [(8, (mkHall 0 (storeSpace st) a).toNat % 2 ^ 62), (2, e)] s
  epochFault (fatalCode st) e false s

end Sys2Proof.Machine
end

