-- ==== Sys2Proof/Machine/Clock.lean ====
section
/-! DEFINITION. Hall time as a number, its tick, and the time parent (R427, R429, R438). -/

namespace Sys2Proof.Machine

open Sys2Proof

/-- A hall time in units of 2^-16 ns. -/
def fine (t : HallTime) : Nat := 65536 * hallNs t + t.frac

/-- The hall time of a number of 2^-16 ns. -/
def ofFine (n : Nat) : HallTime :=
  { sec := n / 65536 / 1000000000, ns := n / 65536 % 1000000000, frac := n % 65536 }

/-- Move hall time by a signed amount of 2^-16 ns: not below zero. -/
def moveTime (d : Int) (s : State) : State :=
  { s with time := { s.time with hall := ofFine ((fine s.time.hall : Int) + d).toNat } }

/-- What one tick takes off a slew: at most 50 ppm of 6.4 ns (R438). -/
def slewStep (d : Int) : Int := max (-20) (min 20 d)

/-- Hall time advances by 6.4 ns, 2,097,152 fifths of 2^-16 ns (R427), less what a slew takes away. -/
def tick (s : State) : State :=
  let f := 2097152 + s.time.fifths
  let d := slewStep s.time.slew
  moveTime ((f / 5 : Nat) - d) { s with time := { s.time with fifths := f % 5, slew := s.time.slew - d } }

/-- A named moment is reached: hall time is not before it (log entry 4). -/
def reachTime (t : HallTime) (s : State) : State :=
  if fine s.time.hall < fine t then { s with time := { s.time with hall := t, fifths := 0 } } else s

/-- The sum of the steps between two hall times in ns (R440). -/
def stepsBetween (s : State) (a b : Nat) : Int :=
  ((s.time.stepLog.filter (fun x => decide (a < x.1) && decide (x.1 ≤ b))).map (·.2)).foldl (· + ·) 0

/-- The duration from one hall time in ns to another, less the steps in between (R440). -/
def durationNs (s : State) (a b : Nat) : Int := (b : Int) - a - stepsBetween s a b

/-! ### Master and parent (R429, R430) -/

/-- The position of the active master. -/
def activeMaster (s : State) : Nat := if s.time.backupActive then s.time.ctl.backup else s.time.ctl.primary

/-- Whether this device is the active master. -/
def isMaster (s : State) : Bool := decide (s.fab.position = activeMaster s)

/-- The time parent of a position: the next one on the VC3 route to the active master, none for the master. An adopted lane is part of the
tree route of its two ends (R352). -/
def parentOfPos (s : State) (p : Nat) : Option Nat :=
  let m := activeMaster s
  let own := adoptedHop s m 3
  if p = m then none
  else if s.fab.mode ≠ 1 then some (escapeNext p m)
  else if p = s.fab.position then
    match own with
    | some k => some (laneOf s k).far
    | none => some (treeNext s.fab.root p m)
  else if s.fab.adoptees.any (fun k => decide ((laneOf s k).far = p) && decide (own ≠ some k)) then some s.fab.position
  else some (treeNext s.fab.root p m)

/-- Take the time parent the route gives now; a change is recorded (R429). -/
def refreshParent (s : State) : State :=
  let q := parentOfPos s s.fab.position
  if q = s.time.parent then s
  else
    let s := { s with time := { s.time with parent := q, ex := {}, hops := if q.isNone then 0 else s.time.hops } }
    logEvent 0x4009 srcDevice [] s

/-- The sender state of R435. -/
def TimeSt.code : TimeSt → Nat
  | .acquiring => 0 | .locked => 1 | .holdover => 2 | .freerun => 3

/-- The flags of this device's time messages (R432): hold and self_ref, and whether the timed frame was retransmitted. -/
def timeFlags (s : State) (resent : Bool) : Nat :=
  b2n resent + 2 * b2n (s.time.hold || decide (s.time.st = .holdover ∨ s.time.st = .freerun)) + 4 * b2n s.time.selfRef

end Sys2Proof.Machine
end

