-- ==== Sys2Proof/Machine/Control.lean ====
section
/-! DEFINITION. The control instructions every engine program shares (R90, R91, R93), and the signal's add (R220). -/

namespace Sys2Proof.Machine

open Sys2Proof

/-- The program an engine is bound to. -/
def progOf (s : State) (e : Nat) : Option Prog :=
  match s.run.plan with
  | some p => p.progs.find? (fun g => g.key == (seqOf s e).prog)
  | none => none

/-- The PARAM word a program's engine reads at an index of its binding. -/
def paramAt (s : State) (e i : Nat) : Word64 := (mySections s).params.getD ((seqOf s e).param + i) 0

/-- The instruction at issue of an engine of classes 0, 1 and 3 to 5: its program runs and has not reached END. A projection engine issues
only once every earlier instruction has completed (R264). -/
def instrAt (s : State) (e : Nat) : Option Word64 :=
  let q := seqOf s e
  if q.st = .running ∧ q.ending = false ∧ engClass e ≠ 2 ∧ (engClass e = 5 → q.opens = []) then
    match progOf s e with
    | some p => p.code[q.pc]?
    | none => none
  else none

/-- The instruction at issue, if it has one of the opcodes asked for. -/
def issueOf (s : State) (e : Nat) (ops : List Nat) : Option Word64 :=
  match instrAt s e with
  | some w => if ops.contains (fld w 0 8) then some w else none
  | none => none

/-- The meaning of an instruction's command: its effect where the instruction stands at issue, nothing where it does not (log entry 5). -/
def onIssue (e : Nat) (ops : List Nat) (s : State) (f : Word64 → State → State) : Out :=
  match issueOf s e ops with
  | some w => .next (f w s)
  | none => .next s

/-- Continue at the next instruction. -/
def nextPc (e : Nat) (s : State) : State := modSeq e (fun q => { q with pc := q.pc + 1 }) s

/-- An index register of an engine. -/
def xreg (s : State) (e r : Nat) : Nat := (SMap.get 0 (seqOf s e).xs (r % 16)).toNat

/-- Write an index register, modulo 2^32. -/
def setXreg (e r : Nat) (v : Nat) (s : State) : State :=
  modSeq e (fun q => { q with xs := SMap.set 0 q.xs (r % 16) (BitVec.ofNat 32 v) }) s

/-- An effective address: base + X × step, in signed 64-bit arithmetic (R89). -/
def effective (base : Nat) (x : Nat) (step : Int) : Int :=
  sext 64 (ofInt 64 ((base : Int) + (x : Int) * step))

/-- NOP (R90). -/
def execNop (e : Nat) (s : State) : Out := onIssue e [0x00] s (fun _ s => nextPc e s)

/-- END (R90, R91): the program ends once every earlier instruction has completed. -/
def execEndProg (e : Nat) (s : State) : Out :=
  onIssue e [0x01] s (fun _ s => settle e (modSeq e (fun q => { q with ending := true }) s))

/-- WAIT (R91): issue resumes at once where the target is met or the error bit is set, else the engine waits. -/
def execWaitT (e : Nat) (s : State) : Out :=
  onIssue e [0x02] s (fun w s =>
    let i := fld w 16 16
    let t := tallyOf s i
    let errEnd := bit w.toNat 8
    if fld w 32 32 ≤ t.count ∨ t.error = true then
      settle e (modSeq e (fun q => { q with pc := q.pc + 1, ending := t.error && errEnd }) s)
    else
      modSeq e (fun q => { q with st := .waiting, wait := some { tally := i, target := fld w 32 32, errEnd := errEnd } }) s)

/-- SIGNAL (R91): its add waits for every earlier instruction, and later instructions issue meanwhile. -/
def execSignal (e : Nat) (s : State) : Out :=
  onIssue e [0x03] s (fun w s =>
    modSeq e (fun q => { q with
      pc := q.pc + 1
      signals := q.signals ++ [{ issue := q.issued, tally := fld w 16 16, n := fld w 32 32 }] }) s)

/-- ERRT (R91). -/
def execErrt (e : Nat) (s : State) : Out :=
  onIssue e [0x04] s (fun w s => modSeq e (fun q => { q with pc := q.pc + 1, errTally := fld w 16 16 }) s)

/-- SETX (R91). -/
def execSetx (e : Nat) (s : State) : Out :=
  onIssue e [0x08] s (fun w s => nextPc e (setXreg e (fld w 8 4) (fld w 32 32) s))

/-- ADDX (R91): modulo 2^32. -/
def execAddx (e : Nat) (s : State) : Out :=
  onIssue e [0x09] s (fun w s => nextPc e (setXreg e (fld w 8 4) (xreg s e (fld w 8 4) + fld w 32 32) s))

/-- LOOP (R91): while X[x] is not zero it is counted down and execution goes back to the target. -/
def execLoopX (e : Nat) (s : State) : Out :=
  onIssue e [0x0A] s (fun w s =>
    let r := fld w 8 4
    let x := xreg s e r
    if x = 0 then nextPc e s
    else modSeq e (fun q => { q with pc := fld w 32 32 / 8 }) (setXreg e r (x - 1) s))

/-- Requests of an engine to other devices that await an answer. -/
def requestsOf (s : State) (e : Nat) : Nat := (s.remote.slots.filter (fun k => k.2.busy && k.2.engine == e)).length

/-- Whether a core has as many requests to other devices in flight as it may have (R176). -/
def coreFull (s : State) (e : Nat) : Bool := decide (64 ≤ requestsOf s e)

/-- A hare. -/
def hareOf (s : State) (e : Nat) : Hare := SMap.get {} s.units.hare e

/-- Requests of a hare in flight to other devices and to host memory (R206, R214). -/
def hareFlight (s : State) (e : Nat) : Nat := requestsOf s e + (hareOf s e).outstanding

/-- Whether an engine has as many requests in flight as it may have (R176, R206). -/
def engineFull (s : State) (e : Nat) : Bool :=
  (decide (engClass e = 2) && coreFull s e) || (decide (engClass e = 3) && decide (512 ≤ hareFlight s e))

/-- Send an add of `n` to a tally of another device as a flagged SIG packet, with `err` where it marks an error (R357, R222). -/
def sendSig (e : Nat) (a : Word64) (n : Nat) (err : Bool) (s : State) : Option State :=
  let h := hallAddr a
  let b : MemBody := { len := 8, addr := a, operand := BitVec.ofNat 128 n, err := err }
  sendRequest e .post { issuePacket s 0x05 1 h.dev 0 (.mem b) with flagged := true } s

/-- The add of a signal: at a tally of this device, refused where the tally is not open to the plan, or as a SIG packet. -/
def applySignal (e : Nat) (g : PendSignal) (s : State) : Option State :=
  match g.addr with
  | none =>
    some (if tallyOpen s g.tally then tallyAdd g.tally g.n e s
      else addrFault 0x9003 e (mkHall (myLogical s) 3 (g.tally * 32)) s)
  | some a => sendSig e a g.n g.err s

/-- SIGNAL_APPLY (R220): the engine's oldest waiting add is applied once every earlier instruction has completed; an
engine with as many requests in flight as it may have sends it later (R176, R206). -/
def execSignalApply (e : Nat) (s : State) : Out :=
  let q := seqOf s e
  match q.signals with
  | [] => .next s
  | g :: rest =>
    if q.opens.any (fun i => decide (i < g.issue)) then .next s
    else if g.addr.isSome && engineFull s e then .next s
    else match applySignal e g s with
      | some s => .next (settle e (modSeq e (fun q => { q with signals := rest }) s))
      | none => .next s

end Sys2Proof.Machine
end

