-- ==== Sys2Proof/Machine/Formats.lean ====
section
/-! DEFINITION. Number formats: exact values, rounding, and the float operations every engine is built of (R83, R85, R116, R117, R124, R232). -/

namespace Sys2Proof.Machine

open Sys2Proof

/-- What a float pattern stands for: NaN, an infinity, or (-1)^neg × m × 2^e with zero signed. -/
inductive Num where
  | nan
  | inf (neg : Bool)
  | fin (neg : Bool) (m : Nat) (e : Int)
deriving DecidableEq, Repr

/-- How a format spends its largest exponent: as IEEE 754, on one NaN only (E4M3), or on finite values. -/
inductive TopExp where
  | ieee
  | nanOnly
  | finite
deriving DecidableEq, Repr

/-- A float format: exponent and fraction bits, bias, and the NaN it produces. -/
structure Fmt where
  eb : Nat
  fb : Nat
  bias : Nat
  top : TopExp
  nan : Nat
deriving DecidableEq, Repr

/-- E4M3 (R85). -/
def Fmt.e4m3 : Fmt := { eb := 4, fb := 3, bias := 7, top := .nanOnly, nan := 0x7F }
/-- E5M2. -/
def Fmt.e5m2 : Fmt := { eb := 5, fb := 2, bias := 15, top := .ieee, nan := 0x7E }
/-- E3M2. -/
def Fmt.e3m2 : Fmt := { eb := 3, fb := 2, bias := 3, top := .finite, nan := 0 }
/-- E2M3. -/
def Fmt.e2m3 : Fmt := { eb := 2, fb := 3, bias := 1, top := .finite, nan := 0 }
/-- E2M1. -/
def Fmt.e2m1 : Fmt := { eb := 2, fb := 1, bias := 1, top := .finite, nan := 0 }
/-- BF16. -/
def Fmt.bf16 : Fmt := { eb := 8, fb := 7, bias := 127, top := .ieee, nan := 0x7FC0 }
/-- FP16. -/
def Fmt.fp16 : Fmt := { eb := 5, fb := 10, bias := 15, top := .ieee, nan := 0x7E00 }
/-- FP32. -/
def Fmt.fp32 : Fmt := { eb := 8, fb := 23, bias := 127, top := .ieee, nan := 0x7FC00000 }
/-- FP64. -/
def Fmt.fp64 : Fmt := { eb := 11, fb := 52, bias := 1023, top := .ieee, nan := 0x7FF8000000000000 }
/-- The accumulator format FA48 (R116). -/
def Fmt.fa48 : Fmt := { eb := 11, fb := 36, bias := 1023, top := .ieee, nan := 0x7FF800000000 }

/-- Bits of a format. -/
def Fmt.width (f : Fmt) : Nat := 1 + f.eb + f.fb

/-- The pattern of the largest finite magnitude. -/
def Fmt.maxPat (f : Fmt) : Nat :=
  match f.top with
  | .ieee => (2 ^ f.eb - 1) * 2 ^ f.fb - 1
  | .nanOnly => 2 ^ (f.eb + f.fb) - 2
  | .finite => 2 ^ (f.eb + f.fb) - 1

/-- The pattern of an infinity's magnitude, for the formats that have one. -/
def Fmt.infPat (f : Fmt) : Nat := (2 ^ f.eb - 1) * 2 ^ f.fb

/-- The sign bit in place. -/
def Fmt.sign (f : Fmt) (neg : Bool) : Nat := if neg then 2 ^ (f.eb + f.fb) else 0

/-- The value of a pattern (R85, R116). -/
def Fmt.decode (f : Fmt) (n : Nat) : Num :=
  let s := bit n (f.eb + f.fb)
  let e := bits n f.fb f.eb
  let m := n % 2 ^ f.fb
  if f.top = .ieee ∧ e = 2 ^ f.eb - 1 then (if m = 0 then .inf s else .nan)
  else if f.top = .nanOnly ∧ e = 2 ^ f.eb - 1 ∧ m = 2 ^ f.fb - 1 then .nan
  else if e = 0 then .fin s m (1 - (f.bias : Int) - f.fb)
  else .fin s (2 ^ f.fb + m) ((e : Int) - f.bias - f.fb)

/-! ### Rounding -/

/-- Rounding directions: nearest even, to zero, down, up, nearest with ties away, and the seeded rule of R125 with its u. -/
inductive RMode where
  | rne
  | rtz
  | rdn
  | rup
  | rmm
  | seeded (u : Nat)
deriving DecidableEq, Repr

/-- Whether a magnitude with quotient `q` and remainder `r` of 2^`sh` goes to the next grid point. -/
def roundUp (mode : RMode) (neg : Bool) (q r sh : Nat) : Bool :=
  match mode with
  | .rne => decide (2 ^ sh < 2 * r) || (decide (2 * r = 2 ^ sh) && decide (q % 2 = 1))
  | .rtz => false
  | .rdn => neg && decide (r ≠ 0)
  | .rup => !neg && decide (r ≠ 0)
  | .rmm => decide (2 ^ sh ≤ 2 * r)
  | .seeded u => decide (u < 65536 * r / 2 ^ sh)

/-- The result of rounding a magnitude to a format's grid: its pattern, which may lie beyond the largest finite one,
and whether it was inexact. Patterns of one sign are ordered as their values, so a carry needs no care. -/
def Fmt.roundMag (f : Fmt) (mode : RMode) (neg : Bool) (m : Nat) (e : Int) : Nat × Bool :=
  if m = 0 then (0, false)
  else
    let emin : Int := 1 - (f.bias : Int) - f.fb
    let qe := max emin (e + (Nat.log2 m : Int) - f.fb)
    let q : Nat × Bool :=
      if qe ≤ e then (m * 2 ^ (e - qe).toNat, false)
      else
        let sh := (qe - e).toNat
        let q := m / 2 ^ sh
        let r := m % 2 ^ sh
        (if roundUp mode neg q r sh then q + 1 else q, decide (r ≠ 0))
    if q.1 < 2 ^ f.fb ∧ qe = emin then q
    else ((qe + f.bias + f.fb).toNat * 2 ^ f.fb + (q.1 - 2 ^ f.fb), q.2)

/-- Whether an overflowing magnitude becomes infinity in a rounding direction (IEEE 754). -/
def overflowInf (mode : RMode) (neg : Bool) : Bool :=
  match mode with
  | .rtz => false
  | .rdn => neg
  | .rup => !neg
  | _ => true

/-- Round a value to a format as IEEE 754 does: overflow to infinity, or to the largest finite value where the direction says so
or the format has no infinity; NaN to the format's NaN. -/
def Fmt.round (f : Fmt) (mode : RMode) (x : Num) : Nat :=
  match x with
  | .nan => f.nan
  | .inf neg => f.sign neg + (if f.top = .ieee then f.infPat else f.maxPat)
  | .fin neg m e =>
    let r := (f.roundMag mode neg m e).1
    if r ≤ f.maxPat then f.sign neg + r
    else if f.top = .ieee ∧ overflowInf mode neg = true then f.sign neg + f.infPat
    else f.sign neg + f.maxPat

/-- Round to nearest even. -/
def Fmt.rne (f : Fmt) (x : Num) : Nat := f.round .rne x

/-! ### Exact arithmetic -/

/-- The sign of a value; NaN counts as positive. -/
def Num.isNeg : Num → Bool
  | .nan => false
  | .inf s => s
  | .fin s _ _ => s

/-- Whether a value is NaN. -/
def Num.isNan : Num → Bool
  | .nan => true
  | _ => false

/-- Whether a value is a zero. -/
def Num.isZero : Num → Bool
  | .fin _ 0 _ => true
  | _ => false

/-- Negate. -/
def Num.neg : Num → Num
  | .nan => .nan
  | .inf s => .inf (!s)
  | .fin s m e => .fin (!s) m e

/-- The signed mantissa of a finite value at exponent `e0`, which is no larger than its own. -/
def alignTo (s : Bool) (m : Nat) (e e0 : Int) : Int :=
  let v : Int := (m * 2 ^ (e - e0).toNat : Nat)
  if s then -v else v

/-- Exact sum. An exact zero sum of terms of opposite sign is +0, or -0 where `down` is set. -/
def Num.addWith (down : Bool) (x y : Num) : Num :=
  match x, y with
  | .nan, _ => .nan
  | _, .nan => .nan
  | .inf a, .inf b => if a = b then .inf a else .nan
  | .inf a, .fin .. => .inf a
  | .fin .., .inf b => .inf b
  | .fin a m e, .fin b n k =>
    let e0 := min e k
    let v := alignTo a m e e0 + alignTo b n k e0
    if v = 0 then .fin (if m = 0 ∧ n = 0 ∧ a = b then a else down) 0 e0
    else .fin (decide (v < 0)) v.natAbs e0

/-- Exact sum with +0 for a zero sum of opposite signs (R117). -/
def Num.add (x y : Num) : Num := Num.addWith false x y

/-- Exact product (R86, R87). -/
def Num.mul (x y : Num) : Num :=
  match x, y with
  | .nan, _ => .nan
  | _, .nan => .nan
  | .inf a, .inf b => .inf (a != b)
  | .inf a, .fin b n _ => if n = 0 then .nan else .inf (a != b)
  | .fin a m _, .inf b => if m = 0 then .nan else .inf (a != b)
  | .fin a m e, .fin b n k => .fin (a != b) (m * n) (e + k)

/-- Multiply by a power of two. -/
def Num.scale (x : Num) (k : Int) : Num :=
  match x with
  | .fin s m e => .fin s m (e + k)
  | y => y

/-- An integer as a value. -/
def Num.ofInt (z : Int) : Num := .fin (decide (z < 0)) z.natAbs 0

/-- A natural as a value. -/
def Num.ofNat (n : Nat) : Num := .fin false n 0

/-- Quotient of magnitudes to `p` bits beyond the point, with a sticky bit below: enough for any rounding. -/
def divMag (m : Nat) (e : Int) (n : Nat) (k : Int) (p : Nat) : Nat × Int :=
  let sh := p + Nat.log2 n
  let q := m * 2 ^ sh / n
  let r := m * 2 ^ sh % n
  (2 * q + (if r = 0 then 0 else 1), e - k - sh - 1)

/-- Quotient, exact up to a sticky bit 130 places down. -/
def Num.div (x y : Num) : Num :=
  match x, y with
  | .nan, _ => .nan
  | _, .nan => .nan
  | .inf _, .inf _ => .nan
  | .inf a, .fin b _ _ => .inf (a != b)
  | .fin a _ _, .inf b => .fin (a != b) 0 0
  | .fin a m e, .fin b n k =>
    if n = 0 then (if m = 0 then .nan else .inf (a != b))
    else
      let q := divMag m e n k 130
      .fin (a != b) q.1 q.2

/-- Integer square root by bits: `f` rounds of one result bit each. -/
def isqrtLoop (n : Nat) : Nat → Nat → Nat
  | 0, r => r
  | f + 1, r =>
    let c := r + 2 ^ f
    isqrtLoop n f (if c * c ≤ n then c else r)

/-- The integer square root. -/
def isqrt (n : Nat) : Nat := isqrtLoop n (Nat.log2 n / 2 + 1) 0

/-- Square root, exact up to a sticky bit. -/
def Num.sqrt (x : Num) : Num :=
  match x with
  | .nan => .nan
  | .inf s => if s then .nan else .inf false
  | .fin s m e =>
    if m = 0 then .fin s 0 0
    else if s then .nan
    else
      let m' := if e % 2 = 0 then m else 2 * m
      let e' := if e % 2 = 0 then e else e - 1
      let n := m' * 2 ^ 260
      let r := isqrt n
      .fin false (2 * r + (if r * r = n then 0 else 1)) ((e' - 260) / 2 - 1)

/-- Compare two values that are not NaN: zeros of both signs are equal. -/
def Num.cmp (x y : Num) : Ordering :=
  match x, y with
  | .inf a, .inf b => if a = b then .eq else if a then .lt else .gt
  | .inf a, _ => if a then .lt else .gt
  | _, .inf b => if b then .gt else .lt
  | .fin a m e, .fin b n k => compare (alignTo a m e (min e k)) (alignTo b n k (min e k))
  | _, _ => .eq

/-- The total order of R158 and R232 on values that are not NaN: -0 lies below +0. -/
def Num.lt (x y : Num) : Bool :=
  match Num.cmp x y with
  | .lt => true
  | .gt => false
  | .eq => x.isNeg && !y.isNeg

/-- Truncate toward an integer in a rounding direction: none for NaN or an infinity. The second part says whether it was inexact. -/
def Num.toInt (mode : RMode) (x : Num) : Option (Int × Bool) :=
  match x with
  | .fin s m e =>
    if 0 ≤ e then
      let v : Int := (m * 2 ^ e.toNat : Nat)
      some (if s then -v else v, false)
    else
      let sh := (-e).toNat
      let q := m / 2 ^ sh
      let r := m % 2 ^ sh
      let q := if roundUp mode s q r sh then q + 1 else q
      some (if s then -(q : Int) else q, decide (r ≠ 0))
  | _ => none

/-! ### Operations on patterns -/

/-- Sum of two patterns of a format, rounded to nearest even (R232). -/
def Fmt.add (f : Fmt) (a b : Nat) : Nat := f.rne (Num.add (f.decode a) (f.decode b))

/-- Larger or smaller of two patterns in the order of R232: any NaN gives the format NaN. -/
def Fmt.minMax (f : Fmt) (isMax : Bool) (a b : Nat) : Nat :=
  let x := f.decode a
  let y := f.decode b
  if x.isNan || y.isNan then f.nan
  else if Num.lt x y then (if isMax then b else a)
  else (if isMax then a else b)

/-- rnd48 (R117). -/
def rnd48 (x : Num) : Nat := Fmt.fa48.rne x

/-- Sum in FA48 of patterns (R117). -/
def fa48Add (a b : Nat) : Nat := Fmt.fa48.add a b

/-! ### Format codes (R83, R122, R141) -/

/-- The float format of a code, if it names one. -/
def floatOf (code : Nat) : Option Fmt :=
  match code with
  | 0x01 => some .e4m3 | 0x08 => some .e4m3
  | 0x02 => some .e5m2 | 0x09 => some .e5m2
  | 0x0A => some .e3m2 | 0x0B => some .e2m3 | 0x0C => some .e2m1
  | 0x10 => some .bf16 | 0x11 => some .fp16 | 0x12 => some .fp32
  | _ => none

/-- The width in bits of an element of a code. -/
def codeBits (code : Nat) : Nat :=
  match code with
  | 0x01 => 8 | 0x02 => 8 | 0x08 => 8 | 0x09 => 8 | 0x0A => 6 | 0x0B => 6 | 0x0C => 4
  | 0x10 => 16 | 0x11 => 16 | 0x12 => 32 | 0x20 => 8 | 0x21 => 4 | 0x22 => 16 | 0x23 => 32
  | 0x30 => 48 | 0x40 => 1 | 0x41 => 64 | 0x42 => 64 | 0x43 => 32 | _ => 0

/-- Bytes of an element of a code of whole bytes. -/
def codeBytes (code : Nat) : Nat := codeBits code / 8

/-- Whether a code names a signed integer format. -/
def codeIsInt (code : Nat) : Bool := decide (code = 0x20 ∨ code = 0x21 ∨ code = 0x22 ∨ code = 0x23)

/-- Whether a code is microscaled (R83). -/
def codeIsMx (code : Nat) : Bool := decide (0x08 ≤ code ∧ code ≤ 0x0C)

/-- The value of an element pattern of a code: float, or integer taken exactly. -/
def codeValue (code n : Nat) : Num :=
  match floatOf code with
  | some f => f.decode (n % 2 ^ f.width)
  | none => Num.ofInt (sext (codeBits code) n)

end Sys2Proof.Machine
end

