-- ==== Sys2Proof/Machine/Stores.lean ====
section
/-! DEFINITION. Errors of the stores, power domains under an address, the atomics of R230, and the tally unit's loads and stores (R403). -/

namespace Sys2Proof.Machine

open Sys2Proof

/-! ### Error registers (R211, R212, R214, R215) -/

/-- The key of a store's error registers: SP by die, CS by 8 + die, HBM by 16 + stack. -/
def eccKey (st : Store) (a : Nat) : Nat :=
  match st with
  | .sp => a / 2 ^ 32
  | .cs => 8 + a / 2 ^ 26
  | .hbm => 16 + a / 2 ^ 36

/-- The compute die a line of a store belongs to: corrected errors are recorded once per store and die (R211). -/
def eccDie (st : Store) (a : Nat) : Nat :=
  match st with
  | .sp => a / 2 ^ 32
  | .cs => a / 2 ^ 26
  | .hbm => a / 2 ^ 37

/-- The offset a store's POISON_ADDR holds for an address. -/
def eccOff (st : Store) (a : Nat) : Nat :=
  match st with
  | .sp => a
  | .cs => a % 2 ^ 26
  | .hbm => a % 2 ^ 36

/-- Change the error registers of a store at an address. -/
def modEcc (st : Store) (a : Nat) (f : EccRegs → EccRegs) (s : State) : State :=
  { s with mem := { s.mem with ecc := SMap.modify {} s.mem.ecc (eccKey st a) f } }

/-- The event code of a corrected error of a store (R211). -/
def corrCode (st : Store) : Nat :=
  match st with
  | .sp => 0x9010
  | .cs => 0x9012
  | .hbm => 0x9014

/-- What the check of a line finds (R211, R212): a correction is counted and recorded once per store per die per phase;
an uncorrectable error counts, sets POISON_ADDR, poisons the line, is recorded with its consumer and raises an epoch fault. -/
def eccNote (st : Store) (a e : Nat) (x : Ecc) (s : State) : State :=
  match x with
  | .ok => s
  | .corrected k =>
    let line := (a + k) / 64 * 64
    let s := modEcc st line (fun r => { r with corrected := satAdd 32 r.corrected 1 }) s
    logOncePhase (corrCode st) (eccDie st line) e [(8, (mkHall 0 (storeSpace st) line).toNat % 2 ^ 62)] s
  | .uncorrectable k =>
    let line := (a + k) / 64 * 64
    let s := modEcc st line (fun r => { r with
      uncorrected := satAdd 32 r.uncorrected 1
      poisonOff := if r.poisonValid then r.poisonOff else eccOff st line
      poisonValid := true }) s
    eccFatal st line e s

/-- Count an access served by an HBM controller from its latency or bulk queue (R196, R215). -/
def hbmServe (lat : Bool) (a n : Nat) (s : State) : State :=
  { s with mem := { s.mem with hbmc := SMap.modify {} s.mem.hbmc (a / 2 ^ 36) (fun h =>
    if lat then { h with latReads := satAdd 64 h.latReads 1 } else { h with bulkBytes := satAdd 64 h.bulkBytes n }) } }

/-- Count an access to a store: only HBM counts. -/
def served (st : Store) (lat : Bool) (a n : Nat) (s : State) : State :=
  if st = .hbm then hbmServe lat a n s else s

/-! ### Power domains under an address (R207, R462) -/

/-- The domain of an offset of a store, as R462 numbers it. -/
def domainOf (st : Store) (a : Nat) : Nat :=
  match st with
  | .sp => a / 2 ^ 32
  | .cs => a / 2 ^ 26
  | .hbm => 8 + a / 2 ^ 37

/-- The state of a domain. -/
def domOf (s : State) (d : Nat) : Domain := SMap.get {} s.power.domains d

/-- Whether a domain is draining or powered down. -/
def domDown (s : State) (d : Nat) : Bool := decide ((domOf s d).st ≠ .on)

/-- The draining or powered-down domain under a local address, if there is one. -/
def downAt (s : State) (a : Word64) : Option Nat :=
  let h := hallAddr a
  if isRemote s h then none
  else match spaceStore h.space with
    | some st => if domDown s (domainOf st h.off) then some (domainOf st h.off) else none
    | none => none

/-! ### Atomics (R230 to R232, R358) -/

/-- Bytes of an element type (R358). -/
def elemBytes (elem : Nat) : Nat :=
  match elem with
  | 0 => 4 | 1 => 8 | 2 => 4 | 3 => 2 | _ => 16

/-- The float format of an element type. -/
def elemFmt (elem : Nat) : Fmt := if elem = 3 then .bf16 else .fp32

/-- Whether an operation and element type stand in the table of R358. -/
def atomOk (op elem : Nat) : Bool :=
  match op with
  | 1 => decide (elem ≤ 1)
  | 2 => decide (elem ≤ 3)
  | 3 => decide (elem ≤ 3)
  | 4 => decide (elem ≤ 1)
  | 5 => decide (elem ≤ 1)
  | 6 => decide (elem ≤ 1)
  | 7 => decide (elem = 2 ∨ elem = 3)
  | 8 => decide (elem ≤ 1)
  | 9 => decide (elem ≤ 1)
  | 10 => decide (elem ≤ 1)
  | 11 => decide (elem ≤ 1 ∨ elem = 4)
  | _ => false

/-- The new word of an atomic (R230): operation, element type, old word, operand and swap value. -/
def atomResult (op elem old x swap : Nat) : Nat :=
  let w := elemBytes elem * 8
  let o := old % 2 ^ w
  let v := x % 2 ^ w
  match op with
  | 1 => (o + v) % 2 ^ w
  | 2 => if 2 ≤ elem then (elemFmt elem).minMax false o v else if sext w v < sext w o then v else o
  | 3 => if 2 ≤ elem then (elemFmt elem).minMax true o v else if sext w o < sext w v then v else o
  | 4 => o &&& v
  | 5 => o ||| v
  | 6 => o ^^^ v
  | 7 => (elemFmt elem).add o v
  | 8 => min o v
  | 9 => max o v
  | 10 => v
  | 11 => if o = v then swap % 2 ^ w else o
  | _ => o

/-- Perform an atomic on one word of a store: the old word, whether it was poisoned (then nothing changes), and the state (R229, R557). -/
def atomAt (st : Store) (a op elem x swap : Nat) (s : State) : Nat × Bool × State :=
  let n := elemBytes elem
  let old := leVal (readStore s st a n)
  if poisoned s st a n then (old, true, s)
  else (old, false, setStore st ((storeOf s st).writeBytes a (leBytes n (atomResult op elem old x swap))) s)

/-! ### The tally unit (R402, R403) -/

/-- The 32 bytes of a tally as a load reads them: zero where it is not allocated. -/
def tallyBytes (s : State) (i : Nat) : List Byte :=
  let t := tallyOf s i
  if !t.allocated && decide (i < 65280) then List.replicate 32 0
  else leBytes 8 t.count ++ leBytes 1 (b2n t.error + 2 * b2n t.allocated + 4 * b2n (decide (65280 ≤ i))) ++ leBytes 1 0 ++
    leBytes 2 (tallyWaiters s i) ++ leBytes 2 t.errCode ++ leBytes 2 t.errEngine ++ leBytes 8 t.count ++ leBytes 8 t.signals

/-- Whether a load of tally space has a form the unit performs: 2, 4 or 8 bytes, aligned. -/
def tallyLoadOk (off len : Nat) : Bool := decide (len = 2 ∨ len = 4 ∨ len = 8) && decide (off % len = 0)

/-- Whether the tally unit performs an access of this form (R403): every other is a misuse of its space, which R560 finds before the range.
A store to a tally of this device (`here`) needs it allocated; a number past the last tally is out of range and no misuse. -/
def tallyMay (s : State) (here : Bool) (off len : Nat) (write : Bool) (v : Nat) : Bool :=
  if write then
    decide (len = 8 ∧ off % 8 = 0) && (decide (off % 32 = 0 ∨ off % 32 = 16) || decide (off % 32 = 8 ∧ v = 1)) &&
      (!here || tallyOpen s (off / 32) || decide (65536 ≤ off / 32))
  else tallyLoadOk off len

/-- The bytes a load of tally space returns. -/
def tallyLoad (s : State) (off len : Nat) : List Byte := slice (tallyBytes s (off / 32)) (off % 32) len

/-- An aligned 8-byte store to tally space (R403): add, set or mark error. The state, or nothing where it is refused. -/
def tallyStore (e off len : Nat) (v : Nat) (s : State) : Option State :=
  let i := off / 32
  if len ≠ 8 ∨ off % 8 ≠ 0 ∨ tallyOpen s i = false then none
  else if off % 32 = 0 then some (tallyAdd i v e s)
  else if off % 32 = 16 then some (tallySet i v s)
  else if off % 32 = 8 ∧ v = 1 then some (tallyError i 0x9051 e s)
  else none

end Sys2Proof.Machine
end

