-- ==== Sys2Proof/Machine/Stream.lean ====
section
/-! DEFINITION. Stream contexts: their fields, stores to them and the commands of their control word (R235 to R241, R258). -/

namespace Sys2Proof.Machine

open Sys2Proof

/-- A stream context. -/
def ctxOf (s : State) (c : Nat) : Ctx := SMap.get {} s.units.ctx c
/-- Change a stream context. -/
def modCtx (c : Nat) (f : Ctx → Ctx) (s : State) : State :=
  { s with units := { s.units with ctx := SMap.modify {} s.units.ctx c f } }
/-- The stream registers of a die. -/
def strOf (s : State) (k : Nat) : StrDie := SMap.get {} s.units.str k
/-- Change the stream registers of a die. -/
def modStr (k : Nat) (f : StrDie → StrDie) (s : State) : State :=
  { s with units := { s.units with str := SMap.modify {} s.units.str k f } }

/-- A field of a context by offset and size (R236). -/
def Ctx.fld (x : Ctx) (off n : Nat) : Nat := leVal (x.mem.bytes off n)
/-- Write a field of a context. -/
def Ctx.put (x : Ctx) (off n v : Nat) : Ctx := { x with mem := x.mem.writeBytes off (leBytes n v) }

/-- Positions accepted. -/
def Ctx.length (x : Ctx) : Nat := x.fld 0x00 3
/-- Positions sketched. -/
def Ctx.sketched (x : Ctx) : Nat := x.fld 0x04 3
/-- 0 closed, 1 open, 2 faulted. -/
def Ctx.state (x : Ctx) : Nat := x.fld 0x08 1
/-- Whether sketches are made on the digital path. -/
def Ctx.digital (x : Ctx) : Bool := bit (x.fld 0x09 1) 0
/-- Whether appends are never held for a calibration window. -/
def Ctx.continuous (x : Ctx) : Bool := bit (x.fld 0x09 1) 1
/-- Blocks the tables provide for. -/
def Ctx.maxBlocks (x : Ctx) : Nat := x.fld 0x52 2 + 1
/-- The home die of a context (R235). -/
def ctxDie (c : Nat) : Nat := c / 2048
/-- Most positions a context takes (R240). -/
def Ctx.limit (x : Ctx) : Nat := min 16777215 (256 * x.maxBlocks)
/-- The PPE that sketches for a context: its holdings bind the stream unit's accesses (R67). -/
def ctxEngine (c : Nat) : Nat := engId 5 (ctxDie c) 0

/-- A context fault (R258): the appends not yet sketched are discarded, except at an APPEND, which leaves the queue (R240). A pending CLOSE
and the commands behind it stay (DEDUCED, log entry 46). -/
def ctxFault (c code pos : Nat) (keep : Bool) (s : State) : State :=
  let x := ctxOf s c
  let s := modCtx c (fun x => { ((x.put 0x08 1 2).put 0xC0 8 (code + pos % 2 ^ 24 * 2 ^ 16)) with
    queue := if keep then x.queue else [] }) s
  let s := modStr (ctxDie c) (fun d => { d with contextFault := true }) s
  let s := logEvent code (ctxEngine c) [(4, c), (4, pos)] s
  tallyError (x.fld 0x0E 2) code (ctxEngine c) s

/-- Whether a range of SP lies in one die's scratchpad. -/
def inDieSp (die off len : Nat) : Bool := decide (2 ^ 32 * die ≤ off) && decide (off + len ≤ 2 ^ 32 * (die + 1))

/-- The checks of R560 on an engine's access to the SP of its own die, at an offset that index registers moved: 4 or 5. -/
def spStage (s : State) (e : Nat) (off : Int) (len : Nat) (write : Bool) : Option Nat :=
  if off < 0 ∨ (2 ^ 35 : Int) < off + len then some 4
  else if inDieSp (engDie e) off.toNat len && holdOk s e off.toNat len write && !(write && stagedRange s off.toNat len) then none
  else some 5

/-- The local-form address of an SP offset. -/
def spAddr (off : Int) : Word64 := BitVec.ofInt 64 off

/-- The checks of R560 on such an access with the alignment of its base: 4 or 5. -/
def spStageAt (s : State) (e : Nat) (base off : Int) (len align : Nat) (write : Bool) : Option Nat :=
  if base % (align : Int) ≠ 0 then some 4 else spStage s e off len write

/-- Whether a hall address names bytes of space 0, 1 or 2 within the space. -/
def plainAddr (a : Word64) (len align : Nat) : Bool :=
  let h := hallAddr a
  decide (h.form < 2) && decide (h.space < 3) && decide (h.off % align = 0) &&
  decide (h.off + len ≤ if h.space = 0 then 2 ^ 35 else if h.space = 1 then 2 ^ 40 else 2 ^ 29)

/-- The element bytes of a key format, none for a format no key has. -/
def keyBytes (f : Nat) : Option Nat :=
  match f with
  | 0x01 => some 1
  | 0x02 => some 1
  | 0x10 => some 2
  | 0x11 => some 2
  | _ => none

/-- Whether the loaded plan holds a calibration window on a tile (R61, R256). -/
def tileWindow (s : State) (k : Nat) : Bool :=
  match s.run.plan with
  | some p => p.calwins.any (fun w => bit w.2 k)
  | none => false

/-- Whether a context is valid (R237). -/
def ctxValid (s : State) (c : Nat) : Bool :=
  let x := ctxOf s c
  let die := ctxDie c
  let dim := x.fld 0x0A 1
  let n := x.maxBlocks
  match keyBytes (x.fld 0x0B 1) with
  | none => false
  | some eb =>
    (decide (dim = 64) || decide (dim = 128)) && decide (x.fld 0x0C 1 < 4) &&
    !(s.units.absent.contains (engId 1 die (x.fld 0x0C 1))) &&
    decide (x.fld 0x4C 2 ≤ 255) && decide (1 ≤ x.fld 0x4E 2) && decide (x.fld 0x50 2 ≤ 255) &&
    decide (x.fld 0x4C 2 + x.fld 0x50 2 + x.fld 0x4E 2 ≤ 256) &&
    decide (x.length = x.sketched) && decide (x.sketched ≤ x.limit) &&
    decide (x.fld 0x10 8 % 16 = 0) && decide (x.fld 0x18 4 % 16 = 0) && decide (dim * eb ≤ x.fld 0x18 4) &&
    decide (1 ≤ x.fld 0x1C 4) && decide (x.fld 0x1C 4 ≤ 65536) &&
    inDieSp die (x.fld 0x10 8) ((x.fld 0x1C 4 - 1) * x.fld 0x18 4 + dim * eb) &&
    (decide (x.fld 0x20 8 = 0) || plainAddr (BitVec.ofNat 64 (x.fld 0x20 8)) (256 * n * 8) 8) &&
    decide (x.fld 0x28 8 % 16 = 0) && inDieSp die (x.fld 0x28 8) (n * 8) &&
    decide (x.fld 0x30 8 % 16 = 0) && inDieSp die (x.fld 0x30 8) 8192 &&
    plainAddr (BitVec.ofNat 64 (x.fld 0x38 8)) (n * 8) 8 &&
    decide (x.fld 0x48 4 % 64 = 0) && decide (64 ≤ x.fld 0x48 4) &&
    (tallyOf s (x.fld 0x0E 2)).allocated &&
    (if x.digital then decide (x.fld 0x68 8 ≠ 0) && decide (x.fld 0x68 8 % 16 = 0) && inDieSp die (x.fld 0x68 8) (64 * dim * 4)
      else decide (x.fld 0x68 8 = 0)) &&
    !(x.continuous && !x.digital && tileWindow s die)

/-- Byte `k` of the exclusion row (R241): bit b is 0 exactly when sink ≤ b < nb - recent. -/
def exclByte (sink recent nb k : Nat) : Byte :=
  BitVec.ofNat 8 (((List.range 8).map (fun i =>
    let b := 8 * k + i
    if sink ≤ b ∧ b + recent < nb then 0 else 2 ^ i)).foldl (· + ·) 0)

/-- Blocks a number of positions takes. -/
def blocksOf (n : Nat) : Nat := (n + 255) / 256

/-- The bytes of the exclusion row of a context (R241). -/
def exclRow (x : Ctx) : List Byte :=
  (List.range 8192).map (exclByte (x.fld 0x4C 2) (x.fld 0x4E 2) (blocksOf x.sketched))

/-- A stream unit's access that is refused, recorded under R36, or that meets poison: the context faults (R258). -/
def keyFault (c p : Nat) (code : Option Nat) (a : Word64) (s : State) : State :=
  let s := match code with
    | some g => logEvent g (ctxEngine c) [(2, ctxEngine c), (8, a.toNat)] s
    | none => s
  ctxFault c 0x6404 p false s

/-- A write of a stream unit in SP of its die, or what stops it: the event of the check of R560 it fails, none for a poisoned line. -/
def unitWrite (c off : Nat) (d : List Byte) (s : State) : Except (Option Nat) State :=
  match spStage s (ctxEngine c) off d.length true with
  | some g => .error (some (stageCode g))
  | none => if poisoned s .sp off d.length then .error none else .ok (writeStore .sp off d s)

/-- Write single bytes of the exclusion row, each with its place in the row, up to the first that cannot be written. -/
def rowWrite (c row : Nat) : List (Nat × Byte) → State → Except (Option Nat × Nat) State
  | [], s => .ok s
  | b :: l, s =>
    match unitWrite c (row + b.1) [b.2] s with
    | .ok s => rowWrite c row l s
    | .error g => .error (g, row + b.1)

/-- The bytes of the exclusion row that memory holds otherwise; a poisoned line cannot be compared, so its bytes count as changed
(DEDUCED, log entry 46). -/
def rowChanges (s : State) (x : Ctx) : List (Nat × Byte) :=
  let a := x.fld 0x30 8
  (((exclRow x).zip (readStore s .sp a 8192)).zipIdx).filterMap (fun t =>
    if t.1.1 = t.1.2 ∧ poisoned s .sp (a + t.2) 1 = false then none else some (t.2, t.1.1))

/-- OPEN (R238): a valid context gets the bytes of its exclusion row that change and opens; a write of the row that is refused or meets
poison faults it. -/
def ctxOpen (c : Nat) (s : State) : State :=
  let x := ctxOf s c
  if x.state ≠ 0 then ctxFault c 0x6401 x.length false s
  else if !ctxValid s c then ctxFault c 0x6402 x.length false s
  else match rowWrite c (x.fld 0x30 8) (rowChanges s x) s with
    | .error g => keyFault c x.length g.1 (spAddr (g.2 : Nat)) s
    | .ok s => modCtx c (fun x => x.put 0x08 1 1) s

/-- APPEND (R240): n positions are accepted and queued. -/
def ctxAppend (c n : Nat) (s : State) : State :=
  let x := ctxOf s c
  if x.state ≠ 1 ∨ n = 0 ∨ 256 < n then ctxFault c 0x6401 x.length true s
  else if x.limit < x.length + n then ctxFault c 0x6403 x.length true s
  else
    let s := modCtx c (fun x => { (x.put 0x00 3 (x.length + n)) with queue := x.queue ++ [(x.length, n)] }) s
    modStr (ctxDie c) (fun d => { d with appends := satAdd 64 d.appends 1 }) s

/-- CLOSE (R238): the context closes once every accepted append has been sketched and posted. -/
def ctxClose (c : Nat) (s : State) : State :=
  let x := ctxOf s c
  if x.state ≠ 1 ∧ x.state ≠ 2 then ctxFault c 0x6401 x.length false s
  else if x.queue.isEmpty then modCtx c (fun x => x.put 0x08 1 0) s
  else modCtx c (fun x => { x with closing := true }) s

/-- RESET (R238). -/
def ctxReset (c : Nat) (s : State) : State :=
  let x := ctxOf s c
  if x.state ≠ 0 ∧ x.state ≠ 2 then ctxFault c 0x6401 x.length false s
  else modCtx c (fun x => { (((((x.put 0x00 4 0).put 0x04 4 0).put 0x80 64 0).put 0xC0 8 0).put 0x08 1 0) with
    queue := [] }) s

/-- The effect of a command word of ctrl (R238). -/
def ctxCommand (c v : Nat) (s : State) : State :=
  let n := bits v 16 9
  let code := bits v 0 4
  if v - code - n * 2 ^ 16 ≠ 0 then ctxFault c 0x6401 (ctxOf s c).length false s
  else if code = 1 then ctxAppend c n s
  else if n ≠ 0 then ctxFault c 0x6401 (ctxOf s c).length false s
  else if code = 2 then ctxOpen c s
  else if code = 3 then ctxClose c s
  else if code = 4 then ctxReset c s
  else ctxFault c 0x6401 (ctxOf s c).length false s

/-- A command word reaches the stream unit: commands are performed in that order, so one behind a pending CLOSE waits (R238). -/
def ctxReach (c v : Nat) (s : State) : State :=
  if (ctxOf s c).closing then modCtx c (fun x => { x with later := x.later ++ [v] }) s else ctxCommand c v s

/-- The commands that waited for a CLOSE are performed in order, up to the next CLOSE that waits. -/
def ctxLater (c : Nat) : List Nat → State → State
  | [], s => s
  | v :: l, s => if (ctxOf s c).closing then modCtx c (fun x => { x with later := v :: l }) s else ctxLater c l (ctxCommand c v s)

/-- Whether a byte of a context is one only the stream unit writes (R238). -/
def ctxOwned (o : Nat) : Bool := decide (o ≤ 0x08) || decide (0x80 ≤ o ∧ o < 0xC8)
/-- Whether a byte of a context is reserved (R236). -/
def ctxReserved (o : Nat) : Bool :=
  decide (o = 0x0D) || decide (0x54 ≤ o ∧ o < 0x60) || decide (0x70 ≤ o ∧ o < 0x80) || decide (0xC8 ≤ o ∧ o < 0xF8)

/-- Whether a byte of a context always reads zero: the reserved ones, the tops of length, sketched and fault_info, and ctrl (R236). -/
def ctxZero (o : Nat) : Bool :=
  ctxReserved o || decide (o = 0x03) || decide (o = 0x07) || decide (0xC5 ≤ o ∧ o < 0xC8) || decide (0xF8 ≤ o)

/-- The initial bytes of a context, with zero where a byte always reads zero and in the reserved bits of flags (R70, R236). -/
def ctxInitial (b : List Byte) : Memory :=
  Memory.writeBytes [] 0 (b.zipIdx.map (fun t =>
    if ctxZero t.2 then 0 else if t.2 = 0x09 then BitVec.ofNat 8 (t.1.toNat % 4) else t.1))

/-- Store the bytes of a context that are neither reserved nor the stream unit's: flags keeps bit 0 (R70, R238). -/
def ctxBytes (x : Ctx) (off : Nat) (d : List Byte) : Ctx :=
  { x with mem := (d.zipIdx off).foldl (fun m bo =>
      if ctxReserved bo.2 then m
      else if bo.2 = 0x09 then m.write 0x09 (BitVec.ofNat 8 (bo.1.toNat % 4))
      else m.write bo.2 bo.1) x.mem }

/-- A store to a context (R235, R238): the state, or nothing where it is refused under R36 with 0x9003. -/
def ctxStore (c off : Nat) (d : List Byte) (s : State) : Option State :=
  let x := ctxOf s c
  let touched := (List.range d.length).map (· + off)
  if x.alloc = false ∨ 256 < off + d.length then none
  else if off + d.length > 0xF8 then
    if off = 0xF8 ∧ d.length = 8 then some (ctxReach c (leVal d) s) else none
  else if touched.any ctxOwned then none
  else if touched.contains 0x09 && decide (((d.getD (0x09 - off) 0).toNat % 2 = 1) ≠ (x.digital = true)) then none
  else if x.state = 1 ∧ touched.any (fun o => decide (o < 0x60 ∨ 0x68 ≤ o)) then none
  else some (modCtx c (fun x => ctxBytes x off d) s)

/-- The bytes a load of a context returns: zero where it is not allocated, and ctrl reads zero (R235, R236). -/
def ctxLoad (s : State) (c off n : Nat) : List Byte :=
  let x := ctxOf s c
  if x.alloc then x.mem.bytes off n else List.replicate n 0

/-- The stores a fox core, a remote device or the host makes to the STREAM block of DCS, by its offset (R235). -/
def streamStore (off : Nat) (d : List Byte) (s : State) : Option State :=
  let o := off - 0x03000000
  ctxStore (o / 256) (o % 256) d s

/-- A store to a context that is refused under R36 (R235, R238). -/
def ctxRefuse (e c off : Nat) (s : State) : State :=
  addrFault 0x9003 e (mkHall (myLogical s) 4 (0x03000000 + c * 256 + off)) s

/-- STREAM_APPEND (R240): an engine or the host stores an APPEND to ctrl. -/
def execStreamAppend (e c n : Nat) (s : State) : Out :=
  .next (if (ctxOf s c).alloc then ctxReach c (1 + n * 2 ^ 16) s else ctxRefuse e c 0xF8 s)

/-- STREAM_OPEN (R238). -/
def execStreamOpen (e c : Nat) (s : State) : Out :=
  .next (if (ctxOf s c).alloc then ctxReach c 2 s else ctxRefuse e c 0xF8 s)

/-- STREAM_CLOSE (R238). -/
def execStreamClose (e c : Nat) (s : State) : Out :=
  .next (if (ctxOf s c).alloc then ctxReach c 3 s else ctxRefuse e c 0xF8 s)

/-- STREAM_RESET (R238). -/
def execStreamReset (e c : Nat) (s : State) : Out :=
  .next (if (ctxOf s c).alloc then ctxReach c 4 s else ctxRefuse e c 0xF8 s)

/-- CONTEXT_STORE (R238): a store to a context by an engine or the host, refused under R36 where its field or state says so. -/
def execContextStore (e c off : Nat) (d : List Byte) (s : State) : Out :=
  match ctxStore c off d s with
  | some t => .next t
  | none => .next (ctxRefuse e c off s)

/-- CLOSE_COMPLETE (R238): a pending CLOSE takes effect once every accepted append has been sketched, and the commands behind it follow. -/
def execCloseComplete (c : Nat) (s : State) : Out :=
  let x := ctxOf s c
  if x.closing && x.queue.isEmpty then
    .next (ctxLater c x.later (modCtx c (fun x => { (x.put 0x08 1 0) with closing := false, later := [] }) s))
  else .next s

/-- A sketch word stored to another device is performed. -/
def streamAnswered (c : Nat) (s : State) : State := modCtx c (fun x => { x with flight := x.flight - 1 }) s

/-- A sketch word stored to another device was refused or lost: a context fault (R258). -/
def streamFailed (c : Nat) (s : State) : State := ctxFault c 0x6404 (ctxOf s c).sketched false (streamAnswered c s)

end Sys2Proof.Machine
end

