-- ==== Sys2Proof/Machine/Dcs.lean ====
section
/-! DEFINITION. The part of DCS that engines and other devices reach: the TALLY and STREAM blocks (R172, R403, R426, R235). -/

namespace Sys2Proof.Machine

open Sys2Proof

/-- The stage code of TALLY.EPOCH_STATE (R426). -/
def EpochStage.code : EpochStage → Nat
  | .none => 0 | .running => 1 | .arrived => 2 | .mirroring => 3 | .ready => 4 | .keep => 5 | .rollback => 6 | .waitSpare => 7

/-- The registers of the TALLY block after the direct window (R426), by their offset in DCS. -/
def epochReg (s : State) (off : Nat) : Nat :=
  let p := s.epoch
  match off with
  | 0x02A00000 => p.stage.code + 8 * b2n p.steward + 16 * b2n p.deputy + 32 * b2n p.coordinator + 64 * b2n p.keepValid +
      p.commit % 2 ^ 32 * 2 ^ 32
  | 0x02A00008 => p.boundaryUs + ofInt 16 p.lag * 2 ^ 32 + 2 ^ 48 * p.lagCount
  | 0x02A00010 => p.rollbacks + 2 ^ 32 * p.takeovers + 2 ^ 48 * p.faults
  | 0x02A00018 => p.partner + 2 ^ 15 * b2n p.inSpan + 2 ^ 16 * b2n p.lease + 2 ^ 17 * b2n p.lost
  | 0x02A00020 => p.lostLogical + 2 ^ 15 * p.lostPhysical + 2 ^ 30 * p.lostCause + p.lostCommit % 2 ^ 32 * 2 ^ 32
  | 0x02A00028 => let e := errSummary s; e.1 + 2 ^ 32 * e.2
  | _ => 0

/-- Whether an offset of DCS lies in the window engines and other devices may reach (R172). -/
def dcsWindow (off len : Nat) : Bool := decide (0x02800000 ≤ off) && decide (off + len ≤ 0x03400000)

/-- Whether an access of DCS stays in the window and, in its TALLY block, has a form of the tally unit (R172, R403). -/
def dcsMay (s : State) (here : Bool) (off len : Nat) (write : Bool) (v : Nat) : Bool :=
  dcsWindow off len && (decide (0x02A00000 ≤ off) || tallyMay s here (off - 0x02800000) len write v)

/-- Bytes of DCS in the window. -/
def dcsLoad (s : State) (off len : Nat) : List Byte :=
  if off < 0x02A00000 then tallyLoad s (off - 0x02800000) len
  else if off < 0x03000000 then slice (leBytes 8 (epochReg s (off / 8 * 8))) (off % 8) len
  else ctxLoad s ((off - 0x03000000) / 256) (off % 256) len

/-- A store to DCS in the window: nothing where it is refused; a store to a read-only register is ignored. -/
def dcsStore (e off : Nat) (d : List Byte) (s : State) : Option State :=
  if off < 0x02A00000 then tallyStore e (off - 0x02800000) d.length (leVal d) s
  else if off < 0x03000000 then some s
  else streamStore off d s

end Sys2Proof.Machine
end

