-- ==== Sys2Proof/Machine/Directory.lean ====
section
/-! DEFINITION. The home directory of core store: transactions on a line (R368 to R377). -/

namespace Sys2Proof.Machine

open Sys2Proof

/-! ### The sett (R368) -/

/-- The sett index of a logical device. -/
def settIndex (d : Nat) : Nat := d % 16
/-- The device of a sett index in a device's sett. -/
def settDev (me m : Nat) : Nat := me / 16 * 16 + m
/-- Whether two logical devices share a sett. -/
def inSett (a b : Nat) : Bool := decide (a / 16 = b / 16)
/-- The directory's name for an L1: sett index, die and core (R369). -/
def ownerCode (dev core : Nat) : Nat := settIndex dev * 256 + engDie core * 32 + engUnit core % 32
/-- The core of an owner code. -/
def ownerCore (o : Nat) : Nat := engId 2 (o / 32 % 8) (o % 32)
/-- The device of an owner code. -/
def ownerDev (s : State) (o : Nat) : Nat := settDev (myLogical s) (o / 256)

/-- The directory entry of a line of this device's core store. -/
def dirOf (s : State) (line : Nat) : Dir := SMap.get {} s.sett.dir line
/-- Change a directory entry. -/
def modDir (line : Nat) (f : Dir → Dir) (s : State) : State :=
  { s with sett := { s.sett with dir := SMap.modify {} s.sett.dir line f } }
/-- The compute die that holds a line. -/
def lineDie (line : Nat) : Nat := line / 2 ^ 20
/-- The slice that holds a line (R190). -/
def lineSlice (line : Nat) : Nat := lineDie line * 16 + line % 16
/-- Change the coherence counters of a line's die (R380). -/
def modCounts (line : Nat) (f : SettCounts → SettCounts) (s : State) : State :=
  { s with sett := { s.sett with counts := SMap.modify {} s.sett.counts (lineDie line) f } }

/-! ### Messages (R356, R357) -/

/-- The channel of a coherence message. -/
def cohVc (ptype : Nat) : Nat := if ptype < 0x50 then 1 else 2

/-- Send a coherence message about a line homed on `home`: `core` names the L1 it concerns. -/
def sendCoh (ptype dest home line core tag gen : Nat) (dirty poison : Bool) (d : List Byte) (s : State) : State :=
  let b : MemBody := { addr := mkHall home 2 (line * 64), core := core, slotGen := gen, err := dirty, poison := poison, data := d }
  routePacket { issuePacket s ptype (cohVc ptype) dest tag (.mem b) with cls := if ptype < 0x50 then 0 else 1 } s

/-- The memory fields of a packet. -/
def memOf (p : Packet) : MemBody :=
  match p.body with
  | .mem m => m
  | _ => {}

/-- The line a packet names. -/
def packetLine (p : Packet) : Nat := (hallAddr (memOf p).addr).off / 64

/-- The directory's name for the sender's L1. -/
def senderCode (p : Packet) : Nat := ownerCode p.source (memOf p).core

/-- Answer a coherence request, with the line's data where the answer carries it. -/
def answerCoh (ptype line : Nat) (p : Packet) (s : State) : State :=
  let withData := decide (0x50 ≤ ptype ∧ ptype ≤ 0x52)
  sendCoh ptype p.source (myLogical s) line (memOf p).core p.tag (memOf p).slotGen false
    (withData && poisoned s .cs (line * 64) 64) (if withData then readStore s .cs (line * 64) 64 else []) s

/-! ### Transactions (R371) -/

/-- The sharers of an entry, as sett indices. -/
def sharerList (d : Dir) : List Nat := (List.range 16).filter (fun m => bit d.sharers m)

/-- The entry once a transaction has completed: a stable state, with no request. -/
def dirDone (st : DirState) (sharers owner line : Nat) (s : State) : State :=
  modDir line (fun d => { d with state := st, sharers := sharers, owner := owner, ext := false, req := none, acks := [] }) s

/-- Grant a line to the requester of a GETM or UPG: GRANT in place of data where its device was a sharer of an upgrade. -/
def grantM (line : Nat) (p : Packet) (granted : Bool) (s : State) : State :=
  let s := answerCoh (if granted then 0x59 else 0x52) line p s
  dirDone .em 0 (senderCode p) line s

/-- Send SNP_SHARE or SNP_INV to the owner of a line, and wait for its answer. -/
def snoopOwner (line : Nat) (inv : Bool) (req : HomeReq) (ext : Bool) (s : State) : State :=
  let d := dirOf s line
  let s := modCounts line (fun c => { c with snoops := satAdd 64 c.snoops 1 }) s
  let s := modDir line (fun d => { d with state := .bSnp, req := some req, ext := ext }) s
  sendCoh (if inv then 0x49 else 0x48) (ownerDev s d.owner) (myLogical s) line (ownerCore d.owner) 0 0 false false [] s

/-- Send INV to sharers of a line, and wait for their INV_ACKs. -/
def invSharers (line : Nat) (ms : List Nat) (req : HomeReq) (ext : Bool) (s : State) : State :=
  let s := modCounts line (fun c => { c with invs := satAdd 64 c.invs ms.length }) s
  let s := modDir line (fun d => { d with
    state := .bInv, req := some req, ext := ext, acks := ms.map (settDev (myLogical s)) }) s
  forEach ms (fun m s => sendCoh 0x4A (settDev (myLogical s) m) (myLogical s) line 0 0 0 false false [] s) s

/-- Begin a transaction on a line in a stable state (R371). -/
def dirStart (line : Nat) (req : HomeReq) (s : State) : State :=
  let d := dirOf s line
  match req with
  | .gets p =>
    let s := modCounts line (fun c => { c with gets := satAdd 64 c.gets 1 }) s
    match d.state with
    | .shared => dirDone .shared (d.sharers ||| 2 ^ settIndex p.source) 0 line (answerCoh 0x50 line p s)
    | .em => snoopOwner line false req false s
    | _ => dirDone .em 0 (senderCode p) line (answerCoh 0x51 line p s)
  | .getm p up =>
    let s := modCounts line (fun c => { c with getm := satAdd 64 c.getm 1 }) s
    match d.state with
    | .shared =>
      let ms := (sharerList d).filter (fun m => m != settIndex p.source)
      if ms.isEmpty then grantM line p (up && bit d.sharers (settIndex p.source)) s
      else invSharers line ms (.getm p (up && bit d.sharers (settIndex p.source))) false s
    | .em => snoopOwner line true (.getm p false) false s
    | _ => grantM line p false s
  | .recall write =>
    match d.state with
    | .shared =>
      if !write then s
      else if (sharerList d).isEmpty then dirDone .inv 0 0 line s
      else invSharers line (sharerList d) req true s
    | .em => snoopOwner line write req true s
    | _ => s

/-- Complete the transaction of a line whose owner has answered, with the owner's device left as a sharer of a share snoop. -/
def dirAnswered (line : Nat) (s : State) : State :=
  let d := dirOf s line
  let o := 2 ^ (d.owner / 256)
  match d.req with
  | some (.gets p) => dirDone .shared (o ||| 2 ^ settIndex p.source) 0 line (answerCoh 0x50 line p s)
  | some (.getm p _) => grantM line p false s
  | some (.recall write) => if write then dirDone .inv 0 0 line s else dirDone .shared o 0 line s
  | none => s

/-- Complete the transaction of a line whose sharers have all acknowledged. -/
def dirAcked (line : Nat) (s : State) : State :=
  match (dirOf s line).req with
  | some (.getm p up) => grantM line p up s
  | some (.recall _) => dirDone .inv 0 0 line s
  | _ => dirDone .inv 0 0 line s

/-- Whether a line has no transaction in progress. -/
def dirStable (d : Dir) : Bool := decide (d.state = .inv ∨ d.state = .shared ∨ d.state = .em)

/-- Whether an uncached access may be performed on a line: no cache holds it, or a read finds it clean (R371). -/
def lineReady (s : State) (write : Bool) (line : Nat) : Bool :=
  match (dirOf s line).state with
  | .inv => true
  | .shared => !write
  | _ => false

/-- Whether every line of a range of core store is ready for an uncached access. -/
def csReady (s : State) (off len : Nat) (write : Bool) : Bool := (linesOf off len).all (lineReady s write)

/-- Begin to take back the lines of a range that are not ready and have no transaction (R371, last two rows). -/
def csRecall (off len : Nat) (write : Bool) (s : State) : State :=
  forEach (linesOf off len) (fun l s =>
    if !lineReady s write l && dirStable (dirOf s l) then dirStart l (.recall write) s else s) s

/-- Count uncached accesses performed at core store (R380). -/
def countUncached (off n : Nat) (s : State) : State :=
  modCounts (off / 64) (fun c => { c with uncached := satAdd 64 c.uncached n }) s

/-- Write the data an owner gave back into core store. -/
def ownerData (line : Nat) (m : MemBody) (s : State) : State :=
  if m.poison then writePoisoned .cs (line * 64) m.data s else writeStore .cs (line * 64) m.data s

end Sys2Proof.Machine
end

