-- ==== Sys2Proof/Machine/Dead.lean ====
section
/-! DEFINITION. Dead targets: what a request that draws no response does at its issuer (R362, R363, R343). -/

namespace Sys2Proof.Machine

open Sys2Proof

/-- Mark a time-limited action: whether it is due, and the state with the mark (as R416's limit on SUSPECT). -/
def rateDue (code key period : Nat) (s : State) : Bool :=
  let t := nowNs s
  !(s.log.lastAt.any (fun m => m.1 == code && m.2.1 == key && decide (m.2.2 ≤ t) && decide (t < m.2.2 + period)))

/-- Note a time-limited action as taken now. -/
def rateMark (code key : Nat) (s : State) : State :=
  let keep := s.log.lastAt.filter (fun m => !(m.1 == code && m.2.1 == key))
  { s with log := { s.log with lastAt := (code, key, nowNs s) :: keep } }

/-- Send SUSPECT, at most once per destination per 10 ms (R416). -/
def sendSuspect (d : Nat) (s : State) : State :=
  if spanRuns s && rateDue 0x8B d 10000000 s then sendMsg (.suspect d) (coordinatorBut s d) (rateMark 0x8B d s) else s

/-- The record of a dead target: counter, last destination, event, ORDER_SKIP for a lost ordered packet, and the report (R363). -/
def noteDead (e ptype d cause lost : Nat) (s : State) : State :=
  let r := s.remote
  let s := { s with remote := { r with
    timeouts := satAdd 64 r.timeouts 1, deadDevice := d, deadValid := true, deadWhen := s.time.hall.sec } }
  let s := logOncePhase 0x9030 d e [(2, e), (2, d), (2, ptype), (2, cause)] s
  let s := if lost = 0 then s else sendMsg (.orderSkip lost) d s
  sendSuspect d s

end Sys2Proof.Machine
end

