-- ==== Sys2Proof/Machine/Mirror.lean ====
section
/-! DEFINITION. The committed state: the state record, a device's copy, and the firmware's transfers of copies (R407 to R409, R412, R414,
R420). -/

namespace Sys2Proof.Machine

open Sys2Proof

/-! ### The state record (R408) -/

/-- The bytes of a state record. -/
def recordSize : Nat := 2 ^ 24

/-- The bytes of a device's copy: its state record and its shards (R409). -/
def copySize (s : State) : Nat := recordSize + ((mySections s).shards.map (·.size)).foldl (· + ·) 0

/-- The header of a state record: commit `c`, the phase that follows, and a hall time in ns. -/
def recordHeader (s : State) (c next t : Nat) : List Byte :=
  let h := leBytes 8 (planId s) ++ leBytes 8 c ++ leBytes 2 (s.run.me.getD 0) ++ leBytes 2 0 ++ leBytes 4 next ++ leBytes 8 (copySize s) ++
    leBytes 8 (t / 1000000000) ++ leBytes 4 (t % 1000000000)
  h ++ leBytes 4 (crc32 h)

/-- The matrix record of a tile: EMPTY where it has none. -/
def matrixBytes (r : Option MatRec) : List (Nat × List Byte) :=
  match r with
  | some m => [(0, (m.w.flatten.map (leBytes 4)).flatten), (16384, leBytes 8 m.fold.toNat), (16392, leBytes 1 m.mode)]
  | none => [(16392, leBytes 1 0xFF)]

/-- The entry of a tally. -/
def tallyRecord (t : Tally) : List Byte :=
  leBytes 8 t.count ++ leBytes 1 (b2n t.error + 2) ++ leBytes 1 0 ++ leBytes 2 t.errCode ++ leBytes 2 t.errEngine ++ leBytes 2 0

/-- The parts of a state record, by offset. -/
def recordParts (s : State) (c next t : Nat) : List (Nat × List Byte) :=
  [(0, recordHeader s c next t)] ++
  ((List.range 8).map (fun k => (matrixBytes (SMap.get {} s.units.ppe k).record).map (fun p => (0x10000 + 0x8000 * k + p.1, p.2)))).flatten ++
  (s.tallies.filter (fun e => e.2.allocated)).map (fun e => (0x100000 + 16 * e.1, tallyRecord e.2)) ++
  (s.units.ctx.filter (fun e => e.2.alloc)).map (fun e => (0x200000 + 256 * e.1, e.2.mem.bytes 0 256)) ++
  s.run.passes.map (fun e => (0x600000 + 4 * e.1, leBytes 4 e.2))

/-- A state record, as a memory of 16 MiB from address 0. -/
def stateRecord (s : State) (c next t : Nat) : Memory :=
  (recordParts s c next t).foldl (fun m p => Memory.writeBytes m p.1 p.2) []

/-! ### Copies (R409) -/

/-- The place of a byte of the shards: its store and offset there. -/
def shardAt : List Shard → Nat → Option (Store × Nat)
  | [], _ => none
  | x :: l, i => if i < x.size then (spaceStore x.space).map (fun st => (st, x.off + i)) else shardAt l (i - x.size)

/-- A byte of this device's live copy, with its state record, and whether its line is poisoned. -/
def liveByte (rc : Memory) (s : State) (i : Nat) : Byte × Bool :=
  if i < recordSize then (rc.read i, false)
  else match shardAt (mySections s).shards (i - recordSize) with
    | some (st, a) => ((storeOf s st).read a, (poisonOf s st).contains (a / 64))
    | none => (0, false)

/-- Copy a range of one memory into another. -/
def copyRange (src : Memory) (a : Nat) (dst : Memory) (b n : Nat) : Memory :=
  (src.filter (fun c => decide (a ≤ c.1 ∧ c.1 < a + n))).foldl (fun m c => Memory.write m (b + (c.1 - a)) c.2)
    (dst.filter (fun c => decide (c.1 < b) || decide (b + n ≤ c.1)))

/-- Copy the poison bits of a range of lines. -/
def copyPoison (src : List Nat) (a : Nat) (dst : List Nat) (b n : Nat) : List Nat :=
  (src.filter (fun l => decide (a ≤ l * 64 ∧ l * 64 < a + n))).foldl (fun acc l => insertNat ((b + (l * 64 - a)) / 64) acc)
    (dst.filter (fun l => decide (l * 64 < b) || decide (b + n ≤ l * 64)))

/-- Copy a range of HBM, or of another memory with its poisoned lines, into a store. -/
def putRange (src : Memory) (bad : List Nat) (a : Nat) (st : Store) (b n : Nat) (s : State) : State :=
  setPoison st (copyPoison bad a (poisonOf s st) b n) (setStore st (copyRange src a (storeOf s st) b n) s)

/-- The shards with the offset of each in the copy. -/
def shardPlaces : Nat → List Shard → List (Nat × Shard)
  | _, [] => []
  | o, x :: l => (o, x) :: shardPlaces (o + x.size) l

/-- The base of a hoard and its size: of the plan, or with `leased` of the lease for another span's device (R409, R532). -/
def hoardOf (s : State) (leased : Bool) : Option (Nat × Nat) :=
  if leased then s.hub.lease.map (fun l => (l.base, l.need))
  else (s.run.plan.bind (·.epoch)).map (fun e => (e.hoardBase, e.hoardSize))

/-- The base of this device's keep. -/
def keepBase (s : State) : Nat :=
  match s.run.plan.bind (·.epoch) with
  | some e => e.hoardBase + e.hoardSize
  | none => 0

/-- The number of the next commit (R412, R415). -/
def nextCommit (s : State) : Nat := if s.epoch.has then s.epoch.commit + 1 else 0

/-! ### Transfers (R412, R414, R420) -/

/-- The code of a transfer's kind in its packets (log entry 36): 0 goes to a hoard, 1 and 2 to the state of a spare. -/
def XferKind.code : XferKind → Nat
  | .mirror => 0 | .remirror => 0 | .restore => 1 | .swap => 2

/-- The packet type of a transfer. -/
def XferKind.ptype : XferKind → Nat
  | .mirror => 0x70
  | _ => 0x71

/-- Bytes of a transfer's source, with whether one of them is poisoned. -/
def xferBytes (s : State) (x : Xfer) (n : Nat) : List Byte × Bool :=
  match x.kind with
  | .remirror => (readStore s .hbm (keepBase s + x.sent) n, poisoned s .hbm (keepBase s + x.sent) n)
  | .restore =>
    let b := ((hoardOf s x.phys).getD (0, 0)).1 + x.base + x.sent
    (readStore s .hbm b n, poisoned s .hbm b n)
  | _ =>
    let c := if x.kind = .mirror then nextCommit s else s.epoch.commit
    let rc := stateRecord s c s.run.phase s.epoch.boundaryAt
    let l := (List.range n).map (fun i => liveByte rc s (x.sent + i))
    (l.map (·.1), l.any (·.2))

/-- The next packet of a transfer: one header flit and up to 1,216 bytes (R414). -/
def xferPacket (s : State) (x : Xfer) (n : Nat) : Packet :=
  let d := xferBytes s x n
  let b : MemBody := { len := n, op := x.kind.code, poison := d.2, addr := mkHall x.dest 5 (x.base + x.sent), data := d.1 }
  let p := issuePacket s x.kind.ptype 0 x.dest 0 (.mem b)
  if x.phys then { p with phys := true, source := s.fab.position } else p

/-- Change the transfers that match. -/
def modXfers (f : Xfer → Xfer) (s : State) : State :=
  { s with epoch := { s.epoch with xfers := s.epoch.xfers.map f } }

/-- Send packets of the transfers while request slots are free. -/
def pumpXfers : Nat → State → State
  | 0, s => s
  | f + 1, s =>
    match s.epoch.xfers.find? (fun x => decide (x.sent < x.size)) with
    | none => s
    | some x =>
      let n := min 1216 (x.size - x.sent)
      match sendRequest srcDevice (.firmware n) (xferPacket s x n) s with
      | none => s
      | some s => pumpXfers f (modXfers (fun y => if y = x then { y with sent := y.sent + n } else y) s)

/-- The packets the transfers still have to send. -/
def xferFuel (s : State) : Nat := (s.epoch.xfers.map (fun x => (x.size - x.sent) / 1216 + 1)).foldl (· + ·) 0

/-- Go on with the transfers. -/
def runXfers (s : State) : State := pumpXfers (xferFuel s) s

/-- Start a transfer. -/
def startXfer (x : Xfer) (s : State) : State := runXfers { s with epoch := { s.epoch with xfers := s.epoch.xfers ++ [x] } }

/-- Whether a packet belongs to a transfer. -/
def xferOf (p : Packet) (x : Xfer) : Bool :=
  match p.body with
  | .mem m => x.kind.ptype == p.ptype && x.kind.code == m.op && x.dest == p.dest && x.phys == p.phys
  | _ => false

/-- A packet of a transfer is acknowledged: the bytes that go to a hoard count in tally 65,283 (R403). -/
def xferAcked (n : Nat) (p : Packet) (s : State) : State :=
  let s := modXfers (fun x => if xferOf p x then { x with acked := x.acked + n } else x) s
  let hoard := s.epoch.xfers.any (fun x => xferOf p x && x.kind.code == 0)
  runXfers (if hoard then tallyAdd 65283 n srcDevice s else s)

/-- The device continues without a remote copy (R425). -/
def hoardLost (s : State) : State :=
  if s.epoch.lost then s
  else logEvent 0xA00B srcDevice [] { s with epoch := { s.epoch with
    lease := false
    lost := true
    xfers := s.epoch.xfers.filter (fun x => !x.phys) } }

/-- A line of the keep that a survivor fetched from its partner's hoard (R420). -/
def fetchedLine (p : Packet) (d : List Byte) (bad : Bool) (s : State) : State :=
  if bad then { s with epoch := { s.epoch with noCopy := true } }
  else
    let half := ((hoardOf s false).getD (0, 0)).2 / 2
    writeStore .hbm (keepBase s + (hallAddr (match p.body with
      | .mem m => m.addr
      | _ => 0)).off % (max 1 half)) d s

/-- A packet of a transfer failed (R403, R425): tally 65,282; a lease holder that does not answer is lost; a line that could not be fetched
has no copy. -/
def xferFailed (code : Nat) (p : Packet) (s : State) : State :=
  let s := tallyError 65282 code srcDevice s
  if p.ptype = 0 then { s with epoch := { s.epoch with noCopy := true } }
  else if p.phys && s.epoch.xfers.any (xferOf p) && decide (code = 0x9030) then hoardLost s else s

end Sys2Proof.Machine
end

