-- ==== Sys2Proof/Machine/Home.lean ====
section
/-! DEFINITION. The home of a remote request: its checks, its effect and its answer (R357 to R361, R365, R372). -/

namespace Sys2Proof.Machine

open Sys2Proof

/-- The engine ID of accesses that arrive over the fabric (R63). -/
def srcRemote : Nat := 0x6000

/-- A response to a request: it copies the slot and its generation (R359, R364). -/
def respond (ptype : Nat) (p : Packet) (b : MemBody) (s : State) : State :=
  let b := { b with slotGen := (memOf p).slotGen, addr := (memOf p).addr, core := (memOf p).core }
  routePacket { issuePacket s ptype 2 p.source p.tag (.mem b) with phys := p.phys, cls := 1, answers := p.ptype
                                                                   source := if p.phys then s.fab.position else myLogical s } s

/-- RD_DATA. -/
def respondData (p : Packet) (d : List Byte) (poison : Bool) (s : State) : State :=
  respond 0x10 p { len := d.length, poison := poison, data := d } s

/-- ACK, with an atomic's old value; `err` tells the issuer of an SDF that an earlier ordered packet was lost (R343). -/
def respondAck (p : Packet) (old : Nat) (poison err : Bool) (s : State) : State :=
  respond 0x11 p { operand := BitVec.ofNat 128 old, poison := poison, err := err } s

/-- ERR with the event code that caused the refusal. -/
def respondErr (p : Packet) (code : Nat) (s : State) : State :=
  respond 0x12 p { operand := BitVec.ofNat 128 code } s

/-- The mark of a source, which the next flagged packet from it takes (R343, R365). -/
def takeMark (src : Nat) (s : State) : Nat × State :=
  (SMap.get 0 s.fab.skipMarked src, { s with fab := { s.fab with skipMarked := SMap.erase src s.fab.skipMarked } })

/-- Set a tally's error bit without releasing its waiters: the add that follows releases them (R365). -/
def markTally (i code eng : Nat) (s : State) : State :=
  let t := tallyOf s i
  if t.error then s else setTally i { t with error := true, errCode := code, errEngine := eng } s

/-- Whether a remote request may reach its space with its type (R33, R172, R201, R358). -/
def remoteMay (ptype op elem : Nat) (h : HAddr) (len : Nat) : Bool :=
  match ptype with
  | 0x03 => (decide (h.space < 3) && atomOk op elem) || (decide (h.space = 3) && decide (op = 1 ∧ elem = 1 ∧ h.off % 32 = 0))
  | 0x04 => decide (h.space < 3) && atomOk op elem && decide (1 ≤ op ∧ op ≤ 6)
  | 0x02 => decide (h.space < 3)
  | 0x05 => decide (h.space = 3)
  | _ => decide (h.space < 4) || (decide (h.space = 4) && dcsWindow h.off len)

/-- The bytes a remote request reaches. -/
def remoteLen (p : Packet) : Nat :=
  let m := memOf p
  match p.ptype with
  | 0x00 => m.len
  | 0x03 => elemBytes m.elem
  | 0x05 => 8
  | _ => m.data.length

/-- The alignment a remote request needs. -/
def remoteAlign (p : Packet) : Nat :=
  match p.ptype with
  | 0x03 => elemBytes (memOf p).elem
  | 0x04 => elemBytes (memOf p).elem
  | 0x05 => 32
  | _ => 1

/-- The address of a request as this device's own. -/
def localForm (s : State) (a : Word64) : Word64 :=
  let h := hallAddr a
  if h.form = 1 then mkHall (myLogical s) h.space h.off else a

/-- A refused request: recorded as R36 states, its source marked where it is an ordered packet without a flag, answered with ERR (R361, R365). -/
def refuseRemote (p : Packet) (code : Nat) (record : Bool) (s : State) : State :=
  let s := if record then logEvent code srcRemote [(2, srcRemote), (8, (memOf p).addr.toNat)] s else s
  let s := if isOrdered p.ptype && !p.flagged then
    { s with fab := { s.fab with skipMarked := SMap.set 0 s.fab.skipMarked p.source code } } else s
  let s := respondErr p code s
  if isOrdered p.ptype then orderApplied p.source 1 s else s

/-- The elements of a reducing write, one atomic each (R365, R204); an element of poisoned data is not combined and poisons its line (R557). -/
def reduceWrite (st : Store) (op elem : Nat) : List Byte → Nat → Bool → Nat → State → State
  | _, _, _, 0, s => s
  | d, a, bad, f + 1, s =>
    let n := elemBytes elem
    if d.length < n then s
    else
      let s := if bad then poisonLines st (linesOf a n) s else (atomAt st a op elem (leVal (d.take n)) 0 s).2.2
      reduceWrite st op elem (d.drop n) (a + n) bad f s

/-- Write data to a byte store, clean or poisoned. -/
def storeWrite (st : Store) (a : Nat) (d : List Byte) (bad : Bool) (s : State) : State :=
  if bad then writePoisoned st a d s else writeStore st a d s

/-- The effect of a request on a byte store, and its answer. -/
def serveStore (st : Store) (ecc : Ecc) (p : Packet) (s : State) : State :=
  let m := memOf p
  let a := (hallAddr m.addr).off
  let n := remoteLen p
  let s := served st (decide (n ≤ 64) && decide (p.vc = 1)) a n s
  let s := if st = .cs then countUncached a (if p.ptype = 4 then n / elemBytes m.elem else 1) s else s
  match p.ptype with
  | 0x00 =>
    let s := eccNote st a srcRemote ecc s
    respondData p (readStore s st a n) (poisoned s st a n) s
  | 0x03 =>
    let s := eccNote st a srcRemote ecc s
    let r := atomAt st a m.op m.elem m.operand.toNat m.extra.toNat s
    respondAck p r.1 r.2.1 false r.2.2
  | 0x04 => respondAck p 0 false false (reduceWrite st m.op m.elem m.data a m.poison (n + 1) (eccNote st a srcRemote ecc s))
  | _ => respondAck p 0 false false (storeWrite st a m.data m.poison s)

/-- A signal or post from another device (R357, R365): a marked source or err sets the error bit as it adds. -/
def serveSig (p : Packet) (s : State) : State :=
  let m := memOf p
  let i := (hallAddr m.addr).off / 32
  let k := takeMark p.source s
  let s := k.2
  let s := if k.1 ≠ 0 then markTally i k.1 srcRemote s else s
  let s := if m.err then markTally i ((freeWord s).toNat % 65536) srcRemote (useFree s) else s
  respondAck p 0 false false (tallyAdd i (m.operand.toNat % 2 ^ 64) srcRemote s)

/-- The effect of a request that has passed its checks. An ordered packet counts as applied (R341). -/
def servePacket (ecc : Ecc) (p : Packet) (s : State) : State :=
  let m := memOf p
  let h := hallAddr m.addr
  let s := match spaceStore h.space with
    | some st =>
      let k := if p.flagged then takeMark p.source s else (0, s)
      if k.1 ≠ 0 then respondAck p 0 false true (storeWrite st h.off m.data m.poison k.2) else serveStore st ecc p k.2
    | none =>
      if p.ptype = 5 then (if tallyOpen s (h.off / 32) then serveSig p s else s)
      else if h.space = 3 then
        if p.ptype = 0 then respondData p (tallyLoad s h.off m.len) false s
        else if p.ptype = 3 then respondAck p (tallyOf s (h.off / 32)).count false false (tallyAdd (h.off / 32) (m.operand.toNat % 2 ^ 64) srcRemote s)
        else respondAck p 0 false false ((tallyStore srcRemote h.off m.data.length (leVal m.data) s).getD s)
      else
        if p.ptype = 0 then respondData p (dcsLoad s h.off m.len) false s
        else respondAck p 0 false false ((dcsStore srcRemote h.off m.data s).getD s)
  if isOrdered p.ptype then orderApplied p.source 1 s else s

/-- What the tally unit and the stream unit refuse of a request: misuses of their spaces, which R560 finds before the range (R403, R238). -/
def unitRefuses (p : Packet) (s : State) : Bool :=
  let m := memOf p
  let h := hallAddr m.addr
  let write := decide (p.ptype ≠ 0)
  if h.space = 3 then
    if p.ptype = 3 ∨ p.ptype = 5 then !tallyMay s true (h.off / 32 * 32) 8 true 0
    else !tallyMay s true h.off (remoteLen p) write (leVal m.data)
  else if h.space = 4 then !dcsMay s true h.off (remoteLen p) write (leVal m.data) || (write && (dcsStore srcRemote h.off m.data s).isNone)
  else false

/-- Whether an earlier request that waits touches a line of this one. -/
def behindWaiting (p : Packet) (s : State) : Bool :=
  let h := hallAddr (memOf p).addr
  s.sett.waiting.any (fun q => overlaps (h.off / 64 * 64, remoteLen p + h.off % 64)
    ((hallAddr (memOf q).addr).off / 64 * 64, remoteLen q + (hallAddr (memOf q).addr).off % 64))

/-- Serve a remote request (R359, R360): refused, held for its lines of core store, or performed. -/
def serveRemote (ecc : Ecc) (p : Packet) (s : State) : State :=
  let m := memOf p
  let h := hallAddr m.addr
  let n := remoteLen p
  match downAt s (localForm s m.addr) with
  | some _ => refuseRemote p 0x9020 false s
  | none =>
    let write := decide (p.ptype ≠ 0)
    let may := remoteMay p.ptype m.op m.elem h n && !unitRefuses p s
    let stage := accessStage s srcRemote (localForm s m.addr) n (remoteAlign p) write may
    let part := decide (p.ptype = 4) && decide (n % elemBytes m.elem ≠ 0)
    match (if part && decide (stage = none ∨ stage = some 5) then some 4 else stage) with
    | some g => refuseRemote p (stageCode g) true s
    | none =>
      if h.space = 2 ∧ (csReady s h.off n write = false ∨ behindWaiting p s = true) then
        { csRecall h.off n write s with sett := { (csRecall h.off n write s).sett with
            waiting := (csRecall h.off n write s).sett.waiting ++ [p] } }
      else servePacket ecc p s

/-- Requests that waited for lines are tried again, in their order, ahead of the wait buffers (R372). -/
def retryWaiting (s : State) : State :=
  forEach s.sett.waiting (serveRemote .ok) { s with sett := { s.sett with waiting := [] } }

/-- A line in a stable state serves the requests in its wait buffer (R371, R372). -/
def dirServe (line : Nat) : Nat → State → State
  | 0, s => s
  | f + 1, s =>
    let d := dirOf s line
    match d.wait with
    | r :: rest => if dirStable d then dirServe line f (dirStart line r (modDir line (fun d => { d with wait := rest }) s)) else s
    | [] => s

/-- What follows a transaction on a line. -/
def homeNext (line : Nat) (s : State) : State :=
  let s := retryWaiting s
  dirServe line ((dirOf s line).wait.length + 1) s

/-! ### The commands of remote memory at the home -/

/-- Whether a packet comes from this device's hoard partner, or from the device its lease serves (R339, R414, R532). -/
def fromPartner (p : Packet) (s : State) : Bool :=
  if p.phys then
    (match s.hub.lease with
      | some l => l.served == some p.source
      | none => false) || (s.run.me.map partnerOf == some p.source)
  else s.run.me.map partnerOf == some p.source

/-- A read of a line of the hoard by the partner's firmware (R420). -/
def serveHoardRead (ecc : Ecc) (p : Packet) (s : State) : State :=
  let m := memOf p
  let o := (hallAddr m.addr).off
  match hoardOf s p.phys with
  | some h =>
    if fromPartner p s && decide (o + m.len ≤ h.2) then
      let s := eccNote .hbm (h.1 + o) srcRemote ecc s
      respondData p (readStore s .hbm (h.1 + o) m.len) (poisoned s .hbm (h.1 + o) m.len) s
    else refuseRemote p 0x9003 true s
  | none => refuseRemote p 0x9003 true s

/-- RD (R359). Space 5 answers the partner's firmware alone. -/
def execRd (p : Packet) (ecc : Ecc) (s : State) : Out :=
  let s := takeIngress p s
  .next (if (hallAddr (memOf p).addr).space = 5 then serveHoardRead ecc { p with ptype := 0x00 } s else serveRemote ecc { p with ptype := 0x00 } s)

/-- WR (R359). -/
def execWr (p : Packet) (s : State) : Out := .next (serveRemote .ok { p with ptype := 0x01 } (takeIngress p s))

/-- ATOM (R358); `ecc` is what the check of the word it reads finds. -/
def execAtom (x : Checked Packet) (s : State) : Out := .next (serveRemote x.ecc { x.it with ptype := 0x03 } (takeIngress x.it s))

/-- RED (R365); `ecc` is what the check of the words it reads finds. -/
def execRed (x : Checked Packet) (s : State) : Out := .next (serveRemote x.ecc { x.it with ptype := 0x04 } (takeIngress x.it s))

/-- SIG (R357): it is performed in its order, which the fabric's flagged ordering keeps. -/
def execSig (p : Packet) (s : State) : Out := .next (serveRemote .ok { p with ptype := 0x05 } (takeIngress p s))

/-- WR_MC (R344, R345, R367): a relay passes on the copies of the next stage, and a destination applies its own. -/
def execWrMc (p : Packet) (s : State) : Out :=
  let s := takeIngress p s
  let m := memOf p
  let set := (maskSet s (BitVec.ofNat 64 m.extra.toNat) (BitVec.ofNat 64 (m.extra.toNat / 2 ^ 64))).filter (fun d => d != p.source)
  let s := if p.mcast && decide (p.mstage < 2) then sendStage p p.mstage (multicastSet s p) s else s
  if set.contains (myLogical s) then .next (serveRemote .ok { p with ptype := 0x02 } s) else .next s

/-! ### The commands of coherence at the home -/

/-- Whether a coherence request names a line of this device's core store that is powered. -/
def cohHomed (p : Packet) : Bool :=
  let h := hallAddr (memOf p).addr
  decide (h.space = 2) && decide (h.off < 2 ^ 29)

/-- Coherence requests held in a slice's wait buffer. -/
def sliceWait (s : State) (line : Nat) : Nat :=
  ((s.sett.dir.filter (fun e => decide (lineSlice e.1 = lineSlice line))).map (fun e => e.2.wait.length)).foldl (· + ·) 0

/-- A coherence request reaches its home (R371, R372): served, held in the wait buffer, or answered with RETRY where that is full. -/
def homeRequest (req : HomeReq) (p : Packet) (s : State) : State :=
  let line := packetLine p
  let d := dirOf s line
  if !cohHomed p then respondErr p 0x9002 s
  else if domDown s (lineDie line) then respondErr p 0x9020 s
  else if dirStable d && d.wait.isEmpty then dirStart line req s
  else if 64 ≤ sliceWait s line then
    sendCoh 0x58 p.source (myLogical s) line (memOf p).core p.tag (memOf p).slotGen false false []
      (modCounts line (fun c => { c with retries := satAdd 64 c.retries 1 }) s)
  else modDir line (fun d => { d with wait := d.wait ++ [req] }) s

/-- GETS (R371). -/
def execGets (p : Packet) (s : State) : Out := .next (homeRequest (.gets p) p (takeIngress p s))

/-- GETM (R371). -/
def execGetm (p : Packet) (s : State) : Out := .next (homeRequest (.getm p false) p (takeIngress p s))

/-- UPG (R371). -/
def execUpg (p : Packet) (s : State) : Out := .next (homeRequest (.getm p true) p (takeIngress p s))

/-- WB_ACK to the sender of an eviction notice. -/
def wbAck (p : Packet) (s : State) : State :=
  sendCoh 0x57 p.source (myLogical s) (packetLine p) (memOf p).core p.tag (memOf p).slotGen false false [] s

/-- A stray notice or late grant (R375). -/
def strayNote (line : Nat) (s : State) : State :=
  let s := modCounts line (fun c => { c with stray := true }) s
  logEvent 0x9042 srcDevice [] s

/-- An eviction notice reaches its home (R371, R374, R375). -/
def homePut (dirty : Bool) (p : Packet) (s : State) : State :=
  let line := packetLine p
  let d := dirOf s line
  let mine := decide (d.owner = senderCode p)
  let wb := fun (s : State) => if dirty then ownerData line (memOf p) s else s
  if mine && decide (d.state = .em) then homeNext line (wbAck p (dirDone .inv 0 0 line (wb s)))
  else if mine && (decide (d.state = .bSnp) || decide (d.state = .bXwb)) then
    let s := modCounts line (fun c => { c with crossings := satAdd 64 c.crossings 1 }) (wb s)
    let s := if d.state = .bXwb then wbAck p s else modDir line (fun d => { d with put := some p }) s
    homeNext line (dirAnswered line s)
  else wbAck p (strayNote line s)

/-- PUTM (R371). -/
def execPutm (p : Packet) (s : State) : Out := .next (homePut true p (takeIngress p s))

/-- PUTE (R371). -/
def execPute (p : Packet) (s : State) : Out := .next (homePut false p (takeIngress p s))

/-- SNP_DATA (R371): the owner's line; err says that it was dirty. -/
def execSnpData (p : Packet) (s : State) : Out :=
  let s := takeIngress p s
  let line := packetLine p
  let d := dirOf s line
  if d.state = .bSnp ∧ d.owner = senderCode p then
    let s := if (memOf p).err || (memOf p).poison then ownerData line (memOf p) s else s
    .next (homeNext line (dirAnswered line s))
  else .next s

/-- INV_ACK (R371). -/
def execInvAck (p : Packet) (s : State) : Out :=
  let s := takeIngress p s
  let line := packetLine p
  let d := dirOf s line
  if d.state = .bInv ∧ p.source ∈ d.acks then
    let left := d.acks.erase p.source
    let s := modDir line (fun d => { d with acks := left }) s
    .next (if left.isEmpty then homeNext line (dirAcked line s) else s)
  else .next s

/-- DATA_IN_FLIGHT (R374). -/
def execDataInFlight (p : Packet) (s : State) : Out :=
  let s := takeIngress p s
  let line := packetLine p
  let d := dirOf s line
  match d.put with
  | some q => .next (wbAck q (modDir line (fun d => { d with put := none }) s))
  | none =>
    if d.state = .bSnp ∧ d.owner = senderCode p then .next (modDir line (fun d => { d with state := .bXwb }) s) else .next s

/-- Waiting stores and atomics to a line are answered with ERR (R377). -/
def failWaiting (line : Nat) (s : State) : State :=
  let hit := fun (q : Packet) => decide (q.ptype ≠ 0) && overlaps (line * 64, 64) ((hallAddr (memOf q).addr).off, remoteLen q)
  let bad := s.sett.waiting.filter hit
  let s := { s with sett := { s.sett with waiting := s.sett.waiting.filter (fun q => !hit q) } }
  forEach bad (fun q s => refuseRemote q 0x9013 false s) s

/-- HOME_WAIT_TIMEOUT (R377): 30 us have passed for an answer that a line's transaction awaits. -/
def execHomeWaitTimeout (line : Nat) (s : State) : Out :=
  let d := dirOf s line
  let a := (mkHall (myLogical s) 2 (line * 64)).toNat
  if d.state = .bInv then
    let s := forEach d.acks (fun dev s => logEvent 0x9040 srcDevice [(8, a), (2, dev), (2, 0x55)] s) s
    let s := modCounts line (fun c => { c with snoopTimeout := true }) s
    .next (homeNext line (dirAcked line s))
  else if d.state = .bSnp ∨ d.state = .bXwb then
    let s := modCounts line (fun c => { c with ownerLost := true }) s
    let s := logEvent 0x9041 srcDevice [(8, a), (2, d.owner)] s
    let s := eccNote .cs (line * 64) srcDevice (.uncorrectable 0) s
    let s := match d.req with
      | some (.gets p) => answerCoh 0x50 line p s
      | some (.getm p _) => answerCoh 0x52 line p s
      | _ => s
    let s := failWaiting line s
    .next (homeNext line (dirDone .inv 0 0 line (modDir line (fun d => { d with put := none }) s)))
  else .next s

end Sys2Proof.Machine
end

