-- ==== Sys2Proof/Machine/Hare.lean ====
section
/-! DEFINITION. Hares: copies, gathers and fills, their chunks, posts and failures (R198 to R209, R365 to R367). -/

namespace Sys2Proof.Machine

open Sys2Proof

/-- Change a hare. -/
def modHare (e : Nat) (f : Hare → Hare) (s : State) : State :=
  { s with units := { s.units with hare := SMap.modify {} s.units.hare e f } }
/-- A copy in progress of a hare, by issue number. -/
def copyOf (s : State) (e i : Nat) : Option CopyRec := (hareOf s e).copies.find? (fun c => c.issue == i)
/-- Change a copy in progress. -/
def modCopy (e i : Nat) (f : CopyRec → CopyRec) (s : State) : State :=
  modHare e (fun h => { h with copies := h.copies.map (fun c => if c.issue = i then f c else c) }) s

/-! ### Copy order (R200, R202) -/

/-- Bytes of a row: a GATHER's rows are its items. -/
def CopyRec.row (c : CopyRec) : Nat := if c.kind = .gather then 64 else max c.rowBytes 1
/-- Bytes of the whole copy. -/
def CopyRec.total (c : CopyRec) : Nat := c.row * c.rows
/-- The end of the piece of a chunk that is checked and performed at once: a whole chunk, or one item of a GATHER. -/
def CopyRec.chunkEnd (c : CopyRec) (pos : Nat) : Nat :=
  pos / c.row * c.row + min c.row (4096 * (pos % c.row / 4096 + 1))
/-- The bytes of one row of copy order: a GATHER has one row, of all its items (R200, R202). -/
def CopyRec.orderRow (c : CopyRec) : Nat := if c.kind = .gather then 64 * c.rows else c.row
/-- The first byte, and the end, of the chunk of copy order that holds a byte (R202). -/
def CopyRec.orderStart (c : CopyRec) (pos : Nat) : Nat := pos / c.orderRow * c.orderRow + pos % c.orderRow / 4096 * 4096
def CopyRec.orderEnd (c : CopyRec) (pos : Nat) : Nat :=
  pos / c.orderRow * c.orderRow + min c.orderRow (4096 * (pos % c.orderRow / 4096 + 1))
/-- An address moved by a signed distance. -/
def addrPlus (a : Word64) (d : Int) : Word64 := a + BitVec.ofInt 64 d
/-- The source address of a byte of copy order. -/
def CopyRec.srcAt (c : CopyRec) (pos : Nat) : Word64 :=
  addrPlus c.src (((pos / c.row : Nat) : Int) * c.srcStride + ((pos % c.row : Nat) : Int))
/-- The destination address of a byte of copy order. -/
def CopyRec.dstAt (c : CopyRec) (pos : Nat) : Word64 :=
  if c.kind = .gather then addrPlus c.dst (pos : Int)
  else addrPlus c.dst (((pos / c.row : Nat) : Int) * c.dstStride + ((pos % c.row : Nat) : Int))
/-- The list entry of a gather item. -/
def CopyRec.listAt (c : CopyRec) (pos : Nat) : Word64 := addrPlus c.src ((pos / 64 * 8 : Nat) : Int)

/-- The destinations of a multicast copy, less the issuer (R366). -/
def mcSet (s : State) (m : Word64 × Word64) : List Nat := (maskSet s m.1 m.2).filter (fun d => d != myLogical s)
/-- Whether a multicast copy's own device is a destination. -/
def mcSelf (s : State) (m : Word64 × Word64) : Bool := bit m.2.toNat 32 && (maskSet s m.1 m.2).contains (myLogical s)

/-- Whether the source of a copy lies on another device. A fill has none. -/
def srcRemoteOf (s : State) (c : CopyRec) : Bool := decide (c.kind = .copy) && isRemote s (hallAddr c.src)
/-- Whether the destination of a copy lies on another device, or on several. -/
def dstRemoteOf (s : State) (c : CopyRec) : Bool := c.mcast.isSome || isRemote s (hallAddr c.dst)

/-! ### Checks (R201, R560) -/

/-- The first failing check among several accesses: the lowest stage, and in it the first access. -/
def firstStage (l : List (Word64 × Option Nat)) : Option (Nat × Word64) :=
  l.foldl (fun acc x => match x.2, acc with
    | some n, some b => if n < b.1 then some (n, x.1) else acc
    | some n, none => some (n, x.1)
    | none, _ => acc) none

/-- Whether an address may be a plain side of a copy: spaces 0, 1, 2, and 6 in local form. -/
def sideMay (h : HAddr) : Bool := decide (h.space < 3) || decide (h.space = 6 ∧ h.form = 0)

/-- The device at which a multicast copy's addresses are checked here: this one where it is a destination, else the first that is one; the
others check their own (R201, R367). -/
def mcDevice (s : State) (m : Word64 × Word64) : Nat := if mcSelf s m then myLogical s else (mcSet s m).headD (myLogical s)

/-- The destination of a copy as its checks see it: a multicast copy's device field is ignored (R367). -/
def CopyRec.dstForm (s : State) (c : CopyRec) (pos : Nat) : Word64 :=
  match c.mcast with
  | some m => mkHall (mcDevice s m) (hallAddr (c.dstAt pos)).space (hallAddr (c.dstAt pos)).off
  | none => c.dstAt pos

/-- The tally address of a copy as its checks see it. -/
def CopyRec.tallyForm (s : State) (c : CopyRec) : Word64 :=
  match c.mcast with
  | some m => mkHall (mcDevice s m) (hallAddr c.tally).space (hallAddr c.tally).off
  | none => c.tally

/-- The checks on the destination of bytes `[pos, pos + len)` of a copy (R201). -/
def dstStage (s : State) (e : Nat) (c : CopyRec) (pos len : Nat) : Word64 × Option Nat :=
  let dst := c.dstForm s pos
  let dh := hallAddr dst
  let eb := elemBytes c.elem
  let align := if c.kind = .fill then 8 else if c.op ≠ 0 then eb else 1
  let ragged := (decide (c.kind = .fill) && decide (c.rowBytes % 8 ≠ 0)) || (decide (c.op ≠ 0) && decide (c.rowBytes % eb ≠ 0))
  let dMay := (if c.op ≠ 0 then decide (dh.space < 3) else sideMay dh) && !(decide (c.kind = .gather) && isRemote s dh)
  let g := accessStage s e dst len align true dMay
  (dst, if ragged && decide (g.getD 5 = 5) then some 4 else g)

/-- The checks on what those bytes are read from: the source, or the list of a GATHER (R201). -/
def srcStages (s : State) (e : Nat) (c : CopyRec) (pos len : Nat) : List (Word64 × Option Nat) :=
  match c.kind with
  | .copy =>
    let a := c.srcAt pos
    let far := c.mcast.isSome || isRemote s (hallAddr (c.dstForm s pos))
    [(a, accessStage s e a len 1 false (sideMay (hallAddr a) && !(isRemote s (hallAddr a) && far)))]
  | .gather =>
    let a := c.listAt pos
    let h := hallAddr a
    [(a, accessStage s e a 8 8 false ((decide (h.space = 0) || decide (h.space = 2)) && !isRemote s h))]
  | .fill => []

/-- The checks on the arrival tally (R201). -/
def tallyStages (s : State) (e : Nat) (c : CopyRec) (pos : Nat) : List (Word64 × Option Nat) :=
  let dh := hallAddr (c.dstForm s pos)
  let t := c.tallyForm s
  let th := hallAddr t
  let same := decide (isRemote s th = isRemote s dh) && (!isRemote s dh || decide (th.dev = dh.dev))
  if c.tally = 0 then [] else [(t, accessStage s e t 8 32 true (decide (th.space = 3) && same))]

/-- The checks on bytes `[pos, pos + len)` of a copy (R201): the stage that fails and the address. -/
def copyStage (s : State) (e : Nat) (c : CopyRec) (pos len : Nat) : Option (Nat × Word64) :=
  firstStage (srcStages s e c pos len ++ [dstStage s e c pos len] ++ tallyStages s e c pos)

/-! ### Posts (R202, R365, R367) -/

/-- Send an add to a tally of another device; while the hare or the device has no request left, it waits with the hare's adds, ahead of the
SIGNALs that wait for it (R203, R206). -/
def postRemote (e dev : Nat) (t : Word64) (n : Nat) (err : Bool) (s : State) : State :=
  let a := mkHall dev 3 (hallAddr t).off
  let post := fun (g : PendSignal) => g.addr.isSome
  match (if engineFull s e || (seqOf s e).signals.any post then none else sendSig e a n err s) with
  | some s => s
  | none => modSeq e (fun q => { q with
      signals := q.signals.takeWhile post ++ [{ issue := 0, tally := 0, n := n, addr := some a, err := err }] ++ q.signals.dropWhile post }) s

/-- Post `n` to the arrival tally of a copy: here, at the destination's device, or at each destination of a multicast. -/
def postTally (e : Nat) (c : CopyRec) (n : Nat) (s : State) : State :=
  if c.tally = 0 ∨ c.post = false then s
  else
    let h := hallAddr c.tally
    let s := modHare e (fun q => { q with posts := satAdd 64 q.posts 1 }) s
    match c.mcast with
    | some m =>
      let s := forEach (mcSet s m) (fun d s => postRemote e d c.tally n false s) s
      if mcSelf s m then tallyAdd (h.off / 32) n e s else s
    | none =>
      if isRemote s h then postRemote e h.dev c.tally n false s
      else if tallyOpen s (h.off / 32) then tallyAdd (h.off / 32) n e s
      else addrFault 0x9003 e c.tally s

/-- The posts for the chunks between two points of copy order, in order (R202): under unit 0 each chunk's bytes,
under unit 1 one for each row that ends, under unit 2 one at the end of the copy. -/
def postChunks (e : Nat) (c : CopyRec) (upto : Nat) : Nat → Nat → State → State
  | 0, _, s => s
  | f + 1, pos, s =>
    let ce := c.orderEnd pos
    if upto < ce ∨ c.total ≤ pos then s
    else
      let s := match c.unit with
        | 0 => postTally e c (ce - c.orderStart pos) s
        | 1 => if ce % c.orderRow = 0 then postTally e c 1 s else s
        | _ => if ce = c.total then postTally e c 1 s else s
      postChunks e c upto f ce s

/-- Post what copy order has reached, and note it. -/
def postUpto (e i upto : Nat) (s : State) : State :=
  match copyOf s e i with
  | some c =>
    if upto ≤ c.posted then s
    else modCopy e i (fun c => { c with posted := upto }) (postChunks e c upto (upto - c.posted + 1) c.posted s)
  | none => s

/-- Whether a tally of this device can be reached: it is open to the plan, and the die of its slice has power (R207, R406). -/
def tallyReach (s : State) (i : Nat) : Bool :=
  tallyOpen s i && decide ((domOf s (i % 8)).st = .on ∨ (domOf s (i % 8)).st = .draining)

/-- Both error bits of a copy: its arrival tally, here or where it lies, and the hare's error tally (R207 to R209). -/
def copyErrors (e : Nat) (c : CopyRec) (code : Nat) (s : State) : State :=
  let s := if c.tally = 0 then s
    else
      let h := hallAddr c.tally
      match c.mcast with
      | some m =>
        let s := forEach (mcSet s m) (fun d s => postRemote e d c.tally 0 true s) s
        if mcSelf s m && tallyReach s (h.off / 32) then tallyError (h.off / 32) code e s else s
      | none =>
        if isRemote s h then (if decide (h.space = 3) && (physOf s h.dev).isSome then postRemote e h.dev c.tally 0 true s else s)
        else if decide (h.space = 3) && tallyReach s (h.off / 32) then tallyError (h.off / 32) code e s else s
  engineError e code s

/-- A copy that is over leaves the hare, and its instruction completes (R203). -/
def copySettle (e i : Nat) (s : State) : State :=
  match copyOf s e i with
  | some c =>
    if (c.stopped || decide (c.total ≤ c.done)) && decide (c.flight = 0) && c.readbacks.isEmpty then
      completeOp e i (modHare e (fun h => { h with copies := h.copies.filter (fun c => c.issue != i) }) s)
    else s
  | none => s

/-- Stop a copy: no further chunk is read, written or counted. -/
def stopCopy (e i : Nat) (s : State) : State :=
  let n := ((copyOf s e i).map (fun c => c.readbacks.length + c.asked)).getD 0
  let s := modHare e (fun h => { h with outstanding := h.outstanding - n }) s
  copySettle e i (modCopy e i (fun c => { c with stopped := true, readbacks := [], asked := 0 }) s)

/-- A refused chunk (R209): recorded as R36 states, both error bits, CE_FAULT.operand_fault, and the copy stops. -/
def refuseCopy (e : Nat) (c : CopyRec) (code : Nat) (a : Word64) (s : State) : State :=
  let s := logEvent code e [(2, e), (8, a.toNat)] s
  let s := modHare e (fun h => { h with operandFault := true }) s
  stopCopy e c.issue (copyErrors e c code s)

/-- A host failure (R208). -/
def hostErrorCopy (e : Nat) (c : CopyRec) (a : Word64) (status : Nat) (s : State) : State :=
  let s := logEvent 0x9022 e [(2, e), (8, a.toNat), (4, status)] s
  let s := modHare e (fun h => { h with hostError := true }) s
  stopCopy e c.issue (copyErrors e c 0x9022 s)

/-- The 0xBAD0 pattern of a refused gather item (R209). -/
def badItem (n : Nat) : List Byte := (List.replicate (n / 8 + 1) (leBytes 8 bad0.toNat)).flatten.take n

/-! ### Reading and writing on this device -/

/-- Whether the bytes of a local address can be accessed now: a line of core store must not be held by a cache (R371). -/
def localReady (s : State) (a : Word64) (n : Nat) (write : Bool) : Bool :=
  let h := hallAddr a
  if h.space = 2 then csReady s h.off n write else true

/-- Take back the core store lines of a local address. -/
def localRecall (a : Word64) (n : Nat) (write : Bool) (s : State) : State :=
  let h := hallAddr a
  if h.space = 2 then csRecall h.off n write s else s

/-- Read local bytes: the data and whether a line is poisoned. Host memory's bytes come with the command. -/
def localRead (s : State) (a : Word64) (n : Nat) (host : List Byte) : List Byte × Bool :=
  let h := hallAddr a
  match spaceStore h.space with
  | some st => (readStore s st h.off n, poisoned s st h.off n)
  | none => (slice host 0 n, false)

/-- Count and check a local read: the controller that serves it, and what its error check found. -/
def localSense (e : Nat) (lat : Bool) (a : Word64) (n : Nat) (ecc : Ecc) (s : State) : State :=
  let h := hallAddr a
  match spaceStore h.space with
  | some st => served st lat h.off n (eccNote st h.off e ecc s)
  | none => s

/-- What the error check of a copy's first local read finds as the copy issues; the read itself is counted with its chunk. -/
def firstSense (e : Nat) (a : Word64) (ecc : Ecc) (s : State) : State :=
  match spaceStore (hallAddr a).space with
  | some st => eccNote st (hallAddr a).off e ecc s
  | none => s

/-- The pieces of a host access of `n` bytes, each within a negotiated size: they end at its multiples (R205, R514; log entry 45). -/
def hostPieces (size : Nat) : Nat → Nat → Nat → List (Nat × Nat)
  | 0, _, _ => []
  | f + 1, a, n => if n = 0 then [] else
    let k := min n (size - a % size)
    (a, k) :: hostPieces size f (a + k) (n - k)

/-- Write host memory as memory requests of at most the payload size (R205). -/
def hostStore (a : Nat) (d : List Byte) (s : State) : State :=
  forEach (hostPieces s.hub.mps d.length a d.length) (fun p s => hostWrite p.1 (slice d (p.1 - a) p.2) s) s

/-- Count the bytes a copy writes, and that they are poisoned (R214). -/
def countBytes (e n : Nat) (bad : Bool) (s : State) : State :=
  modHare e (fun q => { q with bytes := satAdd 64 q.bytes n, poison := q.poison || bad }) s

/-- Put bytes of a copy at a local address: plain, or element by element (R204), or to host memory. -/
def localPut (c : CopyRec) (a : Word64) (d : List Byte) (bad : Bool) (s : State) : State :=
  let h := hallAddr a
  match spaceStore h.space with
  | some st =>
    let s := served st (c.prio || decide (c.kind = .gather)) h.off d.length s
    let s := if st = .cs then countUncached h.off (if c.op = 0 then 1 else d.length / elemBytes c.elem) s else s
    if c.op = 0 then storeWrite st h.off d bad s else reduceWrite st c.op c.elem d h.off bad (d.length + 1) s
  | none => hostStore h.off d s

/-- Write local bytes of a copy. -/
def localWrite (e : Nat) (c : CopyRec) (a : Word64) (d : List Byte) (bad : Bool) (s : State) : State :=
  localPut c a d bad (countBytes e d.length bad s)

/-- The pieces of a copy that have arrived, in copy order, move `done` on. -/
def absorb : Nat → Nat → List (Nat × Nat) → Nat × List (Nat × Nat)
  | 0, pos, l => (pos, l)
  | f + 1, pos, l =>
    match l.find? (fun p => p.1 == pos) with
    | some p => absorb f (pos + p.2) (l.erase p)
    | none => (pos, l)

/-- Bytes `[pos, pos + len)` of a copy have been performed on this device: posts follow, or the read-back of host memory (R205). -/
def landed (e i pos len : Nat) (s : State) : State :=
  match copyOf s e i with
  | none => s
  | some c =>
    let r := absorb (c.got.length + 1) c.done (c.got ++ [(pos, len)])
    let s := modCopy e i (fun c => { c with done := r.1, got := r.2 }) s
    if (hallAddr c.dst).space = 6 then
      if r.1 = c.chunkEnd pos ∨ r.1 = c.total then
        modHare e (fun h => { h with outstanding := h.outstanding + 1 }) (modCopy e i (fun c => { c with readbacks := c.readbacks ++ [r.1] }) s)
      else s
    else postUpto e i r.1 s

/-! ### Requests to other devices (R206, R365) -/

/-- Whether an engine awaits an answer for a line of another device (R218). -/
def lineBusy (s : State) (e dest off n : Nat) : Bool :=
  s.remote.slots.any (fun k => k.2.busy && k.2.engine == e && k.2.waiting.contains dest &&
    overlaps (off / 64, (off + n + 63) / 64 - off / 64)
      ((hallAddr (memOf k.2.packet).addr).off / 64,
       ((hallAddr (memOf k.2.packet).addr).off % 64 + max (remoteLen k.2.packet) 1 + 63) / 64))

/-- The length of a packet from an offset: at most 1,024 bytes, within 4 KiB, and within 32 bytes if it is that short (R356). -/
def pieceLen (off left : Nat) : Nat :=
  let n := min (min left 1024) (4096 - off % 4096)
  if n ≤ 32 ∧ 32 < off % 32 + n then 32 - off % 32 else n

/-- The channel of a load or store packet (R357). -/
def dataVc (n : Nat) : Nat := if n ≤ 64 then 1 else 0

/-- Room for another request of a hare: its own limit, and slots for the packet and its posts (R206, R354). -/
def hareRoom (s : State) (e posts : Nat) : Bool :=
  decide (hareFlight s e < 512) && decide (s.remote.used + 1 + posts ≤ 32768)

/-- Note a request of a copy as sent. -/
def noteSent (e i n : Nat) (s : State) : State := modCopy e i (fun c => { c with sent := c.sent + n, flight := c.flight + 1 }) s

/-- Send one multicast write: one slot for all its destinations, which each count it (R341, R344, R367). -/
def sendMc (e : Nat) (use : SlotUse) (dests : List Nat) (p : Packet) (s : State) : Option State :=
  match freeSlot s with
  | none => none
  | some i =>
    let g := ((slotOf s i).gen + 1) % 16
    let p := stampGen g { p with tag := i }
    let s := openSlot i e dests use p s
    let s := forEach dests (fun d s => { s with fab := { s.fab with
      sent := SMap.set 0 s.fab.sent d ((SMap.get 0 s.fab.sent d + 1) % 65536) } }) s
    some (sendStage p 3 (dests.filterMap (physOf s)) s)

/-- Send the next packet of a copy with a remote destination, with data read here, and the posts it completes. -/
def sendWrite (e : Nat) (c : CopyRec) (d : List Byte) (bad : Bool) (s : State) : Option State :=
  let a := c.dstAt c.sent
  let h := hallAddr a
  let n := d.length
  let b : MemBody := { len := n, op := c.op, elem := c.elem, poison := bad, addr := mkHall h.dev h.space h.off, data := d }
  let use := SlotUse.hare e c.issue c.sent n
  let done := fun (s : State) =>
    let s := countBytes e n bad (noteSent e c.issue n s)
    postUpto e c.issue (c.sent + n) (modCopy e c.issue (fun c => { c with done := c.sent }) s)
  match c.mcast with
  | some m =>
    let b := { b with addr := mkHall 0 h.space h.off, extra := BitVec.ofNat 128 (m.1.toNat + 2 ^ 64 * m.2.toNat) }
    let s := if mcSelf s m then localPut c (mkHall (myLogical s) h.space h.off) d bad s else s
    if (mcSet s m).isEmpty then
      some (postUpto e c.issue (c.sent + n) (modCopy e c.issue (fun c => { c with sent := c.sent + n, done := c.sent + n }) (countBytes e n bad s)))
    else (sendMc e use (mcSet s m) (issuePacket s 0x02 0 c.mask 0 (.mem b)) s).map done
  | none =>
    (sendRequest e use (if c.op = 0 then issuePacket s 0x01 (dataVc n) h.dev 0 (.mem b) else issuePacket s 0x04 0 h.dev 0 (.mem b)) s).map done

/-- The addresses the rows of a side span: lowest and highest, with the space above the offset. -/
def rowsSpan (c : CopyRec) (a : Word64) (stride : Int) : Int × Int :=
  let h := hallAddr a
  let base : Int := (2 ^ 44 * h.space + h.off : Nat)
  let last := base + ((c.rows - 1 : Nat) : Int) * stride
  (min base last, max base last + (c.row : Int))

/-- The addresses a copy writes. -/
def dstSpan (c : CopyRec) : Int × Int := rowsSpan c c.dst (if c.kind = .gather then 64 else c.dstStride)

/-- The addresses a copy reads, but for the items of a GATHER: its source, or its list; none for a FILL. -/
def srcSpan (c : CopyRec) : Int × Int :=
  match c.kind with
  | .copy => rowsSpan c c.src c.srcStride
  | .gather => let h := hallAddr c.src; ((2 ^ 44 * h.space + h.off : Nat), (2 ^ 44 * h.space + h.off + 8 * c.rows : Nat))
  | .fill => (0, 0)

/-- Whether two spans share an address. -/
def spansMeet (a b : Int × Int) : Bool := decide (a.1 < b.2) && decide (b.1 < a.2)

/-- The device an address names. -/
def sideDev (s : State) (a : Word64) : Nat := if (hallAddr a).form = 1 then (hallAddr a).dev else myLogical s

/-- The earlier copies of a hare whose writes are still to come. -/
def earlierCopies (s : State) (e : Nat) (c : CopyRec) : List CopyRec :=
  ((hareOf s e).copies.takeWhile (fun d => d.issue != c.issue)).filter (fun d => !d.stopped && decide (d.done < d.total))

/-- Whether an earlier copy of the hare is still to write an address that a copy writes or reads (R203, R218). Reads need no such order: a
copy issues once the one before has sent its last read. -/
def behindCopy (s : State) (e : Nat) (c : CopyRec) : Bool :=
  (earlierCopies s e c).any (fun d =>
    (spansMeet (dstSpan d) (dstSpan c) && (c.mcast.isSome || d.mcast.isSome || decide (sideDev s d.dst = sideDev s c.dst))) ||
    (spansMeet (dstSpan d) (srcSpan c) && (d.mcast.isSome || decide (sideDev s d.dst = sideDev s c.src))))

/-- Whether an earlier copy of the hare is still to write what a GATHER item reads. -/
def behindItem (s : State) (e : Nat) (c : CopyRec) (a : Word64) : Bool :=
  let o := 2 ^ 44 * (hallAddr a).space + (hallAddr a).off
  (earlierCopies s e c).any (fun d =>
    spansMeet (dstSpan d) ((o : Nat), (o + 64 : Nat)) && (d.mcast.isSome || decide (sideDev s d.dst = sideDev s a)))

/-- Whether the next chunk of a copy is read from host memory. -/
def hostSourced (c : CopyRec) : Bool := decide (c.kind = .copy) && decide ((hallAddr c.src).space = 6)

/-- The bytes of a copy from host memory that are read next: a chunk, or a packet of it for another device. -/
def hostNext (s : State) (c : CopyRec) : Nat :=
  let left := c.chunkEnd c.sent - c.sent
  if dstRemoteOf s c then pieceLen (hallAddr (c.dstAt c.sent)).off left else left

/-- Send the reads of host memory for the next chunk of a copy, each within the read request size, where the hare has room for them and the
chunk is not refused (R205, R206). -/
def hostAsk (e i : Nat) (s : State) : State :=
  match copyOf s e i with
  | none => s
  | some c =>
    let n := hostNext s c
    let k := (hostPieces s.hub.mrrs n (hallAddr (c.srcAt c.sent)).off n).length
    if hostSourced c && !c.stopped && decide (c.sent < c.total) && decide (c.asked = 0) && s.hub.l0 && !behindCopy s e c &&
        decide (hareFlight s e + k ≤ 512) && (copyStage s e c c.sent (c.chunkEnd c.sent - c.sent)).isNone then
      modHare e (fun h => { h with outstanding := h.outstanding + k }) (modCopy e i (fun c => { c with asked := k }) s)
    else s

/-- The reads of host memory for a chunk have returned. -/
def hostGot (e : Nat) (c : CopyRec) (s : State) : State :=
  modHare e (fun h => { h with outstanding := h.outstanding - c.asked }) (modCopy e c.issue (fun c => { c with asked := 0 }) s)

/-- What the pump finds at the front of a copy: it sent one request, or it can send none now. -/
inductive Pumped where
  | sent (s : State)
  | held (s : State)
deriving Repr

/-- A multicast copy's own write, as an address of this device. -/
def ownDst (s : State) (c : CopyRec) (pos : Nat) : Option Word64 :=
  match c.mcast with
  | some m => if mcSelf s m then some (mkHall (myLogical s) (hallAddr (c.dstAt pos)).space (hallAddr (c.dstAt pos)).off) else none
  | none => none

/-- Whether a multicast copy's own write waits for a cache (R371, R559). -/
def ownHeld (s : State) (c : CopyRec) (pos n : Nat) : Bool :=
  match ownDst s c pos with
  | some a => !localReady s a n true
  | none => false

/-- Take back the lines of a multicast copy's own write. -/
def ownRecall (c : CopyRec) (pos n : Nat) (s : State) : State :=
  match ownDst s c pos with
  | some a => localRecall a n true s
  | none => s

/-- Send the next packet of a copy to another device from data on this one; `ecc` is what the check of its read finds. -/
def pumpOut (e : Nat) (c : CopyRec) (ecc : Ecc) (s : State) : Pumped :=
  let pos := c.sent
  let ce := c.chunkEnd pos
  let dh := hallAddr (c.dstAt pos)
  let n := pieceLen dh.off (ce - pos)
  match (if pos % c.row % 4096 = 0 then copyStage s e c pos (ce - pos) else none) with
  | some x => .held (refuseCopy e c (stageCode x.1) x.2 s)
  | none =>
    let ds := match c.mcast with
      | some m => mcSet s m
      | none => [dh.dev]
    if ds.any (fun d => lineBusy s e d dh.off n) then .held s
    else if ownHeld s c pos n then .held (ownRecall c pos n s)
    else if c.kind = .fill then
      let pat := leBytes 8 c.src.toNat
      match sendWrite e c ((List.replicate (n / 8 + 2) pat).flatten.drop (pos % c.row % 8) |>.take n) false s with
      | some s => .sent s
      | none => .held s
    else
      let a := c.srcAt pos
      if (hallAddr a).space = 6 then .held s
      else if !localReady s a n false then .held (localRecall a n false s)
      else
        let s := localSense e c.prio a n ecc s
        match copyOf s e c.issue with
        | none => .held s
        | some _ =>
          let r := localRead s a n []
          match sendWrite e c r.1 r.2 s with
          | some s => .sent s
          | none => .held s

/-- Send the next read of a copy from another device. -/
def pumpIn (e : Nat) (c : CopyRec) (s : State) : Pumped :=
  let pos := c.sent
  let ce := c.chunkEnd pos
  let h := hallAddr (c.srcAt pos)
  let n := pieceLen h.off (ce - pos)
  match (if pos % c.row % 4096 = 0 then copyStage s e c pos (ce - pos) else none) with
  | some x => .held (refuseCopy e c (stageCode x.1) x.2 s)
  | none =>
    if lineBusy s e h.dev h.off n then .held s
    else
      match sendRequest e (.hare e c.issue pos n) (issuePacket s 0x00 (dataVc n) h.dev 0 (.mem { len := n, addr := c.srcAt pos })) s with
      | some s => .sent (noteSent e c.issue n s)
      | none => .held s

/-- Whether a gather item's list entry lies in a poisoned line. -/
def badEntry (s : State) (c : CopyRec) (pos : Nat) : Bool := (localRead s (c.listAt pos) 8 []).2

/-- A gather item's address, from the list. -/
def gatherItem (s : State) (c : CopyRec) (pos : Nat) : Word64 :=
  BitVec.ofNat 64 (leVal (localRead s (c.listAt pos) 8 []).1)

/-- Whether a gather item is refused (R201, R209): the check that fails. -/
def itemStage (s : State) (e : Nat) (a : Word64) : Option Nat :=
  let h := hallAddr a
  accessStage s e a 64 64 false (decide (h.space < 3))

/-- Send the next item of a gather, where it lies on another device and is not refused. -/
def pumpItem (e : Nat) (c : CopyRec) (s : State) : Pumped :=
  let pos := c.sent
  match copyStage s e c pos 64 with
  | some x => .held (refuseCopy e c (stageCode x.1) x.2 s)
  | none =>
    if !localReady s (c.listAt pos) 8 false then .held (localRecall (c.listAt pos) 8 false s)
    else
      let a := gatherItem s c pos
      let h := hallAddr a
      if badEntry s c pos || (itemStage s e a).isSome || behindItem s e c a || !isRemote s h || decide (64 ≤ c.flight) || lineBusy s e h.dev h.off 64 then .held s
      else
        match sendRequest e (.hare e c.issue pos 64) (issuePacket s 0x00 1 h.dev 0 (.mem { len := 64, addr := a })) s with
        | some s => .sent (noteSent e c.issue 64 s)
        | none => .held s

/-- Posts one packet of a copy may need at once. -/
def postsNeeded (s : State) (c : CopyRec) : Nat :=
  match c.mcast with
  | some m => (mcSet s m).length
  | none => 1

/-- Send requests of one copy while it can (R206); `ecc` is what the check of its first read finds. -/
def pumpCopy (e i : Nat) : Ecc → Nat → State → State
  | _, 0, s => s
  | ecc, f + 1, s =>
    match copyOf s e i with
    | none => s
    | some c =>
      if hostSourced c then hostAsk e i s
      else if c.stopped || decide (c.total ≤ c.sent) || !hareRoom s e (postsNeeded s c) || behindCopy s e c then s
      else
        let r := if c.kind = .gather then pumpItem e c s
          else if srcRemoteOf s c then pumpIn e c s
          else if dstRemoteOf s c then pumpOut e c ecc s
          else .held s
        match r with
        | .sent s => pumpCopy e i .ok f s
        | .held s => s

/-- Whether a copy has sent its last read (R203); a FILL reads nothing. -/
def readsSent (c : CopyRec) : Bool := c.stopped || decide (c.total ≤ c.sent) || decide (c.kind = .fill)

/-- Send what the copies of a hare can send, oldest first: a copy waits until the one before has sent its last read (R203). -/
def pumpList (e : Nat) : List Nat → State → State
  | [], s => s
  | i :: l, s =>
    let s := pumpCopy e i .ok 513 s
    match copyOf s e i with
    | some c => if readsSent c then pumpList e l s else s
    | none => pumpList e l s

/-- Send what a hare's copies can send. -/
def pumpHare (e : Nat) (s : State) : State := pumpList e ((hareOf s e).copies.map (·.issue)) s

/-! ### Issue (R199, R200, R207) -/

/-- Words of a slot of a hare's PARAM words (R198). -/
def hareSlot (s : State) (e d i : Nat) : Word64 := paramAt s e (8 * d + i)

/-- The copy a descriptor gives, with its index register read (R200). -/
def resolveCopy (s : State) (e : Nat) (w : Word64) : CopyRec :=
  let d := fld w 10 10
  let g := hareSlot s e d
  let x := xreg s e (fld (g 7) 0 4)
  let kind := if fld w 0 8 = 0x60 then CopyKind.copy else if fld w 0 8 = 0x61 then .gather else .fill
  let mc := fld (g 5) 16 16
  { issue := (seqOf s e).issued, index := (seqOf s e).pc, kind := kind, prio := bit w.toNat 8
    src := if kind = .fill then g 0 else addrPlus (g 0) ((x : Int) * sext 32 (fld (g 6) 0 32))
    dst := addrPlus (g 1) ((x : Int) * sext 32 (fld (g 6) 32 32))
    rowBytes := fld (g 2) 0 32
    rows := if kind = .gather then fld (g 2) 0 32 else fld (g 2) 32 24 + 1
    srcStride := sext 32 (fld (g 3) 0 32), dstStride := sext 32 (fld (g 3) 32 32)
    tally := g 4, unit := fld (g 5) 0 2, op := fld (g 5) 8 4, elem := fld (g 5) 12 3
    mcast := if mc = 0xFFFF then none else some (hareSlot s e mc 0, hareSlot s e mc 1), mask := mc % 1024 }

/-- The draining domain of the slice of a tally of this device (R406). -/
def tallyDown (s : State) (a : Word64) : Option Nat :=
  let h := hallAddr a
  let k := h.off / 32 % 8
  if !isRemote s h && decide (h.space = 3) && domDown s k then some k else none

/-- The draining domain a copy's source, destination or arrival tally lies in: of a multicast copy, those at its own device (R207). -/
def copyDown (s : State) (c : CopyRec) : Option Nat :=
  let own := fun (a : Word64) => mkHall (myLogical s) (hallAddr a).space (hallAddr a).off
  let src := if c.kind = .fill then none else downAt s c.src
  let dst := match c.mcast with
    | some m => if mcSelf s m then downAt s (own c.dst) else none
    | none => downAt s c.dst
  let tally := if c.tally = 0 then none else match c.mcast with
    | some m => if mcSelf s m then tallyDown s (own c.tally) else none
    | none => tallyDown s c.tally
  (src.orElse (fun _ => dst)).orElse (fun _ => tally)

/-- A copy refused at issue because a domain is draining or down (R207). -/
def refuseDown (e : Nat) (c : CopyRec) (d : Nat) (s : State) : State :=
  let s := logEvent 0x9020 e [(2, e), (4, c.index), (4, d)] s
  let s := modHare e (fun h => { h with domainDown := true }) s
  copyErrors e c 0x9020 s

/-- Whether a hare can issue a copy: fewer than four in progress, and the previous one has sent its last read (R203). -/
def hareFree (s : State) (e : Nat) : Bool :=
  let cs := (hareOf s e).copies
  decide (cs.length < 4) && (match cs.getLast? with
    | some c => readsSent c
    | none => true)

/-- Put a copy in progress and send what it can send. -/
def startCopy (e : Nat) (c : CopyRec) (s : State) : State :=
  let s := issueOpen e s
  let s := modHare e (fun h => { h with copies := h.copies ++ [c] }) s
  copySettle e c.issue (pumpHare e s)

/-- Issue a COPY, GATHER or FILL that is no run-ahead copy. `ecc` is what the check of its first read finds. -/
def issueCopy (e : Nat) (ecc : Ecc) (w : Word64) (s : State) : State :=
  if !hareFree s e then s
  else
    let c := resolveCopy s e w
    let s := nextPc e s
    match copyDown s c with
    | some d => refuseDown e c d s
    | none =>
      let none? := match c.mcast with
        | some m => (mcSet s m).isEmpty && !mcSelf s m
        | none => false
      if none? then s
      else
        let s := if c.kind = .copy ∧ isRemote s (hallAddr c.src) = false then firstSense e c.src ecc s else s
        startCopy e c s

/-! ### Chunks (R202, R203, R204) -/

/-- The bytes of an answer. -/
def answerBytes : HostAnswer → List Byte
  | .data d => d
  | .error _ => []

/-- The status of an answer that is no success. -/
def answerError : HostAnswer → Option Nat
  | .data _ => none
  | .error st => some st

/-- One chunk of a copy or fill within this device. -/
def chunkLocal (e : Nat) (c : CopyRec) (ecc : Ecc) (host : HostAnswer) (s : State) : State :=
  let pos := c.sent
  let n := c.chunkEnd pos - pos
  let a := c.srcAt pos
  let b := c.dstAt pos
  if hostSourced c = true ∧ s.hub.l0 = false then hostErrorCopy e c a 0 s
  else if (hallAddr b).space = 6 ∧ s.hub.l0 = false then hostErrorCopy e c b 0 s
  else match copyStage s e c pos n with
  | some x => refuseCopy e c (stageCode x.1) x.2 s
  | none =>
    if hostSourced c && decide (c.asked = 0) then s
    else if decide (c.kind = .copy) && !localReady s a n false then localRecall a n false s
    else if !localReady s b n true then localRecall b n true s
    else if hostSourced c && (answerError host).isSome then hostErrorCopy e c a ((answerError host).getD 0) s
    else
      let s := if c.kind = .copy then localSense e c.prio a n ecc s else s
      match copyOf s e c.issue with
      | none => s
      | some _ =>
        let r := if c.kind = .copy then localRead s a n (answerBytes host)
          else ((List.replicate (n / 8 + 1) (leBytes 8 c.src.toNat)).flatten.take n, false)
        let s := if hostSourced c then hostGot e c s else s
        let s := modCopy e c.issue (fun c => { c with sent := c.sent + n }) (localWrite e c b r.1 r.2 s)
        let s := copySettle e c.issue (landed e c.issue pos n s)
        if hostSourced c then hostAsk e c.issue s else s

/-- One item of a gather that lies on this device or is refused (R200, R209); `list` is what the check of its list entry finds. An item
whose entry is poisoned is written as poisoned data, whose value the spec leaves open (R557; log entry 45). -/
def chunkItem (e : Nat) (c : CopyRec) (ecc list : Ecc) (s : State) : State :=
  let pos := c.sent
  match copyStage s e c pos 64 with
  | some x => refuseCopy e c (stageCode x.1) x.2 s
  | none =>
    if !localReady s (c.listAt pos) 8 false then localRecall (c.listAt pos) 8 false s
    else
      let b := c.dstAt pos
      let s := localSense e false (c.listAt pos) 8 list s
      let a := gatherItem s c pos
      if (copyOf s e c.issue).isNone then s
      else if !localReady s b 64 true then localRecall b 64 true s
      else if (hallAddr b).space = 6 ∧ s.hub.l0 = false then hostErrorCopy e c b 0 s
      else
        let put := fun (d : List Byte) (bad : Bool) (s : State) =>
          let s := modCopy e c.issue (fun c => { c with sent := c.sent + 64 }) (localWrite e c b d bad s)
          pumpHare e (copySettle e c.issue (landed e c.issue pos 64 s))
        if badEntry s c pos then
          let r := freeBytes 8 s
          put r.1 true r.2
        else match itemStage s e a with
        | some g =>
          let s := logEvent (stageCode g) e [(2, e), (8, a.toNat)] s
          let s := modHare e (fun h => { h with operandFault := true }) s
          put (badItem 64) false (copyErrors e c (stageCode g) s)
        | none =>
          if isRemote s (hallAddr a) || behindItem s e c a then s
          else if !localReady s a 64 false then localRecall a 64 false s
          else
            let s := localSense e true a 64 ecc s
            match copyOf s e c.issue with
            | none => s
            | some _ =>
              let r := localRead s a 64 []
              put r.1 r.2 s

/-- The next packet of a copy from host memory to another device: it keeps the order of the lines and the limits of R206 and R218. -/
def chunkOut (e : Nat) (c : CopyRec) (host : HostAnswer) (s : State) : Out :=
  let n := hostNext s c
  let h := hallAddr (c.dstAt c.sent)
  let ds := match c.mcast with
    | some m => mcSet s m
    | none => [h.dev]
  if !s.hub.l0 then .next (hostErrorCopy e c (c.srcAt c.sent) 0 s)
  else match copyStage s e c c.sent (c.chunkEnd c.sent - c.sent) with
    | some x => .next (refuseCopy e c (stageCode x.1) x.2 s)
    | none =>
      if c.asked = 0 then .next (hostAsk e c.issue s)
      else match host with
        | .error st => .next (hostErrorCopy e c (c.srcAt c.sent) st s)
        | .data d =>
          let t := hostGot e c s
          if !hareRoom t e (postsNeeded t c) || ds.any (fun d => lineBusy s e d h.off n) then .next s
          else if ownHeld s c c.sent n then .next (ownRecall c c.sent n s)
          else match sendWrite e c (slice d 0 n) false t with
            | some t => .next (hostAsk e c.issue t)
            | none => .next s

/-- CHUNK_PERFORMED (R202, R203): the next chunk of a copy is read and performed, and its posts are made. `ecc` is what the checks of
the source and of a GATHER's list find, `host` is what host memory answers where the source lies there. -/
def execChunkPerformed (e i : Nat) (ecc : Ecc × Ecc) (host : HostAnswer) (s : State) : Out :=
  match copyOf s e i with
  | none => .next s
  | some c =>
    if c.stopped || decide (c.total ≤ c.sent) || behindCopy s e c then .next s
    else if c.kind = .gather then .next (chunkItem e c ecc.1 ecc.2 s)
    else if srcRemoteOf s c then .next (pumpHare e s)
    else if dstRemoteOf s c then
      if hostSourced c then chunkOut e c host s else .next (pumpHare e (pumpCopy e i ecc.1 513 s))
    else if hostSourced c && decide (c.asked = 0) then .next (chunkLocal e c ecc.1 host (hostAsk e i s))
    else .next (chunkLocal e c ecc.1 host s)

/-- The read-back of a fox core's host stores is over, whatever it answered (R220; log entry 44). -/
def foxReadbackDone (e i : Nat) (s : State) : State :=
  if (foxOf s e).readbacks.contains i then completeOp e i (modFox e (fun c => { c with readbacks := c.readbacks.erase i }) s) else s

/-- HOST_READBACK_DONE (R205, R208, R220): the read-back of a chunk's host writes completes, with a PCIe status that is zero on success; that
of a fox core's completes while the link is in L0. -/
def execHostReadbackDone (e i status : Nat) (s : State) : Out :=
  match copyOf s e i with
  | none => .next (if s.hub.l0 then foxReadbackDone e i s else s)
  | some c =>
    match c.readbacks with
    | [] => .next s
    | upto :: rest =>
      let s := modHare e (fun h => { h with outstanding := h.outstanding - 1 }) s
      if status ≠ 0 then .next (hostErrorCopy e c (c.dstAt (upto - 1) &&& ~~~3#64) status s)
      else .next (copySettle e i (postUpto e i upto (modCopy e i (fun c => { c with readbacks := rest }) s)))

/-- An MLOAD that is open as its tile drains is cut as a copy is, and leaves the mesh EMPTY (R207, R278). -/
def cutMload (k : Nat) (s : State) : State :=
  match (SMap.get {} s.units.ppe k).load with
  | none => s
  | some x =>
    let e := engId 5 k 0
    let s := logEvent 0x9021 e [(2, e), (4, (seqOf s e).pc - 1), (4, 16 + k)] s
    let s := { s with units := { s.units with ppe := SMap.modify {} s.units.ppe k (fun p => { p with mesh := .empty, record := none, load := none }) } }
    completeOp e x.1 (engineError e 0x9021 s)

/-- CE_DRAIN_CUT (R207, R278): 200 us after DRAINING began, a copy that touches the domain is stopped, and so is an MLOAD of the tile. -/
def execCeDrainCut (e i : Nat) (s : State) : Out :=
  if engClass e = 5 then
    .next (if domDown s (16 + engDie e) && ((SMap.get {} s.units.ppe (engDie e)).load.map (·.1) == some i) then cutMload (engDie e) s else s)
  else match copyOf s e i with
  | none => .next s
  | some c =>
    match copyDown s c with
    | none => .next s
    | some d =>
      let s := logEvent 0x9021 e [(2, e), (4, c.index), (4, d)] s
      let s := modHare e (fun h => { h with domainDown := true }) s
      .next (stopCopy e i (copyErrors e c 0x9021 s))

/-! ### Answers to a hare's requests -/

/-- A hare's request is over. -/
def hareAnswered (e i : Nat) (s : State) : State :=
  modCopy e i (fun c => { c with flight := c.flight - 1 }) s

/-- RD_DATA for a copy: written as it arrives (R365); a copy that has stopped takes no more. -/
def hareData (e i pos : Nat) (d : List Byte) (bad : Bool) (s : State) : State :=
  let s := hareAnswered e i s
  match copyOf s e i with
  | none => s
  | some c =>
    let s := if c.stopped then s
      else if (hallAddr (c.dstAt pos)).space = 6 ∧ s.hub.l0 = false then hostErrorCopy e c (c.dstAt pos) 0 s
      else landed e i pos d.length (localWrite e c (c.dstAt pos) d bad s)
    copySettle e i (pumpHare e s)

/-- Whether RD_DATA for a copy can be written now. -/
def hareCanTake (s : State) (e i pos n : Nat) : Bool :=
  match copyOf s e i with
  | some c => localReady s (c.dstAt pos) n true
  | none => true

/-- ACK for a copy's write. -/
def hareAck (e i : Nat) (s : State) : State := copySettle e i (pumpHare e (hareAnswered e i s))

/-- A copy's request refused at its home, or lost on the way: the copy stops and its error bits are set (R209, R361, R363, R365); a gather
item is written as 0xBAD0 words and counted. That a dead target stops a copy is the model's choice (log entry 45). -/
def hareFailed (e i pos code : Nat) (refused : Bool) (s : State) : State :=
  let s := hareAnswered e i s
  match copyOf s e i with
  | none => s
  | some c =>
    let s := modHare e (fun h => { h with operandFault := h.operandFault || refused }) (copyErrors e c code s)
    if c.kind = .gather ∧ c.stopped = false then
      copySettle e i (pumpHare e (landed e i pos 64 (localWrite e c (c.dstAt pos) (badItem 64) false s)))
    else stopCopy e i s

/-- One destination of a multicast write refused it or is lost while others are still to answer (R209, R363, R367). -/
def hareFailedPart (e i code : Nat) (refused : Bool) (s : State) : State :=
  match copyOf s e i with
  | none => s
  | some c => stopCopy e i (modHare e (fun h => { h with operandFault := h.operandFault || refused }) (copyErrors e c code s))

/-- The copies of a hare that are reading or writing host memory fail as the host link goes down (R208). -/
def failHostCopies (e : Nat) (s : State) : State :=
  forEach (hareOf s e).copies (fun c s =>
    if c.stopped = false ∧ (c.asked ≠ 0 ∨ c.readbacks ≠ []) then
      hostErrorCopy e c (if c.readbacks = [] then c.srcAt c.sent else c.dstAt (c.readbacks.headD 1 - 1)) 0 s
    else s) s

end Sys2Proof.Machine
end

