-- ==== Sys2Proof/Machine/Spare.lean ====
section
/-! DEFINITION. Faults that stop an engine: the move onto the die's spare and the epoch fault (R113, R137, R166, R181). -/

namespace Sys2Proof.Machine

open Sys2Proof

/-- Spare units of each class on a die (R22). -/
def sparesOf (cls : Nat) : Nat :=
  match cls with
  | 0 => 1 | 1 => 1 | 2 => 2 | _ => 0

/-- The physical unit an engine stands on: spares are numbered after the active units (log entry 25). -/
def physUnit (s : State) (e : Nat) : Nat :=
  match SMap.get 0 s.units.phys e with
  | 0 => engUnit e
  | n + 1 => n

/-- The unit code of a physical unit of an engine's class and die: as an engine ID, with the physical number (log entry 25). -/
def unitCode (e u : Nat) : Nat := engId (engClass e) (engDie e) u

/-- Whether some engine of the class and die of `e` stands on a physical unit. -/
def unitTaken (s : State) (e u : Nat) : Bool :=
  (List.range (unitsOf (engClass e))).any (fun i => decide (physUnit s (engId (engClass e) (engDie e) i) = u))

/-- The next healthy unused spare of an engine's die (R113). -/
def nextSpare (s : State) (e : Nat) : Option Nat :=
  ((List.range (sparesOf (engClass e))).map (· + unitsOf (engClass e))).find? (fun u =>
    !unitTaken s e u && !s.units.badUnits.contains (unitCode e u))

/-- The calibration store's contents have changed, and a write is due, or another after the one in progress (R500). -/
def calDirty (s : State) : State :=
  if s.boot.writeBusy then { s with boot := { s.boot with writeAgain := true } } else { s with boot := { s.boot with writeDue := true } }

/-- A recalibration leaves results to be written (R500). -/
def calResults (s : State) : State := { s with boot := { s.boot with recalDue := true } }

/-- Enter a repair in the field repair list (R494). -/
def listRepair (code spare : Nat) (s : State) : State :=
  logEvent 0x5010 srcDevice [(4, code), (4, spare)]
    (calDirty { s with boot := { s.boot with repairs := insertNat code s.boot.repairs } })

/-- Move an engine onto the next healthy unused spare of its die: the unit taken, or none (R113). -/
def moveToSpare (e : Nat) (s : State) : Option Nat × State :=
  let code := unitCode e (physUnit s e)
  let s := { s with units := { s.units with badUnits := insertNat code s.units.badUnits } }
  match nextSpare s e with
  | some u => (some u, listRepair code u { s with units := { s.units with phys := SMap.set 0 s.units.phys e (u + 1) } })
  | none => (none, s)

/-- The record of a unit that failed: its engine, its physical unit, and further fields or, where there are none, the spare taken,
0xFFFFFFFF for none (log entry 25); then the engine stops and an epoch fault is raised, with the device itself lost where no spare is
left (R113). -/
def engineFatal (code e : Nat) (extra : List (Nat × Nat)) (s : State) : State :=
  let old := physUnit s e
  let spare := nextSpare s e
  let s := logEvent code e ([(2, e), (4, old)] ++ if extra.isEmpty then [(4, spare.getD 0xFFFFFFFF)] else extra) s
  let s := (moveToSpare e s).2
  let s := modSeq e (fun q => { q with st := .faulted, wait := none, opens := [], signals := [], ending := false }) s
  epochFault code e spare.isNone s

end Sys2Proof.Machine
end

