-- ==== Sys2Proof/Machine/L1.lean ====
section
/-! DEFINITION. The L1 data caches of the fox cores: lines, eviction, requests to the home (R173, R174, R181, R370). -/

namespace Sys2Proof.Machine

open Sys2Proof

/-- The L1's name for a line: its home and the line of the home's core store. -/
def l1Key (home line : Nat) : Nat := 2 ^ 23 * home + line
/-- The home of a line. -/
def keyHome (k : Nat) : Nat := k / 2 ^ 23
/-- The line in its home's core store. -/
def keyLine (k : Nat) : Nat := k % 2 ^ 23

/-- A core's L1. -/
def l1Lines (s : State) (e : Nat) : SMap L1Line := SMap.get [] s.sett.l1 e
/-- A line of a core's L1. -/
def l1Of (s : State) (e k : Nat) : L1Line := SMap.get {} (l1Lines s e) k
/-- Write a line of a core's L1; the invalid line removes it. -/
def setL1 (e k : Nat) (l : L1Line) (s : State) : State :=
  { s with sett := { s.sett with l1 := SMap.set [] s.sett.l1 e (SMap.set {} (l1Lines s e) k l) } }
/-- Change a line of a core's L1. -/
def modL1 (e k : Nat) (f : L1Line → L1Line) (s : State) : State := setL1 e k (f (l1Of s e k)) s

/-- A reservation on a line is lost (R174). -/
def dropReservation (e k : Nat) (s : State) : State :=
  modFox e (fun c => if c.reservation = some k then { c with reservation := none } else c) s

/-- Send a message of an L1 about a line to its home: through a request slot where the home is another device, else over the die
network without one (R354, R370). The line keeps the slot. With no free slot nothing is sent. -/
def l1Send (ptype e k : Nat) (dirty poison : Bool) (d : List Byte) (s : State) : Option State :=
  let home := keyHome k
  if home = myLogical s then
    some (sendCoh ptype home home (keyLine k) e 0xFFFF 0 dirty poison d (modL1 e k (fun l => { l with slot := 0xFFFF, retry := false }) s))
  else
    match freeSlot s with
    | none => none
    | some i =>
      let b : MemBody := { addr := mkHall home 2 (keyLine k * 64), core := e, err := dirty, poison := poison, data := d }
      sendRequest e (.l1 e k) { issuePacket s ptype 1 home 0 (.mem b) with cls := 0 } (modL1 e k (fun l => { l with slot := i, retry := false }) s)

/-- Whether a request about a line must wait for one of its core to complete (R176). -/
def l1Full (s : State) (e k : Nat) : Bool := decide (keyHome k ≠ myLogical s) && coreFull s e

/-- Whether a line is in a stable state. -/
def l1Stable (l : L1Line) : Bool :=
  decide (l.state = .inv ∨ l.state = .shared ∨ l.state = .excl ∨ l.state = .modif)

/-- Whether a line is being evicted. -/
def l1Leaving (l : L1Line) : Bool := decide (l.state = .miA ∨ l.state = .eiA ∨ l.state = .iiA)

/-- Evict a line (R370): S silently, E with PUTE, M with PUTM. Unchanged where a notice finds no slot, or its core has none left. -/
def l1Evict (e k : Nat) (s : State) : State :=
  let l := l1Of s e k
  match l.state with
  | .shared => setL1 e k {} (dropReservation e k s)
  | .excl =>
    if l1Full s e k then s else match l1Send 0x44 e k false false [] (dropReservation e k s) with
    | some s => modL1 e k (fun l => { l with state := .eiA }) s
    | none => s
  | .modif =>
    if l1Full s e k then s else match l1Send 0x43 e k true l.poison l.data (dropReservation e k s) with
    | some s => modL1 e k (fun l => { l with state := .miA }) s
    | none => s
  | _ => s

/-- Make room for a line in its set of eight ways: the state, and whether there is room now. The victim among the stable lines is a
free value (log entry 20). -/
def l1Room (e k : Nat) (s : State) : State × Bool :=
  let set := (l1Lines s e).filter (fun x => x.1 % 64 == k % 64)
  if set.length < 8 then (s, true)
  else if set.any (fun x => l1Leaving x.2) then (s, false)
  else
    let old := set.filter (fun x => l1Stable x.2)
    match old[(freeWord s).toNat % max 1 old.length]? with
    | none => (s, false)
    | some v =>
      let s := l1Evict e v.1 (useFree s)
      (s, decide ((l1Of s e v.1).state = .inv))

/-- Ask the home for a line and wait for it: GETS, GETM or UPG. -/
def l1Ask (ptype : Nat) (st : L1State) (e k : Nat) (s : State) : State :=
  let r := if (l1Of s e k).state = .inv then l1Room e k s else (s, true)
  if r.2 && !l1Full r.1 e k then
    match l1Send ptype e k false false [] r.1 with
    | some s => modFox e (fun c => { c with busy := true, acquired := false }) (modL1 e k (fun l => { l with state := st }) s)
    | none => s
  else r.1

/-- An L1 error corrected or refetched is counted, and recorded once per core per phase (R181). -/
def l1Corrected (e : Nat) (s : State) : State :=
  logOncePhase 0x6310 e e [] (modFox e (fun c => { c with eccCorr := satAdd 32 c.eccCorr 1 }) s)

/-- A core stops at a double-bit error in a dirty line or a parity error of its registers (R181). -/
def foxEccStop (e : Nat) (s : State) : State :=
  engineFatal 0x6311 e [] (modFox e (fun c => { c with eccFatal := true, busy := false, pos := 0 }) s)

/-- Whether a check has found a double-bit error in a dirty line. -/
def l1Fatal (s : State) (e k : Nat) (x : Ecc) : Bool :=
  match x with
  | .uncorrectable _ => decide ((l1Of s e k).state = .modif)
  | _ => false

/-- What the check of an L1 line finds as a core reads it (R181): a corrected error changes nothing, a double-bit error in a clean line
gives the line up so that it is fetched again. -/
def l1Sense (e k : Nat) (x : Ecc) (s : State) : State :=
  match x, (l1Of s e k).state with
  | .ok, _ => s
  | _, .inv => s
  | .corrected _, _ => l1Corrected e s
  | .uncorrectable _, .shared => l1Evict e k (l1Corrected e s)
  | .uncorrectable _, .excl => l1Evict e k (l1Corrected e s)
  | .uncorrectable _, _ => s

/-- Invalidate a line in one L1 as an INV does (R375). -/
def l1Inval (e k : Nat) (s : State) : State :=
  match (l1Of s e k).state with
  | .shared => setL1 e k {} (dropReservation e k s)
  | .smG => modL1 e k (fun l => { l with state := .imD, data := [], poison := false }) (dropReservation e k s)
  | .isD => modL1 e k (fun l => { l with state := .isDI }) (dropReservation e k s)
  | _ => s

/-- Invalidate a line in every L1 of this device but one. -/
def l1InvalOthers (but k : Nat) (s : State) : State :=
  forEach ((s.sett.l1.map (·.1)).filter (fun e => e != but)) (fun e s => l1Inval e k s) s

/-- Invalidate every L1 without write-back (R182, R378). -/
def l1Clear (s : State) : State := { s with sett := { s.sett with l1 := [] } }

/-- Lines of other devices that an L1 holds dirty, or whose write-back is on its way. -/
def l1Away (s : State) : List (Nat × Nat) :=
  (s.sett.l1.map (fun x => (x.2.filter (fun l => decide (keyHome l.1 ≠ myLogical s) && decide (l.2.state = .modif ∨ l.2.state = .miA))).map
    (fun l => (x.1, l.1)))).flatten

/-- Send the dirty lines of other devices home (R407, R412). -/
def l1SendHome (s : State) : State := forEach (l1Away s) (fun x s => l1Evict x.1 x.2 s) s

/-- Write the dirty lines of every L1 whose home is this device into its core store, as the firmware does before a save or a
mirror (R182, R407). -/
def l1WriteBack (s : State) : State :=
  forEach s.sett.l1 (fun x s => forEach x.2 (fun l s =>
    if l.2.state = .modif ∧ keyHome l.1 = myLogical s then
      modL1 x.1 l.1 (fun y => { y with state := .excl })
        (if l.2.poison then writePoisoned .cs (keyLine l.1 * 64) l.2.data s else writeStore .cs (keyLine l.1 * 64) l.2.data s)
    else s) s) s

end Sys2Proof.Machine
end

