-- ==== Sys2Proof/Machine/FoxMem.lean ====
section
/-! DEFINITION. One access of a fox core: a load, a store or an atomic of at most 16 bytes (R172 to R176, R179, R180). -/

namespace Sys2Proof.Machine

open Sys2Proof

/-- How an access ends: performed with the bytes it returns, held until something changes, or a fatal trap with its cause (R179). -/
inductive Acc where
  | done (d : List Byte) (s : State)
  | hold (s : State)
  | trap (cause : Nat)
deriving Repr

/-- The low bytes of 0xBAD0_BAD0_BAD0_BAD0, repeated for a 16-byte access. -/
def badBytes (n : Nat) : List Byte := (leBytes 8 bad0.toNat ++ leBytes 8 bad0.toNat).take n

/-- An access refused under R36 or R172 (R180). -/
def foxRefuse (e : Nat) (a : Word64) (code n : Nat) (s : State) : Acc :=
  .done (badBytes n) (modFox e (fun c => { c with operandFault := true }) (addrFault code e a s))

/-- An access that met a poisoned line (R557): no record under R36. -/
def foxPoison (e code n : Nat) (s : State) : Acc :=
  .done (badBytes n) (modFox e (fun c => { c with operandFault := true }) (engineError e code s))

/-- The event code of a space's uncorrectable errors. -/
def spaceFatal (sp : Nat) : Nat := if sp = 0 then 0x9011 else if sp = 2 then 0x9013 else 0x9015

/-- The device an address names: this one for the local form. -/
def addrDev (s : State) (h : HAddr) : Nat := if h.form = 1 then h.dev else myLogical s

/-- Whether an address is one the L1 caches (R173). -/
def cachedAt (s : State) (h : HAddr) : Bool := decide (h.space = 2) && inSett (myLogical s) (addrDev s h)

/-- Whether a core has room for another request to another device (R176), and none of its own awaits that line (R218). -/
def foxRoom (s : State) (e : Nat) (h : HAddr) (n : Nat) : Bool :=
  !coreFull s e && !lineBusy s e h.dev h.off n

/-- Whether a TSIG of the core that still waits comes before an access: one to this device before every access to this device (R175), one to
another device before an access to its line (R218). -/
def behindTsig (s : State) (e : Nat) (h : HAddr) (n : Nat) : Bool :=
  (seqOf s e).signals.any (fun g => match g.addr with
    | none => !isRemote s h && decide (h.space ≠ 6)
    | some a => isRemote s h && decide ((hallAddr a).dev = h.dev ∧ h.space = 3) &&
      overlaps ((hallAddr a).off / 64, 1) (h.off / 64, (h.off + n + 63) / 64 - h.off / 64))

/-- Whether stores or atomics of a core to a device await their answers: a flagged store follows them (R171, R223). -/
def storesTo (s : State) (e dev : Nat) : Bool :=
  s.remote.slots.any (fun k => k.2.busy && k.2.engine == e && k.2.waiting.contains dev && decide (k.2.packet.ptype = 1 ∨ k.2.packet.ptype = 3))

/-- The checks of R560 on an access of a fox core: refused, a misaligned access, or neither. A misaligned access within a cached line
is performed (R179). -/
def foxCheck (s : State) (e : Nat) (a : Word64) (n : Nat) (write may : Bool) : Option (Nat ⊕ Unit) :=
  let h := hallAddr a
  let crooked := decide (h.off % n ≠ 0) && !(cachedAt s h && decide (h.off % 64 + n ≤ 64))
  match accessStage s e a n 1 write may with
  | some g => if g < 5 then some (.inl g) else if crooked then some (.inr ()) else some (.inl g)
  | none => if crooked then some (.inr ()) else none

/-- A load of a line in the L1, or its fetch (R173, R370); a double-bit error in a dirty line stops the core (R181). -/
def l1Load (e : Nat) (h : HAddr) (n : Nat) (ecc : Ecc) (s : State) : Acc :=
  let k := l1Key (addrDev s h) (h.off / 64)
  if l1Fatal s e k ecc then .hold (foxEccStop e s)
  else
  let s := l1Sense e k ecc s
  let l := l1Of s e k
  match l.state with
  | .inv => .hold (l1Ask 0x40 .isD e k s)
  | .shared | .excl | .modif | .smG =>
    if l.poison then foxPoison e 0x9013 n s else .done (slice l.data (h.off % 64) n) s
  | _ => .hold s

/-- Replace bytes of a line. -/
def lineWrite (l : List Byte) (off : Nat) (d : List Byte) : List Byte := slice (l.take off ++ d ++ l.drop (off + d.length)) 0 64

/-- A store to a line in the L1, or the request for its ownership (R173, R370, R373). -/
def l1Store (e : Nat) (h : HAddr) (d : List Byte) (s : State) : Acc :=
  let k := l1Key (addrDev s h) (h.off / 64)
  let l := l1Of s e k
  match l.state with
  | .inv => .hold (l1Ask 0x41 .imD e k s)
  | .shared => .hold (l1Ask 0x42 .smG e k s)
  | .excl | .modif => .done [] (setL1 e k { l with state := .modif, data := lineWrite l.data (h.off % 64) d } s)
  | _ => .hold s

/-- Send a request whose answer the core waits for. -/
def foxAsk (e : Nat) (p : Packet) (s : State) : Acc :=
  match sendRequest e (.foxWait e) p s with
  | some s => .hold (modFox e (fun c => { c with busy := true, acquired := false }) s)
  | none => .hold s

/-- Whether a load or a store of the value `v` may reach its space (R172, R403): the tally unit performs only its own forms. -/
def accMay (s : State) (h : HAddr) (n : Nat) (write : Bool) (v : Nat) : Bool :=
  decide (h.space < 3) || (decide (h.space = 3) && tallyMay s (!isRemote s h) h.off n write v) ||
    (decide (h.space = 4) && dcsMay s (!isRemote s h) h.off n write v &&
      (!write || isRemote s h || (dcsStore srcRemote h.off (leBytes n v) s).isSome)) ||
    decide (h.space = 6 ∧ h.form = 0)

/-- One load (R172). `ecc` is what the store's or the L1's check finds, `host` what host memory returns; `ans` is the answer of another
device to it, once it has come. -/
def foxLoad (e : Nat) (a : Word64) (n : Nat) (ecc : Ecc) (host : List Byte) (ans : Option (List Byte)) (s : State) : Acc :=
  match ans with
  | some d => .done (d.take n) s
  | none =>
    let h := hallAddr a
    match foxCheck s e a n false (accMay s h n false 0) with
    | some (.inl g) => foxRefuse e a (stageCode g) n s
    | some (.inr _) => .trap 4
    | none =>
      if behindTsig s e h n then .hold s
      else if cachedAt s h then l1Load e h n ecc s
      else if isRemote s h then
        if foxRoom s e h n then foxAsk e (issuePacket s 0x00 1 h.dev 0 (.mem { len := n, addr := a })) s else .hold s
      else match h.space with
        | 3 => .done (tallyLoad s h.off n) s
        | 4 => .done (dcsLoad s h.off n) s
        | 6 => if s.hub.l0 then .done (slice host 0 n) s else .hold s
        | sp =>
          match spaceStore sp with
          | some st =>
            let s := served st true h.off n (eccNote st h.off e ecc s)
            if poisoned s st h.off n then foxPoison e (fatalCode st) n s else .done (readStore s st h.off n) s
          | none => foxRefuse e a 0x9003 n s

/-- The effect of a store that has passed its checks. -/
def foxStoreGo (e : Nat) (a : Word64) (d : List Byte) (flagged : Bool) (s : State) : Acc :=
  let h := hallAddr a
  let n := d.length
  if cachedAt s h then (if flagged && isRemote s h && storesTo s e h.dev then .hold s else l1Store e h d s)
  else if isRemote s h then
    if foxRoom s e h n then
      let p := { issuePacket s 0x01 1 h.dev 0 (.mem { len := n, addr := a, data := d }) with flagged := flagged }
      match sendRequest e (.fox e (seqOf s e).issued) p s with
      | some s => .done [] (issueOpen e s)
      | none => .hold s
    else .hold s
  else match h.space with
    | 3 => match tallyStore e h.off n (leVal d) s with
      | some s => .done [] s
      | none => foxRefuse e a 0x9003 n s
    | 4 => match dcsStore e h.off d s with
      | some s => .done [] s
      | none => foxRefuse e a 0x9003 n s
    | 6 => .done [] (modFox e (fun c => { c with hostWrote := some h.off }) (hostWrite h.off d s))
    | sp => match spaceStore sp with
      | some st => .done [] (served st true h.off n (writeStore st h.off d s))
      | none => foxRefuse e a 0x9003 n s

/-- One store (R172). A flagged store is an SDF (R171, R223). With an answer, its line was refused or lost, and it is dropped (R363). -/
def foxStore (e : Nat) (a : Word64) (d : List Byte) (flagged : Bool) (ans : Option (List Byte)) (s : State) : Acc :=
  if ans.isSome then .done [] s
  else match foxCheck s e a d.length true (accMay s (hallAddr a) d.length true (leVal d)) with
    | some (.inl g) => foxRefuse e a (stageCode g) d.length s
    | some (.inr _) => .trap 6
    | none =>
      if flagged && decide ((hallAddr a).off % 8 ≠ 0) then .trap 6
      else if behindTsig s e (hallAddr a) d.length then .hold s
      else foxStoreGo e a d flagged s

/-- Whether an atomic may reach a space (R172, R403). -/
def amoMay (s : State) (h : HAddr) (op elem : Nat) : Bool :=
  (decide (h.space < 3) && atomOk op elem) ||
    (decide (h.space = 3) && decide (op = 1 ∧ elem = 1 ∧ h.off % 32 = 0) && tallyMay s (!isRemote s h) h.off 8 true 0)

/-- An atomic on this device: at a store's controller, at the core store's directory, or at the tally unit (R172, R229). -/
def amoHere (e : Nat) (h : HAddr) (a : Word64) (op elem x swap : Nat) (s : State) : Acc :=
  let n := elemBytes elem
  match spaceStore h.space with
  | some st =>
    if decide (st = .cs) && !csReady s h.off n true then .hold (csRecall h.off n true s)
    else
      let r := atomAt st h.off op elem x swap s
      let s := served st true h.off n r.2.2
      let s := if st = .cs then countUncached h.off 1 s else s
      if r.2.1 then foxPoison e (fatalCode st) n s else .done (leBytes n r.1) s
  | none =>
    let i := h.off / 32
    .done (leBytes 8 (tallyOf s i).count) (tallyAdd i x e s)

/-- One atomic (R172, R174, R230). A core gives up its own copy of the line first. -/
def foxAmo (e : Nat) (a : Word64) (op elem x swap : Nat) (ans : Option (List Byte)) (s : State) : Acc :=
  match ans with
  | some d => .done (d.take (elemBytes elem)) s
  | none =>
    let h := hallAddr a
    let n := elemBytes elem
    let may := amoMay s h op elem
    match accessStage s e a n 1 true may with
    | some g => if g = 5 ∧ h.off % n ≠ 0 then .trap 6 else foxRefuse e a (stageCode g) n s
    | none =>
      if h.off % n ≠ 0 then .trap 6
      else if behindTsig s e h n then .hold s
      else
        let k := l1Key (addrDev s h) (h.off / 64)
        if cachedAt s h ∧ (l1Of s e k).state ≠ .inv ∧ (l1Of s e k).state ≠ .shared then .hold (l1Evict e k s)
        else
          let s := if cachedAt s h then l1Evict e k s else s
          if isRemote s h then
            if foxRoom s e h n then
              foxAsk e (issuePacket s 0x03 1 h.dev 0 (.mem { op := op, elem := elem, addr := a
                                                             operand := BitVec.ofNat 128 x, extra := BitVec.ofNat 128 swap })) s
            else .hold s
          else amoHere e h a op elem x swap s

/-- Load-reserved (R174): the line is fetched, and reserved once it is read. -/
def foxLr (e : Nat) (a : Word64) (n : Nat) (ecc : Ecc) (ans : Option (List Byte)) (s : State) : Acc :=
  let h := hallAddr a
  if ans.isSome then .done ((ans.getD []).take n) s
  else if (accessStage s e a n 1 false (accMay s h n false 0)).isSome ∨ cachedAt s h = false then .trap 5
  else if h.off % n ≠ 0 then .trap 4
  else if behindTsig s e h n then .hold s
  else match l1Load e h n ecc s with
    | .done d s => .done d (modFox e (fun c => { c with reservation := some (l1Key (addrDev s h) (h.off / 64)) }) s)
    | r => r

/-- Store-conditional (R174): 0 where the reservation stood and the store was made, 1 where it did not. -/
def foxSc (e : Nat) (a : Word64) (d : List Byte) (ans : Option (List Byte)) (s : State) : Acc :=
  let h := hallAddr a
  let n := d.length
  if ans.isSome then .done [1] (modFox e (fun c => { c with reservation := none }) s)
  else if (accessStage s e a n 1 true (accMay s h n true 0)).isSome ∨ cachedAt s h = false then .trap 7
  else if h.off % n ≠ 0 then .trap 6
  else if behindTsig s e h n then .hold s
  else if (foxOf s e).reservation = some (l1Key (addrDev s h) (h.off / 64)) then
    match l1Store e h d s with
    | .done _ s => .done [0] (modFox e (fun c => { c with reservation := none }) s)
    | r => r
  else .done [1] (modFox e (fun c => { c with reservation := none }) s)

end Sys2Proof.Machine
end

