-- ==== Sys2Proof/Machine/RvBase.lean ====
section
/-! DEFINITION. The fox core's integer instructions: register access, compressed forms, RV64I and M (R167). The encodings and meanings
are those of the RISC-V unprivileged specification, which R167 names (PRESUMED, log entry 12). -/

namespace Sys2Proof.Machine

open Sys2Proof

/-- A value as 64 bits. -/
def w64 (n : Nat) : Word64 := BitVec.ofNat 64 n
/-- An integer as 64 bits. -/
def i64 (z : Int) : Word64 := BitVec.ofInt 64 z
/-- The low 32 bits of a value, sign-extended. -/
def sx32 (n : Nat) : Word64 := i64 (sext 32 n)

/-- Read x[r]. -/
def Fox.rx (c : Fox) (r : Nat) : Word64 := if r = 0 then 0 else SMap.get 0 c.x r
/-- Write x[r]: x0 discards it. -/
def Fox.wx (c : Fox) (r : Nat) (v : Word64) : Fox := if r = 0 then c else { c with x := SMap.set 0 c.x r v }
/-- Read f[r]. -/
def Fox.rf (c : Fox) (r : Nat) : Word64 := SMap.get 0 c.f r
/-- Write f[r]. -/
def Fox.wf (c : Fox) (r : Nat) (v : Word64) : Fox := { c with f := SMap.set 0 c.f r v }

/-! ### Fields of a 32-bit instruction -/

/-- rd. -/
def fRd (w : Nat) : Nat := bits w 7 5
/-- rs1. -/
def fRs1 (w : Nat) : Nat := bits w 15 5
/-- rs2. -/
def fRs2 (w : Nat) : Nat := bits w 20 5
/-- funct3. -/
def f3 (w : Nat) : Nat := bits w 12 3
/-- funct7. -/
def f7 (w : Nat) : Nat := bits w 25 7
/-- The I-type immediate. -/
def immI (w : Nat) : Int := sext 12 (bits w 20 12)
/-- The S-type immediate. -/
def immS (w : Nat) : Int := sext 12 (bits w 7 5 + bits w 25 7 * 32)
/-- The B-type immediate. -/
def immB (w : Nat) : Int := sext 13 (bits w 8 4 * 2 + bits w 25 6 * 32 + 2048 * bits w 7 1 + 4096 * bits w 31 1)
/-- The U-type immediate. -/
def immU (w : Nat) : Int := sext 32 (4096 * bits w 12 20)
/-- The J-type immediate. -/
def immJ (w : Nat) : Int := sext 21 (bits w 21 10 * 2 + 2048 * bits w 20 1 + 4096 * bits w 12 8 + 1048576 * bits w 31 1)

/-! ### Building 32-bit forms from compressed ones -/

/-- An I-type instruction. -/
def mkI (op f rd rs1 : Nat) (imm : Int) : Nat := op + rd * 2 ^ 7 + 2 ^ 12 * f + 2 ^ 15 * rs1 + 2 ^ 20 * ofInt 12 imm
/-- An R-type instruction. -/
def mkR (op f g rd rs1 rs2 : Nat) : Nat := op + rd * 2 ^ 7 + 2 ^ 12 * f + 2 ^ 15 * rs1 + 2 ^ 20 * rs2 + 2 ^ 25 * g
/-- An S-type instruction. -/
def mkS (op f rs1 rs2 : Nat) (imm : Int) : Nat :=
  let m := ofInt 12 imm
  op + m % 32 * 2 ^ 7 + 2 ^ 12 * f + 2 ^ 15 * rs1 + 2 ^ 20 * rs2 + m / 32 * 2 ^ 25
/-- A B-type instruction. -/
def mkB (f rs1 rs2 : Nat) (imm : Int) : Nat :=
  let m := ofInt 13 imm
  0x63 + bits m 11 1 * 2 ^ 7 + bits m 1 4 * 2 ^ 8 + 2 ^ 12 * f + 2 ^ 15 * rs1 + 2 ^ 20 * rs2 + 2 ^ 25 * bits m 5 6 + 2 ^ 31 * bits m 12 1
/-- A J-type instruction. -/
def mkJ (rd : Nat) (imm : Int) : Nat :=
  let m := ofInt 21 imm
  0x6F + rd * 2 ^ 7 + 2 ^ 12 * bits m 12 8 + 2 ^ 20 * bits m 11 1 + 2 ^ 21 * bits m 1 10 + 2 ^ 31 * bits m 20 1

/-- Quadrant 0 of the compressed instructions. -/
def expandC0 (h : Nat) : Option Nat :=
  let rd := 8 + bits h 2 3
  let rs := 8 + bits h 7 3
  let uw : Nat := bits h 10 3 * 8 + bits h 6 1 * 4 + bits h 5 1 * 64
  let ud : Nat := bits h 10 3 * 8 + bits h 5 2 * 64
  match bits h 13 3 with
  | 0 =>
    let u := bits h 11 2 * 16 + bits h 7 4 * 64 + bits h 6 1 * 4 + bits h 5 1 * 8
    if u = 0 then none else some (mkI 0x13 0 rd 2 u)
  | 1 => some (mkI 0x07 3 rd rs ud)
  | 2 => some (mkI 0x03 2 rd rs uw)
  | 3 => some (mkI 0x03 3 rd rs ud)
  | 5 => some (mkS 0x27 3 rs rd ud)
  | 6 => some (mkS 0x23 2 rs rd uw)
  | 7 => some (mkS 0x23 3 rs rd ud)
  | _ => none

/-- The branch immediate of C.BEQZ and C.BNEZ. -/
def immCB (h : Nat) : Int :=
  sext 9 (bits h 3 2 * 2 + bits h 10 2 * 8 + bits h 2 1 * 32 + bits h 5 2 * 64 + bits h 12 1 * 256)
/-- The jump immediate of C.J. -/
def immCJ (h : Nat) : Int :=
  sext 12 (bits h 3 3 * 2 + bits h 11 1 * 16 + bits h 2 1 * 32 + bits h 7 1 * 64 + bits h 6 1 * 128 + bits h 9 2 * 256 +
    bits h 8 1 * 1024 + 2048 * bits h 12 1)

/-- Quadrant 1. -/
def expandC1 (h : Nat) : Option Nat :=
  let rd := bits h 7 5
  let imm := sext 6 (bits h 2 5 + bits h 12 1 * 32)
  let sh := bits h 2 5 + bits h 12 1 * 32
  let r := 8 + bits h 7 3
  let r2 := 8 + bits h 2 3
  match bits h 13 3 with
  | 0 => some (mkI 0x13 0 rd rd imm)
  | 1 => if rd = 0 then none else some (mkI 0x1B 0 rd rd imm)
  | 2 => some (mkI 0x13 0 rd 0 imm)
  | 3 =>
    if rd = 2 then
      let m := sext 10 (bits h 6 1 * 16 + bits h 2 1 * 32 + bits h 5 1 * 64 + bits h 3 2 * 128 + bits h 12 1 * 512)
      if m = 0 then none else some (mkI 0x13 0 2 2 m)
    else if imm = 0 then none
    else some (0x37 + rd * 2 ^ 7 + 2 ^ 12 * ofInt 20 imm)
  | 4 =>
    match bits h 10 2 with
    | 0 => some (mkI 0x13 5 r r sh)
    | 1 => some (mkI 0x13 5 r r (sh + 1024 : Nat))
    | 2 => some (mkI 0x13 7 r r imm)
    | _ =>
      match bits h 12 1 * 4 + bits h 5 2 with
      | 0 => some (mkR 0x33 0 0x20 r r r2)
      | 1 => some (mkR 0x33 4 0 r r r2)
      | 2 => some (mkR 0x33 6 0 r r r2)
      | 3 => some (mkR 0x33 7 0 r r r2)
      | 4 => some (mkR 0x3B 0 0x20 r r r2)
      | 5 => some (mkR 0x3B 0 0 r r r2)
      | _ => none
  | 5 => some (mkJ 0 (immCJ h))
  | 6 => some (mkB 0 r 0 (immCB h))
  | _ => some (mkB 1 r 0 (immCB h))

/-- Quadrant 2. -/
def expandC2 (h : Nat) : Option Nat :=
  let rd := bits h 7 5
  let rs2 := bits h 2 5
  let sh := bits h 2 5 + bits h 12 1 * 32
  let uw : Nat := bits h 4 3 * 4 + bits h 12 1 * 32 + bits h 2 2 * 64
  let ud : Nat := bits h 5 2 * 8 + bits h 12 1 * 32 + bits h 2 3 * 64
  match bits h 13 3 with
  | 0 => some (mkI 0x13 1 rd rd sh)
  | 1 => some (mkI 0x07 3 rd 2 ud)
  | 2 => if rd = 0 then none else some (mkI 0x03 2 rd 2 uw)
  | 3 => if rd = 0 then none else some (mkI 0x03 3 rd 2 ud)
  | 4 =>
    if bits h 12 1 = 0 then
      if rs2 = 0 then (if rd = 0 then none else some (mkI 0x67 0 0 rd 0)) else some (mkR 0x33 0 0 rd 0 rs2)
    else if rs2 = 0 then (if rd = 0 then some 0x00100073 else some (mkI 0x67 0 1 rd 0))
    else some (mkR 0x33 0 0 rd rd rs2)
  | 5 => some (mkS 0x27 3 2 rs2 (bits h 10 3 * 8 + bits h 7 3 * 64 : Nat))
  | 6 => some (mkS 0x23 2 2 rs2 (bits h 9 4 * 4 + bits h 7 2 * 64 : Nat))
  | _ => some (mkS 0x23 3 2 rs2 (bits h 10 3 * 8 + bits h 7 3 * 64 : Nat))

/-- The 32-bit form of a compressed instruction; none where it is illegal. -/
def expandC (h : Nat) : Option Nat :=
  match h % 4 with
  | 0 => expandC0 h
  | 1 => expandC1 h
  | 2 => expandC2 h
  | _ => none

/-! ### Integer operations -/

/-- The operations of OP and OP-IMM on 64 bits: funct3 with the alternate bit. -/
def aluOp (f : Nat) (alt : Bool) (a b : Word64) : Word64 :=
  match f with
  | 0 => if alt then a - b else a + b
  | 1 => a <<< (b.toNat % 64)
  | 2 => if a.toInt < b.toInt then 1 else 0
  | 3 => if a.toNat < b.toNat then 1 else 0
  | 4 => a ^^^ b
  | 5 => if alt then a.sshiftRight (b.toNat % 64) else a >>> (b.toNat % 64)
  | 6 => a ||| b
  | _ => a &&& b

/-- The operations of OP-32 and OP-IMM-32: add, subtract and shifts on the low words; none for another funct3. -/
def aluOp32 (f : Nat) (alt : Bool) (a b : Word64) : Option Word64 :=
  let x := a.toNat % 2 ^ 32
  let n := b.toNat % 32
  match f with
  | 0 => some (sx32 (if alt then a - b else a + b).toNat)
  | 1 => some (sx32 (x <<< n))
  | 5 => some (if alt then i64 (sext 32 x / (2 ^ n : Nat)) else sx32 (x >>> n))
  | _ => none

/-- The M extension on `n`-bit operands, as bit patterns. -/
def mulDiv (n f a b : Nat) : Nat :=
  let sa := sext n a
  let sb := sext n b
  let q := 2 ^ n
  match f with
  | 0 => (a * b) % q
  | 1 => ofInt n (sa * sb / (q : Int))
  | 2 => ofInt n (sa * (b : Int) / (q : Int))
  | 3 => a * b / q
  | 4 => if b = 0 then q - 1 else ofInt n (Int.tdiv sa sb)
  | 5 => if b = 0 then q - 1 else a / b
  | 6 => if b = 0 then a else ofInt n (Int.tmod sa sb)
  | _ => if b = 0 then a else a % b

/-- Whether a branch is taken; none for an illegal funct3. -/
def branchTaken (f : Nat) (a b : Word64) : Option Bool :=
  match f with
  | 0 => some (decide (a = b))
  | 1 => some (decide (a ≠ b))
  | 4 => some (decide (a.toInt < b.toInt))
  | 5 => some (decide (b.toInt ≤ a.toInt))
  | 6 => some (decide (a.toNat < b.toNat))
  | 7 => some (decide (b.toNat ≤ a.toNat))
  | _ => none

/-- What an instruction without memory does: the core after it and the next pc; none where it is illegal. -/
abbrev RvOut := Option (Fox × Nat)

/-- RV64I and M without memory, at `pc`, with `next` the following instruction's address. -/
def rvInt (c : Fox) (pc next w : Nat) : RvOut :=
  let rd := fRd w
  let a := c.rx (fRs1 w)
  let b := c.rx (fRs2 w)
  let f := f3 w
  match w % 128 with
  | 0x37 => some (c.wx rd (i64 (immU w)), next)
  | 0x17 => some (c.wx rd (i64 ((pc : Int) + immU w)), next)
  | 0x6F => some (c.wx rd (w64 next), (i64 ((pc : Int) + immJ w)).toNat)
  | 0x67 => if f = 0 then some (c.wx rd (w64 next), (a + i64 (immI w)).toNat / 2 * 2) else none
  | 0x63 => (branchTaken f a b).map (fun t => (c, if t then (i64 ((pc : Int) + immB w)).toNat else next))
  | 0x13 =>
    if f = 1 then (if bits w 26 6 = 0 then some (c.wx rd (aluOp 1 false a (w64 (bits w 20 6))), next) else none)
    else if f = 5 then
      (if bits w 26 6 = 0 ∨ bits w 26 6 = 16 then some (c.wx rd (aluOp 5 (bit w 30) a (w64 (bits w 20 6))), next) else none)
    else some (c.wx rd (aluOp f false a (i64 (immI w))), next)
  | 0x1B =>
    if f = 0 then (aluOp32 0 false a (i64 (immI w))).map (fun v => (c.wx rd v, next))
    else if f7 w = 0 ∨ (f7 w = 32 ∧ f = 5) then (aluOp32 f (bit w 30) a (w64 (fRs2 w))).map (fun v => (c.wx rd v, next))
    else none
  | 0x33 =>
    if f7 w = 1 then some (c.wx rd (w64 (mulDiv 64 f a.toNat b.toNat)), next)
    else if f7 w = 0 ∨ (f7 w = 32 ∧ (f = 0 ∨ f = 5)) then some (c.wx rd (aluOp f (bit w 30) a b), next)
    else none
  | 0x3B =>
    if f7 w = 1 then
      if f = 0 ∨ 4 ≤ f then some (c.wx rd (sx32 (mulDiv 32 f (a.toNat % 2 ^ 32) (b.toNat % 2 ^ 32))), next) else none
    else if f7 w = 0 ∨ (f7 w = 32 ∧ (f = 0 ∨ f = 5)) then (aluOp32 f (bit w 30) a b).map (fun v => (c.wx rd v, next))
    else none
  | _ => none

end Sys2Proof.Machine
end

