-- ==== Sys2Proof/Machine/RvFloat.lean ====
section
/-! DEFINITION. The fox core's scalar floating point: the F and D extensions (R167). Encodings, NaN boxing and flags are those of the
RISC-V unprivileged specification, which R167 names (PRESUMED, log entry 12). -/

namespace Sys2Proof.Machine

open Sys2Proof

/-! ### Flags: NV 16, DZ 8, OF 4, UF 2, NX 1 -/

/-- A result pattern with its flags. -/
abbrev FRes := Nat × Nat

/-- Whether a pattern is a NaN. -/
def Fmt.isNan (f : Fmt) (n : Nat) : Bool := (f.decode n).isNan
/-- Whether a pattern is a signalling NaN. -/
def Fmt.isSnan (f : Fmt) (n : Nat) : Bool := f.isNan n && !bit n (f.fb - 1)

/-- Whether a magnitude is still below the smallest normal value after rounding with an unbounded exponent. -/
def Fmt.tiny (f : Fmt) (mode : RMode) (neg : Bool) (m : Nat) (e : Int) : Bool :=
  let g : Fmt := { f with bias := f.bias + 100000 }
  decide ((g.roundMag mode neg m e).1 / 2 ^ f.fb < 100001)

/-- Round with the flags OF, UF and NX. -/
def Fmt.roundF (f : Fmt) (mode : RMode) (x : Num) : FRes :=
  match x with
  | .fin neg m e =>
    let r := f.roundMag mode neg m e
    if r.1 ≤ f.maxPat then
      (f.sign neg + r.1, if r.2 then (if decide (m ≠ 0) && f.tiny mode neg m e then 3 else 1) else 0)
    else (f.round mode x, 5)
  | y => (f.round mode y, 0)

/-- Round to odd, with flags: toward zero, with the last bit set where that is inexact. -/
def Fmt.roundOdd (f : Fmt) (x : Num) : FRes :=
  let r := f.roundF .rtz x
  if r.2 % 2 = 1 then (r.1 / 2 * 2 + 1, r.2) else r

/-- Complete an operation: NV where an input is signalling or a NaN comes from inputs that are none. -/
def Fmt.finish (f : Fmt) (mode : RMode) (ins : List Nat) (r : Num) : FRes :=
  let p := f.roundF mode r
  let nv := ins.any f.isSnan || (r.isNan && !ins.any f.isNan)
  (p.1, p.2 ||| (if nv then 16 else 0))

/-- Sum with flags. -/
def Fmt.addF (f : Fmt) (mode : RMode) (a b : Nat) : FRes :=
  f.finish mode [a, b] (Num.addWith (decide (mode = .rdn)) (f.decode a) (f.decode b))

/-- A pattern with its sign flipped. -/
def Fmt.flip (f : Fmt) (a : Nat) : Nat := a ^^^ 2 ^ (f.width - 1)

/-- Difference with flags. -/
def Fmt.subF (f : Fmt) (mode : RMode) (a b : Nat) : FRes :=
  f.finish mode [a, b] (Num.addWith (decide (mode = .rdn)) (f.decode a) (f.decode b).neg)

/-- Product with flags. -/
def Fmt.mulF (f : Fmt) (mode : RMode) (a b : Nat) : FRes := f.finish mode [a, b] ((f.decode a).mul (f.decode b))

/-- Quotient with flags: DZ for a finite non-zero value over zero. -/
def Fmt.divF (f : Fmt) (mode : RMode) (a b : Nat) : FRes :=
  let x := f.decode a
  let y := f.decode b
  let p := f.finish mode [a, b] (x.div y)
  let dz := y.isZero && !x.isZero && (match x with
    | .fin .. => true
    | _ => false)
  (p.1, p.2 ||| (if dz then 8 else 0))

/-- Square root with flags. -/
def Fmt.sqrtF (f : Fmt) (mode : RMode) (a : Nat) : FRes := f.finish mode [a] (f.decode a).sqrt

/-- a × b + c with one rounding and flags; `np` negates the product, `nc` the addend. Infinity times zero is invalid whatever c is. -/
def Fmt.fmaF (f : Fmt) (mode : RMode) (np nc : Bool) (a b c : Nat) : FRes :=
  let x := f.decode a
  let y := f.decode b
  let p := if np then (x.mul y).neg else x.mul y
  let z := if nc then (f.decode c).neg else f.decode c
  let r := f.finish mode [a, b, c] (Num.addWith (decide (mode = .rdn)) p z)
  (r.1, r.2 ||| (if p.isNan && !x.isNan && !y.isNan then 16 else 0))

/-- minimumNumber and maximumNumber with flags. -/
def Fmt.minMaxF (f : Fmt) (isMax : Bool) (a b : Nat) : FRes :=
  let fl := if f.isSnan a || f.isSnan b then 16 else 0
  if f.isNan a && f.isNan b then (f.nan, fl)
  else if f.isNan a then (b, fl)
  else if f.isNan b then (a, fl)
  else (f.minMax isMax a b, fl)

/-- Comparisons with flags: 0 less or equal, 1 less, 2 equal (quiet). -/
def Fmt.cmpF (f : Fmt) (op a b : Nat) : FRes :=
  let un := f.isNan a || f.isNan b
  let nv := if op = 2 then f.isSnan a || f.isSnan b else un
  let o := Num.cmp (f.decode a) (f.decode b)
  let t := match op with
    | 0 => decide (o = .lt ∨ o = .eq)
    | 1 => decide (o = .lt)
    | _ => decide (o = .eq)
  (b2n (!un && t), if nv then 16 else 0)

/-- Sign injection: 0 the other's sign, 1 its opposite, 2 the exclusive or. -/
def Fmt.sgnj (f : Fmt) (op a b : Nat) : Nat :=
  let w := f.width - 1
  let s := match op with
    | 0 => bit b w
    | 1 => !bit b w
    | _ => bit a w != bit b w
  a % 2 ^ w + f.sign s

/-- The ten classes of FCLASS. -/
def Fmt.classify (f : Fmt) (a : Nat) : Nat :=
  match f.decode a with
  | .nan => if f.isSnan a then 256 else 512
  | .inf s => if s then 1 else 128
  | .fin s m _ =>
    if m = 0 then (if s then 8 else 16)
    else if bits a f.fb f.eb = 0 then (if s then 4 else 32)
    else if s then 2 else 64

/-- Convert to an `n`-bit integer with flags: out of range saturates with NV, and NaN gives the largest. -/
def Fmt.toIntF (f : Fmt) (mode : RMode) (signed : Bool) (n a : Nat) : FRes :=
  let hi : Int := if signed then (2 ^ (n - 1) : Nat) - 1 else (2 ^ n : Nat) - 1
  let lo : Int := if signed then -((2 ^ (n - 1) : Nat) : Int) else 0
  let x := f.decode a
  match x.toInt mode with
  | some (z, inexact) =>
    if z < lo then (ofInt n lo, 16) else if hi < z then (ofInt n hi, 16) else (ofInt n z, b2n inexact)
  | none => (ofInt n (if x.isNan || !x.isNeg then hi else lo), 16)

/-- Convert an integer. -/
def Fmt.ofIntF (f : Fmt) (mode : RMode) (z : Int) : FRes := f.roundF mode (Num.ofInt z)

/-- Convert between formats with flags. -/
def Fmt.convF (g f : Fmt) (mode : RMode) (a : Nat) : FRes :=
  let p := f.roundF mode (g.decode a)
  (p.1, p.2 ||| (if g.isSnan a then 16 else 0))

/-! ### Registers and rounding modes -/

/-- The rounding direction of a code; none for a reserved one. -/
def rmode (n : Nat) : Option RMode :=
  match n with
  | 0 => some .rne | 1 => some .rtz | 2 => some .rdn | 3 => some .rup | 4 => some .rmm | _ => none

/-- The rounding direction of an instruction, or of frm where it is dynamic. -/
def Fox.rm (c : Fox) (n : Nat) : Option RMode := if n = 7 then rmode (bits c.fcsr 5 3) else rmode n

/-- Accrue flags. -/
def Fox.flags (c : Fox) (fl : Nat) : Fox := { c with fcsr := c.fcsr ||| fl }

/-- A register as a value of a format: a single value that is not boxed reads as NaN. -/
def Fox.rff (c : Fox) (dbl : Bool) (r : Nat) : Nat :=
  let v := (c.rf r).toNat
  if dbl then v else if v / 2 ^ 32 = 2 ^ 32 - 1 then v % 2 ^ 32 else 0x7FC00000

/-- Write a value of a format, boxed. -/
def Fox.wff (c : Fox) (dbl : Bool) (r v : Nat) : Fox :=
  c.wf r (w64 (if dbl then v else v % 2 ^ 32 + 2 ^ 32 * (2 ^ 32 - 1)))

/-- Write a result with its flags. -/
def Fox.putF (c : Fox) (dbl : Bool) (r : Nat) (x : FRes) : Fox := (c.wff dbl r x.1).flags x.2

/-- The format of a size field: single or double. -/
def fpFmt (dbl : Bool) : Fmt := if dbl then .fp64 else .fp32

/-- The conversions to and from integers and the moves and classes of OP-FP. -/
def rvFpInt (c : Fox) (w : Nat) (dbl : Bool) : Option Fox :=
  let f := fpFmt dbl
  let rd := fRd w
  let a := c.rff dbl (fRs1 w)
  let k := fRs2 w
  let n := if k < 2 then 32 else 64
  match f7 w / 4 with
  | 0x18 => if k > 3 then none else (c.rm (f3 w)).map (fun m =>
      let r := f.toIntF m (decide (k % 2 = 0)) n a
      (c.wx rd (if n = 32 then sx32 r.1 else w64 r.1)).flags r.2)
  | 0x1A => if k > 3 then none else (c.rm (f3 w)).map (fun m =>
      let v := (c.rx (fRs1 w)).toNat % 2 ^ n
      c.putF dbl rd (f.ofIntF m (if k % 2 = 0 then sext n v else v)))
  | 0x1C =>
    if k ≠ 0 then none
    else if f3 w = 0 then some (c.wx rd (if dbl then c.rf (fRs1 w) else sx32 (c.rf (fRs1 w)).toNat))
    else if f3 w = 1 then some (c.wx rd (w64 (f.classify a)))
    else none
  | 0x1E => if k = 0 ∧ f3 w = 0 then some (c.wff dbl rd (if dbl then (c.rx (fRs1 w)).toNat else (c.rx (fRs1 w)).toNat % 2 ^ 32)) else none
  | _ => none

/-- OP-FP. -/
def rvOpFp (c : Fox) (w : Nat) : Option Fox :=
  if bits w 25 2 > 1 then none
  else
    let dbl := decide (bits w 25 2 = 1)
    let f := fpFmt dbl
    let rd := fRd w
    let a := c.rff dbl (fRs1 w)
    let b := c.rff dbl (fRs2 w)
    let m := c.rm (f3 w)
    match f7 w / 4 with
    | 0x00 => m.map (fun m => c.putF dbl rd (f.addF m a b))
    | 0x01 => m.map (fun m => c.putF dbl rd (f.subF m a b))
    | 0x02 => m.map (fun m => c.putF dbl rd (f.mulF m a b))
    | 0x03 => m.map (fun m => c.putF dbl rd (f.divF m a b))
    | 0x0B => if fRs2 w = 0 then m.map (fun m => c.putF dbl rd (f.sqrtF m a)) else none
    | 0x04 => if f3 w < 3 then some (c.wff dbl rd (f.sgnj (f3 w) a b)) else none
    | 0x05 => if f3 w < 2 then some (c.putF dbl rd (f.minMaxF (decide (f3 w = 1)) a b)) else none
    | 0x08 =>
      if fRs2 w = 1 - b2n dbl then
        m.map (fun m => c.putF dbl rd ((fpFmt (!dbl)).convF f m (c.rff (!dbl) (fRs1 w))))
      else none
    | 0x14 => if f3 w < 3 then
        let r := f.cmpF (f3 w) a b
        some ((c.wx rd (w64 r.1)).flags r.2)
      else none
    | _ => rvFpInt c w dbl

/-- F and D without memory. -/
def rvFloat (c : Fox) (next w : Nat) : RvOut :=
  let op := w % 128
  if op = 0x53 then (rvOpFp c w).map (fun c => (c, next))
  else if bits w 25 2 > 1 then none
  else
    let dbl := decide (bits w 25 2 = 1)
    let f := fpFmt dbl
    (c.rm (f3 w)).bind (fun m =>
      let go := fun np nc => some (c.putF dbl (fRd w)
        (f.fmaF m np nc (c.rff dbl (fRs1 w)) (c.rff dbl (fRs2 w)) (c.rff dbl (bits w 27 5))), next)
      match op with
      | 0x43 => go false false
      | 0x47 => go false true
      | 0x4B => go true false
      | 0x4F => go true true
      | _ => none)

end Sys2Proof.Machine
end

