-- ==== Sys2Proof/Machine/RvVec.lean ====
section
/-! DEFINITION. The fox core's vector arithmetic: the V extension with VLEN 512 and ELEN 64 (R167). Encodings and meanings are those of
the RISC-V vector specification, which R167 names (PRESUMED, log entry 12). Elements its agnostic policies leave open keep their value
(DESIGN CHOICE, log entry 14). -/

namespace Sys2Proof.Machine

open Sys2Proof

/-! ### Configuration -/

/-- SEW in bits. -/
def Fox.sew (c : Fox) : Nat := 8 * 2 ^ bits c.vtype.toNat 3 3
/-- LMUL in eighths. -/
def Fox.lm8 (c : Fox) : Nat :=
  let m := bits c.vtype.toNat 0 3
  if m < 4 then 8 * 2 ^ m else 2 ^ (m - 5)
/-- Whether vtype is illegal. -/
def Fox.vill (c : Fox) : Bool := bit c.vtype.toNat 63

/-- The vtype of a requested setting: vill where it is reserved or not supported. -/
def vtypeOf (t : Nat) : Word64 :=
  let sew := 8 * 2 ^ bits t 3 3
  let m := bits t 0 3
  let lm8 := if m < 4 then 8 * 2 ^ m else 2 ^ (m - 5)
  if m = 4 ∨ 64 < sew ∨ 256 ≤ t ∨ (m > 4 ∧ 64 * lm8 < 8 * sew) then w64 (2 ^ 63) else w64 t

/-- VLMAX of a setting. -/
def vlmax (t : Word64) : Nat :=
  if bit t.toNat 63 then 0
  else
    let m := bits t.toNat 0 3
    512 * (if m < 4 then 8 * 2 ^ m else 2 ^ (m - 5)) / 8 / (8 * 2 ^ bits t.toNat 3 3)

/-- vsetvli, vsetivli and vsetvl. -/
def rvSetvl (c : Fox) (w : Nat) : Option Fox :=
  let rd := fRd w
  let imm := bits w 30 2 = 3
  let t? : Option Nat :=
    if bit w 31 = false then some (bits w 20 11)
    else if imm then some (bits w 20 10)
    else if f7 w = 0x40 then some (c.rx (fRs2 w)).toNat
    else none
  t?.map (fun t =>
    let vt := vtypeOf t
    let mx := vlmax vt
    let avl := if imm then fRs1 w else if fRs1 w ≠ 0 then (c.rx (fRs1 w)).toNat else if rd ≠ 0 then 2 ^ 64 - 1 else c.vl
    let vl := min avl mx
    ({ c with vtype := vt, vl := vl, vstart := 0 }).wx rd (w64 vl))

/-! ### Elements -/

/-- Element `i` of width `n` of the group at a register. -/
def Fox.ve (c : Fox) (r n i : Nat) : Nat :=
  bits (SMap.get 0 c.v ((r + i * n / 512) % 32)).toNat (i * n % 512) n

/-- Write an element. -/
def Fox.vw (c : Fox) (r n i v : Nat) : Fox :=
  let k := (r + i * n / 512) % 32
  { c with v := SMap.set 0 c.v k (BitVec.ofNat 512 (setBits (SMap.get 0 c.v k).toNat (i * n % 512) n v)) }

/-- Mask bit `i` of a register. -/
def Fox.vm (c : Fox) (r i : Nat) : Bool := bit (SMap.get 0 c.v r).toNat i

/-- Whether element `i` is active under an instruction's vm bit. -/
def Fox.active (c : Fox) (w i : Nat) : Bool := bit w 25 || c.vm 0 i

/-- A group of LMUL in eighths at a register: aligned, and a supported LMUL. -/
def groupOk (r m8 : Nat) : Bool := decide (1 ≤ m8) && decide (m8 ≤ 64) && decide (r % max 1 (m8 / 8) = 0)

/-- The body elements of the current setting. -/
def Fox.body (c : Fox) : List Nat := (List.range c.vl).drop c.vstart

/-- Write active body elements of width `n` to a group. -/
def Fox.vmap (c : Fox) (w vd n : Nat) (f : Nat → Nat) : Fox :=
  c.body.foldl (fun a i => if c.active w i then a.vw vd n i (f i) else a) c

/-- Write active body elements with flags. -/
def Fox.vmapF (c : Fox) (w vd n : Nat) (f : Nat → FRes) : Fox :=
  c.body.foldl (fun a i => if c.active w i then (a.vw vd n i (f i).1).flags (f i).2 else a) c

/-- Write body elements of a mask result; where the instruction is masked only active ones. -/
def Fox.vmapM (c : Fox) (all : Bool) (w vd : Nat) (f : Nat → FRes) : Fox :=
  c.body.foldl (fun a i => if all || c.active w i then (a.vw vd 1 i (f i).1).flags (f i).2 else a) c

/-- A vector instruction is over: vstart is zero. -/
def vdone (c : Fox) : Option Fox := some { c with vstart := 0 }

/-! ### Integer operations -/

/-- The amount a rounded shift adds, for vxrm (0 up, 1 even, 2 down, 3 odd). -/
def vround (rm v d : Nat) : Nat :=
  if d = 0 then 0
  else
    let half := bit v (d - 1)
    let low := decide (v % 2 ^ (d - 1) ≠ 0)
    let lsb := bit v d
    match rm with
    | 0 => b2n half
    | 1 => b2n (half && (low || lsb))
    | 2 => 0
    | _ => b2n (!lsb && (half || low))

/-- A rounded right shift of an integer. -/
def vshr (rm : Nat) (z : Int) (d : Nat) : Int :=
  let w := 200
  z / (2 ^ d : Nat) + (vround rm (ofInt w z) d : Int)

/-- vxrm. -/
def Fox.vxrm (c : Fox) : Nat := bits c.vcsr 1 2

/-- Saturate to `n` bits: the pattern and whether it saturated. -/
def vsat (signed : Bool) (n : Nat) (z : Int) : Nat × Bool :=
  let hi : Int := if signed then (2 ^ (n - 1) : Nat) - 1 else (2 ^ n : Nat) - 1
  let lo : Int := if signed then -((2 ^ (n - 1) : Nat) : Int) else 0
  if z < lo then (ofInt n lo, true) else if hi < z then (ofInt n hi, true) else (ofInt n z, false)

/-- The value of an element, signed or not. -/
def vval (signed : Bool) (n a : Nat) : Int := if signed then sext n a else a

/-- Element operations of OPI with one result of the same width: element of vs2, other operand. The second part is saturation. -/
def vopI (rm f n a b : Nat) : Option (Nat × Bool) :=
  let sa := sext n a
  let sb := sext n b
  let ok := fun (v : Nat) => some (v % 2 ^ n, false)
  let d := b % n
  match f with
  | 0x00 => ok (a + b)
  | 0x02 => ok (a + 2 ^ n - b)
  | 0x03 => ok (b + 2 ^ n - a)
  | 0x04 => ok (min a b)
  | 0x05 => ok (if sa < sb then a else b)
  | 0x06 => ok (max a b)
  | 0x07 => ok (if sa < sb then b else a)
  | 0x09 => ok (a &&& b)
  | 0x0A => ok (a ||| b)
  | 0x0B => ok (a ^^^ b)
  | 0x20 => some (vsat false n ((a : Int) + b))
  | 0x21 => some (vsat true n (sa + sb))
  | 0x22 => some (vsat false n ((a : Int) - b))
  | 0x23 => some (vsat true n (sa - sb))
  | 0x25 => ok (a <<< d)
  | 0x27 => some (vsat true n (vshr rm (sa * sb) (n - 1)))
  | 0x28 => ok (a >>> d)
  | 0x29 => ok (ofInt n (sa / (2 ^ d : Nat)))
  | 0x2A => ok (ofInt n (vshr rm a d))
  | 0x2B => ok (ofInt n (vshr rm sa d))
  | _ => none

/-- Comparisons of OPI. -/
def vcmpI (f n a b : Nat) : Option Bool :=
  let sa := sext n a
  let sb := sext n b
  match f with
  | 0x18 => some (decide (a = b))
  | 0x19 => some (decide (a ≠ b))
  | 0x1A => some (decide (a < b))
  | 0x1B => some (decide (sa < sb))
  | 0x1C => some (decide (a ≤ b))
  | 0x1D => some (decide (sa ≤ sb))
  | 0x1E => some (decide (b < a))
  | 0x1F => some (decide (sb < sa))
  | _ => none

/-- Element operations of OPM with one result of the same width: destination, element of vs2, other operand. -/
def vopM (rm f n o a b : Nat) : Option Nat :=
  let sa := sext n a
  let sb := sext n b
  let avg := fun (z : Int) => some (ofInt n (vshr rm z 1))
  let q := (2 ^ n : Nat)
  match f with
  | 0x08 => avg ((a : Int) + b)
  | 0x09 => avg (sa + sb)
  | 0x0A => avg ((a : Int) - b)
  | 0x0B => avg (sa - sb)
  | 0x20 => some (mulDiv n 5 a b)
  | 0x21 => some (mulDiv n 4 a b)
  | 0x22 => some (mulDiv n 7 a b)
  | 0x23 => some (mulDiv n 6 a b)
  | 0x24 => some (mulDiv n 3 a b)
  | 0x25 => some (mulDiv n 0 a b)
  | 0x26 => some (ofInt n (sa * (b : Int) / (q : Int)))
  | 0x27 => some (ofInt n (sa * sb / (q : Int)))
  | 0x29 => some ((b * o + a) % q)
  | 0x2B => some (ofInt n ((a : Int) - b * o))
  | 0x2D => some ((b * a + o) % q)
  | 0x2F => some (ofInt n ((o : Int) - b * a))
  | _ => none

/-- Widening operations of OPM: destination and vs2 at 2n bits or n bits, other operand at n bits. -/
def vopW (f n o a b : Nat) : Option Nat :=
  let w := 2 * n
  let u : Int := a
  let v : Int := b
  let sa := sext n a
  let sb := sext n b
  let so := sext w o
  match f with
  | 0x30 => some (ofInt w (u + v))
  | 0x31 => some (ofInt w (sa + sb))
  | 0x32 => some (ofInt w (u - v))
  | 0x33 => some (ofInt w (sa - sb))
  | 0x34 => some (ofInt w (u + v))
  | 0x35 => some (ofInt w (sext w a + sb))
  | 0x36 => some (ofInt w (u - v))
  | 0x37 => some (ofInt w (sext w a - sb))
  | 0x38 => some (ofInt w (u * v))
  | 0x3A => some (ofInt w (sa * v))
  | 0x3B => some (ofInt w (sa * sb))
  | 0x3C => some (ofInt w (u * v + so))
  | 0x3D => some (ofInt w (sa * sb + so))
  | 0x3E => some (ofInt w (sa * v + so))
  | 0x3F => some (ofInt w (u * sb + so))
  | _ => none

/-! ### Forms -/

/-- What an instruction's first operand is: a vector group, or one scalar for every element. -/
inductive VSrc where
  | vec (r : Nat)
  | scalar (v : Nat)
deriving DecidableEq, Repr

/-- The other operand of element `i` at width `n`. -/
def Fox.vsrc (c : Fox) (x : VSrc) (n i : Nat) : Nat :=
  match x with
  | .vec r => c.ve r n i
  | .scalar v => v % 2 ^ n

/-- An element index: a scalar index keeps all its bits. -/
def Fox.vindex (c : Fox) (x : VSrc) (n i : Nat) : Nat :=
  match x with
  | .vec r => c.ve r n i
  | .scalar v => v

/-- Whether the other operand's group is aligned. -/
def VSrc.ok (x : VSrc) (m8 : Nat) : Bool :=
  match x with
  | .vec r => groupOk r m8
  | .scalar _ => true

/-- Whether an operand is a vector. -/
def VSrc.isVec : VSrc → Bool
  | .vec _ => true
  | .scalar _ => false

/-- A masked destination must not overlap v0. -/
def vdOk (w vd m8 : Nat) : Bool := groupOk vd m8 && (bit w 25 || decide (vd ≠ 0))

/-- Note saturation in vxsat. -/
def Fox.sat (c : Fox) (b : Bool) : Fox := if b then { c with vcsr := c.vcsr ||| 1 } else c

/-- Add-with-carry forms: 0x10 vadc, 0x11 vmadc, 0x12 vsbc, 0x13 vmsbc. -/
def rvCarry (c : Fox) (w f : Nat) (x : VSrc) : Option Fox :=
  let n := c.sew
  let vd := fRd w
  let vs2 := fRs2 w
  let sum := fun i =>
    let k := b2n (decide (f % 2 = 0 ∨ bit w 25 = false) && c.vm 0 i)
    let z : Int := if f < 0x12 then (c.ve vs2 n i : Int) + c.vsrc x n i + k else (c.ve vs2 n i : Int) - c.vsrc x n i - k
    z
  if f % 2 = 0 then
    if bit w 25 = true ∨ vd = 0 then none
    else vdone (c.body.foldl (fun a i => a.vw vd n i (ofInt n (sum i))) c)
  else vdone (c.vmapM true w vd (fun i => (b2n (decide (sum i < 0 ∨ ((2 ^ n : Nat) : Int) ≤ sum i)), 0)))

/-- Slides: `up`, and the offset. -/
def rvSlide (c : Fox) (w : Nat) (up : Bool) (off : Nat) : Option Fox :=
  let n := c.sew
  let vs2 := fRs2 w
  let mx := vlmax c.vtype
  if up then vdone (c.body.foldl (fun a i => if decide (off ≤ i) && c.active w i then a.vw (fRd w) n i (c.ve vs2 n (i - off)) else a) c)
  else vdone (c.vmap w (fRd w) n (fun i => if i + off < mx then c.ve vs2 n (i + off) else 0))

/-- Slides by one, with the value that enters. -/
def rvSlide1 (c : Fox) (w : Nat) (up : Bool) (v : Nat) : Option Fox :=
  let n := c.sew
  let vs2 := fRs2 w
  if up then vdone (c.vmap w (fRd w) n (fun i => if i = 0 then v else c.ve vs2 n (i - 1)))
  else vdone (c.vmap w (fRd w) n (fun i => if i + 1 = c.vl then v else c.ve vs2 n (i + 1)))

/-- OPIVV, OPIVX and OPIVI. `imm` is the raw immediate of OPIVI. -/
def rvOpi (c : Fox) (w : Nat) (x : VSrc) (imm : Option Nat) : Option Fox :=
  let f := bits w 26 6
  let n := c.sew
  let m8 := c.lm8
  let vd := fRd w
  let vs2 := fRs2 w
  let isI := imm.isSome
  let ux : VSrc := match imm with
    | some k => .scalar k
    | none => x
  let plain := groupOk vs2 m8 && x.ok m8 && vdOk w vd m8
  if f = 0x27 ∧ isI = true then
    let k := imm.getD 0 + 1
    if bit w 25 = false ∨ (k ≠ 1 ∧ k ≠ 2 ∧ k ≠ 4 ∧ k ≠ 8) ∨ vd % k ≠ 0 ∨ vs2 % k ≠ 0 then none
    else
      let evl := k * 512 / n
      vdone (((List.range evl).drop c.vstart).foldl (fun a i => a.vw vd n i (c.ve vs2 n i)) c)
  else if f = 0x0C then
    if !plain ∨ vd = vs2 then none
    else
      let mx := vlmax c.vtype
      vdone (c.vmap w vd n (fun i => let j := c.vindex ux n i; if j < mx then c.ve vs2 n j else 0))
  else if f = 0x0E ∧ x.isVec = true then
    let e8 := 16 * m8 / n
    match x with
    | .vec r =>
      if !groupOk vs2 m8 || !groupOk r e8 || !vdOk w vd m8 || decide (vd = vs2) then none
      else
        let mx := vlmax c.vtype
        vdone (c.vmap w vd n (fun i => let j := c.ve r 16 i; if j < mx then c.ve vs2 n j else 0))
    | .scalar _ => none
  else if f = 0x0E ∨ f = 0x0F then
    if x.isVec || !plain || (decide (f = 0x0E) && decide (vd = vs2)) then none
    else rvSlide c w (decide (f = 0x0E)) (match ux with
      | .scalar v => v
      | .vec _ => 0)
  else if 0x10 ≤ f ∧ f ≤ 0x13 then
    if (isI && decide (0x12 ≤ f)) || !groupOk vs2 m8 || !x.ok m8 || (decide (f % 2 = 0) && !groupOk vd m8) then none
    else rvCarry c w f x
  else if f = 0x17 then
    if bit w 25 = true then
      if vs2 ≠ 0 ∨ groupOk vd m8 = false ∨ x.ok m8 = false then none
      else vdone (c.body.foldl (fun a i => a.vw vd n i (c.vsrc x n i)) c)
    else if !plain then none
    else vdone (c.body.foldl (fun a i => a.vw vd n i (if c.vm 0 i then c.vsrc x n i else c.ve vs2 n i)) c)
  else if 0x18 ≤ f ∧ f ≤ 0x1F then
    let bad := (x.isVec && decide (0x1E ≤ f)) || (isI && decide (f = 0x1A ∨ f = 0x1B))
    if bad || !groupOk vs2 m8 || !x.ok m8 then none
    else vdone (c.vmapM false w vd (fun i => (b2n ((vcmpI f n (c.ve vs2 n i) (c.vsrc x n i)).getD false), 0)))
  else if 0x2C ≤ f ∧ f ≤ 0x2F then
    if n = 64 ∨ groupOk vs2 (2 * m8) = false ∨ x.ok m8 = false ∨ vdOk w vd m8 = false then none
    else
      let sg := decide (f % 2 = 1)
      let r := fun i =>
        let a := vval sg (2 * n) (c.ve vs2 (2 * n) i)
        let d := c.vsrc ux n i % (2 * n)
        if f < 0x2E then (ofInt n (a / (2 ^ d : Nat)), false) else vsat sg n (vshr c.vxrm a d)
      vdone ((c.vmap w vd n (fun i => (r i).1)).sat (c.body.any (fun i => c.active w i && (r i).2)))
  else if f = 0x30 ∨ f = 0x31 then
    match x with
    | .vec r =>
      if n = 64 ∨ groupOk vs2 m8 = false ∨ c.vstart ≠ 0 then none
      else if c.vl = 0 then vdone c
      else
        let sg := decide (f = 0x31)
        let t := c.body.foldl (fun (t : Int) i => if c.active w i then t + vval sg n (c.ve vs2 n i) else t) (c.ve r (2 * n) 0 : Int)
        vdone (c.vw vd (2 * n) 0 (ofInt (2 * n) t))
    | .scalar _ => none
  else
    let bad := (decide (f = 0x03) && x.isVec) ||
      (isI && decide (f = 0x02 ∨ (0x04 ≤ f ∧ f ≤ 0x07) ∨ f = 0x22 ∨ f = 0x23))
    let y : VSrc := if 0x25 ≤ f then ux else x
    if bad || !plain || (vopI 0 f n 0 0).isNone then none
    else
      let r := fun i => (vopI c.vxrm f n (c.ve vs2 n i) (c.vsrc y n i)).getD (0, false)
      vdone ((c.vmap w vd n (fun i => (r i).1)).sat (c.body.any (fun i => c.active w i && (r i).2)))

/-- Integer reductions at one width. -/
def vredOp (f n t a : Nat) : Nat :=
  match f with
  | 0 => (t + a) % 2 ^ n
  | 1 => t &&& a
  | 2 => t ||| a
  | 3 => t ^^^ a
  | 4 => min t a
  | 5 => if sext n a < sext n t then a else t
  | 6 => max t a
  | _ => if sext n t < sext n a then a else t

/-- Mask-register operations on whole bits: 0x18 to 0x1F. -/
def vmaskOp (f : Nat) (a b : Bool) : Bool :=
  match f with
  | 0x18 => a && !b
  | 0x19 => a && b
  | 0x1A => a || b
  | 0x1B => a != b
  | 0x1C => a || !b
  | 0x1D => !(a && b)
  | 0x1E => !(a || b)
  | _ => a == b

/-- The first active element of vs2 that is set. -/
def vfirst (c : Fox) (w : Nat) : Option Nat := (List.range c.vl).find? (fun i => c.active w i && c.vm (fRs2 w) i)

/-- VMUNARY0: vmsbf, vmsof, vmsif, viota and vid. -/
def rvMunary (c : Fox) (w : Nat) : Option Fox :=
  let vd := fRd w
  let vs2 := fRs2 w
  let n := c.sew
  if c.vstart ≠ 0 ∨ (bit w 25 = false ∧ vd = 0) then none
  else
    let first := (vfirst c w).getD c.vl
    match fRs1 w with
    | 1 => if vd = vs2 then none else vdone (c.vmapM false w vd (fun i => (b2n (decide (i < first)), 0)))
    | 2 => if vd = vs2 then none else vdone (c.vmapM false w vd (fun i => (b2n (decide (i = first)), 0)))
    | 3 => if vd = vs2 then none else vdone (c.vmapM false w vd (fun i => (b2n (decide (i ≤ first)), 0)))
    | 16 => if vd = vs2 ∨ groupOk vd c.lm8 = false then none
        else vdone (c.vmap w vd n (fun i => ((List.range i).filter (fun j => c.active w j && c.vm vs2 j)).length % 2 ^ n))
    | 17 => if vs2 ≠ 0 ∨ groupOk vd c.lm8 = false then none else vdone (c.vmap w vd n (fun i => i % 2 ^ n))
    | _ => none

/-- vcompress.vm: the elements whose mask bit is set, packed. -/
def rvCompress (c : Fox) (w r : Nat) : Option Fox :=
  let n := c.sew
  let vs2 := fRs2 w
  if c.vstart ≠ 0 ∨ bit w 25 = false ∨ groupOk (fRd w) c.lm8 = false ∨ groupOk vs2 c.lm8 = false ∨ fRd w = vs2 then none
  else
    let picked := (List.range c.vl).filter (fun i => c.vm r i)
    vdone ((List.range picked.length).foldl (fun a k => a.vw (fRd w) n k (c.ve vs2 n (picked.getD k 0))) c)

/-- vzext and vsext. -/
def rvExt (c : Fox) (w : Nat) : Option Fox :=
  let n := c.sew
  let k := fRs1 w
  let d := if k = 2 ∨ k = 3 then 8 else if k = 4 ∨ k = 5 then 4 else if k = 6 ∨ k = 7 then 2 else 0
  if d = 0 ∨ n / d < 8 ∨ vdOk w (fRd w) c.lm8 = false ∨ groupOk (fRs2 w) (c.lm8 / d) = false then none
  else vdone (c.vmap w (fRd w) n (fun i => ofInt n (vval (decide (k % 2 = 1)) (n / d) (c.ve (fRs2 w) (n / d) i))))

/-- OPMVV and OPMVX. -/
def rvOpm (c : Fox) (w : Nat) (x : VSrc) : Option Fox :=
  let f := bits w 26 6
  let n := c.sew
  let m8 := c.lm8
  let vd := fRd w
  let vs2 := fRs2 w
  let plain := groupOk vs2 m8 && x.ok m8 && vdOk w vd m8
  if f < 8 then
    match x with
    | .vec r =>
      if c.vstart ≠ 0 ∨ groupOk vs2 m8 = false then none
      else if c.vl = 0 then vdone c
      else vdone (c.vw vd n 0 (c.body.foldl (fun t i => if c.active w i then vredOp f n t (c.ve vs2 n i) else t) (c.ve r n 0)))
    | .scalar _ => none
  else if f = 0x0E ∨ f = 0x0F then
    match x with
    | .scalar v => if !plain || (decide (f = 0x0E) && decide (vd = vs2)) then none else rvSlide1 c w (decide (f = 0x0E)) (v % 2 ^ n)
    | .vec _ => none
  else if f = 0x10 then
    match x with
    | .vec r =>
      if r = 0 then (if bit w 25 = false then none else vdone (c.wx vd (i64 (sext n (c.ve vs2 n 0)))))
      else if r = 16 then
        (if c.vstart ≠ 0 then none else vdone (c.wx vd (w64 ((List.range c.vl).filter (fun i => c.active w i && c.vm vs2 i)).length)))
      else if r = 17 then
        (if c.vstart ≠ 0 then none else vdone (c.wx vd (match vfirst c w with
          | some i => w64 i
          | none => i64 (-1))))
      else none
    | .scalar v => if bit w 25 = false ∨ vs2 ≠ 0 then none else vdone (if c.vl ≤ c.vstart then c else c.vw vd n 0 (v % 2 ^ n))
  else if f = 0x12 then (if x.isVec then rvExt c w else none)
  else if f = 0x14 then (if x.isVec then rvMunary c w else none)
  else if f = 0x17 then
    match x with
    | .vec r => rvCompress c w r
    | .scalar _ => none
  else if 0x18 ≤ f ∧ f ≤ 0x1F then
    match x with
    | .vec r => if bit w 25 = false then none else vdone (c.vmapM true w vd (fun i => (b2n (vmaskOp f (c.vm vs2 i) (c.vm r i)), 0)))
    | .scalar _ => none
  else if 0x30 ≤ f then
    let wide2 := decide (0x34 ≤ f ∧ f ≤ 0x37)
    if n = 64 ∨ (vopW f n 0 0 0).isNone = true ∨ (f = 0x3E ∧ x.isVec = true) ∨ groupOk vs2 (if wide2 then 2 * m8 else m8) = false ∨
        x.ok m8 = false ∨ vdOk w vd (2 * m8) = false then none
    else vdone (c.vmap w vd (2 * n) (fun i =>
      (vopW f n (c.ve vd (2 * n) i) (c.ve vs2 (if wide2 then 2 * n else n) i) (c.vsrc x n i)).getD 0))
  else if (vopM 0 f n 0 0 0).isNone || !plain then none
  else vdone (c.vmap w vd n (fun i => (vopM c.vxrm f n (c.ve vd n i) (c.ve vs2 n i) (c.vsrc x n i)).getD 0))

/-! ### Floating point -/

/-- The seven-bit reciprocal estimate with flags. -/
def vrec7 (f : Fmt) (mode : RMode) (a : Nat) : FRes :=
  let s := bit a (f.width - 1)
  match f.decode a with
  | .nan => (f.nan, if f.isSnan a then 16 else 0)
  | .inf s => (f.sign s, 0)
  | .fin _ m _ =>
    if m = 0 then (f.sign s + f.infPat, 8)
    else
      let e0 := bits a f.fb f.eb
      let sh := if e0 = 0 then f.fb - Nat.log2 (a % 2 ^ f.fb) else 0
      let ex : Int := if e0 = 0 then 1 - (sh : Int) else e0
      let sig := (a % 2 ^ f.fb) * 2 ^ sh % 2 ^ f.fb
      if e0 = 0 ∧ 2 < sh then
        (f.sign s + (if overflowInf mode s then f.infPat else f.maxPat), 5)
      else
        let i := sig / 2 ^ (f.fb - 7)
        let q := (65536 * 2 + (257 + 2 * i)) / (2 * (257 + 2 * i)) - 128
        let oe : Int := 2 * (f.bias : Int) - 1 - ex
        let full := (2 ^ f.fb + q * 2 ^ (f.fb - 7))
        let r := if 0 < oe then oe.toNat * 2 ^ f.fb + q * 2 ^ (f.fb - 7)
          else full / 2 ^ (1 - oe).toNat
        (f.sign s + r, 0)

/-- The seven-bit reciprocal square root estimate with flags. -/
def vrsqrt7 (f : Fmt) (a : Nat) : FRes :=
  let s := bit a (f.width - 1)
  match f.decode a with
  | .nan => (f.nan, if f.isSnan a then 16 else 0)
  | .inf s => if s then (f.nan, 16) else (0, 0)
  | .fin _ m _ =>
    if m = 0 then (f.sign s + f.infPat, 8)
    else if s then (f.nan, 16)
    else
      let e0 := bits a f.fb f.eb
      let sh := if e0 = 0 then f.fb - Nat.log2 (a % 2 ^ f.fb) else 0
      let ex : Int := if e0 = 0 then 1 - (sh : Int) else e0
      let sig := (a % 2 ^ f.fb) * 2 ^ sh % 2 ^ f.fb
      let i := sig / 2 ^ (f.fb - 6)
      let odd := decide (ex % 2 = 0)
      let d := (129 + 2 * i) * (if odd then 2 else 1)
      let n := 65536 * 128 * 4
      let q := (isqrt (n / d) + 1) / 2 - 128
      let oe : Int := (3 * (f.bias : Int) - 1 - ex) / 2
      (oe.toNat * 2 ^ f.fb + q * 2 ^ (f.fb - 7), 0)

/-- Element operations of OPF with one result of the same width: destination, element of vs2, other operand. -/
def vopF (f : Fmt) (m : RMode) (op o a b : Nat) : Option FRes :=
  match op with
  | 0x00 => some (f.addF m a b)
  | 0x02 => some (f.subF m a b)
  | 0x04 => some (f.minMaxF false a b)
  | 0x06 => some (f.minMaxF true a b)
  | 0x08 => some (f.sgnj 0 a b, 0)
  | 0x09 => some (f.sgnj 1 a b, 0)
  | 0x0A => some (f.sgnj 2 a b, 0)
  | 0x20 => some (f.divF m a b)
  | 0x21 => some (f.divF m b a)
  | 0x24 => some (f.mulF m a b)
  | 0x27 => some (f.subF m b a)
  | 0x28 => some (f.fmaF m false false b o a)
  | 0x29 => some (f.fmaF m true true b o a)
  | 0x2A => some (f.fmaF m false true b o a)
  | 0x2B => some (f.fmaF m true false b o a)
  | 0x2C => some (f.fmaF m false false b a o)
  | 0x2D => some (f.fmaF m true true b a o)
  | 0x2E => some (f.fmaF m false true b a o)
  | 0x2F => some (f.fmaF m true false b a o)
  | _ => none

/-- A single pattern as a double, exactly, keeping a signalling NaN's flag apart. -/
def widenF (a : Nat) : Nat := if Fmt.fp32.isSnan a then 0x7FF4000000000000 else Fmt.fp64.rne (Fmt.fp32.decode a)

/-- Widening operations of OPF: vs2 single or double, the other operand single. -/
def vopFW (m : RMode) (op o a b : Nat) : Option FRes :=
  let a' := if 0x34 ≤ op ∧ op ≤ 0x37 then a else widenF a
  let b' := widenF b
  match op with
  | 0x30 => some (Fmt.fp64.addF m a' b')
  | 0x32 => some (Fmt.fp64.subF m a' b')
  | 0x34 => some (Fmt.fp64.addF m a' b')
  | 0x36 => some (Fmt.fp64.subF m a' b')
  | 0x38 => some (Fmt.fp64.mulF m a' b')
  | 0x3C => some (Fmt.fp64.fmaF m false false b' a' o)
  | 0x3D => some (Fmt.fp64.fmaF m true true b' a' o)
  | 0x3E => some (Fmt.fp64.fmaF m false true b' a' o)
  | 0x3F => some (Fmt.fp64.fmaF m true false b' a' o)
  | _ => none

/-- The float format of a width, where the core has one. -/
def fmtOf (n : Nat) : Option Fmt := if n = 32 then some .fp32 else if n = 64 then some .fp64 else none

/-- The conversions of VFUNARY0. -/
def rvVcvt (c : Fox) (w : Nat) (m : RMode) : Option Fox :=
  let n := c.sew
  let m8 := c.lm8
  let vd := fRd w
  let vs2 := fRs2 w
  let k := fRs1 w
  let mode := if k % 8 = 6 ∨ k % 8 = 7 then RMode.rtz else m
  let sg := decide (k % 2 = 1)
  if k < 8 then
    if !vdOk w vd m8 || !groupOk vs2 m8 then none
    else (fmtOf n).bind (fun f =>
      match k with
      | 2 => vdone (c.vmapF w vd n (fun i => f.ofIntF m (c.ve vs2 n i)))
      | 3 => vdone (c.vmapF w vd n (fun i => f.ofIntF m (sext n (c.ve vs2 n i))))
      | 4 => none
      | 5 => none
      | _ => vdone (c.vmapF w vd n (fun i => f.toIntF mode sg n (c.ve vs2 n i))))
  else if k < 16 then
    if n = 64 ∨ vdOk w vd (2 * m8) = false ∨ groupOk vs2 m8 = false then none
    else if k = 10 ∨ k = 11 then
      (fmtOf (2 * n)).bind (fun f => vdone (c.vmapF w vd (2 * n) (fun i => f.ofIntF m (vval sg n (c.ve vs2 n i)))))
    else (fmtOf n).bind (fun f =>
      match k with
      | 12 => vdone (c.vmapF w vd (2 * n) (fun i => f.convF .fp64 m (c.ve vs2 n i)))
      | 13 => none
      | _ => vdone (c.vmapF w vd (2 * n) (fun i => f.toIntF mode sg (2 * n) (c.ve vs2 n i))))
  else if k < 24 then
    if n = 64 ∨ vdOk w vd m8 = false ∨ groupOk vs2 (2 * m8) = false then none
    else
      let a := fun i => c.ve vs2 (2 * n) i
      match k with
      | 18 => (fmtOf n).bind (fun f => vdone (c.vmapF w vd n (fun i => f.ofIntF m (a i))))
      | 19 => (fmtOf n).bind (fun f => vdone (c.vmapF w vd n (fun i => f.ofIntF m (sext (2 * n) (a i)))))
      | 20 => (fmtOf n).bind (fun f => vdone (c.vmapF w vd n (fun i => Fmt.fp64.convF f m (a i))))
      | 21 => (fmtOf n).bind (fun f => vdone (c.vmapF w vd n (fun i =>
          let r := f.roundOdd (Fmt.fp64.decode (a i))
          (r.1, r.2 ||| (if Fmt.fp64.isSnan (a i) then 16 else 0)))))
      | _ => (fmtOf (2 * n)).bind (fun f => vdone (c.vmapF w vd n (fun i => f.toIntF mode sg n (a i))))
  else none

/-- Float reductions: 0x01 and 0x03 sums in element order, 0x05 minimum, 0x07 maximum, 0x31 and 0x33 widening sums. -/
def rvFred (c : Fox) (w r : Nat) (m : RMode) : Option Fox :=
  let op := bits w 26 6
  let n := c.sew
  let wide := decide (0x30 ≤ op)
  let k := if wide then 2 * n else n
  if c.vstart ≠ 0 ∨ groupOk (fRs2 w) c.lm8 = false ∨ (wide = true ∧ n ≠ 32) then none
  else if c.vl = 0 then vdone c
  else (fmtOf k).bind (fun f =>
    let t := c.body.foldl (fun (t : FRes) i =>
      if c.active w i then
        let a := c.ve (fRs2 w) n i
        let x := if wide then f.addF m t.1 (widenF a) else if op = 5 then f.minMaxF false t.1 a else if op = 7 then f.minMaxF true t.1 a
          else f.addF m t.1 a
        (x.1, t.2 ||| x.2)
      else t) (c.ve r k 0, 0)
    vdone ((c.vw (fRd w) k 0 t.1).flags t.2))

/-- Comparisons of OPF. -/
def vcmpF (f : Fmt) (op a b : Nat) : Option FRes :=
  match op with
  | 0x18 => some (f.cmpF 2 a b)
  | 0x19 => some (f.cmpF 0 a b)
  | 0x1B => some (f.cmpF 1 a b)
  | 0x1C => let r := f.cmpF 2 a b; some (1 - r.1, r.2)
  | 0x1D => some (f.cmpF 1 b a)
  | 0x1F => some (f.cmpF 0 b a)
  | _ => none

/-- OPFVV and OPFVF, at a rounding direction. -/
def rvOpfM (c : Fox) (w : Nat) (x : VSrc) (m : RMode) : Option Fox :=
  let op := bits w 26 6
  let n := c.sew
  let m8 := c.lm8
  let vd := fRd w
  let vs2 := fRs2 w
  let plain := groupOk vs2 m8 && x.ok m8 && vdOk w vd m8
  if op = 0x12 then (if x.isVec then rvVcvt c w m else none)
  else (fmtOf n).bind (fun f =>
    if op = 0x01 ∨ op = 0x03 ∨ op = 0x05 ∨ op = 0x07 ∨ op = 0x31 ∨ op = 0x33 then
      match x with
      | .vec r => rvFred c w r m
      | .scalar _ => none
    else if op = 0x0E ∨ op = 0x0F then
      match x with
      | .scalar v => if !plain || (decide (op = 0x0E) && decide (vd = vs2)) then none else rvSlide1 c w (decide (op = 0x0E)) v
      | .vec _ => none
    else if op = 0x10 then
      match x with
      | .vec r => if r ≠ 0 ∨ bit w 25 = false then none else vdone (c.wff (decide (n = 64)) vd (c.ve vs2 n 0))
      | .scalar v => if vs2 ≠ 0 ∨ bit w 25 = false then none else vdone (if c.vl ≤ c.vstart then c else c.vw vd n 0 v)
    else if op = 0x13 then
      if !x.isVec || !groupOk vs2 m8 || !vdOk w vd m8 then none
      else match fRs1 w with
        | 0 => vdone (c.vmapF w vd n (fun i => f.sqrtF m (c.ve vs2 n i)))
        | 4 => vdone (c.vmapF w vd n (fun i => vrsqrt7 f (c.ve vs2 n i)))
        | 5 => vdone (c.vmapF w vd n (fun i => vrec7 f m (c.ve vs2 n i)))
        | 16 => vdone (c.vmap w vd n (fun i => f.classify (c.ve vs2 n i)))
        | _ => none
    else if op = 0x17 then
      match x with
      | .scalar v =>
        if bit w 25 = true then (if vs2 ≠ 0 ∨ groupOk vd m8 = false then none else vdone (c.body.foldl (fun a i => a.vw vd n i v) c))
        else if !plain then none
        else vdone (c.body.foldl (fun a i => a.vw vd n i (if c.vm 0 i then v else c.ve vs2 n i)) c)
      | .vec _ => none
    else if 0x18 ≤ op ∧ op ≤ 0x1F then
      if (vcmpF f op 0 0).isNone || !groupOk vs2 m8 || !x.ok m8 || (x.isVec && decide (op = 0x1D ∨ op = 0x1F)) then none
      else vdone (c.vmapM false w vd (fun i => (vcmpF f op (c.ve vs2 n i) (c.vsrc x n i)).getD (0, 0)))
    else if 0x30 ≤ op then
      let wide2 := decide (0x34 ≤ op ∧ op ≤ 0x37)
      if n ≠ 32 ∨ (vopFW m op 0 0 0).isNone = true ∨ groupOk vs2 (if wide2 then 2 * m8 else m8) = false ∨ x.ok m8 = false ∨
          vdOk w vd (2 * m8) = false then none
      else vdone (c.vmapF w vd 64 (fun i =>
        (vopFW m op (c.ve vd 64 i) (c.ve vs2 (if wide2 then 64 else 32) i) (c.vsrc x n i)).getD (0, 0)))
    else if (vopF f m op 0 0 0).isNone || !plain || (x.isVec && decide (op = 0x21 ∨ op = 0x27)) then none
    else vdone (c.vmapF w vd n (fun i => (vopF f m op (c.ve vd n i) (c.ve vs2 n i) (c.vsrc x n i)).getD (0, 0))))

/-- The vector arithmetic instructions of opcode OP-V. -/
def rvVec (c : Fox) (next w : Nat) : RvOut :=
  let r := if f3 w = 7 then rvSetvl c w
    else if c.vill then none
    else
      let imm := sext 5 (fRs1 w)
      match f3 w with
      | 0 => rvOpi c w (.vec (fRs1 w)) none
      | 3 => rvOpi c w (.scalar (ofInt 64 imm)) (some (fRs1 w))
      | 4 => rvOpi c w (.scalar (c.rx (fRs1 w)).toNat) none
      | 2 => rvOpm c w (.vec (fRs1 w))
      | 6 => rvOpm c w (.scalar (c.rx (fRs1 w)).toNat)
      | 1 => (rmode (bits c.fcsr 5 3)).bind (rvOpfM c w (.vec (fRs1 w)))
      | _ => (rmode (bits c.fcsr 5 3)).bind (rvOpfM c w (.scalar (c.rff (decide (c.sew = 64)) (fRs1 w))))
  r.map (fun c => (c, next))

end Sys2Proof.Machine
end

