-- ==== Sys2Proof/Machine/FoxExec.lean ====
section
/-! DEFINITION. Fox cores: fetch, traps, the memory instructions, CSRs and the device instructions (R167 to R183). -/

namespace Sys2Proof.Machine

open Sys2Proof

/-! ### Fetch (R168, R169) -/

/-- A byte of a program's code. -/
def codeByte (p : Prog) (i : Nat) : Nat := fld (p.code.getD (i / 8) 0) (8 * (i % 8)) 8

/-- The 16 bits at a code address; none past the last byte. -/
def codeHalf (p : Prog) (i : Nat) : Option Nat :=
  if i + 2 ≤ p.code.length * 8 then some (codeByte p i + 256 * codeByte p (i + 1)) else none

/-- The instruction at issue of a fox core: its 32-bit form, its length and the bits as they stand. -/
structure FoxIns where
  w : Nat
  len : Nat
  raw : Nat
deriving DecidableEq, Repr

/-- What a fetch finds. -/
inductive Fetch where
  | ins (i : FoxIns)
  | illegal (raw : Nat)
  | fault
deriving DecidableEq, Repr

/-- Fetch at a code address. -/
def fetchAt (p : Prog) (pc : Nat) : Fetch :=
  match codeHalf p pc with
  | none => .fault
  | some h =>
    if h % 4 ≠ 3 then
      match expandC h with
      | some w => .ins { w := w, len := 2, raw := h }
      | none => .illegal h
    else match codeHalf p (pc + 2) with
      | none => .fault
      | some g => .ins { w := h + 65536 * g, len := 4, raw := h + 65536 * g }

/-- What a fox core finds at issue. -/
def foxFetch (s : State) (e : Nat) : Fetch :=
  match progOf s e with
  | some p => fetchAt p (seqOf s e).pc
  | none => .fault

/-- Whether every earlier access of the core has been performed, its host stores by a read-back and its adds at their tallies (R175, R220). -/
def foxDrained (s : State) (e : Nat) : Bool :=
  (seqOf s e).opens.isEmpty && (seqOf s e).signals.isEmpty && (foxOf s e).hostWrote.isNone

/-- A core that has written host memory since its last read-back issues one, of 4 bytes at the last address it wrote (R220). -/
def foxReadback (e : Nat) (s : State) : State :=
  if (foxOf s e).hostWrote.isSome then
    issueOpen e (modFox e (fun c => { c with hostWrote := none, readbacks := c.readbacks ++ [(seqOf s e).issued] }) s)
  else s

/-- Whether a fox core can execute: its program runs, has not reached FEND, does not yield, awaits no answer, and an acquire before it has
been satisfied. -/
def foxRuns (s : State) (e : Nat) : Bool :=
  let q := seqOf s e
  let c := foxOf s e
  decide (engClass e = 2) && decide (q.st = .running) && !q.ending && !c.yielding && !c.busy && (!c.acquired || foxDrained s e)

/-- The commands a fox core's instructions belong to. -/
inductive FoxCls where
  | load | store | amo | lr | sc | fence | csr | compute
  | fend | tsig | twait | terrt | sdf | prm | fadda | ecallLog | ecallYield
deriving DecidableEq, Repr

/-- The class of an instruction; ECALL by a7 (R171, R178). -/
def foxClass (s : State) (e w : Nat) : FoxCls :=
  match w % 128 with
  | 0x03 => .load
  | 0x07 => .load
  | 0x23 => .store
  | 0x27 => .store
  | 0x2F => if bits w 27 5 = 2 then .lr else if bits w 27 5 = 3 then .sc else .amo
  | 0x0F => .fence
  | 0x73 =>
    if w = 0x73 then
      (if getX s e 17 = 0 then .ecallLog else if getX s e 17 = 1 then .ecallYield else .compute)
    else if f3 w = 0 ∨ f3 w = 4 then .compute else .csr
  | 0x0B =>
    match f3 w with
    | 0 => .fend | 1 => .tsig | 2 => .twait | 3 => .terrt | 4 => .sdf | 5 => .prm | 6 => .fadda | _ => .compute
  | _ => .compute

/-- The instruction at issue, if it is of a class. -/
def foxIns (s : State) (e : Nat) (k : FoxCls) : Option FoxIns :=
  if foxRuns s e then
    match foxFetch s e with
    | .ins i => if foxClass s e i.w = k then some i else none
    | _ => none
  else none

/-- The meaning of a fox core's command: its effect where such an instruction stands at issue (log entry 5). -/
def onFox (e : Nat) (k : FoxCls) (s : State) (f : FoxIns → State → State) : Out :=
  match foxIns s e k with
  | some i => .next (f i s)
  | none => .next s

/-! ### Retiring and traps -/

/-- An instruction retires and execution goes on at `next`. -/
def foxRetire (e next : Nat) (s : State) : State :=
  modFox e (fun c => { c with instret := c.instret + 1, pos := 0, acquired := false }) (modSeq e (fun q => { q with pc := next }) s)

/-- A fatal trap (R179): the program ends as faulted, with its error bits; what it wrote to host memory is still read back (R219). -/
def foxTrap (e cause : Nat) (tval : Nat) (s : State) : State :=
  let s := logEvent 0x6301 e [(2, e), (8, cause), (8, (seqOf s e).pc), (8, tval)] s
  let s := modFox e (fun c => { c with trap := true, pos := 0, busy := false, yielding := false }) s
  foxReadback e (engineError e 0x6301 (modSeq e (fun q => { q with st := .faulted, wait := none, ending := false }) s))

/-- An illegal instruction. -/
def foxIllegal (e : Nat) (i : FoxIns) (s : State) : State := foxTrap e 2 i.raw s

/-- Apply a pure result of the core, or trap as illegal. -/
def foxPure (e : Nat) (i : FoxIns) (r : RvOut) (s : State) : State :=
  match r with
  | some x => foxRetire e x.2 (modFox e (fun _ => x.1) s)
  | none => foxIllegal e i s

/-! ### Scalar memory instructions -/

/-- The bytes of a load or store width; none for an illegal one. -/
def memBytes (f : Nat) : Nat := 2 ^ (f % 4)

/-- The register value of a loaded integer: f3 4 to 6 are unsigned. -/
def loadValue (f : Nat) (d : List Byte) : Word64 :=
  if f < 4 then i64 (sext (8 * memBytes f) (leVal d)) else w64 (leVal d)

/-- Complete a scalar access: retire with a change of the core, hold, or trap with the address. -/
def foxEnd (e : Nat) (i : FoxIns) (a : Word64) (r : Acc) (f : List Byte → Fox → Fox) : State → State := fun s0 =>
  match r with
  | .done d s => foxRetire e ((seqOf s e).pc + i.len) (modFox e (f d) s)
  | .hold s => s
  | .trap c => foxTrap e c a.toNat s0

/-- Complete an atomic: with aq a FENCE r,rw follows it (R175). -/
def foxEndAq (e : Nat) (i : FoxIns) (a : Word64) (r : Acc) (f : List Byte → Fox → Fox) (s0 : State) : State :=
  let s := foxEnd e i a r f s0
  match r with
  | .done _ _ => if bit i.w 26 then foxReadback e (modFox e (fun c => { c with acquired := true }) s) else s
  | _ => s

/-- Integer and float loads. -/
def foxScalarLoad (e : Nat) (i : FoxIns) (ecc : Ecc) (host : List Byte) (ans : Option (List Byte)) (s : State) : State :=
  let c := foxOf s e
  let f := f3 i.w
  let a := c.rx (fRs1 i.w) + i64 (immI i.w)
  if i.w % 128 = 0x03 then
    if f = 7 then foxIllegal e i s
    else foxEnd e i a (foxLoad e a (memBytes f) ecc host ans s) (fun d c => c.wx (fRd i.w) (loadValue f d)) s
  else foxEnd e i a (foxLoad e a (memBytes f) ecc host ans s) (fun d c => c.wff (decide (f = 3)) (fRd i.w) (leVal d)) s

/-- Integer and float stores. -/
def foxScalarStore (e : Nat) (i : FoxIns) (ans : Option (List Byte)) (s : State) : State :=
  let c := foxOf s e
  let f := f3 i.w
  let a := c.rx (fRs1 i.w) + i64 (immS i.w)
  if i.w % 128 = 0x23 then
    if 3 < f then foxIllegal e i s
    else foxEnd e i a (foxStore e a (leBytes (memBytes f) (c.rx (fRs2 i.w)).toNat) false ans s) (fun _ c => c) s
  else foxEnd e i a (foxStore e a (leBytes (memBytes f) (c.rf (fRs2 i.w)).toNat) false ans s) (fun _ c => c) s

/-! ### Vector memory instructions -/

/-- One element access of a vector load or store: its address, bytes, register, element width and index, and its body element. -/
structure VAcc where
  addr : Word64
  n : Nat
  reg : Nat
  idx : Nat
  body : Nat
deriving DecidableEq, Repr

/-- The element width of a vector memory instruction's width field. -/
def vWidth (f : Nat) : Option Nat := if f = 0 then some 8 else if f = 5 then some 16 else if f = 6 then some 32 else if f = 7 then some 64 else none

/-- The element accesses of a vector load or store, in element order; none where it is illegal. -/
def vecAccs (c : Fox) (w : Nat) (load : Bool) : Option (List VAcc) :=
  let base := c.rx (fRs1 w)
  let vd := fRd w
  let nf := bits w 29 3 + 1
  let mop := bits w 26 2
  let um := fRs2 w
  match vWidth (f3 w) with
  | none => none
  | some n =>
    let b := n / 8
    if bit w 28 then none
    else if mop = 0 ∧ um = 8 then
      if bit w 25 = false ∨ (nf ≠ 1 ∧ nf ≠ 2 ∧ nf ≠ 4 ∧ nf ≠ 8) ∨ vd % nf ≠ 0 then none
      else some (((List.range (nf * 512 / n)).drop c.vstart).map (fun i =>
        { addr := base + w64 (i * b), n := b, reg := vd, idx := i, body := i }))
    else if c.vill then none
    else if mop = 0 ∧ um = 11 then
      if bit w 25 = false ∨ nf ≠ 1 ∨ n ≠ 8 then none
      else some (((List.range ((c.vl + 7) / 8)).drop c.vstart).map (fun i =>
        { addr := base + w64 i, n := 1, reg := vd, idx := i, body := i }))
    else
      let dn := if mop % 2 = 1 then c.sew else n
      let m8 := c.lm8 * dn / c.sew
      let regs := max 1 (m8 / 8)
      let bad := decide (mop = 0) && decide (um ≠ 0) && !(load && decide (um = 16))
      if bad || !groupOk vd m8 || decide (8 < regs * nf) || decide (32 < vd + regs * nf) || (load && !bit w 25 && decide (vd = 0)) ||
          (decide (mop % 2 = 1) && !groupOk um (c.lm8 * n / c.sew)) then none
      else
        let at_ := fun i f =>
          match mop with
          | 0 => base + w64 ((i * nf + f) * (dn / 8))
          | 2 => base + w64 (i * (c.rx um).toNat + f * (dn / 8))
          | _ => base + w64 (c.ve um n i + f * (dn / 8))
        some ((c.body.filter (fun i => c.active w i)).flatMap (fun i => (List.range nf).map (fun f =>
          { addr := at_ i f, n := dn / 8, reg := vd + f * regs, idx := i, body := i })))

/-- A vector memory instruction is over. -/
def vecRetire (e : Nat) (i : FoxIns) (s : State) : State :=
  foxRetire e ((seqOf s e).pc + i.len) (modFox e (fun c => { c with vstart := 0 }) s)

/-- A trap of one element: fatal, unless a fault-only-first load can end before it. -/
def vecTrap (e : Nat) (i : FoxIns) (x : VAcc) (ff : Bool) (cause : Nat) (s : State) : State :=
  if ff && decide (0 < x.body) then vecRetire e i (modFox e (fun c => { c with vl := x.body }) s)
  else foxTrap e cause x.addr.toNat (modFox e (fun c => { c with vstart := x.body }) s)

/-- Element accesses in order (R175), until one is held. -/
def vecLoop (e : Nat) (i : FoxIns) (load ff : Bool) (ecc : Ecc) : List Byte → Option (List Byte) → List VAcc → State → State
  | _, _, [], s => vecRetire e i s
  | host, ans, x :: l, s =>
    let r := if load then foxLoad e x.addr x.n ecc host ans s
      else foxStore e x.addr (leBytes x.n ((foxOf s e).ve x.reg (8 * x.n) x.idx)) false ans s
    match r with
    | .done d s =>
      let s := modFox e (fun c =>
        { (if load then c.vw x.reg (8 * x.n) x.idx (leVal d) else c) with pos := c.pos + 1, acquired := false }) s
      vecLoop e i load ff .ok (host.drop x.n) none l s
    | .hold s => s
    | .trap c => vecTrap e i x ff c s

/-- A vector load or store, from the element it has come to. -/
def foxVector (e : Nat) (i : FoxIns) (load : Bool) (ecc : Ecc) (host : List Byte) (ans : Option (List Byte)) (s : State) : State :=
  match vecAccs (foxOf s e) i.w load with
  | none => foxIllegal e i s
  | some l =>
    let ff := decide (bits i.w 26 2 = 0 ∧ fRs2 i.w = 16)
    vecLoop e i load ff ecc host ans (l.drop (foxOf s e).pos) s

/-! ### Atomics -/

/-- The operation of an AMO's funct5, as R358 codes it. -/
def amoOp (g : Nat) : Option Nat :=
  match g with
  | 0x00 => some 1 | 0x01 => some 10 | 0x04 => some 6 | 0x08 => some 5 | 0x0C => some 4
  | 0x10 => some 2 | 0x14 => some 3 | 0x18 => some 8 | 0x1C => some 9 | 0x05 => some 11 | _ => none

/-- The pair of registers of AMOCAS.Q. -/
def pairOf (c : Fox) (r : Nat) : Nat := if r = 0 then 0 else (c.rx r).toNat + (c.rx (r + 1)).toNat * 2 ^ 64

/-- AMO and AMOCAS (R171, R230); rl waits for the core's earlier accesses, aq holds the later ones (R175). -/
def foxAmoIns (e : Nat) (i : FoxIns) (ans : Option (List Byte)) (s : State) : State :=
  let c := foxOf s e
  let w := i.w
  let f := f3 w
  let rd := fRd w
  let r2 := fRs2 w
  let a := c.rx (fRs1 w)
  match amoOp (bits w 27 5) with
  | none => foxIllegal e i s
  | some op =>
    if f < 2 ∨ 4 < f ∨ (f = 4 ∧ (op ≠ 11 ∨ rd % 2 = 1 ∨ r2 % 2 = 1)) then foxIllegal e i s
    else if bit w 25 && ans.isNone && !foxDrained s e then foxReadback e s
    else
      let elem := if f = 2 then 0 else if f = 3 then 1 else 4
      let cmp := if f = 4 then pairOf c rd else (c.rx rd).toNat
      let src := if f = 4 then pairOf c r2 else (c.rx r2).toNat
      let x := if op = 11 then cmp else src
      foxEndAq e i a (foxAmo e a op elem x src ans s) (fun d c =>
        if f = 4 then (if rd = 0 then c else (c.wx rd (w64 (leVal (d.take 8)))).wx (rd + 1) (w64 (leVal (d.drop 8))))
        else c.wx rd (if f = 2 then sx32 (leVal (d.take 4)) else w64 (leVal d))) s

/-- FADDA (R171): the old value, zero-extended. -/
def foxFadda (e : Nat) (i : FoxIns) (ans : Option (List Byte)) (s : State) : State :=
  let c := foxOf s e
  let a := c.rx (fRs1 i.w)
  if 1 < f7 i.w then foxIllegal e i s
  else foxEnd e i a (foxAmo e a 7 (2 + f7 i.w) (c.rx (fRs2 i.w)).toNat 0 ans s) (fun d c => c.wx (fRd i.w) (w64 (leVal d))) s

/-- LR (R174). -/
def foxLrIns (e : Nat) (i : FoxIns) (ecc : Ecc) (ans : Option (List Byte)) (s : State) : State :=
  let c := foxOf s e
  let f := f3 i.w
  if (f ≠ 2 ∧ f ≠ 3) ∨ fRs2 i.w ≠ 0 then foxIllegal e i s
  else if bit i.w 25 && ans.isNone && !foxDrained s e then foxReadback e s
  else
    let a := c.rx (fRs1 i.w)
    foxEndAq e i a (foxLr e a (memBytes f) ecc ans s) (fun d c => c.wx (fRd i.w) (loadValue f d)) s

/-- SC (R174). -/
def foxScIns (e : Nat) (i : FoxIns) (ans : Option (List Byte)) (s : State) : State :=
  let c := foxOf s e
  let f := f3 i.w
  if f ≠ 2 ∧ f ≠ 3 then foxIllegal e i s
  else if bit i.w 25 && ans.isNone && !foxDrained s e then foxReadback e s
  else
    let a := c.rx (fRs1 i.w)
    foxEndAq e i a (foxSc e a (leBytes (memBytes f) (c.rx (fRs2 i.w)).toNat) ans s) (fun d c => c.wx (fRd i.w) (w64 (leVal d))) s

/-- SDF (R171). -/
def foxSdf (e : Nat) (i : FoxIns) (ans : Option (List Byte)) (s : State) : State :=
  let c := foxOf s e
  let a := c.rx (fRs1 i.w)
  if f7 i.w ≠ 0 then foxIllegal e i s
  else foxEnd e i a (foxStore e a (leBytes 8 (c.rx (fRs2 i.w)).toNat) true ans s) (fun _ c => c) s

/-- The memory instruction at issue, with the answer another device has given to its next access. -/
def foxMemory (e : Nat) (ecc : Ecc) (host : List Byte) (ans : Option (List Byte)) (s : State) : State :=
  match foxFetch s e with
  | .ins i =>
    let scalarF := decide (f3 i.w = 2 ∨ f3 i.w = 3)
    match foxClass s e i.w with
    | .load => if decide (i.w % 128 = 0x03) || scalarF then foxScalarLoad e i ecc host ans s else foxVector e i true ecc host ans s
    | .store => if decide (i.w % 128 = 0x23) || scalarF then foxScalarStore e i ans s else foxVector e i false .ok [] ans s
    | .amo => foxAmoIns e i ans s
    | .lr => foxLrIns e i ecc ans s
    | .sc => foxScIns e i ans s
    | .sdf => foxSdf e i ans s
    | .fadda => foxFadda e i ans s
    | _ => s
  | _ => s

/-- What a core waited for has come: its instruction goes on, if its program still runs. -/
def foxResume (e : Nat) (ans : Option (List Byte)) (s : State) : State :=
  let s := modFox e (fun c => { c with busy := false }) s
  if foxRuns s e then foxMemory e .ok [] ans s else s

/-! ### The commands -/

/-- FC_LOAD (R172): a scalar or vector load; `ecc` is what the check of the store or of the L1 line finds, `host` what host memory
returns where the address lies there. -/
def execFcLoad (e : Nat) (ecc : Ecc) (host : List Byte) (s : State) : Out := onFox e .load s (fun _ s => foxMemory e ecc host none s)

/-- FC_STORE (R172). -/
def execFcStore (e : Nat) (s : State) : Out := onFox e .store s (fun _ s => foxMemory e .ok [] none s)

/-- FC_AMO (R172, R230). -/
def execFcAmo (e : Nat) (s : State) : Out := onFox e .amo s (fun _ s => foxMemory e .ok [] none s)

/-- FC_LR (R174); `ecc` is what the check of the L1 line finds (R181). -/
def execFcLr (x : Checked Nat) (s : State) : Out := onFox x.it .lr s (fun _ s => foxMemory x.it x.ecc [] none s)

/-- FC_SC (R174). -/
def execFcSc (e : Nat) (s : State) : Out := onFox e .sc s (fun _ s => foxMemory e .ok [] none s)

/-- FADDA (R171, R232). -/
def execFadda (e : Nat) (s : State) : Out := onFox e .fadda s (fun _ s => foxMemory e .ok [] none s)

/-- SDF (R171, R223). -/
def execSdf (e : Nat) (s : State) : Out := onFox e .sdf s (fun _ s => foxMemory e .ok [] none s)

/-- FC_FENCE (R175, R220): FENCE waits for every earlier access and issues the read-back it needs, FENCE.I has no effect. -/
def execFcFence (e : Nat) (s : State) : Out :=
  onFox e .fence s (fun i s =>
    let go := fun s => foxRetire e ((seqOf s e).pc + i.len) s
    if f3 i.w = 1 then go s
    else if f3 i.w ≠ 0 then foxIllegal e i s
    else if bits i.w 24 4 = 0 then go s
    else if foxDrained s e then go s
    else foxReadback e s)

/-- A CSR's value (R170): none for one the core does not have. -/
def csrRead (s : State) (e n : Nat) : Option Word64 :=
  let c := foxOf s e
  match n with
  | 0x001 => some (w64 (c.fcsr % 32))
  | 0x002 => some (w64 (bits c.fcsr 5 3))
  | 0x003 => some (w64 (c.fcsr % 256))
  | 0x008 => some (w64 c.vstart)
  | 0x009 => some (w64 (c.vcsr % 2))
  | 0x00A => some (w64 c.vxrm)
  | 0x00F => some (w64 (c.vcsr % 8))
  | 0xC00 => some (freeWord s)
  | 0xC01 => some (w64 (nowNs s))
  | 0xC02 => some (w64 c.instret)
  | 0xC20 => some (w64 c.vl)
  | 0xC21 => some c.vtype
  | 0xC22 => some 64
  | 0xCC0 => some (w64 e)
  | 0xCC1 => some (w64 s.run.phase)
  | 0xCC2 => some (w64 (SMap.get 0 s.run.passes s.run.phase))
  | 0xCC3 => some (w64 (match progOf s e with
      | some p => p.paramWords
      | none => 0))
  | _ => none

/-- Write a CSR that can be written. -/
def csrWrite (c : Fox) (n : Nat) (v : Nat) : Fox :=
  match n with
  | 0x001 => { c with fcsr := setBits c.fcsr 0 5 v }
  | 0x002 => { c with fcsr := setBits c.fcsr 5 3 v }
  | 0x003 => { c with fcsr := v % 256 }
  | 0x008 => { c with vstart := v % 512 }
  | 0x009 => { c with vcsr := setBits c.vcsr 0 1 v }
  | 0x00A => { c with vcsr := setBits c.vcsr 1 2 v }
  | 0x00F => { c with vcsr := v % 8 }
  | _ => c

/-- FC_CSR (R167, R170): a write of a read-only CSR is illegal. -/
def execFcCsr (e : Nat) (s : State) : Out :=
  onFox e .csr s (fun i s =>
    let w := i.w
    let n := bits w 20 12
    let f := f3 w
    let r1 := fRs1 w
    let src := if f < 4 then (foxOf s e).rx r1 else w64 r1
    let writes := decide (f % 4 = 1) || decide (r1 ≠ 0)
    match csrRead s e n with
    | none => foxIllegal e i s
    | some old =>
      if writes && decide (0xC00 ≤ n) then foxIllegal e i s
      else
        let v := if f % 4 = 1 then src else if f % 4 = 2 then old ||| src else old &&& ~~~src
        let s := if n = 0xC00 then useFree s else s
        foxRetire e ((seqOf s e).pc + i.len)
          (modFox e (fun c => (if writes then csrWrite c n v.toNat else c).wx (fRd w) old) s))

/-- FC_COMPUTE (R167, R179): any other instruction, and the traps that no other command takes. -/
def foxCompute (e : Nat) (s : State) : State :=
  let pc := (seqOf s e).pc
  match foxFetch s e with
  | .fault => foxTrap e 1 pc s
  | .illegal r => foxTrap e 2 r s
  | .ins i =>
    if foxClass s e i.w ≠ .compute then s
    else
      let c := foxOf s e
      let w := i.w
      let next := pc + i.len
      match w % 128 with
      | 0x73 => if w = 0x73 then foxTrap e 8 0 s else if w = 0x00100073 then foxTrap e 3 pc s else foxIllegal e i s
      | 0x43 | 0x47 | 0x4B | 0x4F | 0x53 => foxPure e i (rvFloat c next w) s
      | 0x57 => foxPure e i (rvVec c next w) s
      | _ => foxPure e i (rvInt c pc next w) s

/-- FC_ECC_FATAL (R181): a double-bit error in a dirty L1 line, or a register parity error, of a core that runs. -/
def execFcEccFatal (e : Nat) (s : State) : Out :=
  if engClass e = 2 ∧ engValid e = true ∧ ((seqOf s e).st = .running ∨ (seqOf s e).st = .waiting) then .next (foxEccStop e s) else .next s

/-- FC_COMPUTE. -/
def execFcCompute (e : Nat) (s : State) : Out := if foxRuns s e then .next (foxCompute e s) else .next s

/-- FEND (R171): the program ends once every earlier access has been performed. -/
def execFend (e : Nat) (s : State) : Out :=
  onFox e .fend s (fun i s =>
    if i.w ≠ 0x0B then foxIllegal e i s
    else
      let s := foxReadback e (modFox e (fun c => { c with instret := c.instret + 1 }) s)
      settle e (modSeq e (fun q => { q with ending := true }) s))

/-- The check of a tally address of TSIG, TWAIT and TERRT (R171, R558, R560): the event code that refuses it. -/
def tallyCheck (s : State) (e : Nat) (a : Word64) (hereOnly : Bool) : Option Nat :=
  let h := hallAddr a
  match checkAccess s e a 8 32 true (decide (h.space = 3) && !(hereOnly && isRemote s h)) with
  | some c => some c
  | none => if !isRemote s h && !(if hereOnly then (tallyOf s (h.off / 32)).allocated else tallyOpen s (h.off / 32)) then some 0x9003 else none

/-- TSIG (R171, R220): its add waits for every earlier access of the core, a read-back of its host stores among them. -/
def execTsig (e : Nat) (s : State) : Out :=
  onFox e .tsig s (fun i s =>
    let c := foxOf s e
    let a := c.rx (fRs1 i.w)
    let h := hallAddr a
    if f7 i.w ≠ 0 then foxIllegal e i s
    else
      let s := match tallyCheck s e a false with
        | some code => modFox e (fun c => { c with operandFault := true }) (addrFault code e a s)
        | none => modSeq e (fun q => { q with signals := q.signals ++
            [{ issue := q.issued, tally := h.off / 32, n := (c.rx (fRs2 i.w)).toNat, addr := if isRemote s h then some a else none }] }) (foxReadback e s)
      foxRetire e ((seqOf s e).pc + i.len) s)

/-- TWAIT (R171, R558): a refused address releases it at once with 1. -/
def execTwait (e : Nat) (s : State) : Out :=
  onFox e .twait s (fun i s =>
    let c := foxOf s e
    let a := c.rx (fRs1 i.w)
    let n := (hallAddr a).off / 32
    let rd := fRd i.w
    if f7 i.w ≠ 0 then foxIllegal e i s
    else match tallyCheck s e a true with
      | some code =>
        let s := modFox e (fun c => { c with operandFault := true }) (addrFault code e a s)
        foxRetire e ((seqOf s e).pc + i.len) (setX e rd 1 s)
      | none =>
        let t := tallyOf s n
        let s := modFox e (fun c => { c with lastTally := some n }) s
        if t.error = true ∨ (c.rx (fRs2 i.w)).toNat ≤ t.count then
          foxRetire e ((seqOf s e).pc + i.len) (setX e rd (if t.error then 1 else 0) s)
        else
          modFox e (fun c => { c with instret := c.instret + 1 })
            (modSeq e (fun q => { q with st := .waiting, wait := some { tally := n, target := (c.rx (fRs2 i.w)).toNat, rd := some rd } }) s))

/-- TERRT (R171, R558). -/
def execTerrt (e : Nat) (s : State) : Out :=
  onFox e .terrt s (fun i s =>
    let a := (foxOf s e).rx (fRs1 i.w)
    if f7 i.w ≠ 0 then foxIllegal e i s
    else
      let s := match tallyCheck s e a true with
        | some code => modFox e (fun c => { c with operandFault := true }) (addrFault code e a s)
        | none => modSeq e (fun q => { q with errTally := (hallAddr a).off / 32 }) s
      foxRetire e ((seqOf s e).pc + i.len) s)

/-- PRM (R171, R180): zero beyond the binding's words. -/
def execPrm (e : Nat) (s : State) : Out :=
  onFox e .prm s (fun i s =>
    let k := ((foxOf s e).rx (fRs1 i.w)).toNat
    let n := match progOf s e with
      | some p => p.paramWords
      | none => 0
    if f7 i.w ≠ 0 then foxIllegal e i s
    else if k < n then foxRetire e ((seqOf s e).pc + i.len) (setX e (fRd i.w) (paramAt s e k) s)
    else
      let s := logEvent 0x6303 e [(2, e), (8, k)] s
      let s := modFox e (fun c => { c with operandFault := true }) s
      foxRetire e ((seqOf s e).pc + i.len) (setX e (fRd i.w) 0 s))

/-- ECALL_LOG (R178): at most 16 entries per core per phase. -/
def execEcallLog (e : Nat) (s : State) : Out :=
  onFox e .ecallLog s (fun _ s =>
    let c := foxOf s e
    let s := if c.userLogged < 16 then
        logEvent 0x6320 e [(2, e), (8, (c.rx 10).toNat)] (modFox e (fun c => { c with userLogged := c.userLogged + 1 }) s)
      else modFox e (fun c => { c with userDrops := satAdd 64 c.userDrops 1 }) s
    modSeq e (fun q => { q with pc := q.pc + 4 }) s)

/-- ECALL_YIELD (R178): the core retires nothing until the tally it last waited on changes or 1 us passes. -/
def execEcallYield (e : Nat) (s : State) : Out :=
  onFox e .ecallYield s (fun _ s => modFox e (fun c => { c with yielding := true }) (modSeq e (fun q => { q with pc := q.pc + 4 }) s))

/-- YIELD_END (R178): 1 us has passed. -/
def execYieldEnd (e : Nat) (s : State) : Out := .next (modFox e (fun c => { c with yielding := false }) s)

end Sys2Proof.Machine
end

