-- ==== Sys2Proof/Machine/Cache.lean ====
section
/-! DEFINITION. The coherence messages that reach this device's L1s: snoops, invalidations, grants and their races (R370 to R375). -/

namespace Sys2Proof.Machine

open Sys2Proof

/-- The L1's name for the line a packet is about, homed on its sender. -/
def grantKey (s : State) (p : Packet) : Nat := l1Key (addrDev s (hallAddr (memOf p).addr)) (packetLine p)

/-- Answer a snoop with the line (R371, R375). -/
def snoopData (e k : Nat) (l : L1Line) (s : State) : State :=
  sendCoh 0x53 (keyHome k) (keyHome k) (keyLine k) e 0 0 (decide (l.state = .modif)) l.poison l.data s

/-- A snoop reaches its owner's L1 (R374, R375). A line whose grant is on its way holds the snoop at the ingress (log entry 21). -/
def snoop (inv : Bool) (p : Packet) (s : State) : State :=
  let e := (memOf p).core
  let k := grantKey s p
  let l := l1Of s e k
  match l.state with
  | .isD | .imD | .smG | .isDI => s
  | .excl | .modif =>
    let s := snoopData e k l (takeIngress p s)
    if inv then setL1 e k {} (dropReservation e k s) else modL1 e k (fun l => { l with state := .shared }) s
  | _ =>
    let s := sendCoh 0x56 (keyHome k) (keyHome k) (keyLine k) e 0 0 false false [] (takeIngress p s)
    if l1Leaving l then modL1 e k (fun l => { l with state := .iiA }) s else s

/-- SNP_SHARE (R371). -/
def execSnpShare (p : Packet) (s : State) : Out := .next (snoop false p s)

/-- SNP_INV (R371). -/
def execSnpInv (p : Packet) (s : State) : Out := .next (snoop true p s)

/-- INV (R371, R375): every L1 of the device gives the line up, and the device answers once. -/
def execInv (p : Packet) (s : State) : Out :=
  let k := grantKey s p
  let s := forEach (s.sett.l1.map (·.1)) (fun e s => l1Inval e k s) (takeIngress p s)
  .next (sendCoh 0x55 (keyHome k) (keyHome k) (keyLine k) 0 0 0 false false [] s)

/-- Whether a grant answers the request its line awaits: by its slot and generation, or over the die network by the line alone (R364). -/
def grantFresh (s : State) (p : Packet) : Bool :=
  let e := (memOf p).core
  let k := grantKey s p
  let l := l1Of s e k
  if keyHome k = myLogical s then !l1Stable l
  else
    let q := slotOf s p.tag
    q.busy && decide (q.gen = (memOf p).slotGen) && decide (q.use = .l1 e k)

/-- Free the slot of an L1's request, where it has one. -/
def l1CloseSlot (s : State) (p : Packet) (k : Nat) : State := if keyHome k = myLogical s then s else closeSlot p.tag s

/-- The line's contents once its grant has arrived: S, E or M with data, or M without. -/
def granted (st : L1State) (p : Packet) (l : L1Line) : L1Line :=
  let m := memOf p
  if p.ptype = 0x59 then { l with state := .modif, slot := 0, retry := false }
  else { state := st, data := slice m.data 0 64, poison := m.poison }

/-- A grant that arrives for a slot whose timer has expired (R375): S is dropped, E and M are returned, and it is counted. -/
def lateGrant (p : Packet) (s : State) : State :=
  let e := (memOf p).core
  let k := grantKey s p
  let s := { s with remote := { s.remote with late := satAdd 64 s.remote.late 1 } }
  let s := modCounts (keyLine k) (fun c => { c with stray := true }) s
  let s := logEvent 0x9042 e [] s
  match p.ptype with
  | 0x50 => s
  | 0x51 => (l1Send 0x44 e k false false [] s).getD s
  | 0x52 => (l1Send 0x43 e k true (memOf p).poison (slice (memOf p).data 0 64) s).getD s
  | _ =>
    let l := l1Of s e k
    if l.state = .shared then
      ((l1Send 0x43 e k true l.poison l.data s).map (fun s => modL1 e k (fun l => { l with state := .miA }) (dropReservation e k s))).getD s
    else (l1Send 0x44 e k false false [] s).getD s

/-- A grant reaches the L1 that asked for it (R371, R373, R375): the waiting access goes on. A line invalidated meanwhile completes it
and is given up. -/
def takeGrant (st : L1State) (p : Packet) (s : State) : State :=
  let s := takeIngress p s
  let e := (memOf p).core
  let k := grantKey s p
  if !grantFresh s p then lateGrant p s
  else
    let was := (l1Of s e k).state
    let s := l1CloseSlot s p k
    let s := if st = .modif then l1InvalOthers e k s else s
    let s := foxResume e none (modL1 e k (granted st p) s)
    if was = .isDI then l1Evict e k s else s

/-- DATA_S (R371). -/
def execDataS (p : Packet) (s : State) : Out := .next (takeGrant .shared { p with ptype := 0x50 } s)

/-- DATA_E (R371). -/
def execDataE (p : Packet) (s : State) : Out := .next (takeGrant .excl { p with ptype := 0x51 } s)

/-- DATA_M (R371, R373). -/
def execDataM (p : Packet) (s : State) : Out := .next (takeGrant .modif { p with ptype := 0x52 } s)

/-- GRANT (R371). -/
def execGrant (p : Packet) (s : State) : Out := .next (takeGrant .modif { p with ptype := 0x59 } s)

/-- WB_ACK (R374): the eviction is complete. -/
def execWbAck (p : Packet) (s : State) : Out :=
  let s := takeIngress p s
  let e := (memOf p).core
  let k := grantKey s p
  let s := if grantFresh s p then l1CloseSlot s p k else s
  .next (if l1Leaving (l1Of s e k) then setL1 e k {} s else s)

/-- An L1's request refused or lost (R361, R363): the waiting access completes with 0xBAD0 and the error bit. -/
def l1Failed (e k code : Nat) (refused : Bool) (s : State) : State :=
  let l := l1Of s e k
  let s := match l.state with
    | .smG => modL1 e k (fun l => { l with state := .shared, slot := 0, retry := false }) s
    | _ => setL1 e k {} s
  let s := modFox e (fun c => { c with operandFault := c.operandFault || refused }) (engineError e code s)
  if (foxOf s e).busy then foxResume e (some (badBytes 16)) s else s

end Sys2Proof.Machine
end

