-- ==== Sys2Proof/Machine/Convert.lean ====
section
/-! DEFINITION. Conversion to an output format, with its special cases and flags (R124, R388). -/

namespace Sys2Proof.Machine

open Sys2Proof

/-- The largest value of a signed integer format of a code. -/
def intMax (code : Nat) : Int := (2 ^ (codeBits code - 1) : Nat) - 1
/-- The smallest. -/
def intMin (code : Nat) : Int := -((2 ^ (codeBits code - 1) : Nat) : Int)

/-- What an infinity or an overflow becomes in a float format (R124). -/
def convInf (f : Fmt) (sat neg : Bool) : Nat :=
  if sat then f.sign neg + f.maxPat
  else match f.top with
    | .ieee => f.sign neg + f.infPat
    | .nanOnly => f.nan
    | .finite => f.sign neg + f.maxPat

/-- Convert a value to a float format: the pattern and whether the element is flagged (R124). -/
def convFloat (f : Fmt) (sat : Bool) (mode : RMode) (x : Num) : Nat × Bool :=
  match x with
  | .nan => (f.nan, true)
  | .inf s => (convInf f sat s, true)
  | .fin s m e =>
    let r := (f.roundMag mode s m e).1
    if r ≤ f.maxPat then (f.sign s + r, false) else (convInf f sat s, true)

/-- Convert a value to a signed integer format: NaN is zero, an infinity or an overflow saturates, each flagged (R124). -/
def convInt (code : Nat) (mode : RMode) (x : Num) : Nat × Bool :=
  let w := codeBits code
  match x with
  | .nan => (0, true)
  | .inf s => (ofInt w (if s then intMin code else intMax code), true)
  | .fin .. =>
    let z := ((x.toInt mode).getD (0, false)).1
    if intMax code < z then (ofInt w (intMax code), true)
    else if z < intMin code then (ofInt w (intMin code), true)
    else (ofInt w z, false)

/-- Convert a value to the format of a code (R124). -/
def convOut (code : Nat) (sat : Bool) (mode : RMode) (x : Num) : Nat × Bool :=
  match floatOf code with
  | some f => convFloat f sat mode x
  | none => convInt code mode x

/-- What stands for a missing element of an output format: its NaN, or zero for an integer (R400). -/
def codeNan (code : Nat) : Nat :=
  match floatOf code with
  | some f => f.nan
  | none => 0

end Sys2Proof.Machine
end

