-- ==== Sys2Proof/Machine/Coll.lean ====
section
/-! DEFINITION. Pack units and their collectives (R381 to R401). -/

namespace Sys2Proof.Machine

open Sys2Proof

/-- A pack unit, by its engine ID. -/
def packOf (s : State) (e : Nat) : Pack := SMap.get {} s.units.pack e
/-- Change a pack unit. -/
def modPack (e : Nat) (f : Pack → Pack) (s : State) : State :=
  { s with units := { s.units with pack := SMap.modify {} s.units.pack e f } }
/-- Change the collective in progress. -/
def modColl (e : Nat) (f : Coll → Coll) (s : State) : State := modPack e (fun k => { k with coll := k.coll.map f }) s

/-! ### The group (R384) -/

/-- The numbers of the set bits of a 32-bit mask, ascending. -/
def maskBits (m : Nat) : List Nat := (List.range 32).filter (fun i => bit m i)
/-- The rows, racks and slots of a group record: tier 2, 1 and 0. -/
def Coll.tier (c : Coll) (t : Nat) : List Nat :=
  if t = 0 then maskBits c.g1.toNat else if t = 1 then maskBits (fld c.g0 32 32) else maskBits (fld c.g0 0 32)
/-- The number of a tier's indices: m_s, m_k or m_r. -/
def Coll.m (c : Coll) (t : Nat) : Nat := max 1 (c.tier t).length
/-- A logical device's index in a tier. -/
def Coll.idx (c : Coll) (t d : Nat) : Nat := (c.tier t).idxOf (tierCoord t d)
/-- A member's rank. -/
def Coll.rank (c : Coll) (d : Nat) : Nat := (c.idx 2 d * c.m 1 + c.idx 1 d) * c.m 0 + c.idx 0 d
/-- The members' number. -/
def Coll.members (c : Coll) : Nat := c.m 2 * c.m 1 * c.m 0
/-- The tier index of a rank. -/
def Coll.rankIdx (c : Coll) (t r : Nat) : Nat :=
  if t = 0 then r % c.m 0 else if t = 1 then r / c.m 0 % c.m 1 else r / (c.m 0 * c.m 1)
/-- The logical device at an index of this device's tier group. -/
def Coll.peer (c : Coll) (me t i : Nat) : Nat := withCoord t me ((c.tier t).getD i 0)

/-! ### Pieces (R385, R392, R393) -/

/-- split(a, e, m, i): start and length. -/
def splitPiece (a e m i : Nat) : Nat × Nat :=
  let g := 16 * ((e + 16 * m - 1) / (16 * m))
  (a + min e (i * g), min e ((i + 1) * g) - min e (i * g))

/-- The range a member owns before the reduce-scatter of tier `t` (R392): 3 is its final piece. -/
def Coll.range (c : Coll) (me : Nat) : Nat → Nat × Nat
  | 0 => (0, c.count)
  | t + 1 =>
    let r := Coll.range c me t
    splitPiece r.1 r.2 (c.m t) (c.idx t me)

/-- Bytes of an input element. -/
def Coll.inBytes (c : Coll) : Nat := codeBytes c.inFmt
/-- Bytes of an output element. -/
def Coll.outBytes (c : Coll) : Nat := codeBytes c.outFmt

/-- The largest tier's index count. -/
def Coll.mt (c : Coll) : Nat := max (c.m 0) (max (c.m 1) (c.m 2))

/-- Elements of the first piece of the first tier with more than one index (R393). -/
def Coll.p1 (c : Coll) : Nat :=
  let m := if 1 < c.m 0 then c.m 0 else if 1 < c.m 1 then c.m 1 else c.m 2
  (splitPiece 0 c.count m 0).2

/-- W of R393. -/
def Coll.need (c : Coll) : Nat :=
  if c.kind ≥ 2 then 0 else if c.algo = 1 then 4 * c.count * (c.mt - 1) else 4 * c.p1 * (c.mt - 1)

/-- Whether a tier has a summing stage: more than one index, or the rack stage of a group of one. -/
def Coll.hasTier (c : Coll) (t : Nat) : Bool := decide (1 < c.m t) || (decide (t = 0) && decide (c.mt = 1))

/-- The last summing stage. -/
def Coll.lastTier (c : Coll) : Nat := if 1 < c.m 2 then 2 else if 1 < c.m 1 then 1 else 0

/-- The positions summed in a stage. -/
def Coll.span (c : Coll) (me t : Nat) : Nat × Nat := if c.algo = 1 then (0, c.count) else c.range me (t + 1)

/-- The summing stage from a tier on: the first of it and the later tiers that has one. -/
def Coll.stageFrom (c : Coll) (t : Nat) : Nat :=
  if t ≤ 0 ∧ c.hasTier 0 then 0 else if t ≤ 1 ∧ c.hasTier 1 then 1 else 2

/-! ### Memory of the die (R381, R400) -/

/-- Whether an address is one a pack unit reaches: SP of its die, or HBM of its die's stacks, in local form. -/
def packMay (e : Nat) (h : HAddr) : Bool :=
  decide (h.form = 0) && ((decide (h.space = 0) && decide (h.off / 2 ^ 32 = engDie e)) || (decide (h.space = 1) && decide (h.off / 2 ^ 37 = engDie e)))

/-- A pack unit's address fault (R400). -/
def packFault (e : Nat) (c : Coll) (code : Nat) (a : Word64) (s : State) : State :=
  let s := modPack e (fun k => { k with operandFault := true }) (logEvent code e [(2, e), (8, a.toNat)] s)
  engineError e code (tallyError c.tally code e s)

/-- Read elements of a pack unit: patterns, none where the read faults or meets poison. The error bits are set once for the range. `ecc` is
what the check of the lines finds (R211, R212). -/
def packRead (e : Nat) (c : Coll) (base : Word64) (eb lo : Nat) (n : Nat) (ecc : Ecc) (s : State) : List (Option Nat) × State :=
  let a := addrPlus base ((lo * eb : Nat) : Int)
  let s := match accessStage s e a eb 1 false (packMay e (hallAddr a)), spaceStore (hallAddr a).space with
    | none, some st => eccNote st (hallAddr a).off e ecc s
    | _, _ => s
  let one := fun i =>
    let x := addrPlus a ((i * eb : Nat) : Int)
    let h := hallAddr x
    match accessStage s e x eb 1 false (packMay e h), spaceStore h.space with
    | none, some st => if poisoned s st h.off eb then none else some (leVal (readStore s st h.off eb))
    | _, _ => none
  let l := (List.range n).map one
  let h := hallAddr a
  match (List.range n).find? (fun i => (one i).isNone) with
  | none => (l, match spaceStore h.space with
      | some st => served st false h.off (n * eb) s
      | none => s)
  | some i =>
    let x := addrPlus a ((i * eb : Nat) : Int)
    match accessStage s e x eb 1 false (packMay e (hallAddr x)) with
    | some g => (l, packFault e c (stageCode g) x s)
    | none =>
      let code := if (hallAddr x).space = 0 then 0x9011 else 0x9015
      (l, engineError e code (tallyError c.tally code e (modPack e (fun k => { k with operandFault := true }) s)))

/-- Write elements of a pack unit; a faulting write is dropped, and the error bits are set once for the range. -/
def packWrite (e : Nat) (c : Coll) (base : Word64) (eb lo : Nat) (vs : List Nat) (s : State) : State :=
  let a := addrPlus base ((lo * eb : Nat) : Int)
  let fails := fun i => accessStage s e (addrPlus a ((i * eb : Nat) : Int)) eb 1 true (packMay e (hallAddr (addrPlus a ((i * eb : Nat) : Int))))
  let h := hallAddr a
  match (List.range vs.length).find? (fun i => (fails i).isSome) with
  | none => match spaceStore h.space with
    | some st => served st false h.off (vs.length * eb) (writeStore st h.off (vs.flatMap (leBytes eb)) s)
    | none => s
  | some i =>
    let s := forEach (List.range vs.length) (fun j s =>
      if (fails j).isSome then s
      else match spaceStore (hallAddr (addrPlus a ((j * eb : Nat) : Int))).space with
        | some st => writeStore st (hallAddr (addrPlus a ((j * eb : Nat) : Int))).off (leBytes eb (vs.getD j 0)) s
        | none => s) s
    packFault e c (stageCode ((fails i).getD 4)) (addrPlus a ((i * eb : Nat) : Int)) s

/-! ### Sums (R387) -/

/-- add32. -/
def add32 (a b : Nat) : Nat := Fmt.fp32.add a b

/-- Add neighbours, carrying an odd last one. -/
def treePairs : List Nat → List Nat
  | a :: b :: l => add32 a b :: treePairs l
  | l => l

/-- tree, with fuel. -/
def treeSum : Nat → List Nat → Nat
  | 0, l => l.headD 0
  | f + 1, l => if l.length ≤ 1 then l.headD 0 else treeSum f (treePairs l)

/-- An input pattern as FP32, exactly; a missing element is NaN. -/
def toFp32 (code : Nat) (x : Option Nat) : Nat :=
  match x with
  | some n => Fmt.fp32.rne (codeValue code n)
  | none => 0x7FC00000

/-! ### Sending (R391 to R394) -/

/-- The destination-mask record of a stage's receivers. -/
def Coll.record (c : Coll) (me stage : Nat) : Nat × Nat :=
  let t := if stage < 3 then stage else if stage = 6 then 6 else 5 - stage
  let rows := if t = 6 ∨ t = 2 then fld c.g0 0 32 else 2 ^ posRow me
  let racks := if t = 6 ∨ t = 1 then fld c.g0 32 32 else 2 ^ posRack me
  let slots := if t = 6 ∨ t = 0 then fld c.g1 0 32 else 2 ^ posSlot me
  (rows + 2 ^ 32 * racks, slots)

/-- Whether a stage's data is FP32 partial sums. -/
def partialStage (stage : Nat) : Bool := decide (stage = 1 ∨ stage = 2)

/-- Bytes of an element in a stage's packets. -/
def Coll.wireBytes (c : Coll) (stage : Nat) : Nat :=
  if partialStage stage then 4 else if stage = 0 ∨ stage = 6 then c.inBytes else c.outBytes

/-- The elements a stage sends, as patterns. -/
def collData (e : Nat) (c : Coll) (stage lo n : Nat) (ecc : Ecc) (s : State) : List Nat × State :=
  if partialStage stage then
    if c.sums.isEmpty then
      let r := packRead e c c.src c.inBytes lo n ecc s
      (r.1.map (toFp32 c.inFmt), r.2)
    else ((List.range n).map (fun i => SMap.get 0 c.sums (lo + i)), s)
  else
    let fmt := if stage = 0 ∨ stage = 6 then c.inFmt else c.outFmt
    let base := if stage = 0 ∨ stage = 6 then c.src else c.dst
    let r := packRead e c base (codeBytes fmt) lo n ecc s
    (r.1.map (fun x => x.getD (codeNan fmt)), r.2)

/-- Send collective packets while slots and the limit of 512 allow; `ecc` is what the check of the first read finds. -/
def pumpColl (e : Nat) : Ecc → Nat → State → State
  | _, 0, s => s
  | ecc, f + 1, s =>
    match (packOf s e).coll with
    | none => s
    | some c =>
      match c.out with
      | [] => s
      | x :: rest =>
        if x.len = 0 then pumpColl e ecc f (modColl e (fun c => { c with out := rest }) s)
        else if 512 ≤ c.flight then s
        else
          let eb := max 1 (c.wireBytes x.stage)
          let n := min x.len (1216 / eb)
          let me := myLogical s
          let d := collData e c x.stage x.lo n ecc s
          let r := c.record me x.stage
          let b : CollBody := { stage := x.stage, die := engDie e, partialSum := partialStage x.stage, seq := c.seq, digest := c.digest
                                sender := c.rank me, offset := x.lo, elements := n
                                extra := if x.dest.isSome then 0 else BitVec.ofNat 128 (r.1 + 2 ^ 64 * r.2)
                                data := d.1.flatMap (leBytes eb) }
          let dests := match x.dest with
            | some q => [q]
            | none => (maskSet d.2 (BitVec.ofNat 64 r.1) (BitVec.ofNat 64 r.2)).filter (fun q => q != me)
          let noted := fun (s : State) =>
            modPack e (fun k => { k with sent := satAdd 64 k.sent (n * eb) })
              (modColl e (fun c => { c with out := { x with lo := x.lo + n, len := x.len - n } :: rest }) s)
          if dests.isEmpty then pumpColl e .ok f (noted d.2)
          else match freeSlot d.2 with
            | none => s
            | some i =>
              let s := d.2
              let p := stampGen (((slotOf s i).gen + 1) % 16)
                { issuePacket s (if x.dest.isSome then 0x60 else 0x61) 0 (x.dest.getD 0) i (.coll b) with cls := 0 }
              let s := openSlot i e dests (.pack e) p s
              let s := if x.dest.isSome then routePacket p s else sendStage p 3 (dests.filterMap (physOf s)) s
              pumpColl e .ok f (modColl e (fun c => { c with flight := c.flight + 1 }) (noted s))

/-- What a summing stage sends (R391, R392). -/
def Coll.stageSends (c : Coll) (me t : Nat) : List CollSend :=
  if c.m t ≤ 1 then []
  else if c.algo = 1 then [{ stage := t, lo := 0, len := c.count }]
  else
    let r := c.range me t
    ((List.range (c.m t)).filter (fun j => j != c.idx t me)).map (fun j =>
      let p := splitPiece r.1 r.2 (c.m t) j
      { stage := t, dest := some (c.peer me t j), lo := p.1, len := p.2 })

/-- Enter a stage and send what it sends. -/
def enterStage (e stage : Nat) (sends : List CollSend) (ecc : Ecc) (s : State) : State :=
  pumpColl e ecc 1100000 (modColl e (fun c => { c with stage := stage, summed := [], failed := [], out := c.out ++ sends }) s)

/-! ### Arrivals -/

/-- Elements of a sender that have arrived in a stage within a range. -/
def Coll.arrived (c : Coll) (stage i lo n : Nat) : Nat :=
  (c.got.filter (fun g => g.stage == stage && g.idx == i)).foldl (fun acc g =>
    acc + (min (g.lo + g.len) (lo + n) - max g.lo lo)) 0

/-- Whether a sender's elements of a range are there, or known to be missing. -/
def Coll.present (c : Coll) (stage i lo n : Nat) : Bool :=
  c.missing.contains (stage, i) || decide (n ≤ c.arrived stage i lo n)

/-- The place in the work area of a position of a contribution (log entry 24). -/
def Coll.workAt (c : Coll) (me t i pos : Nat) : Nat :=
  let sp := c.span me t
  let k := if i < c.idx t me then i else i - 1
  k * sp.2 + (pos - sp.1)

/-- The pieces a gather stage awaits: index and range (R392). -/
def Coll.gatherPieces (c : Coll) (me t : Nat) : List (Nat × Nat × Nat) :=
  let r := c.range me t
  ((List.range (c.m t)).filter (fun j => j != c.idx t me)).map (fun j => (j, (splitPiece r.1 r.2 (c.m t) j)))

/-- The ranks kinds 2 and 3 await data from. -/
def Coll.sources (c : Coll) (me : Nat) : List Nat :=
  if c.kind = 2 then (List.range c.members).filter (fun r => r != c.rank me)
  else if c.rank me = c.root then [] else [c.root]

/-- Whether everything of the present gather stage, or of kinds 2 and 3, has arrived. -/
def Coll.gathered (c : Coll) (me : Nat) : Bool :=
  if c.kind ≥ 2 then (c.sources me).all (fun r => c.present 6 r 0 c.count)
  else (c.gatherPieces me (5 - c.stage)).all (fun p => c.present c.stage p.1 p.2.1 p.2.2)

/-- Whether a collective has written all its results here and every packet it sent is answered (R397). -/
def Coll.complete (c : Coll) (me : Nat) : Bool :=
  c.out.isEmpty && decide (c.flight = 0) &&
    (if c.kind ≥ 2 then c.gathered me else decide (c.stage = 7) || (decide (c.stage = 5) && c.gathered me))

/-- Go on through the gather stages as far as their pieces have arrived (R392): 3 hall, 4 row, 5 rack. -/
def gatherOn (e : Nat) : Nat → State → State
  | 0, s => s
  | f + 1, s =>
    match (packOf s e).coll with
    | none => s
    | some c =>
      let me := myLogical s
      if c.kind = 0 ∧ (c.stage = 3 ∨ c.stage = 4) ∧ c.gathered me then
        let t := 4 - c.stage
        let r := c.range me (t + 1)
        gatherOn e f (enterStage e (c.stage + 1) (if c.m t ≤ 1 then [] else [{ stage := c.stage + 1, lo := r.1, len := r.2 }]) .ok s)
      else s

/-- The positions a member writes of its sums, and where in its output a position stands (R385, R391). -/
def Coll.outPlace (c : Coll) (me pos : Nat) : Option Nat :=
  if c.kind = 0 then some pos
  else
    let r := c.range me 3
    if r.1 ≤ pos ∧ pos < r.1 + r.2 then some (pos - r.1) else none

/-- Convert and write final sums (R388). -/
def writeSums (e : Nat) (c : Coll) (lo : Nat) (vs : List Nat) (s : State) : State :=
  let me := myLogical s
  let outs := (List.range vs.length).filterMap (fun i =>
    (c.outPlace me (lo + i)).map (fun o => (o, convOut c.outFmt c.sat .rne (Fmt.fp32.decode (vs.getD i 0)))))
  match outs with
  | [] => s
  | x :: _ =>
    let n := (outs.filter (fun y => y.2.2)).length
    let s := if n = 0 then s
      else logOncePhase 0x6623 e e [(2, e), (4, c.index)] (modPack e (fun k => { k with flags := satAdd 64 k.flags n }) s)
    packWrite e c c.dst c.outBytes x.1 (outs.map (fun y => y.2.1)) s

/-- The operands of one position in a stage, in index order. -/
def collOperands (c : Coll) (me t : Nat) (own : List Nat) (others : List (Nat × List (Option Nat))) (i : Nat) : List Nat :=
  (List.range (c.m t)).map (fun j =>
    if j = c.idx t me then own.getD i 0
    else match others.find? (fun x => x.1 == j) with
      | some x => (x.2.getD i none).getD 0x7FC00000
      | none => 0x7FC00000)

/-- The chunks of a stage. -/
def Coll.chunks (c : Coll) (me : Nat) : Nat := ((c.span me c.stage).2 + 2047) / 2048

/-- What follows once every chunk of a stage is summed: the next tier's stage, the gathers, or the end. -/
def afterSums (e : Nat) (s : State) : State :=
  match (packOf s e).coll with
  | none => s
  | some c =>
    let me := myLogical s
    if c.summed.length < c.chunks me then s
    else if c.stage < c.lastTier then
      let t := c.stageFrom (c.stage + 1)
      enterStage e t (c.stageSends me t) .ok s
    else if c.algo = 2 ∧ c.kind = 0 then
      let r := c.range me 3
      gatherOn e 3 (enterStage e 3 (if c.m 2 ≤ 1 then [] else [{ stage := 3, lo := r.1, len := r.2 }]) .ok s)
    else modColl e (fun c => { c with stage := 7 }) s

/-- Sum one chunk of the present stage (R396); `ecc` and `work` are what the checks of the input and of the work area find. -/
def sumChunk (e : Nat) (c : Coll) (k : Nat) (ecc work : Ecc) (s : State) : State :=
  let me := myLogical s
  let t := c.stage
  let sp := c.span me t
  let lo := sp.1 + 2048 * k
  let n := min 2048 (sp.1 + sp.2 - lo)
  let own := if c.sums.isEmpty then
      (let r := packRead e c c.src c.inBytes lo n ecc s; (r.1.map (toFp32 c.inFmt), r.2))
    else ((List.range n).map (fun i => SMap.get 0 c.sums (lo + i)), s)
  let s := own.2
  let rd := (List.range (c.m t)).foldl (fun (acc : Ecc × List (Nat × List (Option Nat)) × State) j =>
    if j = c.idx t me ∨ c.missing.contains (t, j) = true then acc
    else
      let r := packRead e c c.work 4 (c.workAt me t j lo) n acc.1 acc.2.2
      (.ok, acc.2.1 ++ [(j, r.1)], r.2)) (work, [], s)
  let s := rd.2.2
  let vs := (List.range n).map (fun i => treeSum 6 (collOperands c me t own.1 rd.2.1 i))
  let s := modPack e (fun p => { p with adds := satAdd 64 p.adds (n * (c.m t - 1)) }) s
  let s := modColl e (fun c => { c with summed := c.summed ++ [k] }) s
  if c.stage = c.lastTier then writeSums e c lo vs s
  else modColl e (fun c => { c with
    sums := (List.range n).foldl (fun acc i => SMap.set 0 acc (lo + i) (vs.getD i 0)) c.sums }) s

/-! ### Issue (R382, R383, R390) -/

/-- The digest of a collective (R394). -/
def collDigest (w2 w4 w5 g0 g1 : Word64) : Nat :=
  (crc32 (leBytes 8 w2.toNat ++ leBytes 8 (w4.toNat / 2 ^ 32 * 2 ^ 32) ++ leBytes 8 (fld w5 0 10) ++ leBytes 8 g0.toNat ++ leBytes 8 g1.toNat))

/-- The collective a descriptor gives, with its index register read. -/
def resolveColl (s : State) (e : Nat) (w : Word64) : Coll × Nat :=
  let d := fld w 8 10
  let g := hareSlot s e d
  let x := xreg s e (fld (g 6) 32 4)
  let mv := fun a => addrPlus a ((x : Int) * sext 32 (fld (g 6) 0 32))
  let gr := fld (g 5) 0 10
  let g0 := hareSlot s e gr 0
  let g1 := hareSlot s e gr 1
  let kind := fld (g 2) 48 3
  let cross := if fld (g 4) 32 16 = 0 then 256 else fld (g 4) 32 16
  let count := fld (g 2) 0 32
  let algo := if kind ≥ 2 then 0
    else if fld (g 2) 52 2 ≠ 0 then fld (g 2) 52 2
    else if count * codeBytes (fld (g 2) 32 8) < 1024 * cross then 1 else 2
  ({ issue := (seqOf s e).issued, index := (seqOf s e).pc, seq := (packOf s e).next
     digest := collDigest (g 2) (g 4) (g 5) g0 g1
     src := mv (g 0), dst := mv (g 1), work := mv (g 3), count := count
     inFmt := fld (g 2) 32 8, outFmt := fld (g 2) 40 8, kind := kind, sat := bit (g 2).toNat 51, algo := algo
     root := fld (g 4) 48 16, g0 := g0, g1 := g1, tally := fld (g 5) 16 16 }, fld (g 4) 0 32)

/-- The first packets of a collective, and for kinds 2 and 3 the issuer's own part of the output. -/
def startColl (e : Nat) (c : Coll) (ecc : Ecc) (s : State) : State :=
  let me := myLogical s
  if c.kind < 2 then
    let t := c.stageFrom 0
    enterStage e t (c.stageSends me t) ecc s
  else if c.kind = 3 ∧ c.rank me ≠ c.root then modColl e (fun c => { c with stage := 6 }) s
  else
    let r := packRead e c c.src c.inBytes 0 c.count ecc s
    let s := packWrite e c c.dst c.outBytes (if c.kind = 2 then c.rank me * c.count else 0) (r.1.map (fun v => v.getD (codeNan c.inFmt))) r.2
    enterStage e 6 (if c.members ≤ 1 then [] else [{ stage := 6, lo := 0, len := c.count }]) .ok s

/-- COLL (R382, R390, R393, R400): it issues once the previous COLL has completed. The operand carries what the check of its
first input read finds. -/
def execColl (x : Checked Nat) (s : State) : Out :=
  let e := x.it
  onIssue e [0x80] s (fun w s =>
    if (packOf s e).coll.isSome then s
    else
      let r := resolveColl s e w
      let c := r.1
      let s := nextPc e s
      let s := modPack e (fun k => { k with next := (k.next + 1) % 2 ^ 32, last := c.seq }) s
      if r.2 < c.need then
        let s := logEvent 0x6611 e [(2, e), (8, c.need)] s
        let s := modPack e (fun k => { k with workShort := true }) s
        engineError e 0x6611 (tallyError c.tally 0x6611 e s)
      else startColl e c x.ecc (modPack e (fun k => { k with coll := some c }) (issueOpen e s)))

/-- COLL_CHUNK_SUM (R396, R398): a chunk whose operands are all present is summed; on the second failure of its residue checks the unit
stops. `ecc` is what the checks of the input and of the work area find. -/
def execCollChunkSum (e k : Nat) (ecc : Ecc × Ecc) (res : Residue) (s : State) : Out :=
  match (packOf s e).coll with
  | none => .next s
  | some c =>
    let me := myLogical s
    let sp := c.span me c.stage
    let lo := sp.1 + 2048 * k
    let n := min 2048 (sp.1 + sp.2 - lo)
    let ready := decide (c.kind < 2) && decide (c.stage < 3) && decide (k < c.chunks me) && !c.summed.contains k &&
      ((List.range (c.m c.stage)).filter (fun j => j != c.idx c.stage me)).all (fun j => c.present c.stage j lo n)
    if !ready then .next s
    else if res = .held then .next (afterSums e (sumChunk e c k ecc.1 ecc.2 s))
    else
      let s := modPack e (fun p => { p with adds := satAdd 64 p.adds (n * (c.m c.stage - 1)) }) s
      if c.failed.contains k then
        let s := modPack e (fun p => { p with residueFatal := true, coll := none }) s
        let s := logEvent 0x6602 e [] s
        let s := if res = .failedTest then logEvent 0x6603 e [] s else s
        .next (epochFault 0x6602 e (decide (res = .failedTest)) (modSeq e (fun q => { q with st := .faulted, wait := none }) s))
      else
        let s := modPack e (fun p => { p with residue := satAdd 32 p.residue 1 }) s
        let s := modColl e (fun c => { c with failed := c.failed ++ [k] }) s
        .next (logOncePhase 0x6601 e e [(2, e), (4, c.seq), (4, k)] s)

/-- COLL_COMPLETE (R397): the collective post. -/
def execCollComplete (e : Nat) (s : State) : Out :=
  match (packOf s e).coll with
  | none => .next s
  | some c =>
    if c.complete (myLogical s) then
      let s := modPack e (fun k => { k with coll := none, colls := satAdd 64 k.colls 1 }) s
      .next (completeOp e c.issue (tallyAdd c.tally 1 e s))
    else .next s

/-! ### Arrival of a packet (R394, R395, R399) -/

/-- Answer a collective packet. -/
def collAnswer (ptype : Nat) (p : Packet) (code : Nat) (s : State) : State :=
  let g := match p.body with
    | .coll b => b.slotGen
    | _ => 0
  let b : MemBody := { slotGen := g, operand := BitVec.ofNat 128 code }
  routePacket { issuePacket s ptype 2 p.source p.tag (.mem b) with cls := 1 } s

/-- Write what stands for a missing sender's elements of a gather stage or of kinds 2 and 3 (R400). -/
def fillMissing (e : Nat) (c : Coll) (st i : Nat) (s : State) : State :=
  let me := myLogical s
  let r := if st = 6 then ((if c.kind = 2 then i * c.count else 0), c.count)
    else (let r := c.range me (5 - st); splitPiece r.1 r.2 (c.m (5 - st)) i)
  if st < 3 then s else gatherOn e 3 (packWrite e c c.dst c.outBytes r.1 (List.replicate r.2 (codeNan c.outFmt)) s)

/-- A mismatch at the receiver: recorded, with the error bits, and the sender's data is known to be missing (R399, R400). -/
def collMismatch (e : Nat) (p : Packet) (b : CollBody) (s : State) : State :=
  let own := match (packOf s e).coll with
    | some c => c.digest
    | none => 0
  let s := logEvent 0x6610 e [(4, b.seq), (2, b.sender), (8, b.digest), (8, own)] s
  let s := modPack e (fun k => { k with mismatch := true }) s
  let s := match (packOf s e).coll with
    | some c =>
      let st := if c.kind ≥ 2 then 6 else b.stage
      let i := if st = 6 then b.sender else c.rankIdx (if st < 3 then st else 5 - st) b.sender
      tallyError c.tally 0x6610 e (if b.seq = c.seq then
          fillMissing e c st i (modColl e (fun c => { c with missing := c.missing ++ [(st, i)] }) s) else s)
    | none => s
  collAnswer 0x12 p 0x6610 (engineError e 0x6610 s)

/-- Write a packet's data to the work area or the destination (R394). -/
def collTake (e : Nat) (c : Coll) (b : CollBody) (s : State) : State :=
  let me := myLogical s
  let eb := max 1 (c.wireBytes b.stage)
  let vs := (chunksOf eb (b.elements + 1) b.data).map leVal
  let s := modPack e (fun k => { k with recv := satAdd 64 k.recv b.data.length }) s
  if b.stage < 3 then
    let i := c.rankIdx b.stage b.sender
    let fs := if b.partialSum then vs else vs.map (fun v => toFp32 c.inFmt (some v))
    let s := packWrite e c c.work 4 (c.workAt me b.stage i b.offset) fs s
    modColl e (fun c => { c with got := c.got ++ [{ stage := b.stage, idx := i, lo := b.offset, len := b.elements }] }) s
  else if b.stage = 6 then
    let s := packWrite e c c.dst c.outBytes ((if c.kind = 2 then b.sender * c.count else 0) + b.offset) vs s
    modColl e (fun c => { c with got := c.got ++ [{ stage := 6, idx := b.sender, lo := b.offset, len := b.elements }] }) s
  else
    let s := packWrite e c c.dst c.outBytes b.offset vs s
    let s := modColl e (fun c => { c with
      got := c.got ++ [{ stage := b.stage, idx := c.rankIdx (5 - b.stage) b.sender, lo := b.offset, len := b.elements }] }) s
    gatherOn e 3 s

/-- A collective packet at its pack unit: ACK, RETRY or ERR. A packet of a summing stage this unit has not come to is answered with
RETRY (log entry 24). -/
def collServe (p : Packet) (b : CollBody) (s : State) : State :=
  let e := engId 4 b.die 0
  let k := packOf s e
  match k.coll with
  | some c =>
    if b.seq < c.seq then collMismatch e p b s
    else if c.seq < b.seq then collAnswer 0x58 p 0 s
    else if b.digest ≠ c.digest then collMismatch e p b s
    else if b.stage < 3 ∧ c.stage < b.stage then collAnswer 0x58 p 0 s
    else collAnswer 0x11 p 0 (collTake e c b s)
  | none => if b.seq < k.next then collMismatch e p b s else collAnswer 0x58 p 0 s

/-- COLL_DATA (R394, R395, R399): a relay passes on a multicast packet's copies, and a destination's pack unit takes its own. -/
def execCollData (p : Packet) (s : State) : Out :=
  let s := takeIngress p s
  match p.body with
  | .coll b =>
    let set := if p.mcast then
        (maskSet s (BitVec.ofNat 64 b.extra.toNat) (BitVec.ofNat 64 (b.extra.toNat / 2 ^ 64))).filter (fun d => d != p.source)
      else [myLogical s]
    let s := if p.mcast && decide (p.mstage < 2) then sendStage p p.mstage (multicastSet s p) s else s
    .next (if set.contains (myLogical s) then collServe p b s else s)
  | _ => .next s

/-! ### Answers to a pack unit's packets -/

/-- A packet has been answered by every destination. -/
def packAnswered (e : Nat) (s : State) : State := pumpColl e .ok 1100000 (modColl e (fun c => { c with flight := c.flight - 1 }) s)

/-- A packet refused or lost (R399, R400, R363): the error bits, and the record of a mismatch. The other end's digest is a free value. -/
def packFailed (e code : Nat) (s : State) : State :=
  match (packOf s e).coll with
  | none => engineError e code s
  | some c =>
    let s := if code = 0x6610 then
        modPack e (fun k => { k with mismatch := true })
          (logEvent 0x6610 e [(4, c.seq), (2, c.rank (myLogical s)), (8, c.digest), (8, (freeWord s).toNat % 2 ^ 32)] (useFree s))
      else s
    engineError e code (tallyError c.tally code e s)

end Sys2Proof.Machine
end

