-- ==== Sys2Proof/Machine/Staging.lean ====
section
/-! DEFINITION. Hare instructions over staging slots and candidate lists: SOPEN, SPUB, SCAN, SRES and run-ahead copies (R245 to R254, R259). -/

namespace Sys2Proof.Machine

open Sys2Proof

/-! ### Slots -/

/-- The key of a staging slot. -/
def stgKey (die n : Nat) : Nat := 1024 * die + n
/-- A staging slot. -/
def stgOf (s : State) (k : Nat) : StgSlot := SMap.get {} s.units.stg k
/-- Write a staging slot. -/
def setStg (k : Nat) (g : StgSlot) (s : State) : State :=
  { s with units := { s.units with stg := SMap.set {} s.units.stg k g } }
/-- Change a staging slot. -/
def modStg (k : Nat) (f : StgSlot → StgSlot) (s : State) : State := setStg k (f (stgOf s k)) s

/-- A staging fault (R254, R259): the slot stays as it was. -/
def stagingFault (e code slot : Nat) (s : State) : State :=
  let s := modHare e (fun h => { h with operandFault := true }) s
  let s := modStr (engDie e) (fun d => { d with stagingFault := true }) s
  engineError e code (logEvent code e [(2, e), (4, slot)] s)

/-- Zero bytes written to SP lines. -/
def zeroSp (a n : Nat) (s : State) : State := writeStore .sp a (List.replicate n 0) s

/-- Free a slot: its generation rises, so that later staged writes are dropped (R252). -/
def freeStg (k : Nat) (s : State) : State := modStg k (fun g => { ({} : StgSlot) with gen := g.gen + 1 }) s

/-- Cancel a slot (R252): its copy stops, its lines stay zero as plain lines, and it is free; a slot with staged lines counts as discarded. -/
def cancelStg (die k : Nat) (s : State) : State :=
  let g := stgOf s k
  let s := if g.staged.isEmpty then s else modStr die (fun d => { d with discards := satAdd 64 d.discards 1 }) s
  freeStg k s

/-- A run-ahead copy fails silently (R251). -/
def failRun (die k : Nat) (s : State) : State :=
  if (stgOf s k).run = .flight then
    modStr die (fun d => { d with failed := satAdd 64 d.failed 1 }) (modStg k (fun g => { g with run := .failed, data := [], staged := [] }) s)
  else s

/-- The part of a run-ahead copy that holds a byte of its order, and where that byte lies in it. -/
def partAt : List RunPart → Nat → Option (RunPart × Nat)
  | [], _ => none
  | p :: l, n => if n < p.len then some (p, n) else partAt l (n - p.len)

/-- Bytes of a run-ahead copy. -/
def runTotal (g : StgSlot) : Nat := (g.parts.map (·.len)).foldl (· + ·) 0

/-- Whether a source is one a plain copy of the hare could read (R250). -/
def runSourceOk (s : State) (e : Nat) (p : RunPart) : Bool :=
  (accessStage s e p.src p.len 1 false (sideMay (hallAddr p.src))).isNone && (downAt s p.src).isNone

/-- Stage data of a run-ahead copy at a byte of its slot. -/
def stageData (k off : Nat) (d : List Byte) (s : State) : State :=
  modStg k (fun g => { g with data := g.data.writeBytes off d, staged := g.staged ++ [(off, d.length)] }) s

/-- Send reads of a run-ahead copy whose source lies on another device. -/
def pumpRun (die n : Nat) : Nat → State → State
  | 0, s => s
  | f + 1, s =>
    let k := stgKey die n
    let g := stgOf s k
    if g.run ≠ .flight then s
    else match partAt g.parts g.sent with
      | none => s
      | some (p, o) =>
        let a := addrPlus p.src (o : Int)
        let h := hallAddr a
        if !isRemote s h then s
        else
          let len := pieceLen h.off (p.len - o)
          if !hareRoom s g.owner 0 || lineBusy s g.owner h.dev h.off len then s
          else match sendRequest g.owner (.staging k g.gen (p.off + o) len) (issuePacket s 0x00 (dataVc len) h.dev 0 (.mem { len := len, addr := a })) s with
            | none => s
            | some s =>
              pumpRun die n f (modStg k (fun g => { g with sent := g.sent + len, flight := g.flight + 1 }) s)

/-- Give a slot a run-ahead copy: it fails at once where a source is refused, in a draining domain, or absent (R251). -/
def startRun (die n : Nat) (prio : Bool) (parts : List RunPart) (s : State) : State :=
  let k := stgKey die n
  let s := modStr die (fun d => { d with copies := satAdd 64 d.copies 1 }) s
  let s := modStg k (fun g => { g with run := .flight, parts := parts, prio := prio, sent := 0, flight := 0 }) s
  if parts.all (runSourceOk s (stgOf s k).owner) then pumpRun die n 513 s else failRun die k s

/-- RD_DATA for a run-ahead copy: staged, dropped where the slot has since been freed (R252), a failure where it is poisoned (R251). -/
def runData (k gen pos : Nat) (d : List Byte) (bad : Bool) (s : State) : State :=
  let g := stgOf s k
  if g.opened = false ∨ g.gen ≠ gen then s
  else
    let s := modStg k (fun g => { g with flight := g.flight - 1 }) s
    if g.run ≠ .flight then s
    else if bad then failRun (k / 1024) k s
    else pumpRun (k / 1024) (k % 1024) 513 (stageData k pos d s)

/-- A request of a run-ahead copy refused or lost (R251). -/
def runFailed (k gen : Nat) (s : State) : State :=
  let g := stgOf s k
  if g.opened = false ∨ g.gen ≠ gen then s
  else
    let s := modStg k (fun g => { g with flight := g.flight - 1 }) s
    failRun (k / 1024) k s

/-- Read one part of a run-ahead copy here, each access counted by its HBM controller: nothing where a line is poisoned. -/
def runLocal (k : Nat) (host : List Byte) (s : State) : List RunPart → Nat → Option State
  | [], _ => some s
  | p :: l, o =>
    let h := hallAddr p.src
    if isRemote s h then runLocal k host s l (o + p.len)
    else
      let r := localRead s p.src p.len (host.drop o)
      if r.2 then none
      else runLocal k host (stageData k p.off r.1 (localSense (stgOf s k).owner (stgOf s k).prio p.src p.len .ok s)) l (o + p.len)

/-- RUNAHEAD_COPY_DONE (R251): a run-ahead copy completes, or fails silently. `ok` is false where its host read or source read failed;
`host` is what host memory returns where the source lies there. -/
def execRunaheadCopyDone (die n : Nat) (ok : Bool) (host : List Byte) (s : State) : Out :=
  let k := stgKey die n
  let g := stgOf s k
  if g.run ≠ .flight ∨ g.flight ≠ 0 then .next s
  else if !ok || g.parts.any (fun p => (downAt s p.src).isSome) then .next (failRun die k s)
  else if g.parts.any (fun p => isRemote s (hallAddr p.src)) && decide (g.sent < runTotal g) then
    .next (pumpRun die n 513 s)
  else if g.parts.any (fun p => !isRemote s (hallAddr p.src) && !localReady s p.src p.len false) then
    .next (forEach g.parts (fun p s => if isRemote s (hallAddr p.src) then s else localRecall p.src p.len false s) s)
  else match runLocal k host s g.parts 0 with
    | some s => .next (modStg k (fun g => { g with run := .done }) s)
    | none => .next (failRun die k s)

/-! ### SOPEN (R249) -/

/-- An SP field of a record list: the SEL32 or CAND32 record at an index. -/
def recordAt (s : State) (a i : Nat) : Nat := leVal (readStore s .sp (a + 4 * i) 4)

/-- The tag of a record: the block of a valid CAND32 record (bit 31) or SEL32 record (bit 24). -/
def recordTag (sel : Bool) (v : Nat) : Option Nat := if bit v (if sel then 24 else 31) then some (v % 65536) else none

/-- A read of the block map failed with an event: as an ordinary read of the hare's, or silently for a run-ahead copy (R251, R259). -/
def entryFault (e : Nat) (quiet : Bool) (code : Nat) (f : Hare → Hare) (s : State) : (Word64 × Nat) × State :=
  ((0, code), if quiet then s else modHare e f (engineError e code s))

/-- The block map's entry for a block of a context (R239), with the event of a read that failed; or the state of a hare that must wait for
it: a map on another device is read with an RD, whose answer the hare keeps until it is used. -/
def mapEntry (quiet : Bool) (e c b : Nat) (s : State) : Except State ((Word64 × Nat) × State) :=
  let a := BitVec.ofNat 64 ((ctxOf s c).fld 0x38 8 + 8 * b)
  let h := hallAddr a
  let note := fun (code : Nat) (fs : List (Nat × Nat)) => if quiet then s else logEvent code e fs s
  match checkAccess s e a 8 8 false (decide (h.space < 3)) with
  | some code => .ok (entryFault e quiet code (fun q => { q with operandFault := true }) (note code [(2, e), (8, a.toNat)]))
  | none =>
    match downAt s a with
    | some d =>
      .ok (entryFault e quiet 0x9020 (fun q => { q with domainDown := true }) (note 0x9020 [(2, e), (4, (seqOf s e).pc), (4, d)]))
    | none =>
      if isRemote s h then
        match (hareOf s e).entry with
        | some v => .ok (v, modHare e (fun q => { q with entry := none }) s)
        | none =>
          if (hareOf s e).entryWait || lineBusy s e h.dev h.off 8 || !hareRoom s e 0 then .error s
          else match sendRequest e (.mapEntry e quiet) (issuePacket s 0x00 1 h.dev 0 (.mem { len := 8, addr := a })) s with
            | none => .error s
            | some s => .error (modHare e (fun q => { q with entryWait := true }) s)
      else if !localReady s a 8 false then .error (localRecall a 8 false s)
      else
        let r := localRead s a 8 []
        let s := localSense e false a 8 .ok s
        .ok (if r.2 then entryFault e quiet 0x9011 (fun q => { q with poison := true }) s
          else ((BitVec.ofNat 64 (leVal r.1), 0), s))

/-- The answer to the read of a map entry: its value, or the event of its failure and whether it was refused. -/
def entryArrived (e : Nat) (quiet : Bool) (v : Word64) (code : Nat) (refused : Bool) (s : State) : State :=
  let s := if code = 0 ∨ quiet = true then s
    else modHare e (fun q => { q with operandFault := q.operandFault || refused }) (engineError e code s)
  modHare e (fun h => { h with entry := some (v, code), entryWait := false }) s

/-- The parts of a block: K, V, or K then V (R249). -/
def blockParts (x : Ctx) (entry : Word64) (part : Nat) : List RunPart :=
  let n := x.fld 0x48 4
  let v := addrPlus entry (sext 64 (x.fld 0x40 8))
  match part with
  | 0 => [{ src := entry, off := 0, len := n }]
  | 1 => [{ src := v, off := 0, len := n }]
  | _ => [{ src := entry, off := 0, len := n }, { src := v, off := n, len := n }]

/-- A staging or resolve descriptor's context index. -/
def descCtx (w : Word64) (x : Nat) : Nat := fld w 0 14 + x

/-- Open one slot: a staging fault where it is not free, its range is not owned, it overlaps an open slot (R254), or its fetch does not fit
in it (R249; DEDUCED, log entry 46). -/
def openStg (e : Nat) (k base bytes : Nat) (tag : Option Nat) (fetch : Option (Nat × Nat)) (s : State) : State × Bool :=
  let die := engDie e
  let need := match tag, fetch with
    | some _, some f => (if f.2 < 2 then 1 else 2) * (ctxOf s f.1).fld 0x48 4
    | _, _ => 0
  if (stgOf s k).opened then (stagingFault e 0x6501 (k % 1024) s, false)
  else if bytes < need then (stagingFault e 0x6502 (k % 1024) s, false)
  else if !inDieSp die base bytes || !holdOk s e base bytes true || stagedRange s base bytes then (stagingFault e 0x6502 (k % 1024) s, false)
  else
    (setStg k { (stgOf s k) with opened := true, owner := e, base := base, bytes := bytes, tag := tag, fetch := fetch, run := .none } (zeroSp base bytes s), true)

/-- A run-ahead copy of a slot whose map entry is zero or cannot be read fails as it is issued (R251). -/
def noRun (die k : Nat) (s : State) : State :=
  failRun die k (modStg k (fun g => { g with run := .flight, parts := [] }) (modStr die (fun d => { d with copies := satAdd 64 d.copies 1 }) s))

/-- SOPEN takes its slots in ascending order, each with its fetch; it holds while a map entry is read from another device. -/
def sopenLoop (e : Nat) (w : Word64) : Nat → State → State
  | 0, s => s
  | f + 1, s =>
    let die := engDie e
    let i := (hareOf s e).spub
    let g := hareSlot s e (fld w 10 10)
    let x := xreg s e (fld (g 7) 0 4)
    let step := (x : Int) * sext 32 (fld (g 5) 0 32)
    let list := ((fld (g 4) 0 35 : Nat) : Int) + step
    let base := ((fld (g 0) 0 35 : Nat) : Int) + step + (i : Int) * (fld (g 1) 32 32 : Nat)
    let n := fld w 20 10 + i
    let k := stgKey die n
    let c := descCtx (g 3) x
    let onward := fun (s : State) => sopenLoop e w f (modHare e (fun h => { h with spub := h.spub + 1 }) s)
    if fld w 30 10 < i then nextPc e (modHare e (fun h => { h with spub := 0 }) s)
    else if n ≥ 1024 ∨ base < 0 ∨ list < 0 ∨ base % 64 ≠ 0 then onward (stagingFault e 0x6502 n s)
    else
      let la := mkHall (myLogical s) 0 list.toNat
      let bad := checkAccess s e la (4 * (fld w 30 10 + 1)) 16 false true
      let s := match bad, i with
        | some code, 0 => modHare e (fun h => { h with operandFault := true }) (addrFault code e la s)
        | _, _ => s
      let tag := if bad.isSome then none else recordTag (bit (g 2).toNat 3) (recordAt s list.toNat i)
      let fetch := if bit (g 2).toNat 0 then some (c, fld (g 2) 1 2) else none
      let fetched := fun (entry : Word64) (s : State) =>
        let r := openStg e k base.toNat (fld (g 1) 0 32) tag fetch s
        if !r.2 || fetch.isNone || tag.isNone then r.1
        else if entry = 0 then noRun die k r.1
        else startRun die n false (blockParts (ctxOf r.1 c) entry (fld (g 2) 1 2)) r.1
      match tag with
      | none => onward (fetched 0 s)
      | some b =>
        if fetch.isSome then
          match mapEntry true e c b s with
          | .ok v => onward (fetched (if v.1.2 = 0 then v.1.1 else 0) v.2)
          | .error s => s
        else onward (fetched 0 s)

/-- SOPEN (R249). -/
def execSopen (e : Nat) (s : State) : Out := onIssue e [0x64] s (fun w s => sopenLoop e w 1026 s)

/-! ### COPY with stage = 1 (R250) -/

/-- Issue a run-ahead COPY: one row of its destination's slot for each row. -/
def issueStaged (e : Nat) (w : Word64) (s : State) : State :=
  let die := engDie e
  let c := resolveCopy s e w
  let s := nextPc e s
  let h := hallAddr c.dst
  let hit := s.units.stg.find? (fun g => g.2.opened && g.2.owner == e && decide (g.1 / 1024 = die) &&
    decide (g.2.base ≤ h.off) && decide (h.off < g.2.base + g.2.bytes))
  match hit with
  | none => stagingFault e 0x6501 0xFFFF s
  | some g =>
    let n := g.1 % 1024
    let ok := (List.range c.rows).all (fun i =>
      let o := (h.off : Int) + (i : Int) * c.dstStride - (g.2.base : Int)
      decide (0 ≤ o) && decide (o + (c.rowBytes : Int) ≤ (g.2.bytes : Int)))
    if g.2.run ≠ .none then stagingFault e 0x6501 n s
    else if !ok || isRemote s h || decide (h.space ≠ 0) then stagingFault e 0x6502 n s
    else
      startRun die n c.prio ((List.range c.rows).map (fun (i : Nat) =>
        { src := addrPlus c.src ((i : Int) * c.srcStride)
          off := ((h.off : Int) + (i : Int) * c.dstStride - (g.2.base : Int)).toNat, len := c.rowBytes })) s

/-- COPY (R199, R200): `ecc` is what the check of its first read finds. -/
def execCopy (e : Nat) (ecc : Ecc) (s : State) : Out :=
  onIssue e [0x60] s (fun w s => if bit w.toNat 9 then issueStaged e w s else issueCopy e ecc w s)

/-- GATHER (R200). -/
def execGather (e : Nat) (s : State) : Out := onIssue e [0x61] s (issueCopy e .ok)

/-- FILL (R200). -/
def execFill (e : Nat) (s : State) : Out := onIssue e [0x62] s (issueCopy e .ok)

/-! ### SPUB and SCAN (R252) -/

/-- The ordinary copy of a part that a failed run-ahead copy is performed again as. An error of any part goes to the tally, and the last
posts 1 at its completion. -/
def partCopy (e : Nat) (base : Nat) (tally : Word64) (last : Bool) (p : RunPart) (s : State) : CopyRec :=
  { issue := (seqOf s e).issued, index := (seqOf s e).pc, src := p.src, dst := mkHall (myLogical s) 0 (base + p.off)
    rowBytes := p.len, rows := 1, tally := tally, post := last, unit := 2 }

/-- Start the ordinary copies of a list of parts, the last with the post. -/
def startParts (e base : Nat) (tally : Word64) : List RunPart → State → State
  | [], s => s
  | p :: l, s => startParts e base tally l (startCopy e (partCopy e base tally l.isEmpty p s) s)

/-- Whether a slot is one a hare's SPUB, SCAN or SRES may take. -/
def stgMine (s : State) (e k : Nat) : Bool := (stgOf s k).opened && decide ((stgOf s k).owner = e)

/-- Write a slot's staged bytes as plain data. -/
def publish (g : StgSlot) (s : State) : State :=
  forEach g.staged (fun r s => writeStore .sp (g.base + r.1) (g.data.bytes r.1 r.2) s) s

/-- A selection fault, an absent map entry or a bad context (R259): both error bits and STR_FAULT.select_fault. -/
def selectFault (e code c b tally : Nat) (s : State) : State :=
  let s := modStr (engDie e) (fun d => { d with selectFault := true }) s
  let s := logEvent code e [(2, e), (4, c), (4, b)] s
  let s := if tallyOpen s tally then tallyError tally code e s else s
  engineError e code s

/-- Free a slot and perform its failed run-ahead copy again as ordinary copies of the parts given, the last with the post. -/
def redoRun (e k : Nat) (tally : Word64) (parts : List RunPart) (s : State) : State :=
  let g := stgOf s k
  startParts e g.base tally parts (freeStg k s)

/-- The end of an SPUB at a slot whose map entry is absent: the fault of R259, and the post (DEDUCED, log entry 46). -/
def spubAbsent (e k c b tally : Nat) (ta : Word64) (s : State) : State :=
  postTally e { tally := ta } 1 (selectFault e 0x6420 c b tally (freeStg k s))

/-- SPUB takes its slots in ascending order: one whose copy is in flight, whose ordinary copy is still to complete, or whose map entry is
still to arrive holds the rest. -/
def spubLoop (e : Nat) (w : Word64) : Nat → State → State
  | 0, s => s
  | f + 1, s =>
    let h := hareOf s e
    let n := fld w 20 10 + h.spub
    let k := stgKey (engDie e) n
    let tally := fld w 40 16
    let ta := mkHall (myLogical s) 3 (tally * 32)
    if fld w 30 10 < h.spub then
      if h.copies.isEmpty then nextPc e (modHare e (fun h => { h with spub := 0 }) s) else s
    else
      let onward := fun (s : State) => spubLoop e w f (modHare e (fun h => { h with spub := h.spub + 1 }) s)
      let g := stgOf s k
      if n ≥ 1024 ∨ stgMine s e k = false then onward (stagingFault e 0x6501 n s)
      else if h.copies.isEmpty = false ∨ g.run = .flight then s
      else if g.run ≠ .failed then onward (postTally e { tally := ta } 1 (freeStg k (publish g (freeStg k s))))
      else match g.tag, g.fetch with
        | some b, some (c, part) =>
          match mapEntry false e c b s with
          | .error s => s
          | .ok ((v, code), s) =>
            onward (if code ≠ 0 then freeStg k (if tallyOpen s tally then tallyError tally code e s else s)
              else if v = 0 then spubAbsent e k c b tally ta s else redoRun e k ta (blockParts (ctxOf s c) v part) s)
        | _, _ => onward (redoRun e k ta g.parts s)

/-- SPUB (R252): publish slots, with a post for each. -/
def execSpub (e : Nat) (s : State) : Out := onIssue e [0x65] s (fun w s => spubLoop e w 1026 s)

/-- SCAN (R252): cancel slots. -/
def execScan (e : Nat) (s : State) : Out :=
  onIssue e [0x67] s (fun w s =>
    nextPc e (forEach (List.range (fld w 30 10 + 1)) (fun i s =>
      let n := fld w 20 10 + i
      let k := stgKey (engDie e) n
      if n < 1024 ∧ stgMine s e k = true then cancelStg (engDie e) k s else stagingFault e 0x6501 n s) s))

/-- Every staging slot of the device is freed: at a rollback, a suspension or a plan stop (R255). -/
def freeAllStg (s : State) : State :=
  forEach ((s.units.stg.filter (fun g => g.2.opened)).map (·.1)) (fun k s => cancelStg (k / 1024) k s) s

/-! ### SRES (R245 to R247, R259) -/

/-- The candidates the SEL32 records add (R245): each is a block, or a selection fault that drops the record. -/
def selCands (sinks recent : Nat) : List Nat → List Nat → List Nat × List Nat
  | [], acc => (acc, [])
  | v :: l, acc =>
    if !bit v 24 then selCands sinks recent l acc
    else
      let b := v % 65536
      if b < sinks ∨ recent ≤ b ∨ b ∈ acc then
        let r := selCands sinks recent l acc
        (r.1, b :: r.2)
      else selCands sinks recent l (acc ++ [b])

/-- The candidate list of a context and its SEL32 records, and the blocks of the records dropped (R245). -/
def candidates (x : Ctx) (sel : List Nat) : List Nat × List Nat :=
  let nb := blocksOf x.sketched
  let sinks := min (x.fld 0x4C 2) nb
  let recent := max sinks (nb - x.fld 0x4E 2)
  let r := selCands sinks recent sel (List.range sinks)
  (r.1 ++ (List.range (nb - recent)).map (· + recent), r.2)

/-- Tokens of a block with so many positions sketched (R245). -/
def tokensOf (sketched b : Nat) : Nat :=
  let nb := blocksOf sketched
  if b + 1 < nb then 256 else sketched - 256 * (nb - 1)

/-- A CAND32 record (R246). -/
def candRecord (block tokens : Nat) (valid : Bool) : Nat :=
  block % 65536 + (tokens - 1) % 256 * 2 ^ 16 + 2 ^ 31 * b2n valid

/-- The addresses of an SRES: its descriptor with the index register applied (R246). -/
structure SresArgs where
  ctx : Nat
  sel : Int
  kCount : Nat
  kArea : Option Int
  vArea : Option Int
  stride : Nat
  table : Int
  tally : Nat
deriving DecidableEq, Repr

/-- Read the resolve descriptor (R246). -/
def sresArgs (s : State) (e : Nat) (w : Word64) : SresArgs :=
  let g := hareSlot s e (fld w 10 10)
  let x := xreg s e (fld (g 7) 0 4)
  let step := (x : Int) * sext 32 (fld (g 0) 16 32)
  let at' := fun (v : Nat) => (v : Int) + step
  { ctx := descCtx (g 0) x, sel := at' (fld (g 1) 0 35), kCount := fld (g 1) 35 8
    kArea := if bit (g 2).toNat 35 then some (at' (fld (g 2) 0 35)) else none
    vArea := if bit (g 3).toNat 35 then some (at' (fld (g 3) 0 35)) else none
    stride := fld (g 4) 0 32, table := at' (fld (g 5) 0 35), tally := fld (g 6) 0 16 }

/-- The lowest consulted slot that holds a part of a block: its key and where the part lies in it. -/
def slotWith (s : State) (e : Nat) (w : Word64) (entry : Word64) (n : Nat) (b : Nat) : Option (Nat × Nat) :=
  if !bit w.toNat 40 then none
  else
    ((List.range (fld w 30 10 + 1)).findSome? (fun i =>
      let k := stgKey (engDie e) (fld w 20 10 + i)
      let g := stgOf s k
      if stgMine s e k && decide (g.tag = some b) && decide (g.run = .done) then
        (g.parts.find? (fun p => decide (p.src = entry ∧ p.len = n))).map (fun p => (k, p.off))
      else none))

/-- Write bytes of an SRES to local SP, at an offset from a base of some alignment, checked as the hare's (R247). -/
def sresWrite (e : Nat) (base off : Int) (align : Nat) (d : List Byte) (s : State) : State :=
  match spStageAt s e base off d.length align true with
  | some g => modHare e (fun h => { h with operandFault := true }) (addrFault (stageCode g) e (spAddr off) s)
  | none => modHare e (fun h => { h with bytes := satAdd 64 h.bytes d.length }) (writeStore .sp off.toNat d s)

/-- Gather one part of a candidate: from a slot, or as an ordinary copy from the map, whose error goes to the descriptor's tally (R247,
R259). -/
def sresPart (e : Nat) (w : Word64) (tally : Nat) (src : Word64) (n b : Nat) (a : Int) (s : State) : State :=
  match slotWith s e w src n b with
  | some (k, off) =>
    let s := modStr (engDie e) (fun d => { d with hits := satAdd 64 d.hits 1 }) s
    sresWrite e a a 64 ((stgOf s k).data.bytes off n) s
  | none =>
    match spStageAt s e a a n 64 true with
    | some g =>
      let s := modHare e (fun h => { h with operandFault := true }) (addrFault (stageCode g) e (spAddr a) s)
      if tallyOpen s tally then tallyError tally (stageCode g) e s else s
    | none => startCopy e (partCopy e a.toNat (mkHall (myLogical s) 3 (tally * 32)) false { src := src, off := 0, len := n } s) s

/-- The parts of a candidate with its map entry, and whether its record is valid: an absent entry is the fault of R259, and one that could
not be read leaves its own error on the tally; either way the parts are written as zeros (the latter DEDUCED, log entry 46). -/
def sresCand (e : Nat) (w : Word64) (x : SresArgs) (j b : Nat) (entry : Word64 × Nat) (s : State) : State × Bool :=
  let c := ctxOf s x.ctx
  let n := c.fld 0x48 4
  let o : Int := ((j * x.stride : Nat) : Int)
  let each := fun (f : Int → Bool → State → State) (s : State) =>
    let s := match x.kArea with
      | some a => f (a + o) false s
      | none => s
    match x.vArea with
    | some a => f (a + o) true s
    | none => s
  let zero := each (fun a _ s => sresWrite e a a 64 (List.replicate n 0) s)
  if entry.2 ≠ 0 then (zero (if tallyOpen s x.tally then tallyError x.tally entry.2 e s else s), false)
  else if entry.1 = 0 then (zero (selectFault e 0x6420 x.ctx b x.tally s), false)
  else (each (fun a isV s => sresPart e w x.tally (if isV then addrPlus entry.1 (sext 64 (c.fld 0x40 8)) else entry.1) n b a s) s, true)

/-- Post the rest of the 256 records of an SRES: record j, then an add of 1 (R247). -/
def sresTail (e : Nat) (x : SresArgs) : Nat → Nat → State → State
  | 0, _, s => s
  | f + 1, j, s =>
    if 256 ≤ j then s
    else
      let s := sresWrite e x.table (x.table + ((4 * j : Nat) : Int)) 16 (leBytes 4 0) s
      sresTail e x f (j + 1) (postTally e { tally := mkHall (myLogical s) 3 (x.tally * 32) } 1 s)

/-- The end of an SRES: consulted slots are cancelled and the next instruction issues. -/
def sresEnd (e : Nat) (w : Word64) (s : State) : State :=
  let s := if bit w.toNat 40 then forEach (List.range (fld w 30 10 + 1)) (fun i s =>
      let k := stgKey (engDie e) (fld w 20 10 + i)
      if stgMine s e k then cancelStg (engDie e) k s else s) s else s
  nextPc e (modHare e (fun h => { h with sres := none }) s)

/-- The record and post of the candidate whose parts are performed (R247). -/
def sresRecord (e : Nat) (x : SresArgs) (j : Nat) (cands : List (Nat × Nat)) (s : State) : State :=
  match cands[j]? with
  | some (b, v) =>
    let s := sresWrite e x.table (x.table + ((4 * j : Nat) : Int)) 16 (leBytes 4 (candRecord b (tokensOf (hareOf s e).sresSketched b) (decide (v = 1)))) s
    postTally e { tally := mkHall (myLogical s) 3 (x.tally * 32) } 1 s
  | none => s

/-- An SRES takes its candidates in order: a candidate's record and post follow its parts, which may still be in progress. -/
def sresLoop (e : Nat) (w : Word64) (x : SresArgs) : Nat → State → State
  | 0, s => s
  | f + 1, s =>
    match (hareOf s e).sres with
    | none => s
    | some (j, cands) =>
      if !(hareOf s e).copies.isEmpty then s
      else
        match cands[j]? with
        | none => sresEnd e w (sresTail e x 256 j (if j = 0 then s else sresRecord e x (j - 1) cands s))
        | some (b, _) =>
          match mapEntry false e x.ctx b s with
          | .error s => s
          | .ok (entry, s) =>
            let s := if j = 0 then s else sresRecord e x (j - 1) cands s
            let r := sresCand e w x j b entry s
            sresLoop e w x f (modHare e (fun h => { h with sres := some (j + 1, cands.set j (b, b2n r.2)) }) r.1)

/-- Begin an SRES: a bad context writes 256 zero records and posts 256 (R259). Records beyond the context's select_k are dropped as stale
(DESIGN CHOICE, log entry 46). -/
def sresStart (e : Nat) (w : Word64) (s : State) : State :=
  let x := sresArgs s e w
  let c := ctxOf s x.ctx
  if c.alloc = false ∨ ctxDie x.ctx ≠ engDie e then
    sresEnd e w (sresTail e x 256 0 (selectFault e 0x6422 x.ctx 0 x.tally s))
  else
    let bad := if x.kCount = 0 then none else spStageAt s e x.sel x.sel (4 * x.kCount) 16 false
    let s := match bad with
      | some g => modHare e (fun h => { h with operandFault := true }) (addrFault (stageCode g) e (spAddr x.sel) s)
      | none => s
    let sel := if bad.isSome then [] else (List.range x.kCount).map (recordAt s x.sel.toNat)
    let r := candidates c (sel.take (c.fld 0x50 2))
    let beyond := (sel.drop (c.fld 0x50 2)).filter (fun v => bit v 24)
    let s := forEach (r.2 ++ beyond.map (· % 65536)) (fun b s => selectFault e 0x6421 x.ctx b x.tally s) s
    let s := modHare e (fun h => { h with sres := some (0, r.1.map (fun b => (b, 1))), sresSketched := c.sketched }) s
    sresLoop e w x 258 s

/-- Whether a slot an SRES consults has its copy in flight: the SRES waits for it (R254). -/
def sresWaits (s : State) (e : Nat) (w : Word64) : Bool :=
  bit w.toNat 40 && (List.range (fld w 30 10 + 1)).any (fun i =>
    let k := stgKey (engDie e) (fld w 20 10 + i)
    stgMine s e k && decide ((stgOf s k).run = .flight))

/-- SRES (R245 to R247): the candidate list of a context, its blocks gathered and its records written. It is taken up again while the
copies of a candidate are in progress. -/
def execSres (e : Nat) (s : State) : Out :=
  onIssue e [0x66] s (fun w s =>
    match (hareOf s e).sres with
    | some _ => sresLoop e w (sresArgs s e w) 258 s
    | none => if sresWaits s e w then s else sresStart e w s)

end Sys2Proof.Machine
end

