-- ==== Sys2Proof/Machine/SlotDone.lean ====
section
/-! DEFINITION. What the end of a request does at its issuer (R359, R361, R363). -/

namespace Sys2Proof.Machine

open Sys2Proof

/-- A destination of a slot has answered or is lost: the slot is free once none is left. The answer is whether it is free. -/
def slotAnswered (i d : Nat) (s : State) : State × Bool :=
  let k := slotOf s i
  let left := k.waiting.erase d
  if left.isEmpty then (closeSlot i s, true)
  else ({ s with remote := { s.remote with slots := SMap.set {} s.remote.slots i { k with waiting := left } } }, false)

/-- One destination of a request refused it (`refused`) or is dead: the error bit and what the use of the slot asks for (R361, R363). -/
def slotFail (i d code : Nat) (refused : Bool) (s : State) : State :=
  let k := slotOf s i
  let r := slotAnswered i d s
  let s := r.1
  match k.use with
  | .fox core issue =>
    let s := modFox core (fun c => { c with operandFault := c.operandFault || refused }) (engineError core code s)
    completeOp core issue s
  | .foxWait core =>
    let s := modFox core (fun c => { c with operandFault := c.operandFault || refused }) (engineError core code s)
    foxResume core (some (badBytes 16)) s
  | .hare e issue pos _ => if r.2 then hareFailed e issue pos code refused s else hareFailedPart e issue code refused s
  | .staging key gen _ _ => runFailed key gen s
  | .mapEntry e quiet => entryArrived e quiet 0 code refused s
  | .pack e => if r.2 then packAnswered e (packFailed e code s) else packFailed e code s
  | .l1 core key => l1Failed core key code refused s
  | .stream c => streamFailed c s
  | .firmware _ => xferFailed code k.packet s
  | .post =>
    let s := if engClass k.engine = 2 then modFox k.engine (fun c => { c with operandFault := c.operandFault || refused }) s else s
    engineError k.engine code s

/-- The generation a packet carries for its request slot (R364). -/
def packetGen (p : Packet) : Nat :=
  match p.body with
  | .mem m => m.slotGen
  | .coll c => c.slotGen
  | .msg _ => 0

/-- Whether a request is a run-ahead copy's, whose failure leaves no record (R251). -/
def SlotUse.quiet : SlotUse → Bool
  | .staging .. => true
  | .mapEntry _ q => q
  | _ => false

/-- Complete one destination of a slot as a dead target (R363); a run-ahead copy's fails silently (R251). -/
def slotDead (i d cause : Nat) (s : State) : State :=
  let k := slotOf s i
  if k.use.quiet then slotFail i d 0x9030 false s
  else slotFail i d 0x9030 false (noteDead k.engine k.packet.ptype d cause (if isOrdered k.packet.ptype then 1 else 0) s)

/-- A packet completed as lost at this device (R306, R347, R363): if it is this device's own request, its slot completes as a dead target. -/
def deadPacket (p : Packet) (d cause : Nat) (s : State) : State :=
  let k := slotOf s p.tag
  if p.source = myLogical s ∧ p.vc ≠ 3 ∧ k.busy = true ∧ k.gen = packetGen p ∧ d ∈ k.waiting then slotDead p.tag d cause s
  else s

/-- An error response of the fabric to a request, with its code and the destination that was not reached (R347, R356, R359). -/
def errReply (p : Packet) (code : Nat) (s : State) : State :=
  let dev := if p.phys then (SMap.get {} (roster s) p.dest).logical else p.dest
  let b : MemBody := { slotGen := packetGen p, operand := BitVec.ofNat 128 code, addr := mkHall dev 0 0 }
  routePacket { issuePacket s 0x12 2 p.source p.tag (.mem b) with phys := p.phys, answers := p.ptype } s

/-- A packet dropped in the fabric or at a closed lane: its issuer learns it, unless it is itself a response or urgent (R347, R348, R306). -/
def dropPacket (p : Packet) (code cause : Nat) (s : State) : State :=
  if p.vc = 3 ∨ p.cls = 1 then s
  else if p.source = myLogical s then deadPacket p p.dest cause s
  else errReply p code s

end Sys2Proof.Machine
end

