-- ==== Sys2Proof/Machine/Answers.lean ====
section
/-! DEFINITION. Responses at the issuer, the slot timer, and requests sent again (R355, R359, R361 to R364, R372, R395). -/

namespace Sys2Proof.Machine

open Sys2Proof

/-- Whether a response answers the request its slot now holds (R364). -/
def freshAnswer (s : State) (p : Packet) : Bool :=
  let k := slotOf s p.tag
  k.busy && decide (k.gen = packetGen p)

/-- A response that is late is discarded and counted (R364). -/
def lateAnswer (s : State) : State := { s with remote := { s.remote with late := satAdd 64 s.remote.late 1 } }

/-- The bytes of a 64-bit value in data. -/
def dataWord (d : List Byte) : Word64 := BitVec.ofNat 64 (leVal (d.take 8))

/-- The event code of a poisoned response to a packet (R557). -/
def poisonCode (p : Packet) : Nat := spaceFatal (hallAddr (memOf p).addr).space

/-- The answer a fox core receives: data, or 0xBAD0 with the error bit where it is poisoned (R557). -/
def foxAnswer (core code : Nat) (d : List Byte) (poison : Bool) (s : State) : State :=
  if poison then
    foxResume core (some (badBytes 16)) (modFox core (fun c => { c with operandFault := true }) (engineError core code s))
  else foxResume core (some d) s

/-- RD_DATA for the slot it answers. -/
def takeData (p : Packet) (s : State) : State :=
  let m := memOf p
  let k := slotOf s p.tag
  let s := (slotAnswered p.tag p.source s).1
  match k.use with
  | .foxWait core => foxAnswer core (poisonCode k.packet) m.data m.poison s
  | .hare e issue pos _ => hareData e issue pos m.data m.poison s
  | .staging key gen pos _ => runData key gen pos m.data m.poison s
  | .mapEntry e quiet => entryArrived e quiet (dataWord m.data) (if m.poison then poisonCode k.packet else 0) false s
  | .firmware _ => fetchedLine k.packet m.data m.poison s
  | _ => s

/-- RD_DATA (R359). A copy's data stays at the ingress while a cache holds a line of its destination. -/
def execRdData (p : Packet) (s : State) : Out :=
  if !freshAnswer s p then .next (lateAnswer (takeIngress p s))
  else match (slotOf s p.tag).use with
    | .hare e issue pos n =>
      if hareCanTake s e issue pos n then .next (takeData p (takeIngress p s))
      else match copyOf s e issue with
        | some c => .next (localRecall (c.dstAt pos) n true s)
        | none => .next (takeData p (takeIngress p s))
    | _ => .next (takeData p (takeIngress p s))

/-- ACK for the slot it answers. With err, a flagged store followed a lost ordered packet (R343): the error bit of its issuer, whose
code the spec leaves open, is set. -/
def takeAck (p : Packet) (s : State) : State :=
  let m := memOf p
  let k := slotOf s p.tag
  let r := slotAnswered p.tag p.source s
  let s := if m.err then engineError k.engine ((freeWord r.1).toNat % 65536) (useFree r.1) else r.1
  match k.use with
  | .fox core issue => completeOp core issue s
  | .foxWait core => foxAnswer core (poisonCode k.packet) (leBytes 16 m.operand.toNat) m.poison s
  | .hare e issue _ _ => if r.2 then hareAck e issue s else s
  | .pack e => if r.2 then packAnswered e s else s
  | .stream c => streamAnswered c s
  | .firmware n => xferAcked n k.packet s
  | _ => s

/-- ACK (R359). -/
def execAck (p : Packet) (s : State) : Out :=
  let s := takeIngress p s
  if freshAnswer s p then .next (takeAck p s) else .next (lateAnswer s)

/-- The codes of an ERR that the fabric sent: the request is a dead target (R347, R362). -/
def fabricCode (c : Nat) : Bool := decide (c = 0x8031 ∨ c = 0x8032 ∨ c = 0x7204)

/-- ERR for the slot it answers (R361, R363). A mismatch of collectives is recorded as such (R399). -/
def takeErr (p : Packet) (s : State) : State :=
  let code := (memOf p).operand.toNat % 65536
  let k := slotOf s p.tag
  if fabricCode code then slotDead p.tag (hallAddr (memOf p).addr).dev (if code = 0x7204 then 2 else 1) s
  else
    let s := { s with remote := { s.remote with errors := satAdd 64 s.remote.errors 1 } }
    match k.use with
    | .pack _ => slotFail p.tag p.source code true s
    | _ =>
      let s := logOncePhase 0x9032 k.engine k.engine [(2, k.engine), (2, p.source), (2, k.packet.ptype), (2, code)] s
      slotFail p.tag p.source 0x9032 true s

/-- ERR (R361). The home of an L1's line may be this device, whose answers use no slot. -/
def execErr (p : Packet) (s : State) : Out :=
  let s := takeIngress p s
  let m := memOf p
  if p.tag = 0xFFFF then .next (l1Failed m.core (grantKey s p) (m.operand.toNat % 65536) true s)
  else if freshAnswer s p then .next (takeErr p s) else .next (lateAnswer s)

/-- REQUEST_SLOT_TIMEOUT (R362): 80 us without a response. -/
def execRequestSlotTimeout (i : Nat) (s : State) : Out :=
  let k := slotOf s i
  if k.busy then .next (forEach k.waiting (fun d s => slotDead i d 0 s) s) else .next s

/-- RETRY (R372, R395): the request was not taken and keeps its slot. -/
def execRetry (p : Packet) (s : State) : Out :=
  let s := takeIngress p s
  let m := memOf p
  if p.tag = 0xFFFF then .next (modL1 m.core (grantKey s p) (fun l => { l with retry := true }) s)
  else if !freshAnswer s p then .next (lateAnswer s)
  else
    let k := slotOf s p.tag
    let s := match k.use with
      | .pack e => modPack e (fun q => { q with retries := satAdd 64 q.retries 1 }) s
      | _ => s
    .next { s with remote := { s.remote with slots := SMap.set {} s.remote.slots p.tag { k with retry := k.retry ++ [p.source] } } }

/-- The packet type of a waiting L1 line's request. -/
def l1Request (l : L1Line) : Nat :=
  match l.state with
  | .isD | .isDI => 0x40
  | .imD => 0x41
  | .smG => 0x42
  | .miA => 0x43
  | _ => 0x44

/-- RETRY_RESEND (R372, R395): 1 us after RETRY the request is sent again, to the destinations that asked for it. Slot 0xFFFF stands
for the request of an L1 whose home is this device, named by its core and line. -/
def execRetryResend (i core key : Nat) (s : State) : Out :=
  if i = 0xFFFF then
    let l := l1Of s core key
    if l.retry then
      .next (sendCoh (l1Request l) (keyHome key) (keyHome key) (keyLine key) core 0xFFFF 0 false l.poison []
        (modL1 core key (fun l => { l with retry := false }) s))
    else .next s
  else
    let k := slotOf s i
    let s' := { s with remote := { s.remote with slots := SMap.set {} s.remote.slots i { k with retry := [] } } }
    if k.busy then
      .next (forEach k.retry (fun d s => routePacket { k.packet with dest := d, phys := false, mcast := false, hops := 0 } s) s')
    else .next s

end Sys2Proof.Machine
end

