-- ==== Sys2Proof/Machine/Bear.lean ====
section
/-! DEFINITION. Bears: operands in scratchpad, MMA and OMMA, compatibility mode and current keeping (R81 to R119, R162). -/

namespace Sys2Proof.Machine

open Sys2Proof

/-- A bear. -/
def bearOf (s : State) (e : Nat) : Bear := SMap.get {} s.units.bear e
/-- Change a bear. -/
def modBear (e : Nat) (f : Bear → Bear) (s : State) : State :=
  { s with units := { s.units with bear := SMap.modify {} s.units.bear e f } }
/-- A badger. -/
def badgerOf (s : State) (e : Nat) : Badger := SMap.get {} s.units.badger e
/-- Change a badger. -/
def modBadger (e : Nat) (f : Badger → Badger) (s : State) : State :=
  { s with units := { s.units with badger := SMap.modify {} s.units.badger e f } }

/-! ### Operands in scratchpad (R82, R88, R89) -/

/-- The first refused access among several: the lowest stage of R560, and in it the first access. -/
def firstRefused (l : List (Int × Option Nat)) : Option (Nat × Int) :=
  l.foldl (fun acc x => match x.2, acc with
    | some n, some b => if n < b.1 then some (n, x.1) else acc
    | some n, none => some (n, x.1)
    | none, _ => acc) none

/-- The operand-fault bit of a bear or badger. -/
def unitFault (e : Nat) (s : State) : State :=
  if engClass e = 0 then modBear e (fun b => { b with operandFault := true }) s
  else modBadger e (fun b => { b with operandFault := true }) s

/-- What an instruction's refused accesses do (R111, R135, R165): one record for the first, the error bit, and the fault bit. -/
def operandFault (e : Nat) (bad : Option (Nat × Int)) (s : State) : State :=
  match bad with
  | some x => unitFault e (addrFault (stageCode x.1) e (spAddr x.2) s)
  | none => s

/-- What a poisoned operand does (R557): as an operand fault, without the record. -/
def operandPoison (e : Nat) (bad : Bool) (s : State) : State :=
  if bad then unitFault e (engineError e 0x9011 s) else s

/-- Word `i` of a slot or descriptor of a program's PARAM words (R89, R140). -/
def descWord (s : State) (e d i : Nat) : Word64 := paramAt s e (4 * d + i)

/-- The effective base of a descriptor (R89). -/
def descBase (s : State) (e d : Nat) : Int :=
  effective (fld (descWord s e d 0) 0 35) (xreg s e (fld (descWord s e d 3) 56 4)) (sext 32 (fld (descWord s e d 3) 0 32))

/-- The effective scale base, or flag base, of a descriptor (R89, R121). -/
def descScale (s : State) (e d : Nat) : Int :=
  effective (fld (descWord s e d 2) 0 35) (xreg s e (fld (descWord s e d 3) 56 4)) (sext 24 (fld (descWord s e d 3) 32 24))

/-- A descriptor's row stride and format. -/
def descStride (s : State) (e d : Nat) : Nat := fld (descWord s e d 1) 0 32
/-- A descriptor's format code. -/
def descFmt (s : State) (e d : Nat) : Nat := fld (descWord s e d 1) 32 8

/-- Bytes of a packed row (R88). -/
def rowLen (code n : Nat) : Nat := if codeBits code = 6 then 3 * ((n + 3) / 4) else (n * codeBits code + 7) / 8

/-- The element patterns of a packed row (R88). -/
def unpack (code n : Nat) (l : List Byte) : List Nat :=
  let v := leVal l
  (List.range n).map (fun i => bits v (i * codeBits code) (codeBits code))

/-- The rows of an operand: an effective base, a stride, how many, and the length of each. -/
structure Rows where
  base : Int
  stride : Nat
  count : Nat
  len : Nat
deriving DecidableEq, Repr

/-- The offset of a row. -/
def Rows.at (r : Rows) (i : Nat) : Int := r.base + ((i * r.stride : Nat) : Int)

/-- The accesses to the rows of an operand, with the check each fails; `align` where the base must be a multiple of 16. -/
def Rows.checks (s : State) (e : Nat) (r : Rows) (align : Bool) : List (Int × Option Nat) :=
  (if align && decide (r.base % 16 ≠ 0) then [(r.base, some 4)] else []) ++
  (List.range r.count).map (fun i => (r.at i, spStage s e (r.at i) r.len false))

/-- Whether a row touches a poisoned line. -/
def Rows.poison (s : State) (r : Rows) : Bool :=
  (List.range r.count).any (fun i => decide (0 ≤ r.at i) && poisoned s .sp (r.at i).toNat r.len)

/-- The bytes of a row. -/
def Rows.bytes (s : State) (r : Rows) (i : Nat) : List Byte := readStore s .sp (r.at i).toNat r.len

/-- Rows turned into columns, for `n` columns. -/
def columns (n : Nat) (rows : List (List Nat)) : List (List Nat) := (List.range n).map (fun j => rows.map (fun r => r.getD j 0))

/-! ### Products and sums (R86, R87, R118, R119) -/

/-- The sum of one block's products, scaled where the operands are microscaled (R118). -/
def blockSum (fa fb : Nat) (scale : Option (Nat × Nat)) (ps : List (Nat × Nat)) : Nat :=
  let q := ps.foldl (fun q p => rnd48 (Num.add (Fmt.fa48.decode q) (Num.mul (codeValue fa p.1) (codeValue fb p.2)))) 0
  match scale with
  | none => q
  | some (x, y) => if x = 255 ∨ y = 255 then Fmt.fa48.nan else rnd48 (Num.scale (Fmt.fa48.decode q) ((x : Int) + y - 254))

/-- The blocks of a column sum with their scales (R86): one without scales where the formats have none. -/
def blockSums (fa fb : Nat) (mx : Bool) (ps : List (Nat × Nat)) (sa sb : List Nat) : List Nat :=
  if mx then
    (List.range ((ps.length + 31) / 32)).map (fun b =>
      blockSum fa fb (some (sa.getD b 255, sb.getD b 255)) ((ps.drop (32 * b)).take 32))
  else [blockSum fa fb none ps]

/-- The column sum of a float MMA (R118). -/
def colFloat (fa fb : Nat) (mx : Bool) (a b sa sb : List Nat) : Nat :=
  (blockSums fa fb mx (List.zip a b) sa sb).foldl fa48Add 0

/-- The column sum of an integer MMA: exact (R119). -/
def colInt (fa fb : Nat) (a b : List Nat) : Int :=
  (List.zip a b).foldl (fun z p => z + sext (codeBits fa) p.1 * sext (codeBits fb) p.2) 0

/-- Integer infinity (R119). -/
def infInt : Nat := 0x800000000000

/-- A 48-bit integer element of a value: integer infinity outside the range (R119). -/
def elemInt (z : Int) : Nat := if (2 ^ 47 - 1 : Int) < z ∨ z < -(2 ^ 47 - 1 : Int) then infInt else ofInt 48 z

/-- Add an exact value into an integer element (R119). -/
def addInt (x : Nat) (z : Int) : Nat := if x = infInt then infInt else elemInt (sext 48 x + z)

/-- One FP32 or INT32 accumulation of a cub (R104): after each product, in ascending k. -/
def cubSum (f : Nat) (start : Nat) (ps : List (Nat × Nat)) : Nat :=
  if codeIsInt f then
    ps.foldl (fun q p =>
      ofInt 32 (max (-(2 ^ 31 : Int)) (min (2 ^ 31 - 1 : Int) (sext 32 q + sext 8 p.1 * sext 8 p.2)))) start
  else
    ps.foldl (fun q p => Fmt.fp32.rne (Num.add (Fmt.fp32.decode q) (Num.mul (codeValue f p.1) (codeValue f p.2)))) start

/-! ### Accumulators (R114, R115) -/

/-- The key of an accumulator element. -/
def accKey (bank row col : Nat) : Nat := 65536 * bank + row * 128 + col
/-- An accumulator element. -/
def accAt (b : Bear) (bank row col : Nat) : Nat := SMap.get 0 b.acc (accKey bank row col)
/-- Write an accumulator element. -/
def setAcc (bank row col v : Nat) (b : Bear) : Bear := { b with acc := SMap.set 0 b.acc (accKey bank row col) (v % 2 ^ 48) }

/-- Clear both banks of every bear (R115). -/
def clearBanks (s : State) : State :=
  { s with units := { s.units with bear := SMap.mapVals {} s.units.bear (fun _ b => { b with acc := [] }) } }

/-- The rows of a bank that an instruction in the array writes, as first row and count; an OMMA's are cub rows. -/
def MmaOp.rows (o : MmaOp) : Nat × Nat :=
  if fld o.word 0 8 = 0x10 then (fld o.word 55 9, fld o.word 32 9 + 1) else (fld o.word 55 7, fld o.word 48 7 + 1)

/-- The bank of an instruction in the array. -/
def MmaOp.bank (o : MmaOp) : Nat := if fld o.word 0 8 = 0x10 then fld o.word 8 1 else fld o.word 13 1

/-- Whether an MMA or OMMA that has not completed touches rows of a bank (R94, R130). -/
def rowsBusy (b : Bear) (bank first count : Nat) : Bool :=
  b.mmas.any (fun o => decide (o.bank = bank) && overlaps o.rows (first, count))

/-! ### Accumulator errors (R136, R137) -/

/-- What a check of an accumulator row finds: a correction, or an error that stops the bear. -/
def accNote (e bank row : Nat) (x : Ecc) (s : State) : State :=
  match x with
  | .ok => s
  | .corrected k =>
    logOncePhase 0x6120 e e [(2, e), (4, bank), (4, row + k)] (modBear e (fun b => { b with accCorr := satAdd 32 b.accCorr 1 }) s)
  | .uncorrectable k =>
    engineFatal 0x6121 e [(4, bank), (4, row + k)] (modBear e (fun b => { b with accFatal := true, mmas := [], drains := [] }) s)

/-- Whether an engine still runs, after an error check that may have stopped it. -/
def runs (s : State) (e : Nat) : Bool := decide ((seqOf s e).st = .running)

/-- ACC_SCRUB (R135): a row of a bank that no MMA fills is read and checked. -/
def execAccScrub (e bank row : Nat) (x : Ecc) (s : State) : Out :=
  if engClass e = 0 ∧ engValid e = true ∧ bank < 2 ∧ row < 512 ∧ (bearOf s e).mmas.all (fun o => o.bank != bank) = true then
    .next (accNote e bank row x s)
  else .next s

/-! ### MMA (R81, R92, R93, R111) -/

/-- The operand rows of a native MMA: A, B, and their scales where the formats are microscaled (R88). -/
def mmaRows (s : State) (e : Nat) (w : Word64) : List (Rows × Bool) :=
  let da := fld w 12 10
  let db := fld w 22 10
  let m := fld w 32 9 + 1
  let k := fld w 41 7 + 1
  let n := fld w 48 7 + 1
  let nb := (k + 31) / 32
  let main := [({ base := descBase s e da, stride := descStride s e da, count := m, len := rowLen (descFmt s e da) k }, true),
    ({ base := descBase s e db, stride := descStride s e db, count := k, len := rowLen (descFmt s e db) n }, true)]
  if codeIsMx (descFmt s e da) then
    main ++ [({ base := descScale s e da, stride := fld (descWord s e da 2) 48 16, count := m, len := nb }, false),
      ({ base := descScale s e db, stride := fld (descWord s e db 2) 48 16, count := nb, len := n }, false)]
  else main

/-- The patterns of a native MMA's operands. -/
def mmaTile (s : State) (e : Nat) (w : Word64) (rs : List (Rows × Bool)) : MmaTile :=
  let k := fld w 41 7 + 1
  let n := fld w 48 7 + 1
  let rowsOf := fun (i : Nat) (code len : Nat) => match rs[i]? with
    | some r => (List.range r.1.count).map (fun j => unpack code len (r.1.bytes s j))
    | none => []
  { a := rowsOf 0 (descFmt s e (fld w 12 10)) k
    b := columns n (rowsOf 1 (descFmt s e (fld w 22 10)) n)
    sa := rowsOf 2 0x20 ((k + 31) / 32)
    sb := columns n (rowsOf 3 0x20 n) }

/-- MMA (R81, R92, R93): it issues once the previous one has swapped, reads its operands, and fills the shadow. `ecc` is what the check
of its SP lines found, `acc` the check of its accumulator rows. -/
def execMma (e : Nat) (ecc acc : Ecc) (s : State) : Out :=
  onIssue e [0x10] s (fun w s =>
    if (bearOf s e).mmas.any (fun o => !o.swapped) then s
    else
      let s := eccNote .sp (descBase s e (fld w 12 10)).toNat e ecc s
      let s := accNote e (fld w 8 1) (fld w 55 9) acc s
      if runs s e then
        let rs := mmaRows s e w
        let bad := firstRefused (rs.flatMap (fun r => r.1.checks s e r.2))
        let psn := bad.isNone && rs.any (fun r => r.1.poison s)
        let o : MmaOp := {
          issue := (seqOf s e).issued, index := (seqOf s e).pc, word := w, fault := bad.isSome || psn
          fmtA := descFmt s e (fld w 12 10), fmtB := descFmt s e (fld w 22 10)
          tiles := if bad.isSome || psn then [] else [mmaTile s e w rs] }
        let s := operandPoison e psn (operandFault e bad s)
        issueOpen e (nextPc e (modBear e (fun b => { b with mmas := b.mmas ++ [o] }) s))
      else s)

/-! ### Compatibility mode (R99 to R104) -/

/-- The format code of an OMMA's fmt field (R101). -/
def ommaFmt (w : Word64) : Nat :=
  match fld w 8 4 with
  | 0 => 0x01 | 1 => 0x02 | 2 => 0x10 | _ => 0x20

/-- The size of a cub. -/
def Bear.cub (b : Bear) : Nat := if b.cub16 then 16 else 32

/-- The bank row and column at which cub `q` begins (R103). -/
def cubAt (b : Bear) (q : Nat) : Nat × Nat := if b.cub16 then (64 * (q / 8), 16 * (q % 8)) else (128 * (q / 4), 32 * (q % 4))

/-- One packed row of an instance's operand: a refused or poisoned row reads as the error value of R36. -/
def cubRow (s : State) (e code c : Nat) (off : Int) : List Nat :=
  let n := rowLen code c
  if (spStage s e off n false).isSome || poisoned s .sp off.toNat n then
    unpack code c ((List.replicate (n / 8 + 1) (leBytes 8 bad0.toNat)).flatten)
  else unpack code c (readStore s .sp off.toNat n)

/-- The row offsets of one operand of every instance. -/
def cubRows (b : Bear) (w : Word64) (isA : Bool) : List (List Int) :=
  let c := b.cub
  let n := rowLen (ommaFmt w) c
  let base := b.window + 64 * (if isA then fld w 16 16 else fld w 32 16)
  let count := if isA then fld w 48 7 + 1 else c
  (List.range b.instances).map (fun q =>
    (List.range count).map (fun i => ((base + q * (if isA then b.aStride else b.bStride) + i * n : Nat) : Int)))

/-- The issue of an OMMA (R101, R103): each instance reads its operands. -/
def issueOmma (e : Nat) (ecc acc : Ecc) (w : Word64) (s : State) : State :=
  let b := bearOf s e
  if b.mmas.any (fun o => !o.swapped) then s
  else
    let s := eccNote .sp (b.window + 64 * fld w 16 16) e ecc s
    let s := accNote e (fld w 13 1) (fld w 55 7) acc s
    if runs s e then
      let f := ommaFmt w
      let ra := cubRows b w true
      let rb := cubRows b w false
      let n := rowLen f b.cub
      let all := ra.flatten ++ rb.flatten
      let bad := firstRefused (all.map (fun o => (o, spStage s e o n false)))
      let psn := all.any (fun o => (spStage s e o n false).isNone && poisoned s .sp o.toNat n)
      let o : MmaOp := {
        issue := (seqOf s e).issued, index := (seqOf s e).pc, word := w, fmtA := f, fmtB := f
        tiles := (List.zip ra rb).map (fun r =>
          { a := r.1.map (cubRow s e f b.cub), b := columns b.cub (r.2.map (cubRow s e f b.cub)) }) }
      let s := operandPoison e psn (operandFault e bad s)
      issueOpen e (nextPc e (modBear e (fun b => { b with mmas := b.mmas ++ [o] }) s))
    else s

/-- OMMA32 (R101): with 32 × 32 cubs. -/
def execOmma32 (e : Nat) (ecc acc : Ecc) (s : State) : Out := onIssue e [0x40] s (issueOmma e ecc acc)

/-- OMMA16 (R101): with 16 × 16 cubs. -/
def execOmma16 (e : Nat) (ecc acc : Ecc) (s : State) : Out := onIssue e [0x41] s (issueOmma e ecc acc)

/-- Whether every earlier instruction of an engine has completed. -/
def allDone (s : State) (e : Nat) : Bool := (seqOf s e).opens.isEmpty && (seqOf s e).signals.isEmpty

/-- CMODE (R99, R100): once every earlier instruction has completed, both banks are cleared and the mode is set. -/
def execCmode (e : Nat) (s : State) : Out :=
  onIssue e [0x31] s (fun w s =>
    if allDone s e then
      let d := fld w 22 10
      let enter := bit w.toNat 9
      nextPc e (modBear e (fun b => { b with
        acc := []
        compat := enter
        cub16 := enter && bit w.toNat 8
        instances := fld w 16 6 + 1
        window := if enter then fld (descWord s e d 0) 0 35 else 0
        aStride := if enter then fld (descWord s e d 1) 0 32 else 0
        bStride := if enter then fld (descWord s e d 2) 0 32 else 0
        cStride := if enter then fld (descWord s e d 3) 0 32 else 0 }) s)
    else s)

/-! ### Current keeping (R106 to R108, R162) -/

/-- The current keeping of a bear or badger. -/
def keepOf (s : State) (e : Nat) : KeepSt := if engClass e = 0 then (bearOf s e).keep else (badgerOf s e).keep

/-- Change the current keeping of a bear or badger. -/
def modKeep (e : Nat) (f : KeepSt → KeepSt) (s : State) : State :=
  if engClass e = 0 then modBear e (fun b => { b with keep := f b.keep }) s
  else modBadger e (fun b => { b with keep := f b.keep }) s

/-- One shift of the register of R106, whose polynomial is x^32 + x^22 + x^2 + x + 1: the lowest bit leaves it. -/
def lfsrShift (r : Nat) : Nat := if r % 2 = 1 then (r / 2) ^^^ 0x80200003 else r / 2

/-- A number of shifts. -/
def lfsrRun : Nat → Nat → Nat
  | 0, r => r
  | n + 1, r => lfsrRun n (lfsrShift r)

/-- The next bits the register gives, lowest first. -/
def lfsrBits : Nat → Nat → List Bool
  | 0, _ => []
  | n + 1, r => bit r 0 :: lfsrBits n (lfsrShift r)

/-- The shifts one dummy row takes, a bit each for 128 bytes, and one dummy group, three FP32 operands for 512 lanes. R106 gives the register
and its polynomial and not how a row takes its bytes from it (DESIGN CHOICE, log entry 15). -/
def rowShifts (e : Nat) : Nat := if engClass e = 0 then 1024 else 3 * 512 * 32

/-- The pseudo-random bytes of the next dummy row of a bear (R106), as bits. -/
def dummyRow (b : Bear) : List Bool := lfsrBits 1024 (lfsrRun b.shifts b.lfsr)

/-- The active tile of a bear that nothing has filled since the plan's start (R106): 128 pseudo-random rows, as bits. -/
def randomTile (b : Bear) : Option (List Bool) := if b.filled then none else some (lfsrBits (128 * 1024) b.lfsr)

/-- Count dummy rows or groups, and advance the register behind them. -/
def countDummies (e n : Nat) (s : State) : State :=
  if engClass e = 0 then modBear e (fun b => { b with keepRows := satAdd 64 b.keepRows n, shifts := b.shifts + n * rowShifts e }) s
  else modBadger e (fun b => { b with keepSteps := satAdd 64 b.keepSteps n, shifts := b.shifts + n * rowShifts e }) s

/-- The power class of the phase in force (R56). -/
def powerClass (s : State) : PowerClass :=
  match s.run.plan with
  | some p => p.powers.getD (phaseOf s s.run.phase).powerClass {}
  | none => {}

/-- Whether an engine's class of unit is switched off on its die (R108). -/
def keepForced (s : State) (e : Nat) : Bool :=
  if engClass e = 0 then s.units.meOff.contains (engDie e) else s.units.veOff.contains (engDie e)

/-- Whether dummies may enter: keep_enable, a plan in RUN, and no administrative disable (R107, R108). The ramp down at the end of a binding
goes on between phases. -/
def keepOn (s : State) (e : Nat) : Bool :=
  (powerClass s).keepEnable && decide (s.run.st = .run) && !keepForced s e

/-- Whether an engine ID names a bear or a badger. -/
def keeps (e : Nat) : Bool := engValid e && decide (engClass e ≤ 1)

/-- Real work restores the density to 8/8 at once (R107), after `dummy` dummies of the gap before it. -/
def keepReal (e dummy : Nat) (s : State) : State :=
  if keepOn s e then modKeep e (fun _ => { density := 8 }) (countDummies e dummy s) else s

/-- The dummies of a gap that ends by something other than real work (R107): how many free steps it had is a matter of time, so their number
is a free value (log entry 15). -/
def countGap (e : Nat) (s : State) : State :=
  if (keepOf s e).density ≠ 0 ∧ keepOn s e = true then countDummies e ((freeWord s).toNat % 2 ^ 32) (useFree s) else s

/-- The rows of an operation in the array may go on entering after a change of the density, and the first of them restores it to 8/8 and
ends KEEP's hold (R107). Whether one does is a matter of time, and so free (log entry 15). -/
def rowEnters (e : Nat) (s : State) : State :=
  if keepOf s e ≠ { density := 8 } ∧ keepOn s e = true ∧ engClass e = 0 ∧ (bearOf s e).mmas.any (·.swapped) = true then
    let s' := useFree s
    if bit (freeWord s).toNat 0 then modKeep e (fun _ => { density := 8 }) s' else s'
  else s

/-- KEEP (R91, R107): ramp up and hold, or ramp down now. -/
def execKeep (e : Nat) (s : State) : Out :=
  onIssue e [0x0C] s (fun w s =>
    nextPc e (if keepOn s e then
      rowEnters e (modKeep e (fun k => if bit w.toNat 8 then { k with ramp := if k.density = 8 then .none else .up, hold := true }
        else { k with ramp := if k.density = 0 then .none else .down, hold := false }) (countGap e s))
    else s))

/-- KEEP_RAMP_TICK (R107): 512 steps of a ramp have passed, with dummies at the density they found. -/
def execKeepRampTick (e : Nat) (s : State) : Out :=
  let k := keepOf s e
  if !keeps e || decide (k.ramp = .none) || !keepOn s e then .next s
  else
    let d := if k.ramp = .up then k.density + 1 else k.density - 1
    let done := (decide (k.ramp = .up) && decide (8 ≤ d)) || (decide (k.ramp = .down) && decide (d = 0))
    .next (rowEnters e (modKeep e (fun k => { k with density := d, ramp := if done then .none else k.ramp })
      (countDummies e (64 * k.density) s)))

/-- The gap threshold in steps (R107). -/
def keepGap (c : PowerClass) : Nat := c.keepGap * c.stepRate / 1000

/-- KEEP_GAP_EXPIRE (R107): G consecutive free steps have passed; the ramp down starts. -/
def execKeepGapExpire (e : Nat) (s : State) : Out :=
  let k := keepOf s e
  if !keeps e || k.hold || decide (k.ramp ≠ .none) || decide (k.density = 0) || !keepOn s e || s.run.between then .next s
  else
    let g := keepGap (powerClass s)
    .next (modKeep e (fun k => { k with ramp := .down }) (countDummies e (g / 8 * k.density + min k.density (g % 8)) s))

/-- force_off of the bears or the badgers of a die changes: set, dummy rows and groups stop at once (R108, R162). -/
def setForceOff (die : Nat) (ve on : Bool) (s : State) : State :=
  let upd := fun (l : List Nat) => if on then insertNat die l else l.filter (· != die)
  let cls := if ve then 1 else 0
  let es := (List.range (unitsOf cls)).map (engId cls die)
  let s := if on then forEach es countGap s else s
  let s := { s with units := if ve then { s.units with veOff := upd s.units.veOff } else { s.units with meOff := upd s.units.meOff } }
  if on then
    let s := forEach es (fun e s => modKeep e (fun _ => {}) s) s
    if planRuns s then logEvent (if ve then 0x6210 else 0x6110) srcHost [(4, die)] s else s
  else s

/-- ME_KEEP_ADMIN_OFF (R108, R162): a write of force_off for the bears or the badgers of a die. -/
def execMeKeepAdminOff (die : Nat) (ve on : Bool) (s : State) : Out :=
  .next (if 8 ≤ die then s else setForceOff die ve on s)

/-! ### Swap, refill, completion and tile faults (R94, R97, R112, R113) -/

/-- Put the operation that waits in the shadow into the array. -/
def swapIn (e dummy : Nat) (s : State) : State :=
  keepReal e dummy (modBear e (fun b => { b with filled := true, mmas := b.mmas.map (fun o => { o with swapped := true, refilling := false }) }) s)

/-- A tile error that cannot be undone (R113). -/
def tileFault (e : Nat) (s : State) : State :=
  engineFatal 0x6102 e [] (modBear e (fun b => { b with tileFatal := true, mmas := [], drains := [] }) s)

/-- MMA_SWAP (R97, R112): the fill is complete and the previous rows have entered, after `dummy` dummies. The first parity error starts one
refill. -/
def execMmaSwap (e : Nat) (parity : Bool) (dummy : Nat) (s : State) : Out :=
  match (bearOf s e).mmas.find? (fun o => !o.swapped) with
  | none => .next s
  | some o =>
    if o.refilling then .next s
    else if parity then
      .next (logEvent 0x6101 e [(2, e), (4, o.index)] (modBear e (fun b => { b with
        mmas := b.mmas.map (fun o => if o.swapped then o else { o with refilling := true }) }) (if keepOn s e then countDummies e dummy s else s)))
    else .next (swapIn e dummy s)

/-- TILE_REFILL_DONE (R112): the error is corrected (R110) and the swap follows, or the second error of the fill stops the bear. -/
def execTileRefillDone (e : Nat) (parity : Bool) (s : State) : Out :=
  if (bearOf s e).mmas.any (·.refilling) then
    .next (if parity then tileFault e (countGap e s) else swapIn e 0 (modBear e (fun b => { b with tileRetry := true }) (countGap e s)))
  else .next s

/-- ME_TILE_FAULT (R113): a parity error of the active tile while rows stream. -/
def execMeTileFault (e : Nat) (s : State) : Out :=
  if (bearOf s e).mmas.any (·.swapped) then .next (tileFault e s) else .next s

/-- The new accumulator element of a native MMA (R111, R118, R119). -/
def mmaElem (o : MmaOp) (i j : Nat) (old : Nat) : Nat :=
  let zero := bit o.word.toNat 9
  let t := o.tiles.headD {}
  let a := t.a.getD i []
  let b := t.b.getD j []
  if codeIsInt o.fmtA then
    if o.fault then infInt else (if zero then elemInt (colInt o.fmtA o.fmtB a b) else addInt old (colInt o.fmtA o.fmtB a b))
  else if o.fault then Fmt.fa48.nan
  else
    let c := colFloat o.fmtA o.fmtB (codeIsMx o.fmtA) a b (t.sa.getD i []) (t.sb.getD j [])
    if zero then c else fa48Add old c

/-- The sums of a native MMA reach its rows (R81). -/
def applyMma (o : MmaOp) (b : Bear) : Bear :=
  (List.range (fld o.word 32 9 + 1)).foldl (fun b i =>
    (List.range (fld o.word 48 7 + 1)).foldl (fun b j =>
      let r := fld o.word 55 9 + i
      setAcc o.bank r j (mmaElem o i j (accAt b o.bank r j)) b) b) b

/-- The sums of an OMMA reach the rows of each instance's cub (R103, R104). Without its zero bit, the products are added one by one onto the
old value: R104 does not say whether they are summed first (DESIGN CHOICE, log entry 43). -/
def applyOmma (o : MmaOp) (b : Bear) : Bear :=
  (List.zip (List.range o.tiles.length) o.tiles).foldl (fun b qt =>
    let at0 := cubAt b qt.1
    (List.zip (List.range qt.2.a.length) qt.2.a).foldl (fun b ia =>
      (List.zip (List.range qt.2.b.length) qt.2.b).foldl (fun b jb =>
        let r := at0.1 + fld o.word 55 7 + ia.1
        let c := at0.2 + jb.1
        let start := if bit o.word.toNat 12 then 0 else accAt b o.bank r c
        setAcc o.bank r c (cubSum o.fmtA start (List.zip ia.2 jb.2)) b) b) b) b

/-- The A rows an operation adds to ME_ROWS (R110): an OMMA's m rows count once, whatever its instances, which R110 leaves open (DESIGN
CHOICE, log entry 43). -/
def MmaOp.streamed (o : MmaOp) : Nat := o.rows.2

/-- MMA_COMPLETE (R96): the last row's sums of the oldest operation in the array reach the accumulator. -/
def execMmaComplete (e : Nat) (s : State) : Out :=
  match (bearOf s e).mmas with
  | [] => .next s
  | o :: rest =>
    if o.swapped then
      .next (completeOp e o.issue (modBear e (fun b =>
        let b := if fld o.word 0 8 = 0x10 then applyMma o b else applyOmma o b
        { b with mmas := rest, mmaCount := satAdd 64 b.mmaCount 1, rows := satAdd 64 b.rows o.streamed }) (rowEnters e s)))
    else .next s

end Sys2Proof.Machine
end

