-- ==== Sys2Proof/Machine/Drain.lean ====
section
/-! DEFINITION. The drain group: DRN, DZERO, ALOAD and ODRN (R102, R120 to R130, R135). -/

namespace Sys2Proof.Machine

open Sys2Proof

/-- The generator behind seeded stochastic rounding (R125): seed, bank row and column. -/
def srU (seed row col : Nat) : Nat :=
  let h := (seed + 0x9E3779B9 * (row * 128 + col)) % 2 ^ 32
  let h := h ^^^ (h >>> 16)
  let h := (0x7FEB352D * h) % 2 ^ 32
  let h := h ^^^ (h >>> 15)
  let h := (0x846CA68B * h) % 2 ^ 32
  let h := h ^^^ (h >>> 16)
  h % 65536

/-- Where a fused operand's element lies (R121). -/
def fusedAt (shape : Nat) (base : Int) (stride eb d j : Nat) : Int :=
  match shape with
  | 0 => base + ((d * stride + j * eb : Nat) : Int)
  | 1 => base + ((j * eb : Nat) : Int)
  | 2 => base + ((d * eb : Nat) : Int)
  | _ => base

/-- What a DRN resolves at its issue (R120, R121). -/
structure Drn where
  bank : Nat
  mode : Bool
  sat : Bool
  clear : Bool
  reduce : Bool
  int : Bool
  fuse : Nat
  first : Nat
  count : Nat
  cols : Nat
  outBase : Int
  outStride : Nat
  outFmt : Nat
  seed : Nat
  flagBase : Int
  flagOn : Bool
  flagStride : Nat
  fBase : Int
  fStride : Nat
  fFmt : Nat
  fShape : Nat
deriving DecidableEq, Repr

/-- The fields of a DRN and its descriptors. -/
def drnOf (s : State) (e : Nat) (w : Word64) : Drn :=
  let d := fld w 16 10
  let f := fld w 26 10
  { bank := fld w 8 1, mode := bit w.toNat 9, sat := bit w.toNat 10, clear := bit w.toNat 11, reduce := bit w.toNat 12
    int := bit w.toNat 13, fuse := fld w 14 2, first := fld w 36 9, count := fld w 45 9 + 1, cols := fld w 54 7 + 1
    outBase := descBase s e d, outStride := descStride s e d, outFmt := descFmt s e d
    seed := (fld (descWord s e d 1) 40 24 + xreg s e (fld (descWord s e d 3) 56 4)) % 2 ^ 32
    flagBase := descScale s e d, flagOn := bit (descWord s e d 2).toNat 35, flagStride := fld (descWord s e d 2) 48 16
    fBase := descBase s e f, fStride := descStride s e f, fFmt := descFmt s e f, fShape := fld (descWord s e f 1) 40 2 }

/-- Whether the elements take the integer path (R122). -/
def Drn.intPath (r : Drn) : Bool :=
  r.int && (decide (r.fuse = 0) || codeIsInt r.fFmt) && (codeIsInt r.outFmt || decide (r.outFmt = 0x30))

/-- An integer element as FA48 (R123): integer infinity is +infinity. -/
def fa48Of (x : Nat) : Nat := if x = infInt then Fmt.fa48.infPat else rnd48 (Num.ofInt (sext 48 x))

/-- The rounding of an element (R124, R125). -/
def Drn.rmode (r : Drn) (row col : Nat) : RMode := if r.mode then .seeded (srU r.seed row col) else .rne

/-- One element after the fused operation, as FA48 bits or as a 48-bit integer (R123). A faulting fused element is `none` (R135). -/
def Drn.fused (r : Drn) (acc : Nat) (f : Option Nat) : Nat :=
  if r.intPath then
    match r.fuse, f with
    | 0, _ => acc
    | _, none => infInt
    | 1, some p => addInt acc (sext (codeBits r.fFmt) p)
    | _, some p => if acc = infInt then infInt else elemInt (sext 48 acc * sext (codeBits r.fFmt) p)
  else
    let x := if r.int then fa48Of acc else acc
    match r.fuse, f with
    | 0, _ => x
    | _, none => Fmt.fa48.nan
    | 1, some p => rnd48 (Num.add (Fmt.fa48.decode x) (codeValue r.fFmt p))
    | _, some p => rnd48 (Num.mul (Fmt.fa48.decode x) (codeValue r.fFmt p))

/-- The reduction of a row across its columns (R126). -/
def Drn.sum (r : Drn) (xs : List Nat) : Nat :=
  if r.intPath then xs.foldl (fun q x => if x = infInt then infInt else addInt q (sext 48 x)) 0
  else xs.foldl fa48Add 0

/-- Conversion to the output format, and whether the element is flagged (R123, R124). -/
def Drn.out (r : Drn) (row col x : Nat) : Nat × Bool :=
  if r.outFmt = 0x30 then (x, false)
  else if r.intPath then
    if x = infInt then (ofInt (codeBits r.outFmt) (intMax r.outFmt), true) else convInt r.outFmt .rne (Num.ofInt (sext 48 x))
  else convOut r.outFmt r.sat (r.rmode row col) (Fmt.fa48.decode x)

/-- The check of one fused element: the stage that fails, or a poisoned line. -/
def fusedBad (s : State) (e : Nat) (r : Drn) (d j : Nat) : Option Nat × Bool :=
  let eb := codeBytes r.fFmt
  let o := fusedAt r.fShape r.fBase r.fStride eb d j
  let g := if r.fBase % 16 ≠ 0 then some 4 else spStage s e o eb false
  (g, g.isNone && poisoned s .sp o.toNat eb)

/-- One fused element read from a state, none where it faults. -/
def fusedElem (s : State) (e : Nat) (r : Drn) (d j : Nat) : Option Nat :=
  let b := fusedBad s e r d j
  if b.1.isSome || b.2 then none
  else some (leVal (readStore s .sp (fusedAt r.fShape r.fBase r.fStride (codeBytes r.fFmt) d j).toNat (codeBytes r.fFmt)))

/-- The elements of one drained row with their flags: from the bank, the fused operand as `s0` holds it where it is a vector or scalar,
and as `s` holds it where it is a tensor. -/
def drnRow (s0 s : State) (e : Nat) (r : Drn) (d : Nat) : List (Nat × Bool) :=
  let row := r.first + d
  let xs := (List.range r.cols).map (fun j =>
    r.fused (accAt (bearOf s e) r.bank row j) (if r.fuse = 0 then none else fusedElem (if r.fShape = 0 then s else s0) e r d j))
  if r.reduce then [r.out row 0 (r.sum xs)]
  else (List.zip (List.range r.cols) xs).map (fun jx => r.out row jx.1 jx.2)

/-- The bytes of a row of flags (R127). -/
def flagBytes (fs : List Bool) : List Byte :=
  (List.range ((fs.length + 7) / 8)).map (fun i =>
    BitVec.ofNat 8 ((List.range 8).foldl (fun v b => v + b2n (fs.getD (8 * i + b) false) * 2 ^ b) 0))

/-- A write of an engine to its own SP: dropped where it is refused (R135, R165). -/
def spWrite (e : Nat) (misaligned : Bool) (off : Int) (d : List Byte) (s : State) : State :=
  if misaligned || (spStage s e off d.length true).isSome then s else writeStore .sp off.toNat d s

/-- The bytes of an output row (R121, R88). -/
def Drn.rowBytes (r : Drn) (l : List (Nat × Bool)) : List Byte := (l.map (fun x => leBytes (codeBytes r.outFmt) x.1)).flatten

/-- Drain one row: output and flag writes, counted flags, and the clearing of its columns (R120). -/
def drainRow (s0 : State) (e : Nat) (r : Drn) (d : Nat) (s : State) : State :=
  let l := drnRow s0 s e r d
  let n := (l.filter (·.2)).length
  let s := spWrite e (decide (r.outBase % 16 ≠ 0)) (r.outBase + ((d * r.outStride : Nat) : Int)) (r.rowBytes l) s
  let s := if r.flagOn then
      let fs := if r.reduce then List.replicate r.cols false |>.set 0 ((l.map (·.2)).headD false) else l.map (·.2)
      spWrite e (decide (r.flagBase % 16 ≠ 0)) (r.flagBase + ((d * r.flagStride : Nat) : Int)) (flagBytes fs) s
    else s
  let s := if n = 0 then s
    else logOncePhase 0x6123 e e [(2, e), (4, (seqOf s e).pc)] (modBear e (fun b => { b with drainFlags := satAdd 64 b.drainFlags n }) s)
  if r.clear then modBear e (fun b => (List.range r.cols).foldl (fun b j => setAcc r.bank (r.first + d) j 0 b) b) s else s

/-- Every access of a DRN with the check it fails (R135). -/
def drnChecks (s : State) (e : Nat) (r : Drn) : List (Int × Option Nat) :=
  let n := (if r.reduce then 1 else r.cols) * codeBytes r.outFmt
  let mis := fun (b : Int) => if b % 16 ≠ 0 then [(b, some 4)] else []
  mis r.outBase ++ (List.range r.count).map (fun d =>
    let o := r.outBase + ((d * r.outStride : Nat) : Int)
    (o, spStage s e o n true)) ++
  (if r.flagOn then mis r.flagBase ++ (List.range r.count).map (fun d =>
    let o := r.flagBase + ((d * r.flagStride : Nat) : Int)
    (o, spStage s e o ((r.cols + 7) / 8) true)) else []) ++
  (if r.fuse = 0 then [] else mis r.fBase ++ (List.range r.count).flatMap (fun d => (List.range r.cols).map (fun j =>
    (fusedAt r.fShape r.fBase r.fStride (codeBytes r.fFmt) d j, (fusedBad s e r d j).1))))

/-- Whether any fused element lies in a poisoned line. -/
def drnPoison (s : State) (e : Nat) (r : Drn) : Bool :=
  decide (r.fuse ≠ 0) && (List.range r.count).any (fun d => (List.range r.cols).any (fun j => (fusedBad s e r d j).2))

/-- DRN (R120 to R127, R130): due once no MMA of an earlier issue still adds into its rows; reads, converts and writes them in order.
`ecc` is the check of its fused operand's SP line, `acc` that of its bank rows. -/
def execDrn (e : Nat) (ecc acc : Ecc) (s : State) : Out :=
  onIssue e [0x20] s (fun w s =>
    let r := drnOf s e w
    if rowsBusy (bearOf s e) r.bank r.first r.count then s
    else
      let s := eccNote .sp r.fBase.toNat e ecc s
      let s := accNote e r.bank r.first acc s
      if runs s e then
        let s := operandPoison e (drnPoison s e r) (operandFault e (firstRefused (drnChecks s e r)) s)
        let s := forEach (List.range r.count) (drainRow s e r) s
        let i := (seqOf s e).issued
        issueOpen e (nextPc e (modBear e (fun b => { b with drains := b.drains ++ [i] }) s))
      else s)

/-- DRN_COMPLETE (R130): SP has acknowledged every write of the bear's oldest DRN. -/
def execDrnComplete (e : Nat) (s : State) : Out :=
  match (bearOf s e).drains with
  | [] => .next s
  | i :: rest => .next (completeOp e i (modBear e (fun b => { b with drains := rest, drainCount := satAdd 64 b.drainCount 1 }) s))

/-- DZERO (R128): rows of a bank become zero, once no MMA of an earlier issue still adds into them. -/
def execDzero (e : Nat) (s : State) : Out :=
  onIssue e [0x21] s (fun w s =>
    let bank := fld w 8 1
    let first := fld w 36 9
    let count := fld w 45 9 + 1
    if rowsBusy (bearOf s e) bank first count then s
    else nextPc e (modBear e (fun b => { b with
      acc := b.acc.filter (fun x => !(decide (accKey bank first 0 ≤ x.1) && decide (x.1 < accKey bank (first + count) 0))) }) s))

/-- One row of an ALOAD: the 128 elements of 6 bytes, or NaN where it is refused or poisoned (R129, R135). -/
def aloadRow (e : Nat) (base : Int) (stride bank first d : Nat) (s : State) : State :=
  let o := base + ((d * stride : Nat) : Int)
  let bad := decide (base % 16 ≠ 0) || (spStage s e o 768 false).isSome || poisoned s .sp o.toNat 768
  let row := readStore s .sp o.toNat 768
  modBear e (fun b => (List.range 128).foldl (fun b j =>
    setAcc bank (first + d) j (if bad then Fmt.fa48.nan else leAt row (6 * j) 6) b) b) s

/-- ALOAD (R129): once every earlier instruction has completed, rows of a bank are written from SP. -/
def execAload (e : Nat) (ecc : Ecc) (s : State) : Out :=
  onIssue e [0x23] s (fun w s =>
    if allDone s e then
      let d := fld w 16 10
      let base := descBase s e d
      let stride := descStride s e d
      let first := fld w 36 9
      let count := fld w 45 9 + 1
      let s := eccNote .sp base.toNat e ecc s
      if runs s e then
        let rows : Rows := { base := base, stride := stride, count := count, len := 768 }
        let bad := firstRefused (rows.checks s e true)
        let psn := (List.range count).any (fun i =>
          (spStage s e (rows.at i) 768 false).isNone && poisoned s .sp (rows.at i).toNat 768)
        let s := operandPoison e psn (operandFault e bad s)
        nextPc e (forEach (List.range count) (aloadRow e base stride (fld w 8 1) first) s)
      else s
    else s)

/-- One cub value converted for an ODRN (R102). -/
def odrnOut (ofmt v : Nat) : Nat :=
  match ofmt with
  | 0 => v % 2 ^ 32
  | 1 => (convFloat .bf16 false .rne (Fmt.fp32.decode v)).1
  | 2 => (convFloat .e4m3 true .rne (Fmt.fp32.decode v)).1
  | 3 => v % 2 ^ 32
  | _ => (convInt 0x20 .rne (Num.ofInt (sext 32 v))).1

/-- Bytes of an element of an ODRN. -/
def odrnBytes (ofmt : Nat) : Nat :=
  match ofmt with
  | 0 => 4 | 1 => 2 | 2 => 1 | 3 => 4 | _ => 1

/-- Where an instance's output row goes (R102, R103). -/
def odrnAt (b : Bear) (w : Word64) (q i : Nat) : Int :=
  ((b.window + 64 * fld w 16 16 + q * b.cStride + i * (b.cub * odrnBytes (fld w 8 4)) : Nat) : Int)

/-- The bytes of an instance's output row. -/
def odrnRow (b : Bear) (w : Word64) (q i : Nat) : List Byte :=
  let o := cubAt b q
  ((List.range b.cub).map (fun j =>
    leBytes (odrnBytes (fld w 8 4)) (odrnOut (fld w 8 4) (accAt b (fld w 13 1) (o.1 + fld w 32 7 + i) (o.2 + j))))).flatten

/-- ODRN (R102, R103): every instance writes rows of its cub. Refused rows are dropped (R36). -/
def execOdrn (e : Nat) (acc : Ecc) (s : State) : Out :=
  onIssue e [0x42] s (fun w s =>
    let b := bearOf s e
    let count := fld w 40 7 + 1
    if rowsBusy b (fld w 13 1) (fld w 32 7) count then s
    else
      let s := accNote e (fld w 13 1) (fld w 32 7) acc s
      if runs s e then
        let all := (List.range b.instances).flatMap (fun q => (List.range count).map (fun i => (q, i)))
        let n := b.cub * odrnBytes (fld w 8 4)
        let bad := firstRefused (all.map (fun x => (odrnAt b w x.1 x.2, spStage s e (odrnAt b w x.1 x.2) n true)))
        let s := operandFault e bad s
        nextPc e (forEach all (fun x => spWrite e false (odrnAt b w x.1 x.2) (odrnRow b w x.1 x.2)) s)
      else s)

end Sys2Proof.Machine
end

