-- ==== Sys2Proof/Machine/Trans.lean ====
section
/-! DEFINITION. The badger's functions with an error bound (R146, R147, R153): the exact value to well over 100 bits, and the choice
among the FP32 values within the bound, which the spec leaves to a fixed function of the operand (log entry 26). -/

namespace Sys2Proof.Machine

open Sys2Proof

/-- Bits of the fixed-point numbers below. -/
def fixP : Nat := 256

/-- One in fixed point. -/
def fixOne : Nat := 2 ^ fixP

/-- Product in fixed point. -/
def fixMul (x y : Nat) : Nat := x * y / fixOne

/-- The terms of a power series from term `k`: `t` is the term before it, and each is the one before times `x` over `k`. -/
def expTerms (x : Nat) : Nat → Nat → Nat → Nat
  | 0, _, _ => 0
  | f + 1, k, t => t + expTerms x f (k + 1) (fixMul t x / (k + 1))

/-- e^x for 0 ≤ x < 1 in fixed point. -/
def fixExp (x : Nat) : Nat := expTerms x 80 0 fixOne

/-- ln 2: the sum of 1 / (k 2^k). -/
def fixLn2 : Nat := (List.range 256).foldl (fun a k => a + fixOne / ((k + 1) * 2 ^ (k + 1))) 0

/-- The arc tangent of 1 / n: the alternating sum of 1 / ((2k + 1) n^(2k + 1)). -/
def fixAtan (n : Nat) : Int :=
  (List.range 60).foldl (fun (a : Int) k =>
    let t : Int := (fixOne / ((2 * k + 1) * n ^ (2 * k + 1)) : Nat)
    if k % 2 = 0 then a + t else a - t) 0

/-- Pi, by Machin's formula. -/
def fixPi : Nat := (16 * fixAtan 5 - 4 * fixAtan 239).toNat

/-- 2^x for 0 ≤ x < 1. -/
def fixExp2 (x : Nat) : Nat := fixExp (fixMul x fixLn2)

/-- The alternating series of the sine (from term 1) and the cosine (from term 0): every second term, with `t` the term before. -/
def trigTerms (x : Nat) : Nat → Nat → Nat → Int
  | 0, _, _ => 0
  | f + 1, k, t => (t : Int) - trigTerms x f (k + 2) (fixMul (fixMul t x / (k + 1)) x / (k + 2))

/-- Sine of x for 0 ≤ x < 2. -/
def fixSin (x : Nat) : Nat := (trigTerms x 40 1 x).toNat

/-- Cosine of x for 0 ≤ x < 2. -/
def fixCos (x : Nat) : Nat := (trigTerms x 40 0 fixOne).toNat

/-- Bits of log2 of a number between 1 and 2, by squaring: `f` bits. -/
def logBits : Nat → Nat → Nat → Nat
  | 0, _, acc => acc
  | f + 1, y, acc =>
    let z := fixMul y y
    if 2 * fixOne ≤ z then logBits f (z / 2) (2 * acc + 1) else logBits f z (2 * acc)

/-- A fixed-point magnitude that is no more than one unit below the value it stands for, as a value with a sticky bit. -/
def sticky (neg : Bool) (v : Nat) (p : Nat) : Num := .fin neg (2 * v + 1) (-(p : Int) - 1)

/-- The choices an error bound leaves for a value: the grid points on either side, with `more` further ones; around an exact grid point,
its neighbours. Never beyond infinity. -/
def within (f : Fmt) (more : Nat) (x : Num) : List Nat :=
  match x with
  | .fin _ m e =>
    let r := f.roundMag .rtz false m e
    let lo := if r.2 then r.1 - more else r.1 - (more + 1)
    let hi := r.1 + 1 + more
    (List.range (hi + 1 - lo)).map (fun i => min (lo + i) f.infPat)
  | y => [f.rne y]

/-- The FP32 result of an operation with an error bound: its sign and one of the magnitudes within the bound. -/
def pickFp32 (op arg more : Nat) (x : Num) : Nat :=
  match x with
  | .fin s .. =>
    let l := within .fp32 more x
    Fmt.fp32.sign s + l.getD (Config.pick op arg % l.length) 0
  | y => Fmt.fp32.rne y

/-- A finite value at exponent -256 with a sticky bit: floor of its magnitude, and whether it is exact. -/
def fixOf (m : Nat) (e : Int) : Nat × Bool :=
  if 0 ≤ e + fixP then (m * 2 ^ (e + fixP).toNat, true)
  else
    let sh := (-(e + fixP)).toNat
    (m / 2 ^ sh, decide (m % 2 ^ sh = 0))

/-- Whether a mantissa is a power of two. -/
def isPow2 (m : Nat) : Bool := decide (m ≠ 0) && decide (2 ^ Nat.log2 m = m)

/-- exp2 (R146, R147): exact for an integer, else within 1 ulp. -/
def exp2Fp32 (arg : Nat) (x : Num) : Nat :=
  match x with
  | .nan => Fmt.fp32.nan
  | .inf s => if s then 0 else Fmt.fp32.infPat
  | .fin s m e =>
    let whole := decide (0 ≤ e) || decide (m % 2 ^ (-e).toNat = 0)
    let mag := (if 0 ≤ e then m * 2 ^ e.toNat else m / 2 ^ (-e).toNat : Nat)
    if whole then
      let n : Int := if s then -(min mag 1000 : Nat) else (min mag 1000 : Nat)
      Fmt.fp32.rne (.fin false 1 n)
    else if 1000 ≤ mag then (if s then 0 else Fmt.fp32.infPat)
    else
      let v := (fixOf m e).1 % fixOne
      let n : Int := if s then -(mag : Int) - 1 else mag
      let f := if s then fixOne - max v 1 else v
      pickFp32 0x04 arg 0 (Num.scale (sticky false (fixExp2 f) fixP) n)

/-- log2 (R146, R147): exact for powers of two, else within 1 ulp. -/
def log2Fp32 (arg : Nat) (x : Num) : Nat :=
  match x with
  | .nan => Fmt.fp32.nan
  | .inf s => if s then Fmt.fp32.nan else Fmt.fp32.infPat
  | .fin s m e =>
    if m = 0 then Fmt.fp32.sign true + Fmt.fp32.infPat
    else if s then Fmt.fp32.nan
    else
      let n : Int := e + (Nat.log2 m : Int)
      if isPow2 m then Fmt.fp32.rne (Num.ofInt n)
      else
        let y := m * fixOne / 2 ^ Nat.log2 m
        let v : Int := n * (2 ^ 140 : Nat) + (logBits 140 y 0 : Nat)
        pickFp32 0x05 arg 0 (if 0 ≤ v then sticky false v.toNat 140 else sticky true (v.natAbs - 1) 140)

/-- recip (R146, R147): exact for powers of two, else within 1 ulp. -/
def recipFp32 (arg : Nat) (x : Num) : Nat :=
  let q := Num.div (Num.ofNat 1) x
  match x with
  | .fin _ m _ => if m = 0 ∨ isPow2 m = true then Fmt.fp32.rne q else pickFp32 0x06 arg 0 q
  | _ => Fmt.fp32.rne q

/-- rsqrt (R146, R147): within 1 ulp. -/
def rsqrtFp32 (arg : Nat) (x : Num) : Nat :=
  match x with
  | .fin s m _ =>
    if m = 0 then Fmt.fp32.sign s + Fmt.fp32.infPat
    else if s then Fmt.fp32.nan
    else pickFp32 0x07 arg 0 (Num.div (Num.ofNat 1) (Num.sqrt x))
  | .inf s => if s then Fmt.fp32.nan else 0
  | .nan => Fmt.fp32.nan

/-- The magnitude of tanh of a positive value below 64 and above 2^-30. -/
def fixTanh (m : Nat) (e : Int) : Nat :=
  let t := (fixOf m (e + 1)).1 * fixOne / fixLn2
  let x := fixExp2 (t % fixOne) * 2 ^ (t / fixOne)
  (x - fixOne) * fixOne / (x + fixOne)

/-- tanh (R146, R147): within 2 ulp. -/
def tanhFp32 (arg : Nat) (x : Num) : Nat :=
  match x with
  | .nan => Fmt.fp32.nan
  | .inf s => Fmt.fp32.rne (.fin s 1 0)
  | .fin s m e =>
    if m = 0 then Fmt.fp32.sign s
    else
      let top : Int := e + (Nat.log2 m : Int)
      if top < -30 then pickFp32 0x08 arg 1 (.fin s (2 ^ 65 * m - 1) (e - 65))
      else if 6 ≤ top then pickFp32 0x08 arg 1 (.fin s (2 ^ 65 - 1) (-65))
      else pickFp32 0x08 arg 1 (sticky s (fixTanh m e) fixP)

/-- Cosine and sine of an angle of `k` × 2^-48 turns (R153), each within 1 ulp of FP32; exact at the quarters of a turn. -/
def cosSin (k : Nat) : Num × Num :=
  let q := k / 2 ^ 46 % 4
  let r := k % 2 ^ 46
  let x := 2 * fixPi * r / 2 ^ 48
  let one : Num := .fin false 1 0
  let zero : Num := .fin false 0 0
  let c := if r = 0 then one else sticky false (fixCos x) fixP
  let n := if r = 0 then zero else sticky false (fixSin x) fixP
  let cn := match q with
    | 0 => (c, n)
    | 1 => (n.neg, c)
    | 2 => (c.neg, n.neg)
    | _ => (n, c.neg)
  (Fmt.fp32.decode (pickFp32 0x100 k 0 cn.1), Fmt.fp32.decode (pickFp32 0x101 k 0 cn.2))

end Sys2Proof.Machine
end

