-- ==== Sys2Proof/Machine/Badger.lean ====
section
/-! DEFINITION. Badgers: chains, maximum and minimum with index, and Hamming-select (R138 to R166). -/

namespace Sys2Proof.Machine

open Sys2Proof

/-! ### Operands (R138, R140, R165) -/

/-- What an instruction of a badger has done so far: the state, its first refused access, and whether an operand was poisoned. -/
structure VeRun where
  s : State
  bad : Option (Nat × Int) := none
  psn : Bool := false
  groups : Nat := 0
  flags : Nat := 0
  /-- the state as the first group of the row at hand found it: column vectors are fetched with it (R149) -/
  row : Option State := none
  /-- the first rotary position out of range (R154) -/
  range : Option Int := none

/-- Note a refused access: the lowest stage stays, and in it the first. -/
def VeRun.note (v : VeRun) (g : Nat) (o : Int) : VeRun :=
  match v.bad with
  | some b => if g < b.1 then { v with bad := some (g, o) } else v
  | none => { v with bad := some (g, o) }

/-- The place of element (r, j) of a slot (R140, R121). -/
def slotAt (s : State) (e d r j : Nat) : Int :=
  fusedAt (fld (descWord s e d 1) 40 2) (descBase s e d) (descStride s e d) (codeBytes (descFmt s e d)) r j

/-- The check of an access of a slot: its base is a multiple of 16, and the bytes lie in SP and the badger's holdings. -/
def slotStage (s : State) (e d : Nat) (o : Int) (n : Nat) (write : Bool) : Option Nat :=
  if descBase s e d % 16 ≠ 0 then some 4 else spStage s e o n write

/-- Read an element of a slot from memory as `m` holds it: none where it is refused or poisoned. -/
def slotRead (m : State) (e d r j : Nat) (v : VeRun) : Option Nat × VeRun :=
  let o := slotAt m e d r j
  let n := codeBytes (descFmt m e d)
  match slotStage m e d o n false with
  | some g => (none, v.note g o)
  | none =>
    if poisoned m .sp o.toNat n then (none, { v with psn := true })
    else (some (leVal (readStore m .sp o.toNat n)), v)

/-- Read a bit of a BIT slot: a refused or poisoned bit is 0 (R165). -/
def bitRead (m : State) (e d r j : Nat) (v : VeRun) : Bool × VeRun :=
  let o := descBase m e d + ((r * descStride m e d + j / 8 : Nat) : Int)
  match slotStage m e d o 1 false with
  | some g => (false, v.note g o)
  | none =>
    if poisoned m .sp o.toNat 1 then (false, { v with psn := true })
    else (bit (leVal (readStore m .sp o.toNat 1)) (j % 8), v)

/-- Write an element of a slot: a refused write is dropped (R165). -/
def slotWrite (e d r j x : Nat) (v : VeRun) : VeRun :=
  let o := slotAt v.s e d r j
  let n := codeBytes (descFmt v.s e d)
  match slotStage v.s e d o n true with
  | some g => v.note g o
  | none => { v with s := writeStore .sp o.toNat (leBytes n x) v.s }

/-- Change the memory a badger's writes go to over a list. -/
def VeRun.each {α : Type} (l : List α) (f : α → VeRun → VeRun) (v : VeRun) : VeRun := l.foldl (fun v a => f a v) v

/-- Thread a badger's record through a list of reads. -/
def VeRun.gather {α β : Type} (f : α → VeRun → β × VeRun) : List α → VeRun → List β × VeRun
  | [], v => ([], v)
  | a :: l, v =>
    let x := f a v
    let r := VeRun.gather f l x.2
    (x.1 :: r.1, r.2)

/-- The end of a badger's instruction: faults, counters, flags and the record of positions out of range (R154, R164, R165). -/
def veEnd (e : Nat) (v : VeRun) : State :=
  let s := operandPoison e v.psn (operandFault e v.bad v.s)
  let s := match v.range with
    | some p =>
      let s := modBadger e (fun b => { b with positionRange := true }) s
      engineError e 0x6230 (logOncePhase 0x6230 e e [(2, e), (4, (seqOf s e).pc), (8, ofInt 64 p)] s)
    | none => s
  let s := if v.flags = 0 then s else logOncePhase 0x6223 e e [(2, e), (4, (seqOf s e).pc)] s
  nextPc e (modBadger e (fun b => { b with
    instrs := satAdd 64 b.instrs 1, groups := satAdd 64 b.groups v.groups, flags := satAdd 64 b.flags v.flags }) s)

/-- What error checks do as an instruction starts: of its SP lines, and of the badger's lanes (R166). -/
def veSense (e : Nat) (off : Int) (ecc : Ecc) (lane : Bool) (s : State) : State :=
  let s := eccNote .sp off.toNat e ecc s
  if lane then logOncePhase 0x6201 e e [] (modBadger e (fun b => { b with corrected := satAdd 32 b.corrected 1 }) s) else s

/-! ### Stages (R144 to R148) -/

/-- The compute format of a chain (R143). -/
def widthFmt (w : Nat) : Fmt :=
  match w with
  | 0 => .fp32 | 1 => .bf16 | 2 => .e4m3 | _ => .e5m2

/-- Elements a lane carries (R146). -/
def widthLanes (w : Nat) : Nat :=
  match w with
  | 0 => 1 | 1 => 2 | _ => 4

/-- Round a value to the compute width (R145). -/
def toWidth (f : Fmt) (x : Num) : Nat := (convFloat f false .rne x).1

/-- A predicate (R148). -/
def predicate (p : Nat) (x y : Num) : Bool :=
  if x.isNan || y.isNan then decide (p = 1)
  else match p, Num.cmp x y with
    | 0, c => decide (c = .eq)
    | 1, c => decide (c ≠ .eq)
    | 2, c => decide (c = .lt)
    | 3, c => decide (c ≠ .gt)
    | 4, c => decide (c = .gt)
    | _, c => decide (c ≠ .lt)

/-- Round to the grid of a format code, saturating (R146, convert). -/
def toGrid (f : Fmt) (code : Nat) (x : Num) : Nat :=
  if x.isNan then f.nan
  else
    let p := (convOut code true .rne x).1
    toWidth f (codeValue code p)

/-- Ones in a 64-bit word. -/
def popcount (n : Nat) : Nat := ((List.range 64).filter (fun i => bit n i)).length

/-- A function with an error bound, formed in FP32 and rounded to the width (R146). -/
def transcend (op : Nat) (f : Fmt) (x : Num) : Nat :=
  let arg := Fmt.fp32.rne x
  let r := match op with
    | 0x04 => exp2Fp32 arg x
    | 0x05 => log2Fp32 arg x
    | 0x06 => recipFp32 arg x
    | 0x07 => rsqrtFp32 arg x
    | _ => tanhFp32 arg x
  toWidth f (Fmt.fp32.decode r)

/-- One element in the lanes: its row, its column, and registers t0 to t3 as patterns of the width. -/
structure VeLane where
  r : Nat
  j : Nat
  t : List Nat := [0, 0, 0, 0]
deriving DecidableEq, Repr

/-- The head of a chain (R143). -/
structure Chain where
  first : Nat
  rows : Nat
  cols : Nat
  head0 : Nat
  head1 : Nat
  head2 : Nat
deriving DecidableEq, Repr

/-- The fields of a CHAIN and the head of its descriptor. -/
def chainOf (s : State) (e : Nat) (w : Word64) : Chain :=
  let c := fld w 8 10
  { first := c, rows := fld w 32 16 + 1, cols := fld w 48 16 + 1
    head0 := (descWord s e c 0).toNat, head1 := (descWord s e c 1).toNat, head2 := (descWord s e c 2).toNat }

/-- Stages of a chain. -/
def Chain.stages (c : Chain) : Nat := bits c.head0 0 4 % 8 + 1
/-- The compute format. -/
def Chain.fmt (c : Chain) : Fmt := widthFmt (bits c.head0 4 2)
/-- The elements of a group (R146). -/
def Chain.lanes (c : Chain) : Nat := 512 * widthLanes (bits c.head0 4 2)
/-- The mask mode. -/
def Chain.mask (c : Chain) : Nat := bits c.head0 8 3
/-- The slot of an input. -/
def Chain.input (c : Chain) (i : Nat) : Nat := bits c.head1 (10 * i) 10
/-- A stage word. -/
def Chain.stage (s : State) (e : Nat) (c : Chain) (i : Nat) : Nat := (paramAt s e (4 * c.first + 4 + i)).toNat

/-- The state a slot's element is read from: tensors as the groups before have left memory, column vectors as the first group of their row
found it, row vectors and scalars as the instruction found it (R149, R155). -/
def slotMem (s0 : State) (v : VeRun) (e d : Nat) : State :=
  match fld (descWord s0 e d 1) 40 2 with
  | 0 => v.s
  | 2 => v.row.getD v.s
  | _ => s0

/-- An input element as it lies in memory: zero where it faults. -/
def rawInput (s0 : State) (e d r j : Nat) (v : VeRun) : Nat × VeRun :=
  let x := slotRead (slotMem s0 v e d) e d r j v
  (x.1.getD 0, x.2)

/-- A source of an arithmetic operation, in the compute width (R144, R145, R165). -/
def source (s0 : State) (e : Nat) (c : Chain) (w : Nat) (src : Nat) (l : VeLane) (v : VeRun) : Nat × VeRun :=
  let f := c.fmt
  if src < 4 then (l.t.getD src 0, v)
  else if src < 8 then
    let d := c.input (src - 4)
    let x := slotRead (slotMem s0 v e d) e d l.r l.j v
    (match x.1 with
      | some p => toWidth f (codeValue (descFmt s0 e d) p)
      | none => if codeIsInt (descFmt s0 e d) then 0 else f.nan, x.2)
  else if src = 8 then (toWidth f (Num.ofNat l.r), v)
  else if src = 9 then (toWidth f (Num.ofNat l.j), v)
  else if src = 0xF then (toWidth f (Fmt.fp32.decode (bits w 32 32)), v)
  else (0, v)

/-- The column of the other element of a pair, whether this one is x_e, and the pair's number (R153). -/
def rotaryPair (c : Chain) (w j : Nat) : Nat × Bool × Nat :=
  if bit w 24 then
    let h := c.cols / 2
    if j < h then (j + h, true, j) else (j - h, false, j - h)
  else (if j % 2 = 0 then (j + 1, true, j / 2) else (j - 1, false, j / 2))

/-- The position of a rotary stage: the row, or an INT32 input of the pair's first element (R153). -/
def rotaryPos (s0 : State) (e : Nat) (c : Chain) (w : Nat) (l : VeLane) (v : VeRun) : Int × VeRun :=
  let b := bits w 16 4
  if 4 ≤ b ∧ b < 8 then
    let pr := rotaryPair c w l.j
    let x := rawInput s0 e (c.input (b - 4)) l.r (if pr.2.1 then l.j else pr.1) v
    (sext 32 x.1, x.2)
  else ((l.r : Int), v)

/-- A rotary stage for one element, with its partner's registers (R153, R154). -/
def rotary (s0 : State) (e : Nat) (c : Chain) (w : Nat) (l other : VeLane) (v : VeRun) : Nat × VeRun :=
  let pr := rotaryPair c w l.j
  let a := source s0 e c w (bits w 12 4) l v
  let o := source s0 e c w (bits w 12 4) other a.2
  let p := rotaryPos s0 e c w l o.2
  if p.1 < 0 ∨ 16777215 < p.1 then
    (c.fmt.nan, { p.2 with range := some (p.2.range.getD p.1) })
  else
    let x := rawInput s0 e (c.input (bits w 20 4 - 4)) l.r pr.2.2 p.2
    let ang := (p.1.toNat * x.1) % 2 ^ 64
    let cs := cosSin (ang / 2 ^ 16)
    let xe := c.fmt.decode (if pr.2.1 then a.1 else o.1)
    let xo := c.fmt.decode (if pr.2.1 then o.1 else a.1)
    let y := if pr.2.1 then Num.add (Num.mul xe cs.1) (Num.mul xo cs.2).neg else Num.add (Num.mul xe cs.2) (Num.mul xo cs.1)
    (toWidth c.fmt y, x.2)

/-- popcmp (R146, R147): the distance of two sketches, or its comparison with c, NaN where c is. -/
def popcmp (s0 : State) (e : Nat) (c : Chain) (w : Nat) (l : VeLane) (v : VeRun) : Nat × VeRun :=
  let a := rawInput s0 e (c.input (bits w 12 4 - 4)) l.r l.j v
  let b := rawInput s0 e (c.input (bits w 16 4 - 4)) l.r l.j a.2
  let d := popcount (a.1 ^^^ b.1)
  if bits w 24 8 = 0xFF then (toWidth c.fmt (Num.ofNat d), b.2)
  else
    let k := source s0 e c w (bits w 20 4) l b.2
    let z := c.fmt.decode k.1
    (if z.isNan then c.fmt.nan else if predicate (bits w 24 3) (Num.ofNat d) z then toWidth c.fmt (Num.ofNat 1) else 0, k.2)

/-- The result of one stage for one element (R146, R147): a NaN operand gives NaN, but for a cmpsel whose predicate is false. -/
def stageResult (s0 : State) (e : Nat) (c : Chain) (w : Nat) (l other : VeLane) (v : VeRun) : Nat × VeRun :=
  let f := c.fmt
  let op := bits w 0 8
  if op = 0x0D then rotary s0 e c w l other v
  else if op = 0x0E then popcmp s0 e c w l v
  else
    let a := source s0 e c w (bits w 12 4) l v
    let x := f.decode a.1
    if 0x04 ≤ op ∧ op ≤ 0x08 then (transcend op f x, a.2)
    else if op = 0x0C then (toGrid f (bits w 24 8) x, a.2)
    else
      let b := source s0 e c w (bits w 16 4) l a.2
      let y := f.decode b.1
      match op with
      | 0x01 => (toWidth f (Num.add x y), b.2)
      | 0x02 => (toWidth f (Num.mul x y), b.2)
      | 0x0A => (f.minMax true a.1 b.1, b.2)
      | 0x0B => (f.minMax false a.1 b.1, b.2)
      | _ =>
        let k := source s0 e c w (bits w 20 4) l b.2
        if op = 0x03 then (toWidth f (Num.add (Num.mul x y) (f.decode k.1)), k.2)
        else if !predicate (bits w 24 3) x y then (l.t.getD (bits w 8 2) 0, k.2)
        else (if x.isNan || y.isNan || (f.decode k.1).isNan then f.nan else k.1, k.2)

/-- One stage over the elements of a group (R145): every element reads the registers as the earlier stages left them. -/
def runStage (s0 : State) (e : Nat) (c : Chain) (ls : List VeLane) (w : Nat) (v : VeRun) : List VeLane × VeRun :=
  VeRun.gather (fun l v =>
    let other := (ls.find? (fun k => k.j == (rotaryPair c w l.j).1)).getD l
    let x := stageResult s0 e c w l other v
    ({ l with t := l.t.set (bits w 8 2) x.1 }, x.2)) ls v

/-- All stages of a chain from one on, over a group. -/
def runStages (s0 : State) (e : Nat) (c : Chain) : List Nat → List VeLane → VeRun → List VeLane × VeRun
  | [], ls, v => (ls, v)
  | w :: ws, ls, v =>
    let r := runStage s0 e c ls w v
    runStages s0 e c ws r.1 r.2

/-! ### Outputs and masks (R145, R150, R151) -/

/-- Write one result to an output, converted and flagged where it is written (R124, R164). -/
def chainOut (e d src : Nat) (sat : Bool) (f : Fmt) (l : VeLane) (col : Nat) (v : VeRun) : VeRun :=
  let x := convOut (descFmt v.s e d) sat .rne (f.decode (l.t.getD src 0))
  let dropped := (slotStage v.s e d (slotAt v.s e d l.r col) (codeBytes (descFmt v.s e d)) true).isSome
  slotWrite e d l.r col x.1 { v with flags := v.flags + b2n (x.2 && !dropped) }

/-- Write an element of a group to its outputs: at its column, or at the next place of a packed row. -/
def writeElem (e : Nat) (c : Chain) (l : VeLane) (col : Nat) (v : VeRun) : VeRun :=
  let v := chainOut e (bits c.head2 0 10) (bits c.head0 16 2) (bit c.head0 12) c.fmt l col v
  if bit c.head0 24 then chainOut e (bits c.head2 10 10) (bits c.head0 20 2) (bit c.head0 13) c.fmt l col v else v

/-- Write zeros for an inactive element (R150, mode 2). -/
def writeZero (e : Nat) (c : Chain) (r col : Nat) (v : VeRun) : VeRun :=
  let v := slotWrite e (bits c.head2 0 10) r col 0 v
  if bit c.head0 24 then slotWrite e (bits c.head2 10 10) r col 0 v else v

/-- One group of a row: its stages, then its writes. `act` are the row's active columns, `pos` the place of the group in the run. -/
def runGroup (s0 : State) (e : Nat) (c : Chain) (ws : List Nat) (r : Nat) (act : List Nat) (pos : Nat) (cols : List Nat)
    (v : VeRun) : VeRun :=
  let g := runStages s0 e c ws (cols.map (fun j => { r := r, j := j }))
    { v with groups := v.groups + (cols.length + c.lanes - 1) / c.lanes }
  VeRun.each (List.zip (List.range cols.length) g.1) (fun il v =>
    let l := il.2
    if c.mask = 4 then writeElem e c l (pos + il.1) v
    else if c.mask = 0 ∨ c.mask = 3 ∨ l.j ∈ act then writeElem e c l l.j v
    else if c.mask = 2 then writeZero e c r l.j v
    else v) g.2

/-- The elements taken at a time: a group, or the whole row where a stage is rotary, so that pairs read before either is written (log entry
27). -/
def groupSize (c : Chain) (ws : List Nat) : Nat := if ws.any (fun w => bits w 0 8 == 0x0D) then c.cols else c.lanes

/-- The mask bits of the columns of a group, as the groups before it have left memory. -/
def maskCols (e : Nat) (c : Chain) (r : Nat) (cols : List Nat) (v : VeRun) : List Nat × VeRun :=
  let m := VeRun.gather (fun j v => bitRead v.s e (bits c.head2 20 10) r j v) cols v
  ((List.zip cols m.1).filterMap (fun x => if x.2 then some x.1 else none), m.2)

/-- The next `n` active columns of a row, and the columns after them (R151). -/
def takeActive (e : Nat) (c : Chain) (r : Nat) : Nat → List Nat → VeRun → List Nat × List Nat × VeRun
  | 0, cols, v => ([], cols, v)
  | _, [], v => ([], [], v)
  | n + 1, j :: cols, v =>
    let b := bitRead v.s e (bits c.head2 20 10) r j v
    if b.1 then
      let x := takeActive e c r n cols b.2
      (j :: x.1, x.2.1, x.2.2)
    else takeActive e c r (n + 1) cols b.2

/-- The groups of a row whose active elements alone are evaluated, gathered in ascending column order (R151): how many there are. -/
def runPacked (s0 : State) (e : Nat) (c : Chain) (ws : List Nat) (r : Nat) : Nat → Nat → List Nat → VeRun → Nat × VeRun
  | 0, pos, _, v => (pos, v)
  | f + 1, pos, cols, v =>
    let x := takeActive e c r c.lanes cols v
    if x.1.isEmpty then (pos, x.2.2)
    else runPacked s0 e c ws r f (pos + x.1.length) x.2.1 (runGroup s0 e c ws r x.1 pos x.1 x.2.2)

/-- One row of a chain (R151, R155): its groups in order, each after the writes of those before it. -/
def runRow (s0 : State) (e : Nat) (c : Chain) (ws : List Nat) (r : Nat) (v : VeRun) : VeRun :=
  let v := { v with row := some v.s }
  let all := List.range c.cols
  if c.mask = 3 ∨ c.mask = 4 then
    let x := runPacked s0 e c ws r c.cols 0 all v
    if c.mask = 4 then slotWrite e (bits c.head2 30 10) r 0 x.1 x.2 else x.2
  else
    VeRun.each (chunksOf (groupSize c ws) all.length all) (fun cols v =>
      let m := if c.mask = 0 then ([], v) else maskCols e c r cols v
      runGroup s0 e c ws r m.1 0 cols m.2) v

/-- CHAIN (R142 to R156): a pass over a tile. `ecc` is the check of an input's SP line, `lane` whether a lane error was corrected,
`dummy` the dummy groups of the gap before it. -/
def execChain (e : Nat) (ecc : Ecc) (lane : Bool) (dummy : Nat) (s : State) : Out :=
  onIssue e [0x50] s (fun w s =>
    let c := chainOf s e w
    let s := keepReal e dummy (veSense e (descBase s e (c.input 0)) ecc lane s)
    if runs s e then
      let ws := (List.range c.stages).map (c.stage s e)
      veEnd e (VeRun.each (List.range c.rows) (runRow s e c ws) { s := s })
    else s)

/-! ### ARGX (R157, R158) -/

/-- A candidate: the pattern of its value and its index. -/
abbrev Cand := Nat × Nat

/-- Whether a candidate beats another: by value, any NaN first, then by the lower index (R158). -/
def beats (code : Nat) (isMin : Bool) (a b : Cand) : Bool :=
  let x := codeValue code a.1
  let y := codeValue code b.1
  if x.isNan then !y.isNan || decide (a.2 < b.2)
  else if y.isNan then false
  else if Num.lt x y then isMin
  else if Num.lt y x then !isMin
  else decide (a.2 < b.2)

/-- The winner of a list of candidates. -/
def winner (code : Nat) (isMin : Bool) (l : List Cand) : Option Cand :=
  l.foldl (fun acc c => match acc with
    | some b => if beats code isMin c b then some c else acc
    | none => some c) none

/-- What a faulting element reads as (R165). -/
def faultPat (code : Nat) : Nat := if codeIsInt code then 0 else codeNan code

/-- One result of an ARGX: over the elements at `places`, with those already at the output where merged. -/
def argxOne (e : Nat) (w : Word64) (k : Nat) (places : List (Nat × Nat)) (s0 : State) (v : VeRun) : VeRun :=
  let inn := fld w 12 10
  let out := fld w 22 10
  let code := descFmt s0 e inn
  let base := fld (descWord s0 e (out + 1) 2) 0 32
  let axis := bit w.toNat 9
  let src := VeRun.gather (fun (p : Nat × Nat) v =>
    let x := slotRead s0 e inn p.1 p.2 v
    ((x.1.getD (faultPat code), (base + if axis then p.1 else p.2) % 2 ^ 32), x.2)) places v
  let at0 := if axis then (0, k) else (k, 0)
  let old := if bit w.toNat 10 then
      let a := slotRead src.2.s e out at0.1 at0.2 src.2
      let b := slotRead a.2.s e (out + 1) at0.1 at0.2 a.2
      ([(a.1.getD (faultPat code), b.1.getD 0)], b.2)
    else ([], src.2)
  match winner code (bit w.toNat 8) (src.1 ++ old.1) with
  | some c => slotWrite e (out + 1) at0.1 at0.2 c.2 (slotWrite e out at0.1 at0.2 c.1 old.2)
  | none => old.2

/-- ARGX (R157, R158). -/
def execArgx (e : Nat) (ecc : Ecc) (lane : Bool) (s : State) : Out :=
  onIssue e [0x51] s (fun w s =>
    let s := veSense e (descBase s e (fld w 12 10)) ecc lane s
    if runs s e then
      let rows := fld w 32 16 + 1
      let cols := fld w 48 16 + 1
      veEnd e (if bit w.toNat 9 then
        VeRun.each (List.range cols) (fun j v => argxOne e w j ((List.range rows).map (fun r => (r, j))) s v) { s := s }
      else
        VeRun.each (List.range rows) (fun r v => argxOne e w r ((List.range cols).map (fun j => (r, j))) v.s v) { s := s })
    else s)

/-! ### HSEL (R159, R160) -/

/-- An invalid SEL32 record. -/
def selInvalid : Nat := 0x007FFFFF

/-- A SEL32 record. -/
def selRecord (i d : Nat) : Nat := i % 65536 + 2 ^ 16 * d + 2 ^ 24

/-- The records of one query (R160): accepted sketches by distance, then by index, the first `k`. -/
def hselRecords (k maxDist : Nat) (sk : List (Nat × Nat × Bool)) (q : Nat) : List Nat :=
  let ds := sk.filterMap (fun x =>
    let d := popcount (x.2.1 ^^^ q)
    if x.2.2 || decide (maxDist < d) then none else some (x.1, d))
  let sorted := (List.range 65).flatMap (fun d => ds.filter (fun x => x.2 == d))
  let recs := (sorted.take k).map (fun x => selRecord x.1 x.2)
  recs ++ List.replicate (k - recs.length) selInvalid

/-- A word of SK64 data: a faulting one is zero (R165). -/
def sketchRead (m : State) (e d i : Nat) (v : VeRun) : Nat × VeRun :=
  let o := descBase m e d + ((8 * i : Nat) : Int)
  match slotStage m e d o 8 false with
  | some g => (0, v.note g o)
  | none =>
    if poisoned m .sp o.toNat 8 then (0, { v with psn := true }) else (leVal (readStore m .sp o.toNat 8), v)

/-- HSEL (R159, R160): the nearest sketches of up to eight queries. It has no groups, and all it reads it reads before it writes a record
(log entry 27). -/
def execHsel (e : Nat) (ecc : Ecc) (lane : Bool) (s : State) : Out :=
  onIssue e [0x52] s (fun w s =>
    let sk := fld w 12 10
    let s := veSense e (descBase s e sk) ecc lane s
    if runs s e then
      let n := fld (descWord s e sk 2) 0 16 + 1
      let nq := fld w 8 3 + 1
      let k := fld w 42 8 + 1
      let data := VeRun.gather (fun i v => sketchRead s e sk i v) (List.range n) { s := s }
      let excl := if bit w.toNat 57 then VeRun.gather (fun i v => bitRead s e (sk + 1) 0 i v) (List.range n) data.2 else ([], data.2)
      let qs := VeRun.gather (fun q v => sketchRead s e (fld w 22 10) q v) (List.range nq) excl.2
      let list := (List.range n).map (fun i => (i, data.1.getD i 0, excl.1.getD i false))
      veEnd e (VeRun.each (List.zip (List.range nq) qs.1) (fun x v =>
        let recs := hselRecords k (fld w 50 7) list x.2
        VeRun.each (List.zip (List.range recs.length) recs) (fun ir v => slotWrite e (fld w 32 10) x.1 ir.1 ir.2 v) v) qs.2)
    else s)

/-- VE_ECC_FATAL (R166): a double-bit lane error of a badger that runs. -/
def execVeEccFatal (e : Nat) (s : State) : Out :=
  if engClass e = 1 ∧ engValid e = true ∧ ((seqOf s e).st = .running ∨ (seqOf s e).st = .waiting) then
    .next (engineFatal 0x6202 e [] (modBadger e (fun b => { b with eccFatal := true }) s))
  else .next s

end Sys2Proof.Machine
end

