-- ==== Sys2Proof/Machine/Coding.lean ====
section
/-! DEFINITION. The coding of a frame: packets as flits, header and check, scrambling, the Reed–Solomon code, interleave and levels, and
what a receiver reads from the symbols that arrive (R293 to R296, R329, R356, R394). Choices the spec leaves open: log entry 18. -/

namespace Sys2Proof.Machine

open Sys2Proof

/-! ### Packets as flits (R295, R329, R330, R356, R394, R432) -/

/-- Put bytes over a byte list from an offset. -/
def overlay (l : List Byte) (off : Nat) (d : List Byte) : List Byte := l.take off ++ d ++ l.drop (off + d.length)

/-- The routing header of R329, bits [95:0]. -/
def routeHeader (p : Packet) : Nat :=
  p.vc % 8 + 2 ^ 3 * ((p.flits - 1) % 32) + 2 ^ 8 * (p.ptype % 256) + 2 ^ 16 * (p.dest % 2 ^ 15) + 2 ^ 31 * b2n p.phys +
  2 ^ 32 * (p.source % 2 ^ 15) + 2 ^ 47 * b2n p.flagged + 2 ^ 48 * (p.hops % 8) + 2 ^ 51 * b2n p.escaped + 2 ^ 52 * b2n p.detour +
  2 ^ 53 * b2n p.mcast + 2 ^ 54 * (p.mstage % 4) + 2 ^ 56 * (p.gen % 16) + 2 ^ 60 * (p.cls % 4) + 2 ^ 64 * (p.order % 2 ^ 16) +
  2 ^ 80 * (p.tag % 2 ^ 16)

/-- Whether a packet's length travels in len_minus_1: RD, WR, WR_MC and RED, and mirror and restore data in the form of a WR (R356, R414). -/
def hasLength (t : Nat) : Bool := decide (t = 0 ∨ t = 1 ∨ t = 2 ∨ t = 4 ∨ t = 0x70 ∨ t = 0x71)

/-- Bits [127:96] of a packet by its type (R330, R356, R394). -/
def typeWord (t : Nat) : Body → Nat
  | .mem m =>
    (if hasLength t then ((if t = 0 then m.len else m.data.length) - 1) % 1024 else 0) + 2 ^ 10 * (m.op % 16) + 2 ^ 14 * (m.elem % 8) +
    2 ^ 17 * b2n m.poison + 2 ^ 18 * b2n m.err + 2 ^ 19 * (m.slotGen % 16)
  | .coll c => c.stage % 8 + 2 ^ 3 * (c.die % 8) + 2 ^ 6 * b2n c.partialSum + 2 ^ 19 * (c.slotGen % 16)
  | .msg (.close port line seq reason) => port % 256 + 2 ^ 8 * (line % 256) + 2 ^ 16 * (seq % 256) + 2 ^ 24 * (reason % 256)
  | .msg (.orderSkip n) => n % 2 ^ 16
  | .msg (.orderRetry n) => n % 2 ^ 16
  | .msg (.adopt o t pl) => o % 2 ^ 15 + 2 ^ 16 * (t % 4) + 2 ^ 18 * (pl % 16)
  | .msg _ => 0

/-- Hall time in a packet: 12 bytes (R427). -/
def hallBytes (t : HallTime) : List Byte := leBytes 12 (t.frac % 2 ^ 16 + 2 ^ 16 * (t.ns % 2 ^ 32) + 2 ^ 48 * (t.sec % 2 ^ 48))

/-- Bytes 16 to 31 of a time message (R432). -/
def timeBytes (t : HallTime) (seq st flags : Nat) : List Byte := hallBytes t ++ leBytes 2 seq ++ leBytes 1 st ++ leBytes 1 flags

/-- A message after its routing header. Where the spec lists what a message carries and not where, the bytes are free. -/
def msgBytes : Msg → List Byte
  | .sync q st f | .delayReq q st f => timeBytes {} q st f
  | .follow t q st f | .delayResp t q st f => timeBytes t q st f
  | .masterTake t st f => timeBytes t 0 st f
  | .announce h st f => timeBytes {} h st f
  | .close .. | .orderSkip .. | .orderRetry .. | .adopt .. => []
  | m => Config.msgBytes m

/-- Data flits: the data at its place among whole flits, counted from the address rounded down (R356). -/
def dataFlits (at' n : Nat) (d : List Byte) : List Byte := slice (List.replicate at' 0 ++ d) 0 (64 * n)

/-- A packet as flits (R295). The L1 a coherence message names has no place in the spec's layout (log entry 18). -/
def packetBytes (p : Packet) : List Byte :=
  let head := leBytes 16 (routeHeader p + 2 ^ 96 * typeWord p.ptype p.body)
  match p.body with
  | .mem m =>
    let a := m.addr.toNat
    let first := head ++ leBytes 8 a ++ leBytes 16 m.operand.toNat ++ leBytes 16 m.extra.toNat ++ List.replicate 8 0
    if p.flits ≤ 1 then
      if m.data.isEmpty then first else overlay first (32 + a % 32) (m.data.take 32)
    else first ++ dataFlits (if p.ptype < 0x40 then a % 64 else 0) (p.flits - 1) m.data
  | .coll c =>
    head ++ leBytes 4 c.seq ++ leBytes 4 c.digest ++ leBytes 4 c.sender ++ leBytes 4 c.offset ++ leBytes 4 c.elements ++
      List.replicate 4 0 ++ leBytes 16 c.extra.toNat ++ List.replicate 8 0 ++ dataFlits 0 (p.flits - 1) c.data
  | .msg m => slice (head ++ msgBytes m) 0 (64 * p.flits)

/-! ### The frame message (R293 to R295) -/

/-- The code of a frame's kind. -/
def kindCode : FrameKind → Nat
  | .idle => 0 | .data => 1 | .train => 2

/-- Bits [63:0] of a frame header (R294). -/
def headerWord (f : Frame) : Nat :=
  kindCode f.kind + 2 ^ 2 * b2n f.nak + 2 ^ 3 * b2n f.swapReq + 2 ^ 4 * b2n f.marked + 2 ^ 5 * b2n f.notice + 2 ^ 6 * (f.line % 32) +
  2 ^ 11 * (f.sender % 2 ^ 15) + 2 ^ 26 * (f.port % 32) + 2 ^ 31 * b2n f.rateAdapt + 2 ^ 32 * (f.seq % 256) + 2 ^ 40 * (f.ack % 256) +
  2 ^ 48 * (f.creditVc % 8) + 2 ^ 51 * (f.credit % 2 ^ 11) + 2 ^ 62 * b2n f.closing

/-- The fields of a header, none for the reserved kind (R294). -/
def readHeader (w : Nat) : Option Frame :=
  (match bits w 0 2 with
    | 0 => some FrameKind.idle
    | 1 => some .data
    | 2 => some .train
    | _ => none).map (fun kind =>
    { kind := kind, nak := bit w 2, swapReq := bit w 3, marked := bit w 4, notice := bit w 5, line := bits w 6 5, sender := bits w 11 15
      port := bits w 26 5, rateAdapt := bit w 31, seq := bits w 32 8, ack := bits w 40 8, creditVc := bits w 48 3
      credit := bits w 51 11, closing := bit w 62 })

/-- The payload of a frame: 20 flits (R295, R299). A first byte of 7 ends a frame's packets. -/
def payloadBytes (f : Frame) : List Byte :=
  match f.kind with
  | .train => BitVec.ofNat 8 f.trainByte :: (List.range 1279).map (fun i => Config.trainPattern (i + 1))
  | _ => slice ((f.packets.map packetBytes).flatten ++ [7]) 0 1280

/-- The frame message: header bytes 0 to 9 with the check over the rest, then the payload (R293, R294). -/
def frameMessage (f : Frame) : List Byte :=
  let h := leBytes 8 (headerWord f)
  let b := payloadBytes f
  h ++ leBytes 2 (crc16 (h ++ b)) ++ b

/-- Whether the check of a frame message holds (R294). -/
def checkHolds (m : List Byte) : Bool := leAt m 8 2 == crc16 (m.take 8 ++ m.drop 10)

/-! ### Scrambling (R293) -/

/-- One step of the sequence x³¹ + x²⁸ + 1: its next bit is the sum of the bits 28 and 31 before it. -/
def scramStep (r : Nat) : Nat := (2 * r + (bits r 30 1 ^^^ bits r 27 1)) % 2 ^ 31

/-- The first `n` bits of the sequence after a register, as a number with the first bit lowest. -/
def scramBits : Nat → Nat → Nat
  | 0, _ => 0
  | n + 1, r => let r' := scramStep r; r' % 2 + 2 * scramBits n r'

/-- The register after `n` steps. -/
def scramAfter : Nat → Nat → Nat
  | 0, r => r
  | n + 1, r => scramAfter n (scramStep r)

/-- The bits of a frame message. -/
def messageBits : Nat := 10320

/-! ### The Reed–Solomon code over GF(2^10) (R293) -/

/-- Multiply by x modulo x¹⁰ + x³ + 1. -/
def gfDouble (a : Nat) : Nat := if 512 ≤ a % 1024 then (2 * a % 1024) ^^^ 9 else 2 * a % 1024

/-- Multiply in the field, by the bits of the second factor from bit `n - 1`. -/
def gfMulBits : Nat → Nat → Nat → Nat
  | 0, _, _ => 0
  | n + 1, a, b => (if b % 2 = 1 then a else 0) ^^^ gfMulBits n (gfDouble a) (b / 2)

/-- Multiply in the field. -/
def gfMul (a b : Nat) : Nat := gfMulBits 10 (a % 1024) (b % 1024)

/-- A power in the field, of exponents below 1,024, by squaring. -/
def gfPowBits : Nat → Nat → Nat → Nat
  | 0, _, _ => 1
  | n + 1, a, e => gfMul (if e % 2 = 1 then a else 1) (gfPowBits n (gfMul a a) (e / 2))

/-- A power of the primitive element α = x. -/
def gfAlpha (e : Nat) : Nat := gfPowBits 10 2 (e % 1023)

/-- The inverse in the field. -/
def gfInv (a : Nat) : Nat := gfPowBits 10 a 1022

/-- The value of a polynomial, lowest coefficient first. -/
def gfEval (p : List Nat) (x : Nat) : Nat := p.foldr (fun c acc => c ^^^ gfMul acc x) 0

/-- The sum of two polynomials. -/
def gfAdd : List Nat → List Nat → List Nat
  | [], q => q
  | p, [] => p
  | a :: p, b :: q => (a ^^^ b) :: gfAdd p q

/-- A polynomial times a constant. -/
def gfScale (c : Nat) (p : List Nat) : List Nat := p.map (gfMul c)

/-- The product of two polynomials. -/
def gfTimes : List Nat → List Nat → List Nat
  | [], _ => []
  | a :: p, q => gfAdd (gfScale a q) (0 :: gfTimes p q)

/-- The generator ∏ (x − αⁱ), i from 0 to 13, highest coefficient first and without it. -/
def rsGenerator : List Nat :=
  (((List.range 14).foldl (fun g i => gfTimes [gfAlpha i, 1] g) [1]).reverse).drop 1

/-- The 14 parity symbols of a message, first symbol at the highest power. -/
def rsParity (msg : List Nat) : List Nat :=
  msg.foldl (fun r m =>
    let fb := m ^^^ r.headD 0
    gfAdd (r.drop 1 ++ [0]) (gfScale fb rsGenerator)) (List.replicate 14 0)

/-- The symbol at a place of a message. -/
def symbolAt (m i : Nat) : Nat := bits m (10 * i) 10

/-- The codewords of a scrambled frame message: message symbol m is position m div 4 of codeword m mod 4. -/
def codewords (m : Nat) : List (List Nat) :=
  (List.range 4).map (fun w =>
    let msg := (List.range 258).map (fun i => symbolAt m (4 * i + w))
    msg ++ rsParity msg)

/-- The 1,088 symbols of a frame: symbol j is position j div 4 of codeword j mod 4. `scram` is the register of the lane's scrambler
before the frame, none before the lane is UP. -/
def frameSymbols (f : Frame) (scram : Option Nat) : List Nat :=
  let m := leVal (frameMessage f)
  let cs := codewords (match scram with
    | some r => m ^^^ scramBits messageBits r
    | none => m)
  (List.range 1088).map (fun j => ((cs.getD (j % 4) []).getD (j / 4) 0))

/-- The Gray level of a bit pair: 00, 01, 11, 10. -/
def grayLevel (b : Nat) : Nat := [0, 1, 3, 2].getD (b % 4) 0

/-- The levels of a frame: five for each symbol, bit pairs from the most significant. -/
def frameLevels (f : Frame) (scram : Option Nat) : List Nat :=
  ((frameSymbols f scram).map (fun y => [8, 6, 4, 2, 0].map (fun i => grayLevel (bits y i 2)))).flatten

/-! ### Receiving (R293, R296) -/

/-- The errors of one codeword by position, summed: `errs` gives frame symbols and the values added to them. -/
def wordErrors (errs : List (Nat × Nat)) (w : Nat) : SMap Nat :=
  (errs.filter (fun e => decide (e.1 < 1088) && e.1 % 4 == w)).foldl
    (fun m e => SMap.modify 0 m (e.1 / 4) (fun v => v ^^^ (e.2 % 1024))) []

/-- The 14 syndromes of an error pattern; the code is linear, so they are those of the word received. -/
def syndromes (es : SMap Nat) : List Nat :=
  (List.range 14).map (fun j => (es.map (fun e => gfMul e.2 (gfAlpha (j * (271 - e.1))))).foldl (· ^^^ ·) 0)

/-- The shortest recurrence of the syndromes (Berlekamp–Massey): the locator polynomial, lowest coefficient first, and its length.
`b` and `db` are the locator and the discrepancy before the last change of length, `m` the steps since. -/
def locatorLoop (ss : List Nat) : Nat → Nat → List Nat → List Nat → Nat → Nat → Nat → List Nat × Nat
  | 0, _, c, _, l, _, _ => (c, l)
  | f + 1, n, c, b, l, m, db =>
    let d := ((List.range (l + 1)).map (fun i => gfMul (c.getD i 0) (if i ≤ n then ss.getD (n - i) 0 else 0))).foldl (· ^^^ ·) 0
    if d = 0 then locatorLoop ss f (n + 1) c b l (m + 1) db
    else
      let c' := gfAdd c (gfScale (gfMul d (gfInv db)) (List.replicate m 0 ++ b))
      if 2 * l ≤ n then locatorLoop ss f (n + 1) c' c (n + 1 - l) 1 d
      else locatorLoop ss f (n + 1) c' b l (m + 1) db

/-- What the decoder of a codeword adds to it: the positions and values of at most 7 errors with these syndromes, or none where it finds
no such pattern and the codeword is uncorrectable. -/
def rsCorrection (ss : List Nat) : Option (List (Nat × Nat)) :=
  if ss.all (· == 0) then some []
  else
    let r := locatorLoop ss 14 0 [1] [1] 0 1 1
    let loc := r.1.take (r.2 + 1)
    let omega := (gfTimes ss loc).take 14
    let deriv := (List.range r.2).map (fun i => if i % 2 = 0 then loc.getD (i + 1) 0 else 0)
    let found := (List.range 272).filterMap (fun i =>
      let x := gfAlpha (271 - i)
      if gfEval loc (gfInv x) = 0 then
        some (i, gfMul (gfMul x (gfEval omega (gfInv x))) (gfInv (gfEval deriv (gfInv x))))
      else none)
    if 7 < r.2 ∨ found.length ≠ r.2 then none
    else if syndromes found == ss then some found else none

/-- What is left of an error pattern after the decoder's correction. -/
def residue (es : SMap Nat) (found : List (Nat × Nat)) : SMap Nat :=
  found.foldl (fun m e => SMap.modify 0 m e.1 (fun v => v ^^^ e.2)) es

/-- One codeword's outcome: symbols corrected, or uncorrectable; and what the decoder leaves wrong. -/
def wordOutcome (errs : List (Nat × Nat)) (w : Nat) : Option (Nat × SMap Nat) :=
  let es := wordErrors errs w
  if es.isEmpty then some (0, [])
  else (rsCorrection (syndromes es)).map (fun found => (found.length, residue es found))

/-- The outcomes of a frame's four codewords. -/
def wordOutcomes (errs : List (Nat × Nat)) : List (Option (Nat × SMap Nat)) := (List.range 4).map (wordOutcome errs)

/-- Symbols the code corrected in a frame (R307). -/
def correctedSymbols (errs : List (Nat × Nat)) : Nat := ((wordOutcomes errs).map (fun o => (o.map (·.1)).getD 0)).foldl (· + ·) 0

/-- Uncorrectable codewords of a frame. -/
def badWords (errs : List (Nat × Nat)) : Nat := ((wordOutcomes errs).filter (·.isNone)).length

/-- What the decoder leaves wrong in a frame's message, as a number to be added to it. -/
def messageResidue (errs : List (Nat × Nat)) : Nat :=
  ((List.range 4).map (fun w => match wordOutcome errs w with
    | some o => ((o.2.filter (fun e => decide (e.1 < 258))).map (fun e => e.2 * 2 ^ (10 * (4 * e.1 + w)))).foldl (· + ·) 0
    | none => 0)).foldl (· + ·) 0

/-- The frame a receiver reads from a frame sent and the errors on its symbols, where every codeword is corrected or free of errors: none
where its check fails or its kind is reserved. A frame the decoder restored is the one sent; `read` is what is read as packets where the
payload was restored wrongly (log entry 18). -/
def readFrame (f : Frame) (errs : List (Nat × Nat)) (read : List Packet) : Option Frame :=
  let x := messageResidue errs
  if x = 0 then some f
  else
    let m := leBytes 1290 (leVal (frameMessage f) ^^^ x)
    if checkHolds m then
      (readHeader (leAt m 0 8)).map (fun g =>
        { g with
          trainByte := (m.getD 10 0).toNat
          packets := if g.kind ≠ .data then [] else if m.drop 10 == payloadBytes f then f.packets else read })
    else none

end Sys2Proof.Machine
end

