-- ==== Sys2Proof/Machine/Lanes.lean ====
section
/-! DEFINITION. Rings and lanes: which rings carry a lane, how lanes are named, dropped, closed, reacquired and held. -/

namespace Sys2Proof.Machine

open Sys2Proof

/-! ### Tiles and rings -/

/-- The tile of a port (R23). -/
def tileOfPort (n : Nat) : Nat :=
  if n < 16 then n / 2 else if n < 24 then (n - 16) / 2 else if n < 28 then n - 20 else n - 24

/-- A tile; tile 8 stands for nothing here: the host link's feeds are the hub's. -/
def tileOf (s : State) (k : Nat) : Tile := SMap.get {} s.fab.tiles k
/-- Change a tile. -/
def modTile (k : Nat) (f : Tile → Tile) (s : State) : State :=
  { s with fab := { s.fab with tiles := SMap.modify {} s.fab.tiles k f } }

/-- The key of a ring: port, bus and number. -/
def ringKey (port : Nat) (rx : Bool) (r : Nat) : Nat := port * 32 + b2n rx * 16 + r
/-- A ring. -/
def ringOf (s : State) (port : Nat) (rx : Bool) (r : Nat) : Ring := SMap.get {} s.fab.rings (ringKey port rx r)
/-- Change a ring. -/
def modRing (port : Nat) (rx : Bool) (r : Nat) (f : Ring → Ring) (s : State) : State :=
  { s with fab := { s.fab with rings := SMap.modify {} s.fab.rings (ringKey port rx r) f } }

/-- The port and transmit line of a lane key. -/
def lanePort (k : Nat) : Nat := k / 32
/-- The transmit line of a lane key. -/
def laneLine (k : Nat) : Nat := k % 32
/-- The line a lane receives on: the negative of its transmit line (R292). -/
def rxLine (k : Nat) : Nat := (32 - laneLine k) % 32

/-- The ring of a lane on a bus. -/
def laneRing (l : Lane) (rx : Bool) : Nat := if rx then l.rxRing else l.txRing

/-- The lanes of a port. -/
def portLanes (s : State) (port : Nat) : List (Nat × Lane) := s.fab.lanes.filter (fun e => lanePort e.1 == port)

/-- Whether a ring of a bus may be used: not faulty, not disabled (R289, R318). -/
def ringUsable (s : State) (port : Nat) (rx : Bool) (r : Nat) : Bool :=
  let p := portOf s port
  !(bit (if rx then p.rxFaulty else p.txFaulty) r) && !(bit (if rx then p.admin.rxDis else p.admin.txDis) r)

/-- The lowest ring of a bus that is usable, not the spare and on no lane (R290: the device chooses). -/
def pickRing (s : State) (port : Nat) (rx : Bool) : Option Nat :=
  let p := portOf s port
  (List.range 9).find? (fun r =>
    ringUsable s port rx r && decide (r ≠ (if rx then p.rxSpare else p.txSpare)) &&
    !(portLanes s port).any (fun e => laneRing e.2 rx == r))

/-- The spare of a bus. -/
def spareRing (s : State) (port : Nat) (rx : Bool) : Nat := if rx then (portOf s port).rxSpare else (portOf s port).txSpare

/-- The ring a lane takes on a bus, and whether the spare moves with it (R290, R291): its own, or the spare where it stands verified on
the line and another ring is free to become the spare, or the lowest free one. -/
def ringFor (s : State) (port : Nat) (rx : Bool) (own line : Nat) : Option (Nat × Option Nat) :=
  if own ≠ 15 ∧ ringUsable s port rx own = true then some (own, none)
  else
    let sp := spareRing s port rx
    match pickRing s port rx with
    | some r =>
      let g := ringOf s port rx sp
      if sp < 9 ∧ ringUsable s port rx sp = true ∧ g.state = .verified ∧ g.line = line then some (sp, some r) else some (r, none)
    | none => none

/-- The spare of a bus moves to another ring. -/
def moveSpareRole (port : Nat) (rx : Bool) (r : Option Nat) (s : State) : State :=
  match r with
  | some r => modPort port (fun p => if rx then { p with rxSpare := r } else { p with txSpare := r }) s
  | none => s

/-- Order a ring to a line (R287). -/
def tuneRing (port : Nat) (rx : Bool) (r line : Nat) (s : State) : State :=
  if r = 15 then s else modRing port rx r (fun g =>
    if g.state = .faulty ∨ (g.line = line ∧ g.state ≠ .parked) then g else { state := .tuning, line := line }) s

/-- Park a ring at the reference edge (R291). -/
def parkRing (port : Nat) (rx : Bool) (r : Nat) (s : State) : State :=
  if r = 15 then s else modRing port rx r (fun g => if g.state = .faulty then g else {}) s

/-- Whether a lane's two rings are verified (R288). -/
def ringsReady (s : State) (k : Nat) : Bool :=
  let l := laneOf s k
  decide (l.txRing ≠ 15) && decide (l.rxRing ≠ 15) &&
  decide ((ringOf s (lanePort k) false l.txRing).state = .verified) &&
  decide ((ringOf s (lanePort k) true l.rxRing).state = .verified)

/-- Whether a port is out of service by administration (R318, R320, R543). -/
def portDisabled (s : State) (port : Nat) : Bool := (portOf s port).admin.portDis || (portOf s port).mgmtDis

/-- Whether one of a lane's own rings is disabled (R298, R318). -/
def ringsDisabled (s : State) (k : Nat) : Bool :=
  let l := laneOf s k
  let a := (portOf s (lanePort k)).admin
  (decide (l.txRing < 9) && bit a.txDis l.txRing) || (decide (l.rxRing < 9) && bit a.rxDis l.rxRing)

/-- Whether a lane is out of service by administration: its port or ring is disabled, or its tile has no power (R298, R464). -/
def laneDisabled (s : State) (k : Nat) : Bool :=
  portDisabled s (lanePort k) || ringsDisabled s k ||
  decide ((SMap.get {} s.power.domains (16 + tileOfPort (lanePort k))).st ≠ .on)

/-- Begin the cabling check of a port that starts training: its spare rings tune to line 0 (R323). -/
def startCabling (port : Nat) (s : State) : State :=
  let p := portOf s port
  if p.cabled || p.cabling then s
  else
    let tune := fun (rx : Bool) (r : Nat) (s : State) => if r < 9 then tuneRing port rx r 0 s else s
    tune true p.rxSpare (tune false p.txSpare (modPort port (fun p => { p with cabling := true }) s))

/-! ### Naming, starting and dropping lanes (R298) -/

/-- The link state of a lane before it reaches UP: fresh counters, no frames (R299). -/
def Lane.fresh (l : Lane) : Lane :=
  { l with nextTx := 0, nextRx := 0, unacked := [], nakDue := false, nakSent := false, rxTrain := 0, rxTrain1 := 0
           txTrain1 := 0, txOne := false, farTrain := false, closing := none, repair := none, markedFlag := false, swapReq := false
           farSwap := false, swapWanted := false, farRateAdapt := false, wrongIdent := 0 }

/-- Move a lane to TUNING or on to ACQUIRING, or say why it cannot start (R298). A disabled lane stays in ADMIN, and one whose hold has not
ended is HELD. No lane acquires before its port's cabling check has passed (R323). With no ring free a lane waits in TUNING while another
lane of the port closes (R290, R305). -/
def tuneLane (k : Nat) (s : State) : State :=
  let port := lanePort k
  if laneDisabled s k then modLane k (fun l => { l.fresh with state := .admin, downReason := 7 }) s
  else if (laneOf s k).holdDue then modLane k (fun l => { l.fresh with state := .held }) s
  else if (portOf s port).cablingTried && !(portOf s port).cabled then
    modLane k (fun l => { l.fresh with state := .down, downReason := 4 }) s
  else if (tileOf s (tileOfPort port)).active = 2 then modLane k (fun l => { l.fresh with state := .down, downReason := 6 }) s
  else
    let s := startCabling port s
    let l := laneOf s k
    match ringFor s port false l.txRing (laneLine k), ringFor s port true l.rxRing (rxLine k) with
    | some (t, t'), some (r, r') =>
      let s := moveSpareRole port true r' (moveSpareRole port false t' s)
      let s := modLane k (fun l => { l.fresh with txRing := t, rxRing := r, state := .tuning }) s
      let s := tuneRing port true r (rxLine k) (tuneRing port false t (laneLine k) s)
      if ringsReady s k && (portOf s port).cabled then modLane k (fun l => { l with state := .acquiring }) s else s
    | _, _ =>
      if (portLanes s port).any (fun e => decide (e.2.state = .closing)) then
        modLane k (fun l => { l.fresh with txRing := 15, rxRing := 15, state := .tuning }) s
      else modLane k (fun l => { l.fresh with state := .down, downReason := 5 }) s

/-- Name a lane to a far position: an unused lane starts (R298, R349). -/
def nameLane (port far : Nat) (s : State) : State :=
  let me := s.fab.position
  let t := portTier port
  if !sameGroup t me far then s
  else
    let k := laneKey port (lineTo t me far)
    let l := laneOf s k
    let s := modLane k (fun l => { l with named := true, far := far }) s
    if l.state = .unused then tuneLane k s else s

/-- Release a lane's rings. -/
def releaseRings (k : Nat) (s : State) : State :=
  let l := laneOf s k
  let s := parkRing (lanePort k) true l.rxRing (parkRing (lanePort k) false l.txRing s)
  modLane k (fun l => { l with txRing := 15, rxRing := 15 }) s

/-- Lanes of a port that wait in TUNING for a ring try again. -/
def tuneWaiting (port : Nat) (s : State) : State :=
  forEach (((portLanes s port).filter (fun e => decide (e.2.state = .tuning) && decide (e.2.txRing = 15 ∨ e.2.rxRing = 15))).map (·.1)) tuneLane s

/-- Make a lane unused: its rings are free and its packets go by other ways (R298, R305). -/
def unuseLane (k : Nat) (s : State) : State :=
  let q := (laneOf s k).queue
  let s := releaseRings k s
  let s := modLane k (fun l => { l.fresh with state := .unused, queue := [], far := l.far, named := false }) s
  handBack (laneOf s k).far q (tuneWaiting (lanePort k) s)

/-- The set in force no longer names a lane: a planned close from UP or MARKED, else UNUSED (R298, R305). -/
def dropLane (k : Nat) (s : State) : State :=
  let l := laneOf s k
  match l.state with
  | .up | .marked => modLane k (fun l => { l with named := false, state := .closing, closing := some { planned := true, reason := 0 } }) s
  | .held => tuneWaiting (lanePort k) (releaseRings k (modLane k (fun l => { l with named := false }) s))
  | .closing => modLane k (fun l => { l with named := false }) s
  | .unused => modLane k (fun l => { l with named := false }) s
  | _ => unuseLane k s

/-- Old tree lanes of a tier close once every lane of the new tree in it has reached UP (R349). -/
def settleTree (t : Nat) (s : State) : State :=
  let old := s.fab.oldTree.filter (fun k => decide (portTier (lanePort k) = t))
  if !old.isEmpty && s.fab.lanes.all (fun e =>
      !e.2.named || decide (portTier (lanePort e.1) ≠ t) || old.contains e.1 || decide (e.2.state = .up ∨ e.2.state = .marked)) then
    forEach old dropLane { s with fab := { s.fab with oldTree := s.fab.oldTree.filter (fun k => decide (portTier (lanePort k) ≠ t)) } }
  else s

/-- Apply a lane set: name what it names, drop the rest except lanes to keep (R27, R290, R305). -/
def applyLanes (set : List (Nat × Nat)) (keep : Nat → Bool) (s : State) : State :=
  let me := s.fab.position
  let keys := set.map (fun e => laneKey e.1 (lineTo (portTier e.1) me e.2))
  let old := (s.fab.lanes.filter (fun e => e.2.named && !keys.contains e.1 && !keep e.1)).map (·.1)
  forEach set (fun e s => nameLane e.1 e.2 s) (forEach old dropLane s)

/-! ### Closes (R305, R306, R312, R313) -/

/-- Where a lane goes once its close is complete (R298, R306, R311, R313): HELD where a hold is due, named or not; DOWN where no ring or no
identity is left at this end (R289); else it tunes again, or is UNUSED. Its packets go back to the fabric. -/
def afterClose (k : Nat) (s : State) : State :=
  let l := laneOf s k
  let c := (l.closing).getD { planned := true, reason := 0 }
  let s := modLane k (fun l => { l.fresh with queue := [], downReason := c.reason, holdDue := c.hold.isSome }) s
  let s :=
    if c.hold.isSome then
      modLane k (fun l => { l with state := if laneDisabled s k then .admin else .held })
        (if l.named then s else tuneWaiting (lanePort k) (releaseRings k s))
    else if !l.named then unuseLane k s
    else if c.down then modLane k (fun l => { l with state := .down }) s
    else tuneLane k s
  handBack l.far l.queue s

/-- Count a flap (R307, R313), and say for how long it holds the lane: with more than 3 flaps in 60 s that are no part of a burst (R308), or
after a take-out for at least 10 s (R311). -/
def countFlap (k : Nat) (burst takeOut : Bool) (s : State) : Option Nat × State :=
  let l := laneOf s k
  let now := nowNs s
  let times := if burst then l.flapTimes else now :: l.flapTimes.filter (fun t => decide (now < t + 60000000000))
  let hold := if takeOut then some (max 10 l.holdTime) else if !burst ∧ 3 < times.length then some l.holdTime else none
  let s := modLane k (fun l => { l with
    flaps := satAdd 32 l.flaps 1, flapTimes := times, lastFlap := some now
    holdTime := if hold.isSome then min (l.holdTime * 2) 640 else l.holdTime
    holdLevel := if hold.isSome then min (l.holdLevel + 1) 6 else l.holdLevel }) s
  (hold, match hold with
    | some h => logEvent 0x7205 srcDevice [(8, h)] s
    | none => s)

/-- An unplanned close: the lane leaves service and names its last frame to the far end (R306, R307, R312). `own` says that this end observed
the reason itself: its own loss of light and its own disables are no flaps. `burst` is R308's class of a loss of frame. -/
def unplannedClose (k reason : Nat) (own burst : Bool) (s : State) : State :=
  let l := laneOf s k
  if !(decide (l.state = .up) || decide (l.state = .marked) || (decide (l.state = .closing) && (l.closing.map (·.planned)).getD false)) then s
  else
    let s := if reason = 1 ∨ reason = 2 ∨ reason = 4 then
      logEvent 0x7202 srcDevice [(4, lanePort k), (4, laneLine k), (2, l.far), (2, reason)] s else s
    let x := if own ∧ (reason = 6 ∨ reason = 7) then (none, s) else countFlap k burst (reason == 3) s
    let s := modLane k (fun l => { l with
      state := .closing, closing := some { planned := false, reason := reason, hold := x.1 }, downReason := reason, repair := none }) x.2
    sendMsgPos (.close (lanePort k) (laneLine k) ((l.nextRx + 255) % 256) reason) l.far s

/-- A lane whose close is under way goes DOWN once it is complete. -/
def downAfterClose (k : Nat) (s : State) : State :=
  modLane k (fun l => { l with closing := l.closing.map (fun c => { c with down := true }) }) s

/-- A lane leaves service because of its own ring (R289): one in service closes, one that acquires waits in TUNING. -/
def ringLaneOut (k reason : Nat) (s : State) : State :=
  match (laneOf s k).state with
  | .up | .marked => unplannedClose k reason true false s
  | .acquiring => modLane k (fun l => { l.fresh with state := .tuning }) s
  | _ => s

/-- VC3 packets queued for a lane move to another lane of the same route or to the escape route (R310). -/
def moveUrgent (k : Nat) (s : State) : State :=
  let q := (laneOf s k).queue
  handBack (laneOf s k).far (q.filter (fun p => p.vc == 3)) (modLane k (fun l => { l with queue := q.filter (fun p => p.vc != 3) }) s)

/-- Mark a pair for take-out (R310): VC3 leaves it. The detecting end says so in its frames. -/
def markLane (k : Nat) (detecting : Bool) (s : State) : State :=
  let l := laneOf s k
  if l.state = .up ∨ l.state = .marked then
    moveUrgent k (modLane k (fun l => { l with state := .marked, markedFlag := l.markedFlag || detecting }) s)
  else s

/-- Put the spare of a bus on a lane's line for a move (R291, R311): the spare tunes to the line. -/
def preTuneSpare (k : Nat) (rx : Bool) (s : State) : State :=
  let p := portOf s (lanePort k)
  let sp := if rx then p.rxSpare else p.txSpare
  tuneRing (lanePort k) rx sp (if rx then rxLine k else laneLine k) s

/-- Whether a port's bus has a usable spare. -/
def hasSpare (s : State) (port : Nat) (rx : Bool) : Bool :=
  let p := portOf s port
  let sp := if rx then p.rxSpare else p.txSpare
  decide (sp < 9) && ringUsable s port rx sp

/-- Begin a step of a repair, passing over a step whose spare is missing; after the last step the pair is taken out (R311, R312). -/
def repairStep (k step rule : Nat) (s : State) : State :=
  let l := laneOf s k
  let tried := (l.repair.map (·.tried)).getD [l.rxRing]
  if step = 1 ∧ hasSpare s (lanePort k) true then
    preTuneSpare k true (modLane k (fun l => { l with repair := some { step := 1, rule := rule, tried := tried } }) s)
  else if step ≤ 2 then
    modLane k (fun l => { l with swapReq := true, repair := some { step := 2, rule := rule, tried := tried } }) s
  else
    let s := logEvent 0x7206 srcDevice ((2, rule) :: tried.map (fun r => (4, r))) s
    unplannedClose k 3 true false s

/-- A lane crosses a mark rule (R310, R311): a repair in progress sees it in its observation; else this end marks the pair, the far end's mark
notwithstanding, and begins the repair. -/
def crossMark (k rule : Nat) (s : State) : State :=
  let l := laneOf s k
  if l.repair.isSome then modLane k (fun l => { l with repair := l.repair.map (fun r => { r with crossed := true }) }) s
  else if l.state = .up ∨ l.state = .marked then repairStep k 1 rule (markLane k true s)
  else s

end Sys2Proof.Machine
end

