-- ==== Sys2Proof/Machine/Optical.lean ====
section
/-! DEFINITION. The optical commands: laser feeds, rings, spares, closes, repairs and the checks of lanes (optical ports and lanes). -/

namespace Sys2Proof.Machine

open Sys2Proof

/-! ### Laser feeds (R283 to R285) -/

/-- Healthy: average power at least +6.0 dBm, weakest line at least +4.0 dBm, last tone check passed (R283). -/
def feedHealthy (f : Feed) : Bool := decide (96 ≤ f.avg) && decide (64 ≤ f.minLine) && f.tones

/-- The feeds of a tile, or of the host link as tile 8 (R515). -/
def feedOf (s : State) (k : Nat) (b : Bool) : Feed :=
  if k = 8 then (if b then s.hub.feedB else s.hub.feedA)
  else (if b then (tileOf s k).b else (tileOf s k).a)

/-- Write a feed of a tile or of the host link. -/
def setFeed (k : Nat) (b : Bool) (f : Feed) (s : State) : State :=
  if k = 8 then { s with hub := if b then { s.hub with feedB := f } else { s.hub with feedA := f } }
  else modTile k (fun t => if b then { t with b := f } else { t with a := f }) s

/-- The active feed: 0 A, 1 B, 2 none. -/
def activeFeed (s : State) (k : Nat) : Nat := if k = 8 then s.hub.feedActive else (tileOf s k).active

/-- Name the active feed. -/
def setActive (k a : Nat) (s : State) : State :=
  if k = 8 then { s with hub := { s.hub with feedActive := a } } else modTile k (fun t => { t with active := a }) s

/-- Whether a feed may be used: healthy and not disabled (R283, R317). -/
def feedUsable (s : State) (k : Nat) (b : Bool) : Bool :=
  (feedOf s k b).ok && (decide (k = 8) || !(if b then (tileOf s k).ctl.bDis else (tileOf s k).ctl.aDis))

/-- A power in 1/16 dBm as 16 bits. -/
def powerBits (z : Int) : Nat := ofInt 16 z

/-- Whether the tile's projection engine has work: a binding in the running phase, or an analog context homed on the die (R285). -/
def tileHasPpeWork (s : State) (k : Nat) : Bool :=
  planRuns s &&
  ((mySections s).binds.any (fun b => b.engine == engId 5 k 0 && decide (b.first ≤ s.run.phase) && decide (s.run.phase ≤ b.last)) ||
   (mySections s).streams.any (fun r => !r.digital && !((s.run.plan.map (·.repro)).getD false) &&
     (List.range r.count).any (fun i => ctxDie (r.first + i) == k)))

/-- Switch to the other feed: the count and the record, and the link vector for the host link (R284, R515, R522). A projection engine
at work pauses and records it (R281). -/
def switchFeed (k : Nat) (feed : Bool) (s : State) : State :=
  let s := setActive k (b2n feed) s
  if k = 8 then
    let s := { s with hub := { s.hub with switches := satAdd 16 s.hub.switches 1 } }
    msixSend s.hub.vLink (logEvent 0x1202 srcDevice [(8, powerBits s.hub.feedA.avg), (8, powerBits s.hub.feedB.avg)] s)
  else
    let s := modTile k (fun t => { t with switches := satAdd 32 t.switches 1, failover := true, switchedAt := nowNs s }) s
    let s := logEvent 0x7002 srcDevice [(4, k), (8, powerBits (tileOf s k).a.avg), (8, powerBits (tileOf s k).b.avg)] s
    if tileHasPpeWork s k then
      logEvent 0x7A20 (engId 5 k 0) [(4, 1 - b2n feed), (4, b2n feed)]
        { s with units := { s.units with ppe := SMap.modify {} s.units.ppe k (fun p => { p with feedSwitch := true }) } }
    else s

/-- A feed becomes the active one where none was: the tile's lanes reacquire (R285, R317). -/
def startFeed (k : Nat) (b : Bool) (s : State) : State :=
  let s := setActive k (b2n b) s
  let ks := (s.fab.lanes.filter (fun e => tileOfPort (lanePort e.1) == k && decide (e.2.state = .down) && decide (e.2.downReason = 6))).map (·.1)
  forEach ks tuneLane s

/-- A feed has become healthy: it is active where none was, it takes over at once from an active feed that is not healthy, and else it is
the standby (R283, R285). -/
def feedBack (k : Nat) (b : Bool) (s : State) : State :=
  if !feedUsable s k b then s
  else if activeFeed s k = 2 then startFeed k b s
  else if activeFeed s k ≠ b2n b ∧ feedUsable s k (!b) = false then switchFeed k b s
  else s

/-- No healthy feed is left: every lane of the tile closes, and a projection engine at work makes the device lost (R285). -/
def feedNone (k : Nat) (s : State) : State :=
  let s := logEvent 0x7003 srcDevice [] (setActive k 2 s)
  let ks := (s.fab.lanes.filter (fun e => tileOfPort (lanePort e.1) == k)).map (·.1)
  let work := tileHasPpeWork s k
  let s := forEach ks (fun i s => unplannedClose i 6 true false s) s
  if work then epochFault 0x7003 (engId 5 k 0) true s else s

/-- After a feed stopped being usable: fail over if it was active and the standby is healthy, else carry on or close (R284, R285). -/
def feedGone (k : Nat) (b lost : Bool) (s : State) : State :=
  if activeFeed s k ≠ b2n b then s
  else if feedUsable s k (!b) then switchFeed k (!b) s
  else if !lost then s
  else if k = 8 then setActive 8 2 s
  else feedNone k s

/-- TONE_CHECK (R283, R285): the 2 ms check of a feed's identification tones; `line` is the first failing line. -/
def execToneCheck (k : Nat) (b passed : Bool) (line : Nat) (s : State) : Out :=
  let f := feedOf s k b
  let f' := { f with tones := passed }
  let s := setFeed k b { f' with ok := feedHealthy f' } s
  if !passed && f.tones then
    .next (feedGone k b false (logEvent 0x7004 srcDevice [(4, k), (4, b2n b), (4, line)] s))
  else if passed && !f.ok && feedHealthy f' then .next (feedBack k b (logEvent 0x7006 srcDevice [] s))
  else .next s

/-- LASER_FEED_LOST (R284, R285): a feed's power stayed below +4 dBm for 1 us; `avg` and `low` are its powers in 1/16 dBm. -/
def execLaserFeedLost (k : Nat) (b : Bool) (avg low : Int) (s : State) : Out :=
  let f := feedOf s k b
  let s := setFeed k b { f with ok := false, avg := avg, minLine := low } s
  let s := logEvent 0x7001 srcDevice [(4, k), (8, powerBits (feedOf s k false).avg), (8, powerBits (feedOf s k true).avg)] s
  .next (feedGone k b true s)

/-- LASER_POWER_LOW (R285): a feed is below its healthy limits without being lost. -/
def execLaserPowerLow (k : Nat) (b : Bool) (avg low : Int) (line : Nat) (s : State) : Out :=
  let f := feedOf s k b
  let s := setFeed k b { f with ok := false, avg := avg, minLine := low } s
  .next (feedGone k b false (logEvent 0x7005 srcDevice [(4, k), (4, b2n b), (4, line)] s))

/-- FEED_RELOCK_DONE (R284): every active ring relocked; frames are valid and carry the notice. -/
def execFeedRelockDone (k : Nat) (s : State) : Out :=
  if (tileOf s k).failover then .next (modTile k (fun t => { t with failover := false, notice := true }) s) else .next s

/-- NOTICE_WINDOW_END (R284): 1 ms after the switch the notice stops. -/
def execNoticeWindowEnd (k : Nat) (s : State) : Out := .next (modTile k (fun t => { t with notice := false }) s)

/-- LASER_FEED_RESTORED (R283, R285): a feed is healthy again. -/
def execLaserFeedRestored (k : Nat) (b : Bool) (avg low : Int) (s : State) : Out :=
  let s := setFeed k b { ok := true, tones := true, avg := avg, minLine := low } s
  .next (feedBack k b (logEvent 0x7006 srcDevice [] s))

/-! ### Rings (R286 to R291) -/

/-- The lane a ring carries, if any. -/
def laneOfRing (s : State) (port : Nat) (rx : Bool) (r : Nat) : Option Nat :=
  ((portLanes s port).find? (fun e => laneRing e.2 rx == r)).map (·.1)

/-- A lane in TUNING whose rings are both verified starts to acquire, on a port whose cabling has been checked (R298, R323). -/
def laneAcquire (k : Nat) (s : State) : State :=
  if (laneOf s k).state = .tuning ∧ ringsReady s k = true ∧ (portOf s (lanePort k)).cabled = true then modLane k (fun l => { l with state := .acquiring }) s else s

/-- A ring is marked faulty (R289): it is never used again before the next cold reset. -/
def ringFaulty (port : Nat) (rx : Bool) (r : Nat) (s : State) : State :=
  modPort port (fun p =>
    if rx then { p with rxFaulty := setBits p.rxFaulty r 1 1, rxSpare := if p.rxSpare = r then 15 else p.rxSpare }
    else { p with txFaulty := setBits p.txFaulty r 1 1, txSpare := if p.txSpare = r then 15 else p.txSpare })
    (modRing port rx r (fun g => { g with state := .faulty }) (logEvent 0x7102 srcDevice [] s))

/-- A ring on the wrong line (R289): a first failure sweeps it, a second marks it faulty and places the spare, and without a spare the
lane goes DOWN. A lane in service closes first. `check` is 0 drive, 1 tone, 2 identity, 3 no resonance. -/
def ringWrong (port : Nat) (rx : Bool) (r check : Nat) (s : State) : State :=
  let g := ringOf s port rx r
  let reason := if check = 2 then 4 else 5
  let lane := laneOfRing s port rx r
  if g.fails = 0 ∧ check ≠ 3 then
    let s := logEvent 0x7101 srcDevice [(4, port), (4, r), (4, g.line), (4, check)] s
    let s := modRing port rx r (fun g => { g with state := .sweeping, fails := 1 }) s
    match lane with
    | some k => ringLaneOut k reason s
    | none => s
  else
    let sp := spareRing s port rx
    let ok := hasSpare s port rx && decide (sp ≠ r)
    let s := ringFaulty port rx r s
    match lane with
    | none => s
    | some k =>
      if ok then
        let s := modPort port (fun p => if rx then { p with rxSpare := 15 } else { p with txSpare := 15 }) s
        let s := modLane k (fun l => if rx then { l with rxRing := sp } else { l with txRing := sp }) s
        ringLaneOut k reason (modRing port rx sp (fun _ => { state := .sweeping, line := g.line }) s)
      else
        let s := logEvent 0x7103 srcDevice [] s
        let s := modLane k (fun l => if rx then { l with rxRing := 15 } else { l with txRing := 15 }) s
        match (laneOf s k).state with
        | .up | .marked => downAfterClose k (unplannedClose k 5 true false s)
        | .tuning | .acquiring => modLane k (fun l => { l.fresh with state := .down, downReason := 5 }) s
        | _ => s

/-- RING_SWEEP_DONE (R286, R289): a sweep reached its line and locks, or found no resonance. -/
def execRingSweepDone (port : Nat) (rx : Bool) (r : Nat) (found : Bool) (s : State) : Out :=
  if (ringOf s port rx r).state ≠ .sweeping then .next s
  else if found then .next (modRing port rx r (fun g => { g with state := .locked }) s)
  else .next (ringWrong port rx r 3 s)

/-- RING_LOCK (R287, R288): the dither loop locked; with its drive check passed the ring is verified. -/
def execRingLock (port : Nat) (rx : Bool) (r : Nat) (driveOk : Bool) (s : State) : Out :=
  let g := ringOf s port rx r
  if g.state ≠ .tuning ∧ g.state ≠ .locked then .next s
  else if !driveOk then .next (ringWrong port rx r 0 s)
  else
    let s := modRing port rx r (fun g => { g with state := .verified }) s
    match laneOfRing s port rx r with
    | some k => .next (laneAcquire k s)
    | none => .next s

/-- RETUNE_TIMEOUT (R287): a ring not drive-checked within 25 us is swept from the reference edge. -/
def execRetuneTimeout (port : Nat) (rx : Bool) (r : Nat) (s : State) : Out :=
  if (ringOf s port rx r).state = .tuning then .next (modRing port rx r (fun g => { g with state := .sweeping }) s) else .next s

/-- RING_TONE_CHECK_DONE (R288, R289): a failed tone check sweeps the ring, unless its lane carries frames of the right identity: then it
marks the feed, which is reported and treated as one whose tones are wrong (R285). -/
def execRingToneCheckDone (port : Nat) (rx : Bool) (r : Nat) (passed : Bool) (s : State) : Out :=
  let t := tileOfPort port
  if (ringOf s port rx r).state ≠ .verified || passed then .next s
  else if (laneOfRing s port rx r).any (fun k => laneLive (laneOf s k) 0 && decide ((laneOf s k).wrongIdent = 0)) then
    let a := activeFeed s t
    let b := a == 1
    let s := logEvent 0x7004 srcDevice [(4, t), (4, a), (4, (ringOf s port rx r).line)] s
    .next (feedGone t b false (setFeed t b { feedOf s t b with tones := false, ok := false } s))
  else .next (ringWrong port rx r 1 s)

/-- SPARE_MOVE (R291, R311): at a frame boundary the locked spare takes the lane; the old ring is parked and becomes the spare if its
loop-back check passes, or is marked faulty. -/
def execSpareMove (k : Nat) (rx loopOk : Bool) (s : State) : Out :=
  let port := lanePort k
  let p := portOf s port
  let sp := if rx then p.rxSpare else p.txSpare
  let line := if rx then rxLine k else laneLine k
  let l := laneOf s k
  let old := laneRing l rx
  if sp ≥ 9 || old ≥ 9 || decide ((ringOf s port rx sp).state ≠ .verified) || decide ((ringOf s port rx sp).line ≠ line) then .next s
  else
    let s := modLane k (fun l =>
      if rx then { l with rxRing := sp, repair := l.repair.map (fun x => { x with tried := x.tried ++ [sp] }) }
      else { l with txRing := sp, swapWanted := false }) s
    let s := logEvent 0x7105 srcDevice [] s
    let s := modPort port (fun p => if rx then { p with rxSpare := 15 } else { p with txSpare := 15 }) s
    if loopOk then
      .next (modPort port (fun p => if rx then { p with rxSpare := old } else { p with txSpare := old }) (parkRing port rx old s))
    else .next (ringFaulty port rx old s)

/-! ### Timers of lanes -/

/-- RETRY_TIMEOUT (R300, R302): the oldest unacknowledged frame is sent again; after 16 times the lane leaves UP. -/
def execRetryTimeout (k : Nat) (s : State) : Out :=
  let l := laneOf s k
  match l.unacked with
  | [] => .next s
  | f :: _ =>
    if f.resent ≥ 16 then .next (unplannedClose k 2 true false s)
    else .next (modLane k (fun l => { l with unacked := l.unacked.map (fun f => { f with again := true }) }) s)

/-- LOSS_OF_FRAME (R298, R306): no frame accepted for 30 us on an UP or MARKED lane. The loss carries R308's class
of it. -/
def execLossOfFrame (x : LaneLoss) (s : State) : Out :=
  if (laneOf s x.lane).state = .up ∨ (laneOf s x.lane).state = .marked then .next (unplannedClose x.lane 1 true x.burst s) else .next s

/-- ACQUIRE_TIMEOUT (R298): 1 ms after the far end's first TRAIN frame, without R299 met. -/
def execAcquireTimeout (k : Nat) (s : State) : Out :=
  if (laneOf s k).state = .acquiring ∧ (laneOf s k).farTrain = true then
    .next (modLane k (fun l => { l.fresh with state := .down }) s)
  else .next s

/-- DOWN_RETRY (R298): after 1 ms in DOWN the lane tunes again. -/
def execDownRetry (k : Nat) (s : State) : Out :=
  if (laneOf s k).state ≠ .down then .next s
  else if (laneOf s k).named then .next (tuneLane k s) else .next (unuseLane k s)

/-- UCW_CLASSIFY (R308, R309): `n` codewords of a lane are classed 10 us after they occurred, so that the windows of 100 us before a codeword
and 10 us after it end 110 us after their event. `lanes` and `ports` say on how many lanes and ports
codewords or losses of frame occurred; `tiles` are the tiles of a burst not yet counted; `retuned` marks R290's and R291's losses. -/
def execUcwClassify (k n lanes ports : Nat) (tiles : List Nat) (retuned : Bool) (s : State) : Out :=
  let l := laneOf s k
  let now := nowNs s
  let tile := tileOf s (tileOfPort (lanePort k))
  let n := min n l.unclassed
  let mode := decide (8 ≤ lanes ∧ 2 ≤ ports) || decide (now ≤ l.noticeUntil ∧ 0 < l.noticeUntil) ||
    decide (0 < tile.switchedAt ∧ tile.switchedAt + 10000 ≤ now ∧ now ≤ tile.switchedAt + 110000)
  let s := modLane k (fun l => { l with unclassed := l.unclassed - n }) s
  if n = 0 then .next s
  else if retuned then .next (modLane k (fun l => { l with burst := satAdd 32 l.burst n }) s)
  else if mode then
    let s := modLane k (fun l => { l with burst := satAdd 32 l.burst n }) s
    let s := forEach tiles (fun t s => modTile t (fun t => { t with bursts := satAdd 32 t.bursts 1 }) s) s
    .next (logEvery 0x7301 0 10000000 srcDevice [(4, lanes)] s)
  else
    let log := (now, n) :: l.ucwLog.filter (fun e => decide (now ≤ e.1 + 1000000))
    let s := modLane k (fun l => { l with ucw := satAdd 32 l.ucw n, ucwLog := log }) s
    if tile.ctl.ucwMark ≤ (log.map (·.2)).foldl (· + ·) 0 then .next (crossMark k 2 s) else .next s

/-- REPAIR_OBSERVATION_END (R311): a 10 ms observation passes and the pair returns to UP, or the next step begins. -/
def execRepairObservationEnd (k : Nat) (s : State) : Out :=
  let l := laneOf s k
  match l.repair with
  | none => .next s
  | some r =>
    if l.state ≠ .marked then .next s
    else if !r.crossed then
      .next (modLane k (fun l => { l with state := .up, repair := none, markedFlag := false, swapReq := false }) s)
    else .next (repairStep k (r.step + 1) r.rule (modLane k (fun l => { l with swapReq := false }) s))

/-- PLANNED_CLOSE_TIMEOUT (R305): acknowledgements are not complete 20 us into a planned close. -/
def execPlannedCloseTimeout (k : Nat) (s : State) : Out :=
  match (laneOf s k).closing with
  | some c => if c.planned then .next (unplannedClose k 1 true false s) else .next s
  | none => .next s

/-- CLOSE (R306): a record for a lane still in service closes it here too, with the record's reason; a record releases frames up to the named seq, and the later ones go back to the fabric ahead of later packets. -/
def execClose (p : Packet) (s : State) : Out :=
  let s := takeIngress p s
  match p.body with
  | .msg (.close port line seq reason) =>
    let k := laneKey port ((32 - line) % 32)
    let s := if decide ((laneOf s k).far = p.source) then unplannedClose k reason false false s else s
    let l := laneOf s k
    match l.closing with
    | some c =>
      if c.planned || decide (l.state ≠ .closing) || decide (l.far ≠ p.source) then .next s
      else
        let back := l.unacked.filter (fun f => decide (0 < (f.seq + 256 - seq) % 256) && decide ((f.seq + 256 - seq) % 256 ≤ 128))
        let s := modLane k (fun l => { l with unacked := [], queue := (back.map (·.packets)).flatten ++ l.queue }) s
        .next (afterClose k s)
    | none => .next s
  | _ => .next s

/-- LANE_CLOSE_TIMEOUT (R306): no close record within 40 us: unacknowledged packets complete as dead targets. -/
def execLaneCloseTimeout (k : Nat) (s : State) : Out :=
  let l := laneOf s k
  match l.closing with
  | some c =>
    if c.planned || decide (l.state ≠ .closing) then .next s
    else
      let s := logEvent 0x7204 srcDevice [] s
      let s := forEach ((l.unacked.map (·.packets)).flatten.flatMap (unsent s l.far)) (fun p s => dropPacket p 0x7204 2 s) s
      .next (afterClose k (modLane k (fun l => { l with unacked := [] }) s))
  | none => .next s

/-- LANE_HOLD_END (R313): a hold ends, also that of a lane disabled meanwhile. -/
def execLaneHoldEnd (k : Nat) (s : State) : Out :=
  let s := if (laneOf s k).holdDue then modLane k (fun l => { l with holdDue := false }) s else s
  if (laneOf s k).state ≠ .held then .next s
  else if (laneOf s k).named then .next (tuneLane k s) else .next (unuseLane k s)

/-- HOLD_TIME_RESET (R313): after 1,200 s without a flap. -/
def execHoldTimeReset (k : Nat) (s : State) : Out :=
  if ((laneOf s k).lastFlap.toList ++ (laneOf s k).flapTimes).all (fun t => decide (t + 1200000000000 ≤ nowNs s)) then
    .next (modLane k (fun l => { l with holdTime := 10, holdLevel := 0, flapTimes := [] }) s)
  else .next s

/-- The code of a lane state (R298). -/
def LaneState.code : LaneState → Nat
  | .unused => 0 | .tuning => 1 | .acquiring => 2 | .up => 3 | .marked => 4
  | .closing => 5 | .held => 6 | .down => 7 | .admin => 8

/-- LANE_DISAGREE_TIMER (R320): the management path's lane state has differed from the observed one for more than 1 s. PLDM shows it in the
disagreement sensor, where lane k is unit 4,096 + k (R544). -/
def execLaneDisagreeTimer (k reported : Nat) (s : State) : Out :=
  if reported = (laneOf s k).state.code then .next s
  else
    let s := modPort (lanePort k) (fun p => { p with disagree := satAdd 32 p.disagree 1 }) s
    .next (logEvent 0x7209 srcDevice []
      { s with hub := { s.hub with sensor600 := true, mgmtDiffer := insertNat (4096 + k) s.hub.mgmtDiffer } })

/-- PLANE_CABLING_CHECK (R323): frames on line 0 name this port's own sender, or the port takes no lane; `seen` is the identity, sender and
port, of the frames accepted there. A check that passes frees the spare rings. -/
def execPlaneCablingCheck (port : Nat) (seen : Option (Nat × Nat)) (s : State) : Out :=
  if seen = some (s.fab.position, port) then
    let p := portOf s port
    let park := fun (rx : Bool) (s : State) =>
      let r := if rx then p.rxSpare else p.txSpare
      if r < 9 ∧ (ringOf s port rx r).line = 0 then parkRing port rx r s else s
    let s := modPort port (fun p => { p with cabled := true, cablingTried := true, cabling := false, train0 := none })
      (if p.cabling then park true (park false s) else s)
    let down := ((portLanes s port).filter (fun e => decide (e.2.state = .down) && decide (e.2.downReason = 4) && e.2.named)).map (·.1)
    let tuned := ((portLanes s port).filter (fun e => decide (e.2.state = .tuning))).map (·.1)
    .next (forEach tuned laneAcquire (forEach down tuneLane s))
  else
    let s := modPort port (fun p => { p with cabled := false, cablingTried := true }) s
    let ks := ((portLanes s port).filter (fun e => decide (e.2.state ≠ .unused ∧ e.2.state ≠ .admin ∧ e.2.state ≠ .held))).map (·.1)
    let s := forEach ks (fun k s => modLane k (fun l => { l with state := .down, downReason := 4 }) s) s
    .next (logEvery 0x8001 port 3600000000000 srcDevice
      (match seen with
      | some i => [(4, port), (2, i.1), (4, i.2)]
      | none => [(4, port)]) s)

end Sys2Proof.Machine
end

