-- ==== Sys2Proof/Machine/Frames.lean ====
section
/-! DEFINITION. Sending and receiving frames: retry, credits, acquisition, closes and the delivery of packets (optical ports and lanes; flagged ordering). -/

namespace Sys2Proof.Machine

open Sys2Proof

/-- The buffers of a lane by channel, in flits (R303). -/
def creditFull : List Nat := [1280, 256, 1024, 64, 128]

/-- The largest round trip of a tier's plant with 400 ns of framing (R315, R316). -/
def rttLimit (tier : Nat) : Nat := (if tier = 0 then 50 else if tier = 1 then 600 else 2000) + 400

/-- Whether a port's domain runs on the board reference clock (R297, R435). -/
def onBoardClock (s : State) : Bool := decide (s.time.st = .acquiring) || decide (s.time.st = .freerun)

/-- The header of the next frame of a lane (R294). -/
def frameHeader (s : State) (k : Nat) (kind : FrameKind) (seq : Nat) : Frame :=
  let l := laneOf s k
  { kind := kind, nak := l.nakDue, swapReq := l.swapReq, marked := l.markedFlag
    notice := (tileOf s (tileOfPort (lanePort k))).notice, line := laneLine k, sender := s.fab.position
    port := lanePort k, rateAdapt := onBoardClock s, seq := seq, ack := (l.nextRx + 255) % 256
    creditVc := l.creditVc, credit := (l.freed.getD l.creditVc 0) % 2048
    closing := (l.closing.map (·.planned)).getD false }

/-- Put a frame on the fibre: the naks, the credit rotation and, since UP, the scrambler advance (R293, R294, R301). -/
def putFrame (k : Nat) (f : Frame) (s : State) : State :=
  modLane k (fun l =>
    let up := decide (l.state ≠ .acquiring)
    { l with
      tx := some f, nakDue := false, creditVc := (l.creditVc + 1) % 5, sentCount := l.sentCount + 1
      txScram := if up then some l.scram else none
      scram := if up then scramAfter messageBits l.scram else l.scram
      closing := l.closing.map (fun c => { c with sent := c.sent || f.closing }) }) s

/-- The levels of the frame a lane sends (R293). -/
def fibreLevels (l : Lane) : List Nat :=
  match l.tx with
  | some f => frameLevels f l.txScram
  | none => []

/-- Enter UP: fresh sequence numbers, full credit pools, the scrambler seeded, the round trip measured (R293, R299, R303, R316). -/
def laneUp (k : Nat) (s : State) : State :=
  let l := laneOf s k
  let rtt := l.trainRtt
  if l.state = .acquiring ∧ 8 ≤ l.rxTrain1 ∧ 8 ≤ l.txTrain1 then
    let s := modLane k (fun l => { l with
      state := .up, nextTx := 0, nextRx := 0, unacked := [], pools := creditFull, lastCredit := [0, 0, 0, 0, 0]
      freed := [0, 0, 0, 0, 0], nakDue := false, nakSent := false, rtt := rtt, downReason := 0, closing := none
      scram := 0x7FFFFFFF }) s
    let s := logOncePhase 0x7201 k srcDevice [(8, rtt)] s
    let s := if rttLimit (portTier (lanePort k)) < rtt then
      logEvent 0x7208 srcDevice [] s else s
    let s := if s.fab.adopted.contains k then
      logEvent 0x8041 srcDevice [(4, portTier (lanePort k)), (4, lanePort k - tierBase (portTier (lanePort k)))]
        { s with fab := { s.fab with orphan := SMap.erase (portTier (lanePort k)) s.fab.orphan } } else s
    let s := if s.fab.mode = 1 then settleTree (portTier (lanePort k)) s else s
    let waiting := s.fab.held.filter (fun h => decide (h.why ≠ .credit))
    let s := { s with fab := { s.fab with held := s.fab.held.filter (fun h => decide (h.why = .credit)) } }
    forEach waiting (fun h s => routePacket h.p s) s
  else s

/-- Whether a packet has the credit to go (R303, R332). -/
def hasCredit (l : Lane) (p : Packet) : Bool :=
  decide (p.flits + (if p.vc = 4 ∧ p.cls ≠ 1 then 40 else 0) ≤ l.pools.getD p.vc 0)

/-- The channels in the order a frame is filled: VC3, VC4, then VC2, VC1 and VC0 in turn (R304). -/
def fillOrder (turn : Nat) : List Nat :=
  3 :: 4 :: (match turn % 3 with
    | 0 => [2, 1, 0]
    | 1 => [1, 0, 2]
    | _ => [0, 2, 1])

/-- The next packet of a frame with `room` flits left, if any (R304). -/
def nextPacket (l : Lane) (room : Nat) : Option Packet :=
  ((fillOrder l.turn).filterMap (fun vc => l.queue.find? (fun p => p.vc == vc))).find?
    (fun p => decide (p.flits ≤ room) && hasCredit l p)

/-- Fill a frame: packets leave the queue and take credit (R303, R304). -/
def fillFrame : Nat → Nat → Lane → List Packet → Lane × List Packet
  | 0, _, l, acc => (l, acc)
  | f + 1, room, l, acc =>
    match nextPacket l room with
    | none => (l, acc)
    | some p =>
      let l := { l with
        queue := l.queue.erase p
        pools := l.pools.set p.vc (l.pools.getD p.vc 0 - p.flits)
        turn := if p.vc = 2 then 1 else if p.vc = 1 then 2 else if p.vc = 0 then 0 else l.turn }
      fillFrame f (room - p.flits) l (acc ++ [p])

/-- Packets queued on an unlicensed port that R6 does not permit are discarded. -/
def dropUnlicensed (k : Nat) (s : State) : State :=
  let bad := (laneOf s k).queue.filter (fun p => !licenceOk s (lanePort k) p)
  let s := modLane k (fun l => { l with queue := l.queue.filter (fun p => licenceOk s (lanePort k) p) }) s
  forEach bad (fun _ s => licenceDrop (lanePort k) s) s

/-- Enter the next state of a planned close once every DATA frame of both lanes is acknowledged and both ends have said so (R305): where the
set in force still names the lane it waits in ACQUIRING on its line, unless it is disabled. -/
def finishPlanned (k : Nat) (s : State) : State :=
  let l := laneOf s k
  match l.closing with
  | some c =>
    if c.planned && decide (l.state = .closing) && l.unacked.isEmpty && c.sent && c.farDone then
      if l.named then
        let s := modLane k (fun l => { l.fresh with state := .acquiring, queue := [] }) s
        handBack l.far l.queue (if laneDisabled s k then tuneLane k s else s)
      else unuseLane k s
    else s
  | none => s

/-- The TRAIN frame of a port's cabling check, from its spare transmit ring on line 0 (R323). -/
def sendLineZero (port : Nat) (s : State) : State :=
  let p := portOf s port
  let g := ringOf s port false p.txSpare
  if p.cabling ∧ p.txSpare < 9 ∧ g.state = .verified ∧ g.line = 0 then
    modPort port (fun p => { p with train0 := some { kind := .train, sender := s.fab.position, port := port, rateAdapt := onBoardClock s } }) s
  else s

/-- Send one frame on a lane: TRAIN while acquiring; one IDLE frame in 8,192 while rate adaptation is in force; retransmissions first; else a
DATA frame by priority, or IDLE (R299, R300, R304, R297). A frame that would be sent a 17th time again closes the lane (R302). -/
def frameSend (k : Nat) (s : State) : State :=
  if laneLine k = 0 then sendLineZero (lanePort k) s
  else
  let s := dropUnlicensed k s
  let l := laneOf s k
  if (tileOf s (tileOfPort (lanePort k))).failover then s
  else match l.state with
  | .acquiring =>
    let one := l.txOne || decide (8 ≤ l.rxTrain)
    let s := putFrame k { frameHeader s k .train l.nextTx with trainByte := b2n one } s
    laneUp k (modLane k (fun l => { l with txOne := one, txTrain1 := if one then l.txTrain1 + 1 else 0 }) s)
  | .up | .marked | .closing =>
    if l.state = .closing ∧ (l.closing.map (·.planned)).getD false = false then s
    else
      let adapt := (onBoardClock s || l.farRateAdapt) && decide (l.sentCount % 8192 = 8191)
      match (if adapt then none else l.unacked.find? (·.again)) with
      | some f =>
        if 16 ≤ f.resent then unplannedClose k 2 true false s
        else
          let s := putFrame k { frameHeader s k .data f.seq with packets := f.packets } s
          modLane k (fun l => { l with
            retry := satAdd 32 l.retry 1
            unacked := l.unacked.map (fun g => if g.seq = f.seq then { g with again := false, resent := g.resent + 1 } else g) }) s
      | none =>
        let (l', ps) := if l.state = .closing ∨ l.unacked.length ≥ 64 || adapt then (l, []) else fillFrame 20 20 l []
        if ps.isEmpty then finishPlanned k (putFrame k (frameHeader s k .idle l.nextTx) s)
        else
          let s := putFrame k { frameHeader s k .data l.nextTx with packets := ps } s
          modLane k (fun l => { l with
            queue := l'.queue, pools := l'.pools, turn := l'.turn, nextTx := (l.nextTx + 1) % 256
            unacked := l.unacked ++ [{ seq := l.nextTx, packets := ps }] }) s
  | _ => s

/-- FRAME_SEND (R304): at a frame boundary of a lane. -/
def execFrameSend (k : Nat) (s : State) : Out := .next (frameSend k s)

/-! ### Delivery -/

/-- Whether a packet type is assigned (R330, R357, R394, R414, R432). -/
def typeAssigned (t : Nat) : Bool :=
  decide (t ≤ 5) || decide (0x10 ≤ t ∧ t ≤ 0x12) || decide (0x40 ≤ t ∧ t ≤ 0x44) || decide (0x48 ≤ t ∧ t ≤ 0x4A) ||
  decide (0x50 ≤ t ∧ t ≤ 0x53) || decide (0x55 ≤ t ∧ t ≤ 0x59) || decide (0x60 ≤ t ∧ t ≤ 0x61) ||
  decide (0x70 ≤ t ∧ t ≤ 0x71) || decide (0x80 ≤ t ∧ t ≤ 0x95) || decide (0xA0 ≤ t ∧ t ≤ 0xA5) || decide (0xB0 ≤ t ∧ t ≤ 0xB3)

/-- Whether a packet is for this device: a multicast copy on its way to a relay goes one hop. -/
def forMe (s : State) (p : Packet) : Bool :=
  if p.phys then decide (p.dest = s.fab.position)
  else p.mcast || decide (physOf s p.dest = some s.fab.position)

/-- A flagged packet arrives: sent back with ORDER_RETRY while 256 are held, else applied in its order or held for it (R341, R342). -/
def takeFlagged (p : Packet) (s : State) : State :=
  let f := s.fab
  if 256 ≤ f.flaggedHeld.length then
    let s := { s with fab := { f with orderRetries := satAdd 64 f.orderRetries 1 } }
    routePacket { issuePacket s 0xB2 2 p.source p.tag (.msg (.orderRetry p.order)) with cls := 1 } s
  else if SMap.get 0 f.applied p.source = p.order then { s with fab := { f with ingress := f.ingress ++ [p] } }
  else { s with fab := { f with flaggedHeld := f.flaggedHeld ++ [p], orderHolds := satAdd 64 f.orderHolds 1 } }

/-- Free the credit of a packet on its lane once it is passed on (R303). -/
def freeCreditOf (k : Nat) (p : Packet) (s : State) : State :=
  modLane k (fun l => { l with freed := l.freed.set p.vc ((l.freed.getD p.vc 0 + p.flits) % 2048) }) s

/-- Deliver one packet of an accepted frame (R6, R327, R330, R341). Packets between a lease holder and the device it serves, which alone go by
position beside VC3, are exempt from the generation check (R339). -/
def deliver (k : Nat) (p : Packet) (s : State) : State :=
  if !licenceOk s (lanePort k) p then freeCreditOf k p (licenceDrop (lanePort k) s)
  else if !typeAssigned p.ptype then
    freeCreditOf k p { s with fab := { s.fab with badType := satAdd 64 s.fab.badType 1 } }
  else if p.vc ≠ 3 && !p.phys && decide (p.gen ≠ s.fab.commit.generation % 16) then
    freeCreditOf k p { s with fab := { s.fab with staleDrops := satAdd 64 s.fab.staleDrops 1 } }
  else if forMe s p then
    let s := freeCreditOf k p s
    if p.flagged then takeFlagged p s else { s with fab := { s.fab with ingress := s.fab.ingress ++ [p] } }
  else { s with fab := { s.fab with transit := s.fab.transit ++ [(k, p)] } }

/-- The acknowledgement, nak and credit of an accepted frame (R300, R303). -/
def takeHeader (k : Nat) (f : Frame) (s : State) : State :=
  modLane k (fun l =>
    let un := if l.unacked.any (fun g => g.seq == f.ack) then
      ((l.unacked.dropWhile (fun g => g.seq != f.ack)).drop 1) else l.unacked
    let un := if f.nak then un.map (fun g => { g with again := true }) else un
    let old := l.lastCredit.getD f.creditVc 0
    { l with
      unacked := un
      pools := l.pools.set f.creditVc (l.pools.getD f.creditVc 0 + (f.credit + 2048 - old) % 2048)
      lastCredit := l.lastCredit.set f.creditVc f.credit
      farRateAdapt := f.rateAdapt
      wrongIdent := 0 }) s

/-- The flags of an accepted frame on a lane in service: notice, mark, swap request, planned close (R284, R305, R310, R311). A swap request
is one move, made again only where the flag has been clear between. -/
def takeFlags (k : Nat) (f : Frame) (s : State) : State :=
  let s := if f.notice then modLane k (fun l => { l with noticeUntil := nowNs s + 110000 }) s else s
  let l := laneOf s k
  let s := if f.marked && decide (l.state = .up) then markLane k false s else s
  let s := if !f.marked && decide (l.state = .marked) && l.repair.isNone then modLane k (fun l => { l with state := .up }) s else s
  let s := modLane k (fun l => { l with
    swapWanted := f.swapReq && (l.swapWanted || !l.farSwap), farSwap := f.swapReq }) s
  let s := if (laneOf s k).swapWanted && hasSpare s (lanePort k) false then preTuneSpare k false s else s
  let l := laneOf s k
  let s := if f.closing && (decide (l.state = .up) || decide (l.state = .marked)) then
      modLane k (fun l => { l with state := .closing, closing := some { planned := true, reason := 0 } }) s
    else s
  modLane k (fun l => { l with closing := l.closing.map (fun c =>
    { c with farDone := f.closing && decide (f.kind = .idle) && decide (f.seq = l.nextRx) }) }) s

/-- Corrected symbols are counted, and the windows of the warning and mark rules are tested (R307, R309). -/
def countCorrected (k n : Nat) (s : State) : State :=
  if n = 0 then s
  else
    let l := laneOf s k
    let now := nowNs s
    let t := (tileOf s (tileOfPort (lanePort k))).ctl
    let log := (now, n) :: l.corrLog.filter (fun e => decide (now ≤ e.1 + 1000000000))
    let sum := fun (w : Nat) => ((log.filter (fun e => decide (now ≤ e.1 + w))).map (·.2)).foldl (· + ·) 0
    let s := modLane k (fun l => { l with corr := satAdd 32 l.corr n, corrLog := log }) s
    let s := if t.serWarn ≤ sum 1000000000 then
      logEvery 0x7207 k 3600000000000 srcDevice [] s else s
    if t.serMark ≤ sum 100000000 then crossMark k 1 s else s

/-- A frame of another identity is discarded and counted; after eight of another sender the receive ring is suspected (R288, R289, R296). Where
the ring has passed its checks since, the lane goes DOWN, which is a flap. -/
def wrongIdentity (k : Nat) (f : Frame) (s : State) : State :=
  let s := modLane k (fun l => { l with
    ident := satAdd 32 l.ident 1, rxTrain := 0, rxTrain1 := 0
    wrongIdent := if f.sender ≠ l.far then l.wrongIdent + 1 else l.wrongIdent }) s
  let l := laneOf s k
  if l.wrongIdent < 8 ∨ l.rxRing = 15 then s
  else
    let s := modLane k (fun l => { l with wrongIdent := 0 }) s
    if (ringOf s (lanePort k) true l.rxRing).fails = 0 then ringWrong (lanePort k) true l.rxRing 2 s
    else
      let s := logEvent 0x7203 srcDevice [(2, f.sender)] s
      if l.state = .up ∨ l.state = .marked then downAfterClose k (unplannedClose k 4 true false s)
      else
        let x := countFlap k false false s
        modLane k (fun l => { l.fresh with
          state := if x.1.isSome then .held else .down, holdDue := x.1.isSome, downReason := 4 }) x.2

/-- Whether a lane listens for frames. -/
def laneListens (l : Lane) : Bool :=
  decide (l.state = .acquiring) || decide (l.state = .up) || decide (l.state = .marked) ||
  (decide (l.state = .closing) && (l.closing.map (·.planned)).getD false)

/-- A discarded frame asks for a nak once until a frame is delivered again (R301). -/
def discardFrame (k : Nat) (s : State) : State :=
  modLane k (fun l => { l with
    nakDue := l.nakDue || (!l.nakSent && decide (l.state ≠ .acquiring)), nakSent := true, rxTrain := 0, rxTrain1 := 0 }) s

/-- A frame whose codewords and check hold is accepted by its identity, kind and sequence (R296, R299, R301). -/
def takeFrame (k : Nat) (f : Frame) (rtt : Nat) (s : State) : State :=
  let l := laneOf s k
  if f.sender ≠ l.far ∨ f.port ≠ lanePort k ∨ f.line ≠ rxLine k then wrongIdentity k f s
  else match l.state, f.kind with
    | .acquiring, .train =>
      laneUp k (modLane k (fun l => { l with
        rxTrain := l.rxTrain + 1, farTrain := true, trainRtt := rtt, wrongIdent := 0
        txOne := l.txOne || decide (8 ≤ l.rxTrain + 1)
        rxTrain1 := if f.trainByte = 1 then l.rxTrain1 + 1 else 0 }) s)
    | .acquiring, _ => s
    | _, .train => s
    | _, .idle => finishPlanned k (takeFlags k f (takeHeader k f s))
    | _, .data =>
      if f.seq ≠ l.nextRx then discardFrame k s
      else
        let s := takeHeader k f s
        let s := modLane k (fun l => { l with
          nextRx := (l.nextRx + 1) % 256, nakSent := false, closing := l.closing.map (fun c => { c with sent := false }) }) s
        takeFlags k f (forEach f.packets (deliver k) s)

/-- One frame arrives on a lane (R296): the frame its far end sent, with the errors on its symbols as pairs of a symbol's number and the value
added to it, what is read as packets where those leave the payload wrong, and the round trip measured. -/
def frameReceive (k : Nat) (f : Frame) (errs : List (Nat × Nat)) (read : List Packet) (rtt : Nat) (s : State) : State :=
  if !laneListens (laneOf s k) then s
  else
    let s := countCorrected k (correctedSymbols errs) s
    if badWords errs ≠ 0 then discardFrame k (modLane k (fun l => { l with unclassed := l.unclassed + badWords errs }) s)
    else match readFrame f errs read with
      | some g => takeFrame k g rtt s
      | none => discardFrame k s

/-- FRAME_RECEIVE (R296): the symbols that arrive wrong, and the values added to them. -/
def execFrameReceive (k : Nat) (f : Frame) (places values : List Nat) (read : List Packet) (rtt : Nat) (s : State) : Out :=
  .next (frameReceive k f (places.zip values) read rtt s)

end Sys2Proof.Machine
end

