-- ==== Sys2Proof/Machine/LaneSets.lean ====
section
/-! DEFINITION. The lane sets: the bring-up tree, colour sets with their completion, and partner lanes (fabric topology and routing). -/

namespace Sys2Proof.Machine

open Sys2Proof

/-! ### The bring-up tree (R349, R350) -/

/-- The tree lanes of a position in one tier: its uplink and its children's. -/
def treeTierLanes (root me t : Nat) : List (Nat × Nat) :=
  let n := tierPlanes t
  let c := tierCoord t root
  let i := (tierCoord t me + 32 - c) % 32
  let at' := fun (j : Nat) => withCoord t me ((j + c) % 32)
  let upl := if i = 0 then [] else [(tierBase t + treeUplink n 4 i, at' (treeParent n i))]
  upl ++ ((List.range 32).filter (fun j => decide (j ≠ 0) && decide (treeParent n j = i) && decide (j ≠ i))).map
    (fun j => (tierBase t + treeUplink n 4 j, at' j))

/-- The tree lanes of a position: port and far end (R350). -/
def treeLanes (root me : Nat) : List (Nat × Nat) :=
  treeTierLanes root me 0 ++ treeTierLanes root me 1 ++ treeTierLanes root me 2

/-! ### Colour sets (R52 to R54) and their completion (R337) -/

/-- The roster a plan's SPAN section gives (R46, R78). -/
def spanRoster (sp : List SpanEntry) : SMap RosterEntry :=
  sp.map (fun e => (e.physical, match e.logical with
    | some d => { logical := d, role := 1 }
    | none => { logical := 0, role := 2 }))

/-- The partner pairs of a roster: positions of active devices whose hoard partners are active (R339). -/
def partnerPairs (ro : SMap RosterEntry) : List (Nat × Nat) :=
  ro.filterMap (fun e =>
    if e.2.role ≠ 1 then none else (rosterPhys ro (partnerOf e.2.logical)).map (fun q => (e.1, q)))

/-- Lanes that leave a position on a port. -/
def lanesOut (ls : List (Nat × Nat × Nat)) (port pos : Nat) : List (Nat × Nat × Nat) :=
  ls.filter (fun l => l.1 == port && l.2.1 == pos)

/-- Whether some lanes join two positions on a port, in either direction (R337). -/
def joinedOn (ls : List (Nat × Nat × Nat)) (port : Nat) (pq : Nat × Nat) : Bool :=
  ls.any (fun l => l.1 == port && ((l.2.1 == pq.1 && l.2.2 == pq.2) || (l.2.1 == pq.2 && l.2.2 == pq.1)))

/-- Add the completion lanes of one tier group: every unjoined pair on the lowest port with room at both ends (R337).
The second part counts pairs that fit nowhere. -/
def completeGroup (t : Nat) (ms : List Nat) (ls : List (Nat × Nat × Nat)) : List (Nat × Nat × Nat) × Nat :=
  let pairs := (ms.map (fun p => (ms.filter (fun q => decide (p < q))).map (fun q => (p, q)))).flatten
  pairs.foldl (fun acc pq =>
    let joined := acc.1.any (fun l => (l.2.1 == pq.1 && l.2.2 == pq.2) || (l.2.1 == pq.2 && l.2.2 == pq.1))
    if joined then acc
    else match (List.range (tierPlanes t)).find? (fun i =>
        decide ((lanesOut acc.1 (tierBase t + i) pq.1).length < 8) && decide ((lanesOut acc.1 (tierBase t + i) pq.2).length < 8)) with
      | some i => (acc.1 ++ [(tierBase t + i, pq.1, pq.2), (tierBase t + i, pq.2, pq.1)], acc.2)
      | none => (acc.1, acc.2 + 1)) (ls, 0)

/-- A colour set completed for a position: its own lanes, how many completion added, and pairs that fit nowhere (R337). A partner pair that
the set joins on FP31 in one direction only is left as it stands. -/
def completeSet (ro : SMap RosterEntry) (me : Nat) (rs : List ColourRec) (epoch : Bool) (outside : Option Nat) :
    List (Nat × Nat) × Nat × Nat :=
  let all := physLanes ro rs
  let res := [2, 1, 0].map (fun t =>
    let inG := fun (p : Nat) => decide (p = me) || sameGroup t me p
    let ms := (ro.filter (fun e => decide (e.2.role = 1 ∨ e.2.role = 2) && inG e.1)).map (·.1)
    let ls := all.filter (fun l => portTier l.1 == t && inG l.2.1 && inG l.2.2 && laneFits l)
    let n0 := (ls.filter (fun l => l.2.1 == me)).length
    let partners := if t = 2 && epoch then
        (partnerPairs ro).filter (fun pq => inG pq.1 && inG pq.2 && sameGroup 2 pq.1 pq.2) else []
    let ls := partners.foldl (fun ls pq =>
      if joinedOn all 31 pq then ls else ls ++ [(31, pq.1, pq.2)]) ls
    let ls := match outside with
      | some q => if t = 2 && sameGroup 2 me q then ls ++ [(31, me, q), (31, q, me)] else ls
      | none => ls
    let c := completeGroup t ms ls
    let own := (c.1.filter (fun l => l.2.1 == me)).map (fun l => (l.1, l.2.2))
    (own, own.length - n0, c.2))
  ((res.map (·.1)).flatten, (res.map (·.2.1)).foldl (· + ·) 0, (res.map (·.2.2)).foldl (· + ·) 0)

/-! ### Partner lanes (R339) -/

/-- The partner lanes of this device: FP31, where the positions share a hall group. -/
def partnerLanes (s : State) : List (Nat × Nat) :=
  ((partnerFar s).filter (fun q => sameGroup 2 s.fab.position q)).map (fun q => (31, q))

/-! ### Applying a set -/

/-- The tree comes into force with its root (R349). -/
def applyTree (root : Nat) (s : State) : State :=
  let s := { s with fab := { s.fab with mode := 1, colourSet := 0xFFFF, completed := 0, root := root, oldTree := [], adoptees := [] } }
  applyLanes (treeLanes root s.fab.position ++ partnerLanes s) (fun _ => false) s

/-- The lane keys of a set at a position. -/
def setKeys (me : Nat) (set : List (Nat × Nat)) : List Nat :=
  set.map (fun e => laneKey e.1 (lineTo (portTier e.1) me e.2))

/-- The tree changes its root make-before-break: old lanes stay until the new ones are up or 1 ms has passed (R349). -/
def changeTree (root : Nat) (s : State) : State :=
  if s.fab.mode ≠ 1 then { s with fab := { s.fab with root := root } }
  else
    let me := s.fab.position
    let new := treeLanes root me ++ partnerLanes s
    let old := ((s.fab.lanes.filter (fun e => e.2.named)).map (·.1)).filter (fun k => !(setKeys me new).contains k)
    let s := { s with fab := { s.fab with
      root := root, oldRoot := s.fab.root, oldTree := old, adopted := [], adoptees := [], orphan := [] } }
    forEach [0, 1, 2] settleTree (applyLanes new (fun _ => true) s)

/-- A partner outside the span (R339). -/
def outsidePartner (s : State) : Option Nat :=
  match s.run.plan, s.run.me with
  | some p, some d =>
    if p.epoch.isSome && (physOf s (partnerOf d)).isNone && !(p.sections d).shards.isEmpty then some (partnerOf d) else none
  | _, _ => none

/-- Lanes of this device that a set names but that are displaced (R328). -/
def displacedCount (s : State) (rs : List ColourRec) : Nat :=
  ((physLanes (roster s) rs).filter (fun l => decide (l.2.1 = s.fab.position) && !laneFits l)).length

/-- A phase's lane set comes into force (R27, R349): its colour set, or the tree where it names none. -/
def applyColour (c root : Nat) (s : State) : State :=
  if c = 0xFFFF then applyTree root s
  else
    let rs := colourRecs s c
    let epoch := (s.run.plan.map (·.epoch.isSome)).getD false
    let r := completeSet (roster s) s.fab.position rs epoch (outsidePartner s)
    let s := { s with fab := { s.fab with mode := 2, colourSet := c, completed := r.2.1, root := root } }
    let s := applyLanes (r.1 ++ partnerLanes s) (fun _ => false) s
    let held := s.fab.held
    forEach held (fun h s => routePacket h.p s) { s with fab := { s.fab with held := [] } }

/-- Whether every lane the set in force names has its rings locked and verified, or is out of service (R27). -/
def ringsLocked (s : State) : Bool :=
  s.fab.lanes.all (fun e => !(e.2.named && decide (e.2.state = .tuning)))

/-- The position of the tree's root with or without a plan (R349). -/
def treeRoot (s : State) : Nat :=
  match s.run.plan with
  | some p => (physOf s p.steward).getD s.fab.ctl.treeRoot
  | none => s.fab.ctl.treeRoot

end Sys2Proof.Machine
end

