-- ==== Sys2Proof/Machine/Repair.lean ====
section
/-! DEFINITION. Repair of memories: SP banks, CS rows and HBM rows behind their spares, at a cold start and at a rollback (R184, R213, R492 to R494). -/

namespace Sys2Proof.Machine

open Sys2Proof

/-- Change what the boot firmware holds. -/
def modBoot (f : Boot → Boot) (s : State) : State := { s with boot := f s.boot }

/-- The unit code of a physical SP bank (log entry 25). -/
def bankCode (sdie bank : Nat) : Nat := 0x10000 + sdie * 264 + bank
/-- The unit code of an HBM stack. -/
def stackCode (n : Nat) : Nat := 0x20000 + n
/-- The unit code of a physical CS row of a slice: 16,384 rows and 8 spares (log entry 25). -/
def rowCode (die row : Nat) : Nat := 0x30000 + die * 16392 + row

/-- The healthy physical banks of an S-die, in order. -/
def healthyBanks (bad : List Nat) (d : Nat) : List Nat := (List.range 264).filter (fun b => !bad.contains (bankCode d b))

/-- The physical bank behind a logical bank of an S-die: the one the cold start gave it, or where R213 has moved it (R184, R492). -/
def physBank (s : State) (d i : Nat) : Nat :=
  match SMap.get 0 s.boot.bankMoves (256 * d + i) with
  | 0 => ((healthyBanks s.boot.bankBad d)[i]?).getD i
  | p + 1 => p

/-- Spare banks of an S-die behind some logical bank. -/
def banksInUse (s : State) (d : Nat) : Nat := ((List.range 256).filter (fun i => decide (256 ≤ physBank s d i))).length

/-- The first unused healthy spare bank of an S-die. -/
def freeBank (s : State) (d : Nat) : Option Nat :=
  ((List.range 8).map (· + 256)).find? (fun p =>
    !s.boot.bankBad.contains (bankCode d p) && !s.boot.repairs.contains (bankCode d p) && (List.range 256).all (fun i => decide (physBank s d i ≠ p)))

/-- The physical row behind a row of a slice. -/
def physRow (s : State) (k i : Nat) : Nat :=
  match SMap.get 0 s.boot.rowMoves (16384 * k + i) with
  | 0 => i
  | p + 1 => p

/-- The first unused healthy spare row of a slice. -/
def freeRow (s : State) (k : Nat) : Option Nat :=
  ((List.range 8).map (· + 16384)).find? (fun p =>
    !s.boot.bankBad.contains (rowCode k p) && !s.boot.repairs.contains (rowCode k p) &&
    !s.boot.rowMoves.any (fun e => decide (e.1 / 16384 = k) && e.2 == p + 1))

/-- Rows found bad at a cold start stand on spare rows of their slice (R492). -/
def numberRows (bad : List Nat) (s : State) : State :=
  forEach (bad.filter (fun c => decide (0x30000 ≤ c ∧ (c - 0x30000) % 16392 < 16384 ∧ c < 0x30000 + 8 * 16392))) (fun c s =>
    let k := (c - 0x30000) / 16392
    match freeRow s k with
    | some p => modBoot (fun b => { b with rowMoves := SMap.set 0 b.rowMoves (16384 * k + (c - 0x30000) % 16392) (p + 1) }) s
    | none => s) s

/-! ### The test of poisoned lines before a rollback restarts the plan (R213) -/

/-- The record of a repair: the store, the address and the spare taken, 0xFFFFFFFF for an HBM repair (log entry 25). -/
def noteRepair (t : LineTest) (spare : Nat) (s : State) : State := logEvent 0x9018 srcDevice [(4, t.space), (8, t.addr), (4, spare)] s

/-- The lines of a bank or row that could not be copied, poisoned on the spare. -/
def poisonUnread (st : Store) (base n : Nat) (t : LineTest) (s : State) : State :=
  poisonLines st (t.unread.filter (fun l => decide (base ≤ l * 64 ∧ l * 64 < base + n))) s

/-- The repair of a poisoned line that failed its test: none where no spare or repair remains, so that the device is lost. -/
def repairLine (t : LineTest) (s : State) : Option State :=
  match spaceStore t.space with
  | some .sp =>
    let b := t.addr / 2 ^ 23
    (freeBank s (b / 256)).map (fun p =>
      let s := listRepair (bankCode (b / 256) (physBank s (b / 256) (b % 256))) p s
      let s := modBoot (fun x => { x with bankMoves := SMap.set 0 x.bankMoves b (p + 1) }) s
      let s := modBoot (fun x => { x with bankSpares := SMap.set 0 x.bankSpares (b / 256) (banksInUse s (b / 256)) }) s
      noteRepair t p (poisonUnread .sp (b * 2 ^ 23) (2 ^ 23) t s))
  | some .cs =>
    let r := t.addr / 4096
    (freeRow s (r / 16384)).map (fun p =>
      let s := listRepair (rowCode (r / 16384) (physRow s (r / 16384) (r % 16384))) p s
      let s := modBoot (fun x => { x with rowMoves := SMap.set 0 x.rowMoves r (p + 1) }) s
      noteRepair t p (poisonUnread .cs (r * 4096) 4096 t s))
  | some .hbm => if t.repaired then some (noteRepair t 0xFFFFFFFF s) else none
  | none => some s

/-- Repair what the tests found, in turn: the state, and the store of a line that cannot be repaired. A line that is not poisoned is not
tested. -/
def testLines : List LineTest → State → State × Option Store
  | [], s => (s, none)
  | t :: l, s =>
    match spaceStore t.space with
    | some st =>
      if poisoned s st t.addr 1 then
        match repairLine t s with
        | some s => testLines l s
        | none => (s, some st)
      else testLines l s
    | none => testLines l s

/-- Every poisoned line of a store is written with zero, which clears its poison. -/
def zeroPoisoned (st : Store) (s : State) : State := forEach (poisonOf s st) (fun l s => writeStore st (l * 64) (List.replicate 64 0) s) s

/-- Every poisoned line of the device is written with zero. -/
def zeroAllPoisoned (s : State) : State := zeroPoisoned .cs (zeroPoisoned .hbm (zeroPoisoned .sp s))

end Sys2Proof.Machine
end

