-- ==== Sys2Proof/Machine/Mesh.lean ====
section
/-! DEFINITION. The mathematics of a projection engine: the normalised matrix, the projection of a key, and the codes of a frozen-weight
output (R266, R268, R269, R271). -/

namespace Sys2Proof.Machine

open Sys2Proof

/-! ### The normalised matrix (R266) -/

/-- Round to FP64, in which the firmware computes the decomposition. -/
def r64 (x : Num) : Num := Fmt.fp64.decode (Fmt.fp64.rne x)

/-- The product of two columns in FP64. -/
def dot64 (x y : List Num) : Num := (List.zip x y).foldl (fun z p => r64 (Num.add z (r64 (Num.mul p.1 p.2)))) (Num.ofNat 0)

/-- `a * x + b * y` of two columns in FP64. -/
def mix64 (a b : Num) (x y : List Num) : List Num :=
  (List.zip x y).map (fun p => r64 (Num.add (r64 (Num.mul a p.1)) (r64 (Num.mul b p.2))))

/-- A column of a matrix under decomposition, with the same column of its right factor. -/
abbrev SvdCol := List Num × List Num

/-- The plane rotation that makes two columns orthogonal: its cosine and sine. -/
def jacobi (al be ga : Num) : Num × Num :=
  let one := Num.ofNat 1
  let z := r64 (Num.div (r64 (Num.add be al.neg)) (r64 (Num.scale ga 1)))
  let mag := match z with
    | .fin _ m e => Num.fin false m e
    | y => y
  let t := r64 (Num.div one (r64 (Num.add mag (r64 (Num.sqrt (r64 (Num.add one (r64 (Num.mul z z)))))))))
  let t := if z.isNeg then t.neg else t
  let c := r64 (Num.div one (r64 (Num.sqrt (r64 (Num.add one (r64 (Num.mul t t)))))))
  (c, r64 (Num.mul c t))

/-- Rotate two columns; columns that are orthogonal stay. -/
def rotate (x y : SvdCol) : SvdCol × SvdCol :=
  let ga := dot64 x.1 y.1
  if ga.isZero then (x, y)
  else
    let r := jacobi (dot64 x.1 x.1) (dot64 y.1 y.1) ga
    ((mix64 r.1 r.2.neg x.1 y.1, mix64 r.1 r.2.neg x.2 y.2), (mix64 r.2 r.1 x.1 y.1, mix64 r.2 r.1 x.2 y.2))

/-- Rotate a column with each of the ones behind it. -/
def rotateRow : SvdCol → List SvdCol → SvdCol × List SvdCol
  | x, [] => (x, [])
  | x, y :: l =>
    let r := rotate x y
    let t := rotateRow r.1 l
    (t.1, r.2 :: t.2)

/-- One sweep over all pairs of columns. -/
def svdSweep : Nat → List SvdCol → List SvdCol
  | 0, l => l
  | _, [] => []
  | f + 1, x :: l =>
    let r := rotateRow x l
    r.1 :: svdSweep f r.2

/-- Sweeps of the decomposition. -/
def svdSweeps : Nat → List SvdCol → List SvdCol
  | 0, l => l
  | f + 1, l => svdSweeps f (svdSweep 64 l)

/-- The decomposition of a matrix, given by rows: each column is a left singular vector times its singular value, with the right singular
vector. The spec names the decomposition and not its steps: these are one-sided rotations in 16 sweeps (DESIGN CHOICE, log entry 47). -/
def svd (w : List (List Num)) : List SvdCol :=
  let n := w.length
  svdSweeps 16 ((List.range n).map (fun j =>
    (w.map (fun r => r.getD j (Num.ofNat 0)), (List.range n).map (fun i => Num.ofNat (if i = j then 1 else 0)))))

/-- The larger of two values. -/
def Num.max2 (x y : Num) : Num := if Num.lt x y then y else x

/-- The normalised matrix: singular values over the largest, and zero below its 2^-8 (R266). -/
def normalise (w : List (List Num)) : List (List Num) :=
  let cs := (svd w).map (fun c => (r64 (Num.sqrt (dot64 c.1 c.1)), c))
  let top := (cs.map (·.1)).foldl Num.max2 (Num.ofNat 0)
  let kept := cs.filter (fun c => !Num.lt c.1 (Num.scale top (-8)))
  (List.range w.length).map (fun i => (List.range w.length).map (fun t =>
    kept.foldl (fun z c =>
      r64 (Num.add z (r64 (Num.mul (r64 (Num.div (c.2.1.getD i (Num.ofNat 0)) top)) (c.2.2.getD t (Num.ofNat 0))))))
      (Num.ofNat 0)))

/-- The normalised matrix of FP32 patterns. -/
def wHat (w : List (List Nat)) : List (List Num) := normalise (w.map (fun r => r.map Fmt.fp32.decode))

/-! ### The projection of a key (R268, R269) -/

/-- The smallest exponent whose power of two is no less than a magnitude; nothing for zero. -/
def ceilLog (x : Num) : Option Int :=
  match x with
  | .fin _ m e => if m = 0 then none else some (e + (Nat.log2 m : Int) + if m = 2 ^ Nat.log2 m then 0 else 1)
  | _ => none

/-- The scale exponent e of a key. -/
def keyScale (k : List Num) : Int :=
  (k.filterMap ceilLog).foldl (fun (acc : Option Int) e => some (match acc with
    | some a => max a e
    | none => e)) none |>.getD 0

/-- The exact scaled values c~ of a key. -/
def scaledKey (k : List Num) : List Num := k.map (fun x => Num.scale (Num.mul (Num.ofNat 127) x) (-(keyScale k)))

/-- The codes that drive the input converters. -/
def dacCodes (k : List Num) : List Int := (scaledKey k).map (fun x => ((x.toInt .rne).getD (0, false)).1)

/-- The exact sum of products. -/
def dotExact (x y : List Num) : Num := (List.zip x y).foldl (fun z p => Num.add z (Num.mul p.1 p.2)) (Num.ofNat 0)

/-- What the matrix projects: the scaled key, a key of 128 folded onto 64 elements with the signs d_t. -/
def foldKey (fold : Word64) (k : List Num) : List Num :=
  let c := scaledKey k
  if c.length ≤ 64 then c
  else (List.range 64).map (fun t =>
    let hi := c.getD (64 + t) (Num.ofNat 0)
    Num.add (c.getD t (Num.ofNat 0)) (if bit fold.toNat t then hi.neg else hi))

/-- The ideal projections y_i of a key. -/
def projections (w : List (List Num)) (fold : Word64) (k : List Num) : List Num := w.map (fun r => dotExact r (foldKey fold k))

/-- Full scale of a key's projections. -/
def fullScale (n : Nat) : Nat := if n ≤ 64 then 1016 else 2032

/-- The magnitude of a value. -/
def Num.abs : Num → Num
  | .fin _ m e => .fin false m e
  | .inf _ => .inf false
  | .nan => .nan

/-- Whether a projection lies beyond 2 % of full scale. -/
def strongBit (n : Nat) (y : Num) : Bool := Num.lt (Num.ofNat (fullScale n)) (Num.mul (Num.ofNat 50) y.abs)

/-- Whether a projection is positive. -/
def Num.isPos (x : Num) : Bool := !x.isZero && Num.lt (Num.ofNat 0) x

/-- One bit of a sketch: with the bound in force and the projection beyond 2 % of full scale it is the sign of the projection, but for an
error event; else it is free (R269). -/
def sketchBit (bound : Bool) (n : Nat) (y : Num) (free err : Bool) : Bool :=
  if bound && strongBit n y then y.isPos != err else free

/-- A sketch word, from free bits and error events. -/
def sketchWord (bound : Bool) (w : List (List Num)) (fold : Word64) (k : List Num) (free err : Nat) : Nat :=
  (((projections w fold k).zipIdx).map (fun y => if sketchBit bound k.length y.1 (bit free y.2) (bit err y.2) then 2 ^ y.2 else 0)).foldl (· + ·) 0

/-! ### The codes of a frozen-weight output (R271) -/

/-- A code as it is read: -128 is -127. -/
def codeIn (x : Nat) : Int := max (-127) (sext 8 x)

/-- The ideal scaled outputs v_i × 2^g of an input vector. -/
def mvmIdeal (w : List (List Num)) (g : Nat) (x : List Nat) : List Num :=
  w.map (fun r => Num.scale (dotExact r (x.map (fun c => Num.ofInt (codeIn c)))) ((g : Int) - 3))

/-- The largest difference of a written code from its scaled output, but for an error event: 6 × max (1, 2^(g - 2)). -/
def mvmSlack (g : Nat) : Nat := if g ≤ 2 then 6 else 6 * 2 ^ (g - 2)

/-- The least integer that is no less than a value, and the greatest that is no more. -/
def Num.ceil (x : Num) : Int := ((x.toInt .rup).getD (0, false)).1
/-- The greatest integer that is no more than a value. -/
def Num.floor (x : Num) : Int := ((x.toInt .rdn).getD (0, false)).1

/-- A written code: within its bounds about the ideal output or at the end of the range, and free where no bound holds (R271). -/
def mvmCode (bound : Bool) (g : Nat) (t : Num) (free : Nat) : Int :=
  let c := codeIn free
  if !bound then c
  else if !Num.lt t.abs (Num.ofNat 127) then (if t.isNeg then -127 else 127)
  else if Num.lt (Num.ofNat 120) t.abs then c
  else
    let k : Num := Num.ofNat (mvmSlack g)
    max (-127) (min 127 (max (Num.ceil (Num.add t k.neg)) (min (Num.floor (Num.add t k)) c)))

end Sys2Proof.Machine
end

