-- ==== Sys2Proof/Machine/Queue.lean ====
section
/-! DEFINITION. The host link as a whole: served requests, the queues, doorbells, the log's acknowledgement, link failures, and the
commands that only touch the hub (R514 to R535, R539, R540). -/

namespace Sys2Proof.Machine

open Sys2Proof

/-! ### Requests of the host (R516, R518) -/

/-- Answer the host. -/
def replyHost (r : HostReply) (s : State) : State := { s with hub := { s.hub with reply := r } }

/-- A wake begins: 1 a host access, 2 I3C, 3 a threshold (R460). -/
def startWake (cause : Nat) (s : State) : State :=
  if s.power.st = .watch ∧ s.power.waking = false then
    let s := { s with power := { s.power with waking := true, wakeCause := cause }, boot := { s.boot with path := .wake, wakeStep := 0 } }
    logEvent 0x2041 srcDevice [(4, cause)] s
  else s

/-- A host request: it arrives only while the link is in L0, and before READY it completes with Unsupported Request (R516); in WATCH it
wakes the device as well (R457). -/
def onHost (s : State) (f : State → State) : Out :=
  if !s.hub.l0 then .next s
  else if !s.hub.ready then .next (startWake 1 (replyHost .ur s))
  else .next (f s)

/-- A posted write that is performed counts in HUB.DEV_SYNC (R224). -/
def hostPosted (s : State) : State :=
  replyHost .none { s with hub := { s.hub with hostWrites := (s.hub.hostWrites + 1) % 2 ^ 64 } }

/-! ### Commands (R523, R524, R528) -/

/-- Whether a queue has a command that can be fetched: it is enabled and not stopped, and its command before has completed. -/
def queueReady (s : State) (q : Nat) : Bool :=
  let k := queueOf s q
  k.enable && !k.fault && k.busy.isNone && k.held.isNone && decide (k.sqHead ≠ k.sqTail)

/-- Whether the firmware takes the next command of a queue now: the queues take turns, from the one after the last served (R523). -/
def cmdDue (s : State) (q : Nat) : Bool :=
  decide (q < 8) && s.hub.ready && s.hub.l0 && queueReady s q &&
  (List.range ((q + 7 - s.hub.turn) % 8)).all (fun i => !queueReady s ((s.hub.turn + 1 + i) % 8))

/-- The firmware fetches a command (R523). -/
def takeCmd (q id : Nat) (s : State) : State :=
  let s := modQueue q (fun k => { k with sqHead := (k.sqHead + 1) % (k.sqSize + 1), busy := some (id % 65536) }) s
  { s with hub := { s.hub with turn := q } }

/-- A command of a queue: INVALID where a reserved field is not zero, else its effect (R528). -/
def onCmd (q id : Nat) (rsv : Bool) (s : State) (f : State → State) : Out :=
  if cmdDue s q then
    let s := takeCmd q id s
    .next (if rsv then postCompletion q id 3 0 s else f s)
  else .next s

/-- Complete with a status and no detail. -/
def endCmd (q id status : Nat) (s : State) : State := postCompletion q id status 0 s

/-- Whether a value is a host bus address with an alignment (R527). -/
def hostAddrOk (a align : Nat) : Bool := decide (a < 2 ^ 44) && decide (a % align = 0)

/-! ### Doorbells and queue control (R524, R525) -/

/-- A queue stops: cause 1 for a doorbell, 2 for a fetch (R525). -/
def queueFault (q cause : Nat) (s : State) : State :=
  logEvent 0x1101 srcDevice [(4, q), (4, cause)] (modQueue q (fun k => { k with fault := true }) s)

/-- Write a held completion once there is room. -/
def flushHeld (q : Nat) (s : State) : State :=
  match (queueOf s q).held with
  | some (id, st, d) => writeEntry q id st d s
  | none => s

/-- A write of SQ_TAIL: a value beyond the queue faults it (R524, R525). -/
def ringSq (q v : Nat) (s : State) : State :=
  let t := v % 4096
  if (queueOf s q).sqSize < t then queueFault q 1 s else modQueue q (fun k => { k with sqTail := t }) s

/-- A write of CQ_HEAD: entries are free again, and a completion that waited is written (R524, R525). -/
def ringCq (q v : Nat) (s : State) : State :=
  let h := v % 4096
  if (queueOf s q).cqSize < h then queueFault q 1 s else flushHeld q (modQueue q (fun k => { k with cqHead := h }) s)

/-- SQ_TAIL (R518, R524, R525): a 4-byte write is an Unsupported Request. -/
def execSqTail (q v size : Nat) (s : State) : Out :=
  onHost s (fun s => if size ≠ 8 ∨ 8 ≤ q then replyHost .ur s else ringSq q v (hostPosted s))

/-- CQ_HEAD (R518, R524, R525). -/
def execCqHead (q v size : Nat) (s : State) : Out :=
  onHost s (fun s => if size ≠ 8 ∨ 8 ≤ q then replyHost .ur s else ringCq q v (hostPosted s))

/-- The fields of Q_CFG that a write changes: sizes only while the queue is disabled. -/
def queueCfg (q v : Nat) (s : State) : State :=
  modQueue q (fun k => { k with
    sqSize := if k.enable then k.sqSize else bits v 0 12
    cqSize := if k.enable then k.cqSize else bits v 16 12
    vector := some (bits v 32 11) }) s

/-- Set Q_CFG.enable: from 0 to 1 the indices start again (R524). -/
def enableQueue (q v : Nat) (s : State) : State :=
  let on := (queueOf s q).enable
  let s := queueCfg q v s
  if on then s
  else modQueue q (fun k => { k with enable := true, sqHead := 0, cqTail := 0, sqTail := 0, cqHead := 0, phase := true, fault := false }) s

/-- Clear Q_CFG.enable: fetching stops, and a completion that waits for room is discarded (R524; that it is not kept for a queue enabled again
is the model's choice, log entry 49). -/
def disableQueue (q v : Nat) (s : State) : State :=
  let s := queueCfg q v s
  modQueue q (fun k => { k with enable := false, busy := if k.held.isSome then none else k.busy, held := none }) s

/-- QUEUE_ENABLE (R524): a write of Q_CFG with enable set. -/
def execQueueEnable (q v : Nat) (s : State) : Out :=
  onHost s (fun s => if 8 ≤ q then replyHost .ur s else enableQueue q v (hostPosted s))

/-- QUEUE_DISABLE (R524): a write of Q_CFG with enable clear. -/
def execQueueDisable (q v : Nat) (s : State) : Out :=
  onHost s (fun s => if 8 ≤ q then replyHost .ur s else disableQueue q v (hostPosted s))

/-- LOG_ACK (R539): the vector is armed again and its condition tested at once. -/
def ackLog (v : Nat) (s : State) : State :=
  logVector { s with log := { s.log with acked := v % 2 ^ 32, armed := true } }

/-- LOG_ACK (R539). -/
def execLogAck (v : Nat) (s : State) : Out := onHost s (fun s => ackLog v (hostPosted s))

/-! ### The link (R535, R540) -/

/-- HOSTLINK_DOWN (R208, R540): the link has been out of L0 for more than 10 ms, or has no healthy feed; copies with a host request in
flight fail. -/
def execHostlinkDown (cause : Nat) (s : State) : Out :=
  if s.hub.l0 then
    let s := logEvent 0x1200 srcDevice [(4, cause)] { s with hub := { s.hub with l0 := false, downs := satAdd 16 s.hub.downs 1 } }
    .next (forEach (s.units.hare.map (·.1)) failHostCopies s)
  else .next s

/-- Send what waited for the link. -/
def sendOut (o : HostOut) (s : State) : State :=
  match o with
  | .write a d => hostWrite a d s
  | .msix v => msixSend v s

/-- HOSTLINK_UP (R535, R540): writes and messages that waited are sent in order. -/
def execHostlinkUp (s : State) : Out :=
  if s.hub.l0 then .next s
  else
    let out := s.hub.out
    let s := logEvent 0x1201 srcDevice [] { s with hub := { s.hub with l0 := true, out := [] } }
    .next (forEach out sendOut s)

/-- The failing host address of a copy: the chunk it reads back, or the one it reads. -/
def hostFailAddr (c : CopyRec) : Word64 :=
  match c.readbacks with
  | upto :: _ => c.dstAt (upto - 1)
  | [] => c.srcAt c.sent

/-- The load in progress of a queue is given up before its checks. -/
def dropLoad (q : Nat) (s : State) : State :=
  if s.load.stage = .reading ∧ s.load.queue = q then
    { s with load := { s.load with stage := .idle, image := [], plan := none }, run := { s.run with st := .none } }
  else s

/-- HOST_COMPLETION_TIMEOUT (R208, R514, R525, R527): a copy stops at the failing chunk, a command completes with HOST_ERROR, and a fetch
faults its queue. -/
def execHostCompletionTimeout (r : HostRead) (s : State) : Out :=
  match r with
  | .copy e i =>
    match copyOf s e i with
    | some c => .next (if c.stopped then s else hostErrorCopy e c (hostFailAddr c) 0 s)
    | none => .next (foxReadbackDone e i s)
  | .command q =>
    let k := queueOf s q
    match k.busy with
    | some id => .next (if s.load.stage = .reading ∧ s.load.queue = q then endCmd q id 6 (dropLoad q s) else s)
    | none => .next (if cmdDue s q then queueFault q 2 s else s)

/-- A configuration register of 4 bytes: the identity of R514 where PCIe puts it (log entry 49), and no stated value elsewhere. -/
def cfgWord (off : Nat) (s : State) : List Byte :=
  match off / 4 with
  | 0 => leBytes 4 (0x0E02 * 65536 + 0x1F4C)
  | 2 => leBytes 4 (0x120000 * 256 + Config.stepping.toNat)
  | _ => leBytes 4 (freeWord s).toNat

/-- CONFIGURATION_REQUEST (R514, R516, R517): retried before READY; else a read answers, and a write sets what it names where the device supports
the value. -/
def execConfigurationRequest (c : CfgReq) (s : State) : Out :=
  if !s.hub.l0 then .next s
  else if !s.hub.ready && decide (s.power.st ≠ .watch) then .next (replyHost .crs s)
  else
    let s := replyHost .none s
    match c with
    | .read off => .next (replyHost (.data (cfgWord off s) false) (useFree s))
    | .power d => .next { s with hub := { s.hub with d3hot := d } }
    | .msix en all =>
      let s := { s with msix := { s.msix with enabled := en, maskAll := all } }
      let due := if en && !all then s.msix.pendingBits.filter (fun v => !bit (SMap.get Msix.entry0 s.msix.table v).toNat 96) else []
      .next (forEach due msixSend { s with msix := { s.msix with pendingBits := s.msix.pendingBits.filter (fun v => !due.contains v) } })
    | .bar2 g => .next (if g ∈ [1, 2, 4, 8, 16, 32] then { s with hub := { s.hub with bar2 := g } } else s)
    | .bar4 g => .next (if g ∈ [1, 2, 4, 8, 16, 32, 64, 128, 256, 512, 1024] then { s with hub := { s.hub with bar4 := g } } else s)
    | .payload b => .next (if b ∈ [128, 256, 512] then { s with hub := { s.hub with mps := b } } else s)
    | .readRequest b => .next (if b ∈ [128, 256, 512, 1024, 2048, 4096] then { s with hub := { s.hub with mrrs := b } } else s)

/-! ### Notifications (R533) and status (R528, R531) -/

/-- Whether a plan is loaded: it has passed its load and is not unloaded. -/
def planLoaded (s : State) : Bool := s.run.plan.isSome

/-- TALLY_NOTIFY_ARM (R533): at most 256, on an allocated tally; one already at its target sends at once. -/
def execTallyNotifyArm (q id : Nat) (rsv : Bool) (tally target vector : Nat) (s : State) : Out :=
  onCmd q id rsv s (fun s =>
    if !planLoaded s then endCmd q id 5 s
    else if 65536 ≤ tally ∨ 2048 ≤ vector ∨ 256 ≤ s.hub.notifies.length ∨ (tallyOf s tally).allocated = false then endCmd q id 3 s
    else
      let s := { s with hub := { s.hub with notifies := s.hub.notifies ++ [{ tally := tally, target := target, vector := vector }] } }
      endCmd q id 0 (notifyTally tally (tallyOf s tally) s))

/-- TALLY_NOTIFY_DISARM (R533): the notifications of a tally are disarmed. -/
def execTallyNotifyDisarm (q id : Nat) (rsv : Bool) (tally : Nat) (s : State) : Out :=
  onCmd q id rsv s (fun s =>
    if !planLoaded s then endCmd q id 5 s
    else if 65536 ≤ tally ∨ (tallyOf s tally).allocated = false then endCmd q id 3 s
    else endCmd q id 0 { s with hub := { s.hub with notifies := s.hub.notifies.filter (fun n => n.tally != tally) } })

/-- A write of a status record that failed (R527). -/
def statusFail (a status : Nat) (s : State) : State :=
  logEvent 0x1102 srcDevice [(8, a), (4, status)] { s with hub := { s.hub with hostFaults := satAdd 32 s.hub.hostFaults 1 } }

/-- PLAN_STATUS (R528, R531): one record at the address named; `status` is the write's PCIe status, zero on success. -/
def execPlanStatus (q id : Nat) (rsv : Bool) (addr status : Nat) (s : State) : Out :=
  onCmd q id rsv s (fun s =>
    if !hostAddrOk addr 64 then endCmd q id 3 s
    else if status ≠ 0 then endCmd q id 0 (statusFail addr status s)
    else endCmd q id 0 (hostWrite addr (statusRecord s s.hub.statusSeq) s))

end Sys2Proof.Machine
end

