-- ==== Sys2Proof/Machine/Power.lean ====
section
/-! DEFINITION. Power: the rails and their AVSBus, the rate-keeper, the power cap, droop and the power domains (R443 to R467). -/

namespace Sys2Proof.Machine

open Sys2Proof

/-! ### Rails -/

/-- A rail: 0 to 3 VCORE0 to 3, 4 VSRAM, 5 VOPT, 6 VHTR. -/
def railOf (s : State) (r : Nat) : Rail := s.power.rails.getD r {}

/-- Change a rail. -/
def modRail (r : Nat) (f : Rail → Rail) (s : State) : State :=
  { s with power := { s.power with rails := s.power.rails.modify r f } }

/-- The distance of two voltages. -/
def farMv (a b : Nat) : Nat := max a b - min a b

/-- Request a voltage: one Write and Commit goes to the regulator (R446). The gap is how far the rail stands from its request. -/
def requestMv (r mv : Nat) (s : State) : State :=
  modRail r (fun x => { x with request := mv, change := some .written, gap := farMv x.confirmed mv }) s

/-- Set a rail outside the rate-keeper (R457, R460, R485): a faulted rail keeps its voltage, and an outstanding write ends first (R445). -/
def setRail (r mv : Nat) (s : State) : State :=
  let x := railOf s r
  if x.faulted then s
  else if x.change.isSome then modRail r (fun x => { x with after := some mv }) s
  else if x.request = mv ∧ x.confirmed = mv then s
  else requestMv r mv s

/-- A change is confirmed: the count of failures returns to 0 (R446, R447), and a voltage that waited is requested. -/
def confirmRail (r : Nat) (s : State) : State :=
  let w := (railOf s r).after
  let s := modRail r (fun x => { x with confirmed := x.request, change := none, fails := 0, gap := 0, after := none }) s
  match w with
  | some mv => setRail r mv s
  | none => s

/-- A change failed with the rail `gap` from its request: it counts only where the rail is no nearer, and the third in a row holds the
rail at its confirmed voltage (R447). -/
def railFail (r gap : Nat) (next : AvsStage) (s : State) : State :=
  let x := railOf s r
  let n := if gap < x.gap then x.fails else x.fails + 1
  if 3 ≤ n then
    logEvent 0x2023 srcDevice [(4, r), (8, x.confirmed)]
      (modRail r (fun x => { x with fails := 3, faulted := true, change := none, after := none }) s)
  else modRail r (fun x => { x with fails := n, gap := min gap x.gap, change := some next }) s

/-- AVS_RESPONSE (R446, R447): an acknowledgement, a fault of the bus or a read-back. -/
def execAvsResponse (r : Nat) (a : AvsReply) (s : State) : Out :=
  let x := railOf s r
  if s.power.rails.length ≤ r then .next s
  else match a with
  | .current t => .next (modRail r (fun x => { x with current := min t 65535 }) s)
  | .ack => .next (if x.change = some .written then modRail r (fun x => { x with change := some .reading }) s else s)
  | .volts mv => .next (if x.change = some .reading ∧ farMv mv x.request ≤ 10 then confirmRail r s else s)
  | .notDone st =>
    if x.change ≠ some .written then .next s
    else
      let s := modRail r (fun x => { x with notDone := satAdd 16 x.notDone 1 }) s
      .next (railFail r x.gap .retry (logEvery 0x2021 r 1000000000 srcDevice [(2, st)] s))
  | .bad frame mv =>
    let s := modRail r (fun x => { x with crc := satAdd 16 x.crc 1 }) s
    let s := logEvery 0x2020 r 1000000000 srcDevice [(4, r), (8, frame)] s
    if x.change ≠ some .written then .next s
    else if farMv mv x.request ≤ 10 then .next (modRail r (fun x => { x with change := some .reading }) s)
    else .next (railFail r (farMv mv x.request) .written s)

/-- AVS_READBACK_TIMEOUT (R446, R447): 50 us after the acknowledgement no read has come within 10 mV. -/
def execAvsReadbackTimeout (r mv : Nat) (s : State) : Out :=
  let x := railOf s r
  if x.change = some .reading then
    let s := modRail r (fun x => { x with readback := satAdd 16 x.readback 1 }) s
    .next (railFail r (farMv mv x.request) .written (logEvery 0x2022 r 1000000000 srcDevice [(8, x.request), (8, mv)] s))
  else .next s

/-- AVS_RETRY_DELAY (R447): 20 us later the change is issued again. -/
def execAvsRetryDelay (r : Nat) (s : State) : Out :=
  .next (if (railOf s r).change = some .retry then modRail r (fun x => { x with change := some .written }) s else s)

/-- The faulted field of a rail is cleared and the rail resumes with a fresh count (R447). -/
def clearRailFault (r : Nat) (s : State) : State := modRail r (fun x => { x with faulted := false, fails := 0 }) s

/-- RAIL_FAULT_CLEAR (R447, R467): a host write of 1 to RAIL_STATUS.faulted. -/
def execRailFaultClear (r : Nat) (s : State) : Out := onHost s (fun s => clearRailFault r (hostPosted s))

/-! ### The class in force and the range (R449, R453) -/

/-- The POWER record of the phase in force, or of the phase START will enter; none without a plan that runs or is held. -/
def powerClass? (s : State) : Option PowerClass :=
  match s.run.plan with
  | some p => if s.run.st = .run ∨ s.run.st = .hold ∨ s.run.st = .waiting then p.powers[(phaseOf s s.run.clsPhase).powerClass]? else none
  | none => none

/-- The declared step rate: 2,000 with no plan running (R450). -/
def declaredRate (s : State) : Nat := if planRuns s then ((powerClass? s).map (·.stepRate)).getD 2000 else 2000

/-- The reading a sensor counts with: 1/16 degree above its limit where it is broken, none where it takes no part (R470). -/
def sensorCounts (limit : Int) (x : Sensor) : Option Int :=
  match x.cls with
  | .valid => some x.reading
  | .absent | .masked => none
  | _ => some (limit + 1)

/-- The limit of a sensor in 1/16 degree (R472); none for the substrate. -/
def sensorLimit (n : Nat) : Option Int :=
  if n < 64 then some (105 * 16) else if n < 96 then some (100 * 16) else if n < 120 then some (95 * 16)
  else if n < 126 then some (105 * 16) else if n < 128 then none else some (95 * 16)

/-- The compute die a sensor governs (R468). -/
def sensorDie (n : Nat) : Option Nat :=
  if n < 64 then some (n / 8) else if n < 96 then some ((n - 64) / 4) else if n < 128 then none else some ((n - 128) / 2)

/-- A sensor. -/
def sensorOf (s : State) (n : Nat) : Sensor := SMap.get {} s.thermal.sensors n

/-- The thermal ceiling of a VCORE rail, from the hottest compute die or S-die on it (R449). -/
def thermalCeiling (s : State) (j : Nat) : Nat :=
  let ts := (List.range 96).filterMap (fun n =>
    if (sensorDie n).map (· / 2) = some j then sensorCounts ((sensorLimit n).getD 0) (sensorOf s n) else none)
  let hot := ts.foldl max (-32768)
  if 100 * 16 < hot then 800 else if 95 * 16 < hot then 850 else 900

/-- The lowest of some bounds, leaving out those that are 0. -/
def minSet (d : Nat) (l : List Nat) : Nat := (l.filter (· ≠ 0)).foldl min d

/-- The range [lo, hi] of a VCORE rail, and whether lo stood above hi (R449). Requests are multiples of 5 mV (R445). -/
def railRange (s : State) (j : Nat) : Nat × Nat × Bool :=
  let c := powerClass? s
  let lo := max 550 (max ((c.map (·.floorMv)).getD 0) s.power.ctl.floorMv)
  let hi := minSet 900 [thermalCeiling s j, (c.map (·.ceilMv)).getD 0, s.power.ctl.ceilMv]
  (min (alignUp lo 5) (hi / 5 * 5), hi / 5 * 5, decide (hi < lo))

/-- The thermal record of a compute die. -/
def dieTherm (s : State) (k : Nat) : DieTherm := SMap.get {} s.thermal.dies k

/-- The effective target of a die (R450). -/
def dieTarget (s : State) (k : Nat) : Nat := min (declaredRate s) (min (dieTherm s k).rate s.power.rateCap)

/-- The rates of a compute die. -/
def rateOf (s : State) (k : Nat) : DieRate := SMap.get {} s.power.rates k

/-- Change the rates of a compute die. -/
def modRate (k : Nat) (f : DieRate → DieRate) (s : State) : State :=
  { s with power := { s.power with rates := SMap.modify {} s.power.rates k f } }

/-- The change of voltage a die asks for, plus 25 so that it is a natural number (R450). -/
def dieAsk (s : State) (k : Nat) : Int :=
  let c := (rateOf s k).canary
  let t := dieTarget s k
  if 100 * c < 97 * t then 25 else if c < t then 10 else if 10 ≤ (rateOf s k).fast then -5 else 0

/-- Whether a die's canary rate exceeds 1.03 × T. -/
def dieFast (s : State) (k : Nat) : Bool := decide (103 * dieTarget s k < 100 * (rateOf s k).canary)

/-! ### Control intervals (R448 to R453) -/

/-- What an interval shows of one die: its canary rate and the runs of intervals (R448, R450, R451). -/
def noteRate (k c : Nat) (s : State) : State :=
  let s := modRate k (fun r => { r with canary := c }) s
  let t := dieTarget s k
  let x := railOf s (k / 2)
  let atHi := decide (x.confirmed = (railRange s (k / 2)).2.1)
  modRate k (fun r => { r with
    fast := if dieFast s k then min 10 (r.fast + 1) else 0
    slow := if atHi && decide (c < t) then min 100 (r.slow + 1) else 0
    ok := if c < t then 0 else min 100 (r.ok + 1) }) s

/-- The step pacer of a die whose neighbour on the rail is `o` (R450): it takes hold while the neighbour does not let the rail fall, and
lets go as soon as the canary rate is no more than 1.03 × T. -/
def paceDie (k o : Nat) (s : State) : State :=
  let onO := decide ((domOf s o).st = .on)
  modRate k (fun r => { r with paced := dieFast s k && (r.paced || (onO && !dieFast s o)) }) s

/-- The compute dies on a VCORE rail whose domain is on. -/
def railDies (s : State) (j : Nat) : List Nat := [2 * j, 2 * j + 1].filter (fun k => decide ((domOf s k).st = .on))

/-- The short state of a rail (R451). -/
def shortRail (j : Nat) (s : State) : State :=
  let x := railOf s j
  let ds := railDies s j
  let slow := decide (x.confirmed = (railRange s j).2.1) && ds.any (fun k => decide (100 ≤ (rateOf s k).slow))
  let short := slow || (x.short && !(ds.all (fun k => decide (100 ≤ (rateOf s k).ok))))
  let s := modRail j (fun x => { x with short := short }) s
  if short then
    let low := (ds.map (fun k => (rateOf s k).canary)).foldl min 65535
    let t := (ds.map (dieTarget s)).foldl max 0
    logOncePhase 0x2001 j srcDevice [(4, j), (8, t), (8, low)] s
  else s

/-- The rate-keeper's request for one rail at the end of an interval (R450). -/
def keepRail (j : Nat) (s : State) : State :=
  let x := railOf s j
  let r := railRange s j
  match (railDies s j).map (dieAsk s) with
  | [] => s
  | a :: as =>
    let v := min r.2.1 (max r.1 ((x.request : Int) + as.foldl max a).toNat)
    if v = x.request ∨ x.change.isSome = true ∨ x.faulted = true then s else requestMv j v s

/-- The range_empty field and its record (R449). -/
def noteRanges (s : State) : State :=
  let e := (List.range 4).any (fun j => (railRange s j).2.2)
  let s := { s with power := { s.power with rangeEmpty := e } }
  if e then logOncePhase 0x2002 0 srcDevice [] s else s

/-- CONTROL_INTERVAL (R448 to R453): the canary rates of the eight dies over the last 10 us. In HOLD the rails are held; in WATCH the
rate-keeper does not run. -/
def execControlInterval (rates : List Nat) (s : State) : Out :=
  if s.power.st = .watch ∨ s.hub.ready = false then .next s
  else
    let s := noteRanges s
    let s := forEach (List.range 8) (fun k s => if (domOf s k).st = .on then noteRate k (rates.getD k 0) s else s) s
    let s := forEach (List.range 8) (fun k s => paceDie k (k / 2 * 4 + 1 - k) s) s
    let s := forEach (List.range 4) shortRail s
    .next (if s.power.st = .hold then s else forEach (List.range 4) keepRail s)

/-! ### Package power (R452) -/

/-- The cap in force. -/
def capInForce (s : State) : Nat := minSet 2600 [((powerClass? s).map (·.limitW)).getD 0, s.power.ctl.capW]

/-- The power-cap rate at the end of 10 ms. -/
def adjustCap (s : State) : State :=
  let ks := (List.range 8).filter (fun k => decide ((domOf s k).st = .on))
  let low := (ks.map (dieTarget s)).foldl min 65535
  let cap := capInForce s
  if cap < s.power.avgW then
    let r := max 500 (99 * min s.power.rateCap low / 100)
    let was := s.power.capActive
    let s := { s with power := { s.power with rateCap := r, capActive := true } }
    if was then s else logEvent 0x2003 srcDevice [] s
  else if 100 * s.power.avgW < 95 * cap ∧ s.power.capActive = true then
    let r := s.power.rateCap * 101 / 100
    let top := (ks.map (fun k => min (declaredRate s) (dieTherm s k).rate)).foldl max 0
    if top ≤ r then logEvent 0x2004 srcDevice [] { s with power := { s.power with rateCap := 0xFFFF, capActive := false } }
    else { s with power := { s.power with rateCap := r } }
  else s

/-- POWER_MEASURE (R452): the package power of one millisecond; ten make the average that the cap is held to. -/
def execPowerMeasure (w : Nat) (s : State) : Out :=
  let l := s.power.samples ++ [w]
  if l.length < 10 then .next { s with power := { s.power with samples := l } }
  else .next (adjustCap { s with power := { s.power with samples := [], avgW := min 65535 (l.foldl (· + ·) 0 / 10) } })

/-! ### Droop (R454, R455) -/

/-- Change the droop record of a VCORE rail. -/
def modDroop (j : Nat) (f : Droop → Droop) (s : State) : State :=
  { s with power := { s.power with droops := SMap.modify {} s.power.droops j f } }

/-- DROOP (R454): a die's local VCORE fell `depth` mV below the confirmed voltage for `ns` ns. -/
def execDroop (die depth ns : Nat) (s : State) : Out :=
  if depth ≤ 40 ∨ ns < 50 ∨ 8 ≤ die then .next s
  else
    let j := die / 2
    let s := modDroop j (fun d => { d with count := satAdd 32 d.count 1, deepest := max d.deepest (min depth 65535) }) s
    .next (logEvery 0x2010 j 10000000 srcDevice [(4, die), (8, depth), (8, ns)] s)

/-- VCORE_UNDERVOLT (R455): a die's local VCORE was below 500 mV for more than 5 us. The third within an hour makes the device lost. -/
def execVcoreUndervolt (die mv ns : Nat) (s : State) : Out :=
  if 500 ≤ mv ∨ ns ≤ 5000 ∨ 8 ≤ die then .next s
  else
    let now := nowNs s
    let s := modDroop (die / 2) (fun d => { d with under := satAdd 16 d.under 1 }) s
    let s := logEvent 0x2011 srcDevice [(4, die), (8, mv), (8, ns)] s
    let recent := s.power.underAt.filter (fun t => decide (durationNs s t now < 3600000000000))
    let s := { s with power := { s.power with underAt := now :: recent } }
    .next (epochFault 0x2011 srcDevice (decide (2 ≤ recent.length)) s)

/-! ### Power domains (R462 to R466) -/

/-- Change a domain. -/
def modDom (d : Nat) (f : Domain → Domain) (s : State) : State :=
  { s with power := { s.power with domains := SMap.modify {} s.power.domains d f } }

/-- The domains that depend on a domain, in the order they go down, itself last (R462). -/
def domTree (d : Nat) : List Nat := if d < 8 then [16 + d, 8 + d, d] else [d]

/-- Ranges of HBM a plan needs on this device: regions, hoard and keep, and shards in space 1 (R462). -/
def planHbm (s : State) : List (Nat × Nat) :=
  match s.run.plan with
  | none => []
  | some p =>
    p.regions.map (fun r => (r.base, r.size)) ++
    (match p.epoch with
      | some e => [(e.hoardBase, e.hoardSize + e.hoardSize / 2)]
      | none => []) ++
    ((mySections s).shards.filter (fun x => x.space = 1)).map (fun x => (x.off, x.size))

/-- Ports of a tile (R23). -/
def tilePorts (k : Nat) : List Nat := (List.range 32).filter (fun n => tileOfPort n == k)

/-- Whether the loaded plan uses a domain (R462). -/
def domUsed (s : State) (d : Nat) : Bool :=
  planLoaded s &&
  (let m := mySections s
   if d < 8 then
     m.binds.any (fun b => decide (engClass b.engine < 5) && decide (engDie b.engine = d)) ||
     m.holds.any (fun h => overlaps (h.bank, h.count) (d * 512, 512)) ||
     m.streams.any (fun r => (List.range r.count).any (fun i => ctxDie (r.first + i) == d)) ||
     (planHbm s).any (overlaps (2 ^ 37 * d, 2 ^ 37)) ||
     m.shards.any (fun x => decide (x.space = 0) && overlaps (x.off, x.size) (2 ^ 32 * d, 2 ^ 32)) ||
     m.shards.any (fun x => decide (x.space = 2) && overlaps (x.off, x.size) (2 ^ 26 * d, 2 ^ 26))
   else if d < 16 then (planHbm s).any (overlaps (2 ^ 37 * (d - 8), 2 ^ 37))
   else
     m.binds.any (fun b => decide (engClass b.engine = 5) && decide (engDie b.engine = d - 16)) ||
     s.fab.lanes.any (fun e => e.2.named && decide (tileOfPort (lanePort e.1) = d - 16)))

/-- What a domain's drain ends in the stream units: open slots of the die are cancelled, and a context whose home die, or whose tile on the
analog path, drains loses its queued appends and faults (R254). -/
def drainStreams (d : Nat) (s : State) : State :=
  let ks := (s.units.stg.filter (fun g => g.2.opened && decide (g.1 / 1024 = d))).map (·.1)
  let s := if d < 8 then forEach ks (cancelStg d) s else s
  let cs := (s.units.ctx.filter (fun c => !c.2.queue.isEmpty && (decide (ctxDie c.1 = d) || (!c.2.digital && decide (16 + ctxDie c.1 = d))))).map (·.1)
  forEach cs (fun c s => ctxFault c 0x6405 (ctxOf s c).sketched false s) s

/-- A domain enters DRAINING (R464); cause 0 command, 1 FORCE, 2 management. -/
def drainOne (cause d : Nat) (s : State) : State :=
  let x := domOf s d
  if x.st = .on ∨ x.st = .waking then
    drainStreams d (logEvent 0x2030 srcDevice [(4, d), (4, cause)] (modDom d (fun x => { x with st := .draining, cause := cause, forced := false }) s))
  else s

/-- A domain and what depends on it enter DRAINING. -/
def drainDom (cause d : Nat) (s : State) : State := forEach (domTree d) (drainOne cause) s

/-- The commands that wait for a domain complete. -/
def answerDom (d status : Nat) (s : State) : State :=
  let ws := s.hub.domWaiters.filter (fun w => w.1 == d)
  let s := { s with hub := { s.hub with domWaiters := s.hub.domWaiters.filter (fun w => w.1 != d) } }
  forEach ws (fun w s => finishWaiter w.2 status 0 s) s

/-- Powering a domain up starts with what it depends on (R462). A domain in DRAINING goes up once it is OFF (R466). -/
def raiseDom (d : Nat) (s : State) : State :=
  let one := fun (d : Nat) (s : State) =>
    match (domOf s d).st with
    | .off | .failed => modDom d (fun x => { x with st := .waking }) s
    | .draining => modDom d (fun x => { x with upPending := true }) s
    | _ => s
  forEach (if d < 8 then [d] else [d % 8, d]) one s

/-- DOMAIN_POWER_OFF (R463, R466): at once where no plan uses it; BUSY where one does; with FORCE the plan stops first, a held one at the first
such boundary after its start. -/
def execDomainPowerOff (q id : Nat) (rsv : Bool) (d : Nat) (force : Bool) (s : State) : Out :=
  onCmd q id rsv s (fun s =>
    let w := fun (s : State) => { s with hub := { s.hub with domWaiters := s.hub.domWaiters ++ [(d, { queue := q, cmdId := id % 65536 })] } }
    if 24 ≤ d then endCmd q id 3 s
    else match (domOf s d).st with
    | .off => endCmd q id 0 s
    | .failed => endCmd q id 0 (modDom d (fun x => { x with st := .off }) s)
    | .draining => w s
    | _ =>
      if !(domTree d).any (domUsed s) then w (drainDom 0 d s)
      else if !force then endCmd q id 2 s
      else if planRuns s ∨ s.run.st = .hold then
        w (sendMsg (.stopReq true) (coordinatorOf s) (modDom d (fun x => { x with forced := true }) s))
      else w (drainDom 1 d s))

/-- DOMAIN_POWER_ON (R465, R466): completes when the domain is ON; a management disable of it wins. -/
def execDomainPowerOn (q id : Nat) (rsv : Bool) (d : Nat) (s : State) : Out :=
  onCmd q id rsv s (fun s =>
    if 24 ≤ d then endCmd q id 3 s
    else if (domOf s d).adminOff || (domOf s (d % 8)).adminOff then endCmd q id 2 s
    else if (domOf s d).st = .on then endCmd q id 0 s
    else raiseDom d { s with hub := { s.hub with domWaiters := s.hub.domWaiters ++ [(d, { queue := q, cmdId := id % 65536 })] } })

/-- Entries of a memory inside a range are dropped: contents lost, or written with zero (R462, R465). -/
def dropRange (m : Memory) (base size : Nat) : Memory := m.filter (fun c => decide (c.1 < base) || decide (base + size ≤ c.1))

/-- Lines of a poison list inside a range are dropped. -/
def dropLines (l : List Nat) (base size : Nat) : List Nat :=
  l.filter (fun n => decide (n * 64 < base) || decide (base + size ≤ n * 64))

/-- An engine of a die. -/
def onDie (k e : Nat) : Bool := decide (engClass e < 5) && decide (engDie e = k)

/-- What a compute die loses without power: SP, CS and directory, L1s, and its engines (R462). -/
def loseDie (k : Nat) (s : State) : State :=
  let m := s.mem
  let u := s.units
  { s with
    mem := { m with
      sp := dropRange m.sp (2 ^ 32 * k) (2 ^ 32), spPoison := dropLines m.spPoison (2 ^ 32 * k) (2 ^ 32)
      cs := dropRange m.cs (2 ^ 26 * k) (2 ^ 26), csPoison := dropLines m.csPoison (2 ^ 26 * k) (2 ^ 26) }
    eng := s.eng.filter (fun e => !onDie k e.1)
    units := { u with
      fox := u.fox.filter (fun e => !onDie k e.1), hare := u.hare.filter (fun e => !onDie k e.1)
      pack := u.pack.filter (fun e => !onDie k e.1), bear := u.bear.filter (fun e => !onDie k e.1)
      badger := u.badger.filter (fun e => !onDie k e.1), stg := u.stg.filter (fun e => decide (e.1 / 1024 ≠ k)) }
    sett := { s.sett with
      dir := s.sett.dir.filter (fun e => decide (e.1 * 64 / 2 ^ 26 ≠ k)), l1 := s.sett.l1.filter (fun e => !onDie k e.1) } }

/-- What an HBM pair loses without power (R462, R194). -/
def loseHbm (k : Nat) (s : State) : State :=
  let m := s.mem
  { s with mem := { m with
    hbm := dropRange m.hbm (2 ^ 37 * k) (2 ^ 37), hbmPoison := dropLines m.hbmPoison (2 ^ 37 * k) (2 ^ 37)
    hbmc := SMap.mapVals {} m.hbmc (fun i h => if i / 2 = k then { h with trained := false } else h) } }

/-- Lanes of a tile close as administrative closes, and lanes not in service leave at once (R464, R457). -/
def closeTile (k : Nat) (s : State) : State :=
  let ks := (s.fab.lanes.filter (fun e => tileOfPort (lanePort e.1) == k && decide (e.2.state ≠ .unused))).map (·.1)
  forEach ks (fun i s =>
    match (laneOf s i).state with
    | .up | .marked => unplannedClose i 7 true false s
    | .closing => s
    | _ => modLane i (fun l => { l with state := .admin, downReason := 7 }) s) s

/-- A projection engine whose tile lost power: its mesh is EMPTY (R278). -/
def Ppe.powerOff (p : Ppe) : Ppe := { p with mesh := .empty, record := none, load := none }

/-- What a tile loses without power: its lanes' rings and its mesh (R462). -/
def loseTile (k : Nat) (s : State) : State :=
  let s := cutMload k (closeTile k s)
  let s := { s with fab := { s.fab with
    rings := s.fab.rings.filter (fun e => decide (tileOfPort (e.1 / 32) ≠ k) || decide (e.2.state = RingState.faulty))
    ports := SMap.mapVals {} s.fab.ports (fun n p =>
      if tileOfPort n = k then { p with cabled := false, cablingTried := false, cabling := false, train0 := none } else p) } }
  { s with units := { s.units with ppe := SMap.modify {} s.units.ppe k Ppe.powerOff } }

/-- The switches of a domain open (R457, R464, R478). -/
def openSwitch (d : Nat) (s : State) : State :=
  let s := modDom d (fun x => { x with st := .off, cause := 0 }) s
  if d < 8 then loseDie d s else if d < 16 then loseHbm (d - 8) s else loseTile (d - 16) s

/-- DOMAIN_OFF_COMPLETE (R464): the drained domain's switches open once all that depends on it is down. -/
def execDomainOffComplete (d : Nat) (s : State) : Out :=
  let x := domOf s d
  if x.st ≠ .draining ∨ 24 ≤ d then .next s
  else if ((domTree d).filter (· ≠ d)).any (fun i => decide ((domOf s i).st = .draining)) then .next s
  else
    let s := logEvent 0x2031 srcDevice [(4, d), (4, x.cause)] (openSwitch d s)
    let up := x.upPending && !x.adminOff
    let s := modDom d (fun x => { x with upPending := false }) s
    if up then .next (raiseDom d s) else .next (answerDom d 0 s)

/-- A domain is ON (R465): a die's memories are zero, a pair is trained, and a tile's lanes train. -/
def domOn (d : Nat) (s : State) : State :=
  let s := modDom d (fun x => { x with st := .on }) s
  if d < 8 then loseDie d s
  else if d < 16 then
    let set := fun (i : Nat) (m : SMap Hbmc) => SMap.modify {} m i (fun h => { h with trained := true })
    { s with mem := { s.mem with hbmc := set (2 * (d - 8)) (set (2 * (d - 8) + 1) s.mem.hbmc) } }
  else
    let ks := (s.fab.lanes.filter (fun e => e.2.named && decide (tileOfPort (lanePort e.1) = d - 16) && decide (e.2.state = .admin))).map (·.1)
    forEach ks tuneLane s

/-- Whether a domain can power up: a compute die not on a faulted rail below lo, and a dependent only on a die that is ON (R465). -/
def canRise (s : State) (d : Nat) : Bool :=
  let x := railOf s (d % 8 / 2)
  if d < 8 then !(x.faulted && decide (x.confirmed < (railRange s (d / 2)).1)) else decide ((domOf s (d % 8)).st = .on)

/-- DOMAIN_ON_COMPLETE (R465): ON, or FAILED where it cannot power up. A dependent waits for its die. -/
def execDomainOnComplete (d : Nat) (ok : Bool) (s : State) : Out :=
  if (domOf s d).st ≠ .waking ∨ 24 ≤ d then .next s
  else if 8 ≤ d ∧ (domOf s (d % 8)).st = .waking then .next s
  else if ok && canRise s d then
    .next (answerDom d 0 (logEvent 0x2032 srcDevice [] (domOn d s)))
  else
    .next (answerDom d 7 (logEvent 0x2031 srcDevice [(4, d), (4, 3)] (modDom d (fun x => { x with st := .failed }) s)))

/-- Domains whose power-down waited for the plan's stop drain now (R463). -/
def drainForced (s : State) : State :=
  forEach ((s.power.domains.filter (fun e => e.2.forced)).map (·.1)) (drainDom 1) s

/-- Whether the device can no longer serve its logical identity without a domain: a compute die or HBM the plan uses, or a tile whose
projection engine it binds. -/
def identityNeeds (s : State) (d : Nat) : Bool :=
  if d < 16 then domUsed s d
  else planLoaded s && (mySections s).binds.any (fun b => decide (engClass b.engine = 5) && decide (engDie b.engine = d - 16))

/-- MGMT_DOMAIN_DISABLE (R463, R464, R466, R543): an administrative disable drains the domain at once; its removal lets a power-up work again. -/
def execMgmtDomainDisable (d : Nat) (off : Bool) (s : State) : Out :=
  if 24 ≤ d then .next s
  else
    let s := logEvent 0x1301 srcDevice [(4, 1000 + d), (8, b2n off)] s
    if !off then .next (modDom d (fun x => { x with adminOff := false }) s)
    else
      let used := (domTree d).any (domUsed s)
      let lost := (domTree d).any (identityNeeds s)
      let s := logEvent 0x2033 srcDevice [] (modDom d (fun x => { x with adminOff := true }) s)
      let s := drainDom 2 d s
      .next (if used then epochFault 0x2033 srcDevice lost s else s)

end Sys2Proof.Machine
end

