-- ==== Sys2Proof/Machine/Sketch.lean ====
section
/-! DEFINITION. Photonic projection engines and the serving of appends (R240 to R244, R254 to R258, R260 to R281). -/

namespace Sys2Proof.Machine

open Sys2Proof

/-- A projection engine, by tile. -/
def ppeOf (s : State) (k : Nat) : Ppe := SMap.get {} s.units.ppe k
/-- Change a projection engine. -/
def modPpe (k : Nat) (f : Ppe → Ppe) (s : State) : State :=
  { s with units := { s.units with ppe := SMap.modify {} s.units.ppe k f } }

/-- The state code of a mesh (R265). -/
def Mesh.code : Mesh → Nat
  | .empty => 0 | .loading => 1 | .sketch => 2 | .frozen => 3 | .recal => 4

/-- The mesh state of a record in service. -/
def meshOf (r : Option MatRec) : Mesh :=
  match r with
  | none => .empty
  | some m => if m.mode = 0 then .sketch else .frozen

/-- A projection engine's instruction in a tile that drains or is down fails with DOMAIN_DOWN (R278, R207). -/
def ppeDown (e : Nat) (s : State) : State :=
  nextPc e (engineError e 0x9020 (logEvent 0x9020 e [(2, e), (4, (seqOf s e).pc), (4, 16 + engDie e)] s))

/-- The frame of a projection engine's instruction: it waits while the mesh loads or recalibrates. -/
def onPpe (e op : Nat) (s : State) (f : Word64 → State → State) : Out :=
  onIssue e [op] s (fun w s =>
    if domDown s (16 + engDie e) then ppeDown e s
    else
      let m := (ppeOf s (engDie e)).mesh
      if m = .loading ∨ m = .recal then s else f w s)

/-- What refused accesses of a projection engine do (R280): one record for the first, the error bit, and the fault bit. -/
def ppeFault (e : Nat) (bad : Option (Nat × Int)) (s : State) : State :=
  match bad with
  | some x => modPpe (engDie e) (fun p => { p with operandFault := true }) (addrFault (stageCode x.1) e (spAddr x.2) s)
  | none => s

/-- What a poisoned operand of a projection engine does (R557). -/
def ppePoison (e : Nat) (bad : Bool) (s : State) : State :=
  if bad then modPpe (engDie e) (fun p => { p with operandFault := true }) (engineError e 0x9011 s) else s

/-! ### MLOAD (R266, R267, R273) -/

/-- A refused MLOAD leaves the mesh EMPTY (R280). -/
def mloadRefused (e code : Nat) (s : State) : State :=
  nextPc e (modPpe (engDie e) (fun p => { p with mesh := .empty, record := none, matrixFault := true }) (engineError e code s))

/-- Whether a matrix has a NaN or an infinity, or is zero. -/
def badMatrix (w : List (List Nat)) : Bool :=
  let v := w.flatten
  v.any (fun x => decide (x / 2 ^ 23 % 256 = 255)) || v.all (fun x => decide (x % 2 ^ 31 = 0))

/-- MLOAD (R266): the matrix is read and its placing begins, or it is refused. -/
def execMload (e : Nat) (ecc : Ecc) (s : State) : Out :=
  onPpe e 0x70 s (fun w s =>
    let d := fld w 8 10
    let mode := ((progOf s e).map (·.mode)).getD 0
    let rows : Rows := { base := descBase s e d, stride := descStride s e d, count := 64, len := 256 }
    if mode = 1 ∧ s.frozen = false then
      mloadRefused e 0x7A03 (logEvent 0x7A03 e [(2, e), (4, (seqOf s e).pc)] s)
    else match firstRefused (rows.checks s e true) with
    | some x => mloadRefused e (stageCode x.1) (ppeFault e (some x) s)
    | none =>
      let s := eccNote .sp rows.base.toNat e ecc s
      if (seqOf s e).st ≠ .running then s
      else if rows.poison s then mloadRefused e 0x9011 (ppePoison e true s)
      else
        let m := (List.range 64).map (fun i => unpack 0x12 64 (rows.bytes s i))
        if badMatrix m then mloadRefused e 0x7A01 (logEvent 0x7A01 e [(2, e), (4, (seqOf s e).pc)] s)
        else
          let r : MatRec := { w := m, fold := if mode = 0 then descWord s e d 2 else 0, mode := mode }
          nextPc e (issueOpen e (modPpe (engDie e) (fun p => { p with
            mesh := .loading, record := none, load := some ((seqOf s e).issued, r) }) s)))

/-- MLOAD_COMPLETE (R267): the mesh is in service. -/
def execMloadComplete (e : Nat) (s : State) : Out :=
  match (ppeOf s (engDie e)).load with
  | none => .next s
  | some x =>
    if engClass e ≠ 5 then .next s
    else .next (completeOp e x.1 (modPpe (engDie e) (fun p => { p with mesh := meshOf (some x.2), record := some x.2, load := none }) s))

/-! ### SKETCH and MVM (R268 to R272, R280) -/

/-- An element pattern that is a NaN or an infinity, and one that is zero. -/
def notFinite (code x : Nat) : Bool :=
  match codeValue code x with
  | .fin .. => false
  | _ => true

/-- A zero element. -/
def isZeroPat (code x : Nat) : Bool := (codeValue code x).isZero

/-- The drift of a projection engine's temperature since its last full recalibration, in 1/16 degree (R276). -/
def ppeDrift (s : State) (k : Nat) : Int := (sensorOf s (98 + 3 * k)).reading - (ppeOf s k).recalTemp

/-- Seconds of hall time since a projection engine's last full recalibration (R276). -/
def ppeAge (s : State) (k : Nat) : Nat := (s.time.hall.sec + 2 ^ 32 - (ppeOf s k).lastRecal % 2 ^ 32) % 2 ^ 32

/-- Whether a limit of R276 is passed: 900 s, or 8 degrees either way. -/
def calPassed (s : State) (k : Nat) : Bool := decide (900 < ppeAge s k) || decide (128 < (ppeDrift s k).natAbs)

/-- Whether the bounds of R269 and R271 hold (R276). -/
def boundHolds (s : State) (k : Nat) : Bool := !(ppeOf s k).overdue && !calPassed s k

/-- The analog sketch of a key by a tile's engine (R268, R269): 0 for a key that is not finite or is zero; whether it was not finite. Bits no
bound holds for are free, and the others may meet an error event. -/
def analogSketch (t code : Nat) (k : List Nat) (s : State) : Nat × Bool × State :=
  if k.any (notFinite code) then (0, true, s)
  else if k.all (isZeroPat code) then (0, false, s)
  else
    let v := k.map (codeValue code)
    let m := (ppeOf s t).record.getD { w := [], fold := 0, mode := 0 }
    (sketchWord (boundHolds s t) (wHat m.w) m.fold v (freeWord s).toNat (Config.sketchError s.free (dacCodes v)).toNat, false, useFree s)

/-- Count a sketch made (R279). -/
def noteSketch (k : Nat) (bad : Bool) (s : State) : State :=
  modPpe k (fun p => { p with sketches := satAdd 64 p.sketches 1, badkey := if bad then satAdd 64 p.badkey 1 else p.badkey }) s

/-- A projection engine's instruction as it goes: the state, the first refused access, and whether a read met poison. -/
structure PpeRun where
  s : State
  bad : Option (Nat × Int) := none
  psn : Bool := false

/-- Note a refused access: the lowest stage of R560 stays, and in it the first. -/
def PpeRun.note (v : PpeRun) (x : Int × Option Nat) : PpeRun :=
  match x.2, v.bad with
  | some n, some b => if n < b.1 then { v with bad := some (n, x.1) } else v
  | some n, none => { v with bad := some (n, x.1) }
  | none, _ => v

/-- Read one input vector: zero where it is refused or poisoned. -/
def PpeRun.read (e : Nat) (r : Rows) (i : Nat) (v : PpeRun) : List Byte × PpeRun :=
  let g := spStageAt v.s e r.base (r.at i) r.len 16 false
  if g.isSome then (List.replicate r.len 0, v.note (r.at i, g))
  else if poisoned v.s .sp (r.at i).toNat r.len then (List.replicate r.len 0, { v with psn := true })
  else (readStore v.s .sp (r.at i).toNat r.len, v)

/-- Write one output: dropped where it is refused. -/
def PpeRun.write (e : Nat) (base off : Int) (d : List Byte) (v : PpeRun) : PpeRun :=
  let g := spStageAt v.s e base off d.length 16 true
  if g.isSome then v.note (off, g) else { v with s := writeStore .sp off.toNat d v.s }

/-- The end of a SKETCH or MVM: its faults, and with the mesh in the wrong state its record (R280). -/
def ppeEnd (e : Nat) (wrong : Option Mesh) (v : PpeRun) : State :=
  let s := ppePoison e v.psn (ppeFault e v.bad v.s)
  let s := match wrong with
    | some m =>
      modPpe (engDie e) (fun p => { p with meshFault := true }) (engineError e 0x7A02 (logEvent 0x7A02 e [(4, m.code)] s))
    | none => s
  nextPc e s

/-- One vector of a SKETCH. -/
def sketchOne (e code : Nat) (inp : Rows) (out : Int) (n : Nat) (wrong : Bool) (v : PpeRun) (i : Nat) : PpeRun :=
  let a := out + ((8 * i : Nat) : Int)
  if wrong then v.write e out a (leBytes 8 0)
  else
    let r := v.read e inp i
    let k := analogSketch (engDie e) code (unpack code n r.1) r.2.s
    let v := { r.2 with s := noteSketch (engDie e) k.2.1 k.2.2 }
    v.write e out a (leBytes 8 k.1)

/-- SKETCH (R268): vectors of SP are sketched in order. -/
def execSketch (e : Nat) (ecc : Ecc) (s : State) : Out :=
  onPpe e 0x71 s (fun w s =>
    let d := fld w 8 10
    let o := fld w 18 10
    let n := if bit w.toNat 28 then 128 else 64
    let code := descFmt s e d
    let m := (ppeOf s (engDie e)).mesh
    let inp : Rows := { base := descBase s e d, stride := descStride s e d, count := fld w 32 24 + 1, len := rowLen code n }
    let s := eccNote .sp inp.base.toNat e ecc s
    if (seqOf s e).st ≠ .running then s
    else
      let wrong := decide (m ≠ .sketch)
      ppeEnd e (if wrong then some m else none)
        ((List.range inp.count).foldl (sketchOne e code inp (descBase s e o) n wrong) { s := s }))

/-- The written codes of one output vector (R271): each within its bounds, but for an error event, from a free value. -/
def mvmCodes (t g : Nat) : List Num → State → List Byte × State
  | [], s => ([], s)
  | v :: l, s =>
    let c := mvmCode (boundHolds s t && !Config.mvmError s.free) g v (freeWord s).toNat
    let r := mvmCodes t g l (useFree s)
    (BitVec.ofInt 8 c :: r.1, r.2)

/-- One vector of an MVM with a gain. -/
def mvmOne (e g : Nat) (inp : Rows) (out : Int) (stride : Nat) (wrong : Bool) (v : PpeRun) (i : Nat) : PpeRun :=
  let a := out + ((i * stride : Nat) : Int)
  if wrong then v.write e out a (List.replicate 64 0)
  else
    let r := v.read e inp i
    let m := (ppeOf r.2.s (engDie e)).record.getD { w := [], fold := 0, mode := 0 }
    let c := mvmCodes (engDie e) g (mvmIdeal (wHat m.w) g (r.1.map (·.toNat))) r.2.s
    let s := modPpe (engDie e) (fun p => { p with vectors := satAdd 64 p.vectors 1 }) c.2
    ({ r.2 with s := s } : PpeRun).write e out a c.1

/-- MVM (R271). -/
def execMvm (e : Nat) (ecc : Ecc) (s : State) : Out :=
  onPpe e 0x72 s (fun w s =>
    let d := fld w 8 10
    let o := fld w 18 10
    let m := (ppeOf s (engDie e)).mesh
    let inp : Rows := { base := descBase s e d, stride := descStride s e d, count := fld w 32 24 + 1, len := 64 }
    let s := eccNote .sp inp.base.toNat e ecc s
    if (seqOf s e).st ≠ .running then s
    else
      let wrong := decide (m ≠ .frozen)
      ppeEnd e (if wrong then some m else none)
        ((List.range inp.count).foldl (mvmOne e (fld w 29 3) inp (descBase s e o) (descStride s e o) wrong) { s := s }))

/-! ### Calibration (R274 to R276, R281) -/

/-- The device is lost: its projection engine cannot be used and has no spare (R281). -/
def ppeFatal (k code : Nat) (fs : List (Nat × Nat)) (s : State) : State :=
  let e := engId 5 k 0
  let s := modPpe k (fun p => { p with channelFatal := true }) (logEvent code e fs s)
  let s := modSeq e (fun q => { q with st := .faulted, wait := none, opens := [], signals := [], ending := false }) s
  epochFault code e true s

/-- A converter channel fails: the first takes the spare for good, a second is fatal (R281). -/
def channelBad (k c : Nat) (s : State) : State :=
  if (ppeOf s k).spareUsed then ppeFatal k 0x7A16 [(4, c)] s
  else
    logEvent 0x7A15 (engId 5 k 0) [(4, c)] (modPpe k (fun p => { p with
      spareUsed := true, inSpare := if c < 65 then c else p.inSpare, outSpare := if c < 65 then p.outSpare else c - 65 }) s)

/-- PPE_CHANNEL_CAL (R274, R281): with the tile powered, the next converter channel is measured, and the spare role passes to it, or it
fails. -/
def execPpeChannelCal (k : Nat) (ok : Bool) (s : State) : Out :=
  let p := ppeOf s k
  let d := domOf s (16 + k)
  if 8 ≤ k ∨ (d.st ≠ .on ∧ d.st ≠ .draining) ∨ p.spareUsed = true then .next s
  else
    let c := p.turn
    let s := modPpe k (fun p => { p with turn := (c + 1) % 130, chanCals := satAdd 32 p.chanCals 1 }) s
    .next (if ok then modPpe k (fun p => { p with
        inSpare := if c < 65 then c else p.inSpare, outSpare := if c < 65 then p.outSpare else c - 65 }) s
      else channelBad k c s)

/-- A full recalibration begins (R275): the mesh is in RECAL. -/
def startRecal (cause k : Nat) (s : State) : State := modPpe k (fun p => { p with mesh := .recal, cause := cause }) s

/-- Whether a projection engine recalibrates. -/
def recalling (s : State) : Bool := (List.range 8).any (fun k => decide ((ppeOf s k).mesh = .recal))

/-- A full recalibration ends (R275, R276, R281): the matrix record is back in the mesh; a channel that failed takes the spare or is fatal, and
a recalibration that cannot reach the bounds is fatal. -/
def recalDone (k : Nat) (ok : Bool) (badChan : Option Nat) (us : Nat) (s : State) : State :=
  let p := ppeOf s k
  let s := modPpe k (fun p => { p with
    mesh := meshOf p.record, overdue := false, lastRecal := s.time.hall.sec % 2 ^ 32, recals := satAdd 16 p.recals 1
    recalTemp := (sensorOf s (98 + 3 * k)).reading }) s
  let s := match badChan with
    | some c => channelBad k c s
    | none => s
  if ok then logEvent 0x7A10 (engId 5 k 0) [(4, k), (4, p.cause), (8, us)] (calResults s) else ppeFatal k 0x7A12 [(4, k)] s

/-- PPE_CAL_OVERDUE (R276): a limit is passed, once per recalibration interval: 900 s since the last full recalibration, or a drift beyond 8
degrees. -/
def execPpeCalOverdue (k : Nat) (s : State) : Out :=
  if 8 ≤ k ∨ (ppeOf s k).overdue = true ∨ domDown s (16 + k) = true ∨ calPassed s k = false then .next s
  else
    .next (logEvent 0x7A11 (engId 5 k 0) [(4, k), (8, ppeAge s k), (8, ofInt 64 (ppeDrift s k))] (modPpe k (fun p => { p with overdue := true }) s))

/-! ### Serving appends (R240 to R244, R256, R258) -/

/-- Whether a calibration window is open on a tile in the phase in force (R61, R256). -/
def windowOpen (s : State) (k : Nat) : Bool :=
  planRuns s && (match s.run.plan with
    | some p => p.calwins.any (fun w => decide (w.1 = s.run.phase) && bit w.2 k)
    | none => false)

/-- Whether an analog context's appends are held (R256, R265). -/
def appendsHeld (s : State) (c : Nat) : Bool :=
  windowOpen s (ctxDie c) || decide ((ppeOf s (ctxDie c)).mesh ≠ .sketch)

/-- The ones of the open block and its summary after a position (R241). -/
def Ctx.count (x : Ctx) (r sk : Nat) : Ctx :=
  let old := fun (i : Nat) => if r = 0 then 0 else x.fld (0x80 + i) 1
  if r = 255 then x.put 0x80 64 0
  else { x with mem := x.mem.writeBytes 0x80 ((List.range 64).map (fun i => BitVec.ofNat 8 (old i + bits sk i 1))) }

/-- The summary of a block whose last position is sketched (R241). -/
def Ctx.summary (x : Ctx) (sk : Nat) : Nat :=
  ((List.range 64).map (fun i => if 128 ≤ x.fld (0x80 + i) 1 + bits sk i 1 then 2 ^ i else 0)).foldl (· + ·) 0

/-- The bytes of the exclusion row that change between two numbers of blocks: place and byte. -/
def exclDiff (x : Ctx) (nb nb' : Nat) : List (Nat × Byte) :=
  ((List.range 8192).map (fun k => (k, exclByte (x.fld 0x4C 2) (x.fld 0x4E 2) nb k, exclByte (x.fld 0x4C 2) (x.fld 0x4E 2) nb' k))).filterMap
    (fun t => if t.2.1 = t.2.2 then none else some (t.1, t.2.2))

/-- Update the counters, the summary and the exclusion row for a position with its sketch (R241), and count it. -/
def noteSketched (c p sk : Nat) (s : State) : State :=
  let x := ctxOf s c
  let r := p % 256
  let at' := x.fld 0x28 8 + 8 * (p / 256)
  let sum : Except (Option Nat) State := if r = 255 then unitWrite c at' (leBytes 8 (x.summary sk)) s else .ok s
  match sum with
  | .error g => keyFault c p g (spAddr (at' : Nat)) s
  | .ok s =>
    match rowWrite c (x.fld 0x30 8) (if r = 0 then exclDiff x (blocksOf p) (blocksOf (p + 1)) else []) s with
    | .error g => keyFault c p g.1 (spAddr (g.2 : Nat)) s
    | .ok s =>
      let s := modCtx c (fun x => (x.count r sk).put 0x04 4 (p + 1)) s
      modStr (ctxDie c) (fun d => if x.digital then { d with digital := satAdd 64 d.digital 1 } else { d with tokens := satAdd 64 d.tokens 1 }) s

/-- Store the sketch of a position where a table is named: in this device, or as a packet to another. Nothing where no request slot is
free, a cache holds the line, or an earlier write to the line of another device is still open (R218); or what stops the write. -/
def storeSketch (c p sk : Nat) (s : State) : Option (Except (Option Nat) State) :=
  let x := ctxOf s c
  let t := x.fld 0x20 8
  if t = 0 then some (.ok s)
  else
    let a := BitVec.ofNat 64 (t + 8 * p)
    match checkAccess s (ctxEngine c) a 8 8 true true with
    | some g => some (.error (some g))
    | none =>
      let h := hallAddr a
      if isRemote s h then
        let pk := issuePacket s 0x01 1 h.dev 0 (.mem { len := 8, addr := a, data := leBytes 8 sk })
        if lineBusy s (ctxEngine c) h.dev h.off 8 then none
        else (sendRequest (ctxEngine c) (.stream c) pk s).map (fun s => .ok (modCtx c (fun x => { x with flight := x.flight + 1 }) s))
      else if !localReady s a 8 true then none
      else match spaceStore h.space with
        | some st =>
          if poisoned s st h.off 8 then some (.error none)
          else some (.ok (writeStore st h.off (leBytes 8 sk) (served st false h.off 8 s)))
        | none => some (.ok s)

/-- One row of the projection matrix times a key, in single rounding (R244). -/
def projBit (row key : List Num) : Bool :=
  let z := (List.zip row key).foldl (fun z p => Fmt.fp32.rne (Num.add (Num.mul p.1 p.2) (Fmt.fp32.decode z))) 0
  Num.lt (Num.ofNat 0) (Fmt.fp32.decode z)

/-- The digital sketch of a key (R244): `m` holds the rows of the projection matrix. -/
def digitalSketch (m : List (List Nat)) (code : Nat) (k : List Nat) : Nat :=
  let key := k.map (codeValue code)
  ((List.zip (List.range 64) m).map (fun r => if projBit (r.2.map Fmt.fp32.decode) key then 2 ^ r.1 else 0)).foldl (· + ·) 0

/-- The rows of a context's projection matrix. -/
def projRows (s : State) (x : Ctx) : List (List Nat) :=
  let dim := x.fld 0x0A 1
  (List.range 64).map (fun i => unpack 0x12 dim (readStore s .sp (x.fld 0x68 8 + 4 * dim * i) (4 * dim)))

/-- Sketch and store one position; the answer says whether serving goes on. -/
def servePos (c p : Nat) (ecc : Ecc) (s : State) : State × Bool :=
  let x := ctxOf s c
  let e := ctxEngine c
  let dim := x.fld 0x0A 1
  let code := x.fld 0x0B 1
  let n := dim * (keyBytes code).getD 1
  let off := x.fld 0x10 8 + p % x.fld 0x1C 4 * x.fld 0x18 4
  match spStage s e off n false with
  | some g => (keyFault c p (some (stageCode g)) (spAddr (off : Nat)) s, false)
  | none =>
    let proj := spStage s e (x.fld 0x68 8) (256 * dim) false
    match (if x.digital then proj else none) with
    | some g => (keyFault c p (some (stageCode g)) (spAddr (x.fld 0x68 8 : Nat)) s, false)
    | none =>
      let s := eccNote .sp off e ecc s
      if (ctxOf s c).queue.isEmpty then (s, false)
      else if poisoned s .sp off n || (x.digital && poisoned s .sp (x.fld 0x68 8) (256 * dim)) then (keyFault c p none 0 s, false)
      else
        let k := unpack code dim (readStore s .sp off n)
        let r : Nat × Bool × State := if x.digital then (digitalSketch (projRows s x) code k, false, s) else analogSketch (ctxDie c) code k s
        let s' := if x.digital then r.2.2 else noteSketch (ctxDie c) r.2.1 r.2.2
        match storeSketch c p r.1 s' with
        | none =>
          let a := BitVec.ofNat 64 (x.fld 0x20 8 + 8 * p)
          (if isRemote s (hallAddr a) then s else localRecall a 8 true s, false)
        | some (.error g) => (keyFault c p g (BitVec.ofNat 64 (x.fld 0x20 8 + 8 * p)) s', false)
        | some (.ok s) =>
          let s := noteSketched c p r.1 s
          (s, !(ctxOf s c).queue.isEmpty)

/-- Serve positions in order until `upto`, at most so many. -/
def serveTo (c upto : Nat) (ecc : Ecc) : Nat → State → State
  | 0, s => s
  | f + 1, s =>
    let p := (ctxOf s c).sketched
    if upto ≤ p then s
    else
      let r := servePos c p ecc s
      if r.2 then serveTo c upto .ok f r.1 else r.1

/-- The post of an append whose positions are all performed (R242). -/
def postAppend (c : Nat) (s : State) : State :=
  let x := ctxOf s c
  match x.queue with
  | (p0, n) :: rest =>
    if p0 + n ≤ x.sketched ∧ x.flight = 0 then
      tallyAdd (x.fld 0x0E 2) n (ctxEngine c) (modCtx c (fun x => { x with queue := rest }) s)
    else s
  | [] => s

/-- Whether appends of a die are held for a calibration window: analog contexts homed there have some waiting (R256, R257). -/
def heldDie (s : State) (k : Nat) : Bool :=
  windowOpen s k && s.units.ctx.any (fun c => ctxDie c.1 == k && !c.2.digital && !c.2.queue.isEmpty)

/-- Whether the domains a context needs are down: its die's, and on the analog path its tile's (R254, R278). -/
def ctxDown (s : State) (c : Nat) : Bool :=
  domDown s (ctxDie c) || (!(ctxOf s c).digital && domDown s (16 + ctxDie c))

/-- APPEND_SERVE (R240, R256): the oldest append of a context is served and posted; one that a faulting APPEND left in the queue is served
too (R240; DEDUCED, log entry 46). A digital context's keys are sketched by DIGITAL_SKETCH_JOB, and this posts the append once they are done. -/
def execAppendServe (c : Nat) (ecc : Ecc) (s : State) : Out :=
  let x := ctxOf s c
  match x.queue with
  | [] => .next s
  | (p0, n) :: _ =>
    if ctxDown s c then .next (ctxFault c 0x6405 x.sketched false s)
    else if x.digital then .next (postAppend c s)
    else if appendsHeld s c && decide (x.sketched < p0 + n) then .next s
    else .next (postAppend c (serveTo c (p0 + n) ecc n s))

/-- DIGITAL_SKETCH_JOB (R244): up to 16 keys of the oldest append of a digital context. -/
def execDigitalSketchJob (c : Nat) (ecc : Ecc) (s : State) : Out :=
  let x := ctxOf s c
  match x.queue with
  | [] => .next s
  | (p0, n) :: _ =>
    if x.digital = false then .next s
    else if ctxDown s c then .next (ctxFault c 0x6405 x.sketched false s)
    else .next (serveTo c (p0 + n) ecc 16 s)

end Sys2Proof.Machine
end

