-- ==== Sys2Proof/Machine/Time.lean ====
section
/-! DEFINITION. Hall time: exchanges, states, second boundaries and the master's inputs (R428 to R442). -/

namespace Sys2Proof.Machine

open Sys2Proof

/-- Change the timebase. -/
def modTime (f : TimeBase → TimeBase) (s : State) : State := { s with time := f s.time }

/-! ### State changes (R436, R441) -/

/-- A signed amount in a log entry. -/
def logInt (z : Int) : Nat × Nat := (8, ofInt 64 z)

/-- Enter LOCKED (R436, R441): the record carries the offset in ps and the hops. -/
def enterLocked (s : State) : State :=
  logEvent 0x4001 srcDevice [logInt s.time.offsetPs, (4, s.time.hops)]
    (modTime (fun t => { t with st := .locked, offsets := [], goodRun := 0 }) s)

/-- Enter HOLDOVER with its cause: 1 exchange timeout, 2 lane, 3 reference (R441). -/
def enterHoldover (cause : Nat) (s : State) : State :=
  logEvent 0x4002 srcDevice [(4, cause)]
    (modTime (fun t => { t with st := .holdover, offsets := [], corrected := false, goodRun := 0, slew := 0 }) s)

/-- Enter FREERUN. -/
def enterFreerun (s : State) : State :=
  logEvent 0x4003 srcDevice [] (modTime (fun t => { t with st := .freerun, offsets := [], corrected := false, goodRun := 0, slew := 0 }) s)

/-- 2^-16 ns in ps, rounded toward zero. -/
def finePs (d : Int) : Int := (d * 1000).tdiv 65536

/-- 2^-16 ns in ns, rounded toward zero. -/
def fineNs (d : Int) : Int := d.tdiv 65536

/-- The correction as discipline returns (R438): a slew within 1 us, else a step at the next second boundary. -/
def correctTime (off : Int) (s : State) : State :=
  if off.natAbs ≤ 1000 * 65536 then
    logEvent 0x4005 srcDevice [] (modTime (fun t => { t with slew := off, corrected := true }) s)
  else modTime (fun t => { t with stepDue := some off, corrected := true }) s

/-- The master locks once every input it uses is qualified (R431, R436); with none it is its own authority. -/
def masterLock (s : State) : State :=
  let t := s.time
  if isMaster s then
    let s := modTime (fun t => { t with selfRef := !t.ctl.usePps, hops := 0, hold := false }) s
    if t.st ≠ .locked ∧ (t.ctl.usePps = true → t.ppsOk = true ∧ t.corrected = true) ∧ (t.ctl.useRef = true → t.refOk = true) then
      enterLocked s
    else s
  else s

/-! ### Exchanges (R432, R433) -/

/-- SYNC_TICK (R433): SYNC and its FOLLOW go to one time child. `t1` is the departure stamp, `resent` whether the frame was retransmitted. -/
def execSyncTick (child : Nat) (t1 : HallTime) (resent : Bool) (s : State) : Out :=
  if parentOfPos s child = some s.fab.position ∧ child < 32768 then
    let q := s.time.syncSeq
    let st := s.time.st.code
    let s := modTime (fun t => { t with syncSeq := (q + 1) % 65536 }) s
    .next (sendMsgPos (.follow t1 q st (timeFlags s resent)) child (sendMsgPos (.sync q st (timeFlags s resent)) child s))
  else .next s

/-- Whether a time message comes from the time parent. -/
def fromParent (s : State) (p : Packet) : Bool := decide (s.time.parent = some p.source)

/-- SYNC (R433): a child stamps its arrival. -/
def execSync (p : Packet) (t2 : HallTime) (s : State) : Out :=
  let s := refreshParent (takeIngress p s)
  match p.body with
  | .msg (.sync q _ fl) =>
    .next (if fromParent s p then modTime (fun t => { t with ex := { seq := q, bad := bit fl 0, t2 := some t2 } }) s else s)
  | _ => .next s

/-- FOLLOW (R433): the departure stamp of the SYNC arrives, and DELAY_REQ answers, stamped `t3` as it leaves. -/
def execFollow (p : Packet) (t3 : HallTime) (resent : Bool) (s : State) : Out :=
  let s := refreshParent (takeIngress p s)
  match p.body with
  | .msg (.follow t1 q _ fl) =>
    if fromParent s p && decide (s.time.ex.seq = q) && s.time.ex.t2.isSome then
      let r := s.time.reqSeq
      let s := modTime (fun t => { t with
        reqSeq := (r + 1) % 65536
        ex := { t.ex with t1 := some t1, t3 := some t3, reqSeq := r, bad := t.ex.bad || bit fl 0 || resent } }) s
      .next (sendMsgPos (.delayReq r s.time.st.code (timeFlags s resent)) p.source s)
    else .next s
  | _ => .next s

/-- DELAY_REQ (R433): a parent stamps its arrival and answers. -/
def execDelayReq (p : Packet) (t4 : HallTime) (s : State) : Out :=
  let s := takeIngress p s
  match p.body with
  | .msg (.delayReq q _ fl) => .next (sendMsgPos (.delayResp t4 q s.time.st.code (timeFlags s (bit fl 0))) p.source s)
  | _ => .next s

/-- The median of eight offsets: the mean of the two in the middle. -/
def median8 (l : List Int) : Int :=
  let r := sortInts l
  (r.getD 3 0 + r.getD 4 0) / 2

/-- A valid exchange (R436, R438): LOCKED slews the offset away; else the first eight give the correction, and sixteen in a row within
10 ns lock. -/
def validExchange (off : Int) (s : State) : State :=
  let s := modTime (fun t => { t with goodRun := if off.natAbs ≤ 10 * 65536 then t.goodRun + 1 else 0 }) s
  if s.time.st = .locked then modTime (fun t => { t with slew := off }) s
  else
    let s := modTime (fun t => { t with offsets := t.offsets ++ [off] }) s
    let s := if s.time.corrected = false ∧ s.time.offsets.length = 8 then correctTime (median8 s.time.offsets) s else s
    if 16 ≤ s.time.goodRun then enterLocked s else s

/-- DELAY_RESP (R433): the exchange is complete. The filtered offset is a free value (log entry 28). -/
def execDelayResp (p : Packet) (s : State) : Out :=
  let s := refreshParent (takeIngress p s)
  match p.body, s.time.ex.t1, s.time.ex.t2, s.time.ex.t3 with
  | .msg (.delayResp t4 q st fl), some t1, some t2, some t3 =>
    if fromParent s p && decide (s.time.ex.reqSeq = q) then
      let a : Int := (fine t2 : Int) - fine t1
      let b : Int := (fine t4 : Int) - fine t3
      let off := (a - b) / 2
      let dly := (a + b) / 2
      let ok := !s.time.ex.bad && !bit fl 0 && decide (st = 1 ∨ st = 2) && decide (dly ≤ 2500 * 65536)
      let s := modTime (fun t => { t with ex := {}, hold := bit fl 1, selfRef := bit fl 2 }) s
      if ok then
        .next (validExchange off (useFree (modTime (fun t => { t with
          offsetPs := sext 32 (freeWord s).toNat, delayPs := (finePs dly).toNat }) s)))
      else .next (modTime (fun t => { t with goodRun := 0 }) s)
    else .next s
  | _, _, _, _ => .next s

/-- ANNOUNCE_TICK (R432): every 125 ms a parent announces itself to a time child. -/
def execAnnounceTick (child : Nat) (s : State) : Out :=
  if parentOfPos s child = some s.fab.position ∧ child < 32768 then
    .next (sendMsgPos (.announce s.time.hops s.time.st.code (timeFlags s false)) child s)
  else .next s

/-- ANNOUNCE (R432): the parent's hops and flags. -/
def execAnnounce (p : Packet) (s : State) : Out :=
  let s := refreshParent (takeIngress p s)
  match p.body with
  | .msg (.announce h _ fl) =>
    .next (if fromParent s p then modTime (fun t => { t with hops := min 7 (h + 1), hold := bit fl 1, selfRef := bit fl 2 }) s else s)
  | _ => .next s

/-! ### The backup (R430) -/

/-- MASTER_TAKE (R430): the backup becomes the active master. -/
def execMasterTake (p : Packet) (s : State) : Out :=
  let s := relayMsg p (takeIngress p s)
  match p.body with
  | .msg (.masterTake ..) =>
    if s.time.backupActive then .next s
    else
      let s := modTime (fun t => { t with backupActive := true }) (logEvent 0x4008 srcDevice [] s)
      .next (masterLock (refreshParent s))
  | _ => .next s

/-- BACKUP_TAKEOVER_TIMER (R430): 1 s without an exchange traceable to the primary. -/
def execBackupTakeoverTimer (s : State) : Out :=
  let t := s.time
  if t.ctl.backupEnable ∧ t.backupActive = false ∧ s.fab.position = t.ctl.backup then
    .next (broadcastMsg (.masterTake t.hall t.st.code (timeFlags s false)) s)
  else .next s

/-! ### Loss of discipline (R436) -/

/-- TIME_EXCHANGE_TIMEOUT (R436): 250 ms without a valid exchange, or with the parent's lane down. -/
def execTimeExchangeTimeout (lane : Bool) (s : State) : Out :=
  if s.time.st = .locked ∧ isMaster s = false then .next (enterHoldover (if lane then 2 else 1) s) else .next s

/-- ACQUIRE_FREERUN_TIMEOUT (R436): 10 s in ACQUIRING without discipline. -/
def execAcquireFreerunTimeout (s : State) : Out := if s.time.st = .acquiring then .next (enterFreerun s) else .next s

/-- HOLDOVER_LIMIT (R436): HOLDOVER has lasted limit_min minutes. -/
def execHoldoverLimit (s : State) : Out :=
  if s.time.st = .holdover ∧ s.time.ctl.limitMin ≠ 0 then .next (enterFreerun s) else .next s

/-- The bound on a LOCKED device's offset from the active master (R434), in ps. -/
def offsetBoundPs (s : State) : Nat := 1000 * (2 + 6 * s.time.hops)

/-- TIME_OFFSET_HIGH (R441): a LOCKED device's filtered offset has stood beyond its bound for 10 s. -/
def execTimeOffsetHigh (s : State) : Out :=
  if s.time.st = .locked ∧ offsetBoundPs s < s.time.offsetPs.natAbs then .next (logEvery 0x400A 0 3600000000000 srcDevice [] s) else .next s

/-! ### The master's inputs (R431) -/

/-- One more good second of TIME_PPS_IN: after three it is qualified. -/
def ppsGood (s : State) : State :=
  let t := s.time
  let q := decide (3 ≤ t.ppsRun + 1)
  let s := modTime (fun t => { t with ppsRun := min 3 (t.ppsRun + 1), ppsOk := q, ppsLost := t.ppsLost && !q }) s
  if q && t.ppsLost then logEvent 0x4007 srcDevice [] s else s

/-- One more good second of REF_10M_IN. -/
def refGood (s : State) : State :=
  let t := s.time
  let q := decide (3 ≤ t.refRun + 1)
  let s := modTime (fun t => { t with refRun := min 3 (t.refRun + 1), refOk := q, refLost := t.refLost && !q }) s
  if q && t.refLost then logEvent 0x4007 srcDevice [] s else s

/-- How far the count is ahead of the second boundary that an edge of TIME_PPS_IN marks, less the cable delay. -/
def ppsOffset (s : State) : Int :=
  let sec : Int := 1000000000 * 65536
  let d := (fine s.time.hall : Int) - s.time.ctl.ppsDelay * 65536
  let r := d % sec
  if sec ≤ 2 * r then r - sec else r

/-- PPS_IN_EDGE (R431): an edge marks the master's second boundary. -/
def execPpsInEdge (s : State) : Out :=
  let s := ppsGood s
  if isMaster s && s.time.ctl.usePps && s.time.ppsOk then
    let off := ppsOffset s
    let s := if s.time.st = .locked then modTime (fun t => { t with slew := off }) s
      else if s.time.corrected then s else correctTime off s
    .next (masterLock s)
  else .next s

/-- TIME_REF_LOST (R431): an input is lost, TIME_PPS_IN or REF_10M_IN. A master that uses it holds over. An input not yet qualified starts
its three seconds again. -/
def execTimeRefLost (ref : Bool) (s : State) : Out :=
  let t := s.time
  if (if ref then t.refOk else t.ppsOk) then
    let s := logEvent 0x4006 srcDevice [] (modTime (fun t =>
      if ref then { t with refOk := false, refRun := 0, refLost := true } else { t with ppsOk := false, ppsRun := 0, ppsLost := true }) s)
    if isMaster s && decide (t.st = .locked) && (if ref then t.ctl.useRef else t.ctl.usePps) then .next (enterHoldover 3 s) else .next s
  else .next (modTime (fun t => if ref then { t with refRun := 0 } else { t with ppsRun := 0 }) s)

/-! ### Commit and second boundary (R437 to R440) -/

/-- The staged fields of TIME after a write (R442). -/
def TimeCtl.write (c : TimeCtl) (w : RegWrite) : TimeCtl :=
  let put := fun (old lo n : Nat) => bits ((old * 2 ^ lo &&& ((2 ^ 64 - 1) ^^^ w.mask)) ||| (w.val &&& w.mask)) lo n
  if w.off = 0x00300030 then { c with
    primary := put c.primary 0 15, backup := put c.backup 16 15, backupEnable := put (b2n c.backupEnable) 31 1 == 1
    usePps := put (b2n c.usePps) 32 1 == 1, useRef := put (b2n c.useRef) 33 1 == 1 }
  else if w.off = 0x00300038 then { c with setSec := put c.setSec 0 48 }
  else if w.off = 0x00300040 then { c with limitMin := put c.limitMin 0 16 }
  else if w.off = 0x00300048 then { c with ppsDelay := put c.ppsDelay 0 16 }
  else c

/-- A field of a staged register: the DCS offset of its register, and the number of its lowest bit. -/
abbrev FieldAt := Nat × Nat

/-- The outcome of a block's COMMIT at its safe point (R37, R39): rejected with the first failing field. R39 does not say how the record
names a field: the register's DCS offset in four bytes and the field's lowest bit in one (DESIGN CHOICE, log entry 42). -/
def commitReject (code : Nat) (f : FieldAt) (s : State) : State := logEvent code srcDevice [(4, f.1), (1, f.2)] s

/-- A COMMIT register after its set was applied or rejected. -/
def Commit.done (c : Commit) (ok : Bool) : Commit :=
  if ok then { c with pending := false, latched := [], generation := (c.generation + 1) % 65536 }
  else { c with pending := false, latched := [], rejected := true }

/-- Labels a forward move of time passed without a pulse (R439). -/
def labelsSkipped (pulsed : Option Nat) (label : Nat) : Nat :=
  match pulsed with
  | some p => label - p - 1
  | none => 0

/-- Note a step of hall time (R438, R442). -/
def noteStep (amount : Int) (skip : Nat) (s : State) : State :=
  let s := modTime (fun t => { t with
    steps := satAdd 32 t.steps 1, skipped := satAdd 32 t.skipped skip, lastStep := amount
    stepLog := t.stepLog ++ [(hallNs t.hall, amount)] }) s
  logEvent 0x4004 srcDevice [logInt amount, (4, skip)] s

/-- The label of the boundary is replaced by TIME.SET's, on the active master and where the set wrote it (R442, log entry 29). -/
def applySet (c : Commit) (s : State) : State :=
  if isMaster s && c.latched.any (fun w => w.off == 0x00300038) then
    let old := s.time.hall.sec
    let s := modTime (fun t => { t with hall := { t.hall with sec := t.ctl.setSec } }) s
    noteStep (((s.time.ctl.setSec : Int) - old) * 1000000000) (if old < s.time.ctl.setSec then labelsSkipped s.time.pulsed s.time.ctl.setSec else 0) s
  else s

/-- Apply the latched set of TIME, or reject it (R39, R442). The operator's commit makes the primary the active master again (R430). -/
def commitTime (s : State) : State :=
  let c := s.time.commit
  if c.pending then
    let n := c.latched.foldl TimeCtl.write s.time.ctl
    if n.backupEnable && decide (n.backup = n.primary) then
      commitReject 0x4F10 (0x00300030, 16) (modTime (fun t => { t with commit := c.done false }) s)
    else
      let wrote := c.latched.any (fun w => w.off == 0x00300030)
      let s := modTime (fun t => { t with ctl := n, commit := c.done true, backupActive := t.backupActive && !wrote }) s
      refreshParent (applySet c s)
  else s

/-- The pulse of a label reached for the first time (R437, R439). While ACQUIRING without a hold its width is a free value. -/
def emitPulse (s : State) : State :=
  let t := s.time
  let fresh := match t.pulsed with
    | some p => decide (p < t.hall.sec)
    | none => true
  if !fresh then s
  else
    let s := modTime (fun t => { t with pulsed := some t.hall.sec, pulses := t.pulses + 1 }) s
    if t.st = .holdover ∨ t.st = .freerun ∨ t.hold = true then modTime (fun t => { t with pulseUs := 200 }) s
    else if t.st = .locked then modTime (fun t => { t with pulseUs := 100 }) s
    else useFree (modTime (fun t => { t with pulseUs := (freeWord s).toNat }) s)

/-- SECOND_BOUNDARY (R438, R439, R440): hall time reaches its next whole second; a due step comes first, then TIME's commit, then the
pulse of the label reached. `refOk` says that REF_10M_IN was on frequency for the second that ends. -/
def execSecondBoundary (refOk : Bool) (s : State) : Out :=
  let s := if s.time.hall.ns = 0 ∧ s.time.hall.frac = 0 ∧ s.time.pulsed ≠ some s.time.hall.sec then s
    else reachTime { sec := s.time.hall.sec + 1 } s
  let s := if refOk then refGood s else modTime (fun t => { t with refRun := 0 }) s
  let s := match s.time.stepDue with
    | some off =>
      let s := moveTime (-off) (modTime (fun t => { t with stepDue := none }) s)
      noteStep (fineNs (-off)) (if off < 0 then labelsSkipped s.time.pulsed s.time.hall.sec else 0) s
    | none => s
  .next (emitPulse (masterLock (commitTime s)))

end Sys2Proof.Machine
end

