-- ==== Sys2Proof/Machine/Thermal.lean ====
section
/-! DEFINITION. Thermal rounds, request, enforcement and trip, and WATCH (R457 to R459, R468 to R481). -/

namespace Sys2Proof.Machine

open Sys2Proof

/-- Change the thermal state. -/
def modThm (f : Thermal → Thermal) (s : State) : State := { s with thermal := f s.thermal }

/-- Change the thermal record of a compute die. -/
def modDieTherm (k : Nat) (f : DieTherm → DieTherm) (s : State) : State :=
  modThm (fun t => { t with dies := SMap.modify {} t.dies k f }) s

/-! ### Sensors (R468 to R473) -/

/-- The request threshold of a sensor in 1/16 degree (R472). -/
def requestThreshold (n : Nat) : Option Int :=
  if n < 64 then some (100 * 16) else if n < 96 then some (95 * 16) else if n < 120 then some (90 * 16)
  else if n < 126 then some (100 * 16) else if n < 128 then none else some (90 * 16)

/-- The power domain of a sensor: none for the hub and the substrate (R468, R470). -/
def sensorDomain (n : Nat) : Option Nat :=
  if n < 96 then sensorDie n else if n < 120 then some (16 + (n - 96) / 3) else if n < 128 then none else some (8 + (n - 128) / 2)

/-- The class of a sensor in a round (R470): absence and masks come before what the sensor shows, and a stale reading is not tested for its range
(the order where several conditions hold is the model's choice, log entry 48). -/
def classify (s : State) (r : SensorRead) : SensorClass :=
  if (sensorDomain r.n).any (domDown s) then .absent
  else if s.thermal.ctl.mask.contains r.n then .masked
  else if r.diag then .openShort
  else if r.stale then .stale
  else if r.reading < -640 ∨ 2400 < r.reading then .range
  else .valid

/-- Whether a class is broken (R470). -/
def SensorClass.broken : SensorClass → Bool
  | .openShort => true
  | .range => true
  | .stale => true
  | _ => false

/-- The code of a class (R481). -/
def SensorClass.code : SensorClass → Nat
  | .valid => 0 | .openShort => 1 | .range => 2 | .stale => 3 | .masked => 4 | .absent => 5

/-- One sensor is read and classified; a change to or from broken is recorded (R470). -/
def noteSensor (r : SensorRead) (s : State) : State :=
  let x := sensorOf s r.n
  let c := classify s r
  let x' : Sensor := {
    reading := if r.stale ∨ c = .absent then x.reading else r.reading
    cls := c
    peak := if c = .valid then max x.peak r.reading else x.peak }
  let s := modThm (fun t => { t with sensors := SMap.set {} t.sensors r.n x' }) s
  if c.broken && !x.cls.broken then
    logEvent 0x3006 srcDevice [(4, r.n), (4, c.code)] (modThm (fun t => { t with brokenCount := satAdd 16 t.brokenCount 1 }) s)
  else if !c.broken && x.cls.broken then logEvent 0x3007 srcDevice [] s
  else s

/-- The reading a sensor takes part with, if it does (R470). -/
def counted (s : State) (n : Nat) : Option Int :=
  match sensorLimit n with
  | some l => sensorCounts l (sensorOf s n)
  | none => none

/-- How far a sensor reads above its request threshold. -/
def excess (s : State) (n : Nat) : Option Int :=
  match counted s n, requestThreshold n with
  | some x, some t => some (x - t)
  | _, _ => none

/-- The largest excess of some sensors and the sensor that gives it, the lowest on a tie. -/
def worst (s : State) (ns : List Nat) : Option (Int × Nat) :=
  ns.foldl (fun acc n => match excess s n, acc with
    | some x, some b => if b.1 < x then some (x, n) else some b
    | some x, none => some (x, n)
    | none, _ => acc) none

/-- The sensors that govern a compute die (R468, R473). -/
def governors (k : Nat) : List Nat := (List.range 144).filter (fun n => sensorDie n == some k)

/-- The governing reading of a compute die (R473). -/
def noteGoverning (k : Nat) (s : State) : State :=
  let w := (worst s (governors k)).getD (0, 0)
  modDieTherm k (fun d => { d with governing := w.1, sensor := w.2 }) s

/-- The sensor with the smallest headroom to its limit (R481). -/
def hottestSensor (s : State) : Nat :=
  ((List.range 144).foldl (fun (acc : Option (Int × Nat)) n =>
    match counted s n, sensorLimit n, acc with
    | some x, some l, some b => if l - x < b.1 then some (l - x, n) else some b
    | some x, some l, none => some (l - x, n)
    | _, _, _ => acc) none).map (·.2) |>.getD 0

/-- A compute die or S-die with every sensor broken is unobservable: a sensor of it (R471). -/
def unobservable (s : State) : Option Nat :=
  let all := fun (a n : Nat) => (List.range n).all (fun i => (sensorOf s (a + i)).cls.broken)
  match (List.range 8).find? (fun k => all (8 * k) 8) with
  | some k => some (8 * k)
  | none => ((List.range 16).find? (fun d => all (64 + 2 * d) 2)).map (fun d => 64 + 2 * d)

/-! ### Trip (R477, R478) -/

/-- A lane whose tile has lost power at once. -/
def Lane.cut (l : Lane) : Lane := { l.fresh with state := if l.state = .unused then .unused else .admin, downReason := 7, queue := [], unacked := [] }

/-- The trip: every switch but the hub's opens at once, and the trip record is written (R478). -/
def trip (n : Nat) (reading : Int) (s : State) : State :=
  if s.thermal.tripPin then s
  else
    let s := modThm (fun t => { t with tripPin := true }) s
    let s := { s with
      fab := { s.fab with lanes := SMap.mapVals {} s.fab.lanes (fun _ l => l.cut) }
      power := { s.power with tripped := true }
      boot := { s.boot with trip := some (n, reading, s.time.hall) } }
    let s := forEach ((List.range 24).map (23 - ·)) openSwitch s
    let s := logEvent 0x3010 srcDevice [(4, n), (8, ofInt 64 reading)] s
    { s with hub := { s.hub with l0 := false, ready := false } }

/-- THERM_TRIP (R477, R478): a comparator of a sensor trips. -/
def execThermTrip (n : Nat) (reading : Int) (s : State) : Out :=
  if s.power.pwrOk then .next (trip n reading s) else .next s

/-! ### Request (R474) -/

/-- Sensors that raise requests: all but the substrate's. -/
def requesters : List Nat := (List.range 144).filter (fun n => (requestThreshold n).isSome)

/-- The request begins, stays or ends, and the grace of the dies concerned starts (R474). -/
def noteRequest (s : State) : State :=
  let w := worst s requesters
  let hot := w.any (fun x => decide (0 < x.1))
  let s := if hot && !s.thermal.request then
      let n := (w.map (·.2)).getD 0
      let s := modThm (fun t => { t with request := true, cool := 0, requests := satAdd 16 t.requests 1 }) s
      msixSend s.hub.vThermal (logEvent 0x3001 srcDevice [(4, n), (8, ofInt 64 ((counted s n).getD 0))] s)
    else s
  if !s.thermal.request then s
  else
    let s := forEach (List.range 8) (fun k s =>
      if 0 < (dieTherm s k).governing ∧ (dieTherm s k).grace = none then
        modDieTherm k (fun d => { d with grace := some (nowNs s + 1000000 * s.thermal.ctl.graceMs), expired := false }) s
      else s) s
    let cool := w.all (fun x => decide (x.1 ≤ -48))
    let n := if cool then s.thermal.cool + 1 else 0
    let s := modThm (fun t => { t with cool := n }) s
    if 4 ≤ n then
      let s := modThm (fun t => { t with request := false, cool := 0, dies := SMap.mapVals {} t.dies (fun _ d =>
        { d with grace := none, expired := false }) }) s
      msixSend s.hub.vThermal (logEvent 0x3002 srcDevice [] s)
    else s

/-- GRACE_EXPIRE (R474, R475). -/
def execGraceExpire (k : Nat) (s : State) : Out :=
  .next (if (dieTherm s k).grace.isSome then modDieTherm k (fun d => { d with expired := true }) s else s)

/-! ### Enforcement (R475) -/

/-- The thermal rate of the next round. -/
def nextRate (g : Int) (r c : Nat) : Nat :=
  max 500 (if 80 < g then 85 * min r c / 100 else if 0 < g then 95 * min r c / 100 else if -48 ≤ g then r else 102 * r / 100)

/-- Enforcement of one compute die in a round: it starts, sets the rate, or ends (R475). -/
def enforceDie (k : Nat) (s : State) : State :=
  let d := dieTherm s k
  let limit := decide (80 < d.governing)
  let start := !d.enforce && (limit || (d.expired && decide (0 < d.governing)))
  if !d.enforce && !start then s
  else
    let c := (rateOf s k).canary
    let r := nextRate d.governing (if d.enforce then d.rate else c) c
    let s := if start && limit then logEvent 0x3005 srcDevice [] s else s
    let s := if start then
        logEvent 0x3003 srcDevice [(4, k), (8, r)] (modThm (fun t => { t with enforcements := satAdd 16 t.enforcements 1 }) s)
      else s
    if declaredRate s ≤ r then
      logEvent 0x3004 srcDevice [(4, k), (8, r)] (modDieTherm k (fun d => { d with rate := 0xFFFF, enforce := false }) s)
    else modDieTherm k (fun d => { d with rate := r, enforce := true }) s

/-! ### Commit and round (R38, R39, R469) -/

/-- Replace the masked bits of a field of `n` bits at `lo` by a write's. -/
def RegWrite.put (w : RegWrite) (old lo n : Nat) : Nat :=
  bits ((old * 2 ^ lo &&& ((2 ^ 64 - 1) ^^^ w.mask)) ||| (w.val &&& w.mask)) lo n

/-- The masked sensors of one mask register, changed by a write. -/
def maskWrite (w : RegWrite) (i : Nat) (m : List Nat) : List Nat :=
  let inside := fun n => decide (n / 64 = i)
  let old := ((List.range 64).filter (fun j => m.contains (64 * i + j))).foldl (fun a j => a + 2 ^ j) 0
  let new := w.put old 0 64
  m.filter (fun n => !inside n) ++ ((List.range (if i = 2 then 16 else 64)).filter (bit new)).map (· + 64 * i)

/-- The staged fields of THM after a write (R481). -/
def ThmCtl.write (c : ThmCtl) (w : RegWrite) : ThmCtl :=
  match w.off with
  | 0x00200008 => { c with graceMs := w.put c.graceMs 0 10 }
  | 0x00200010 => { c with mask := maskWrite w 0 c.mask }
  | 0x00200018 => { c with mask := maskWrite w 1 c.mask }
  | 0x00200020 => { c with mask := maskWrite w 2 c.mask }
  | 0x00200028 => { c with dieC := w.put c.dieC 0 8, railC := w.put c.railC 8 8 }
  | _ => c

/-- The groups of sensors that R471 asks to keep one sensor unmasked: a compute die's eight, an S-die's two. -/
def maskGroups : List (Nat × Nat) := (List.range 8).map (fun k => (8 * k, 8)) ++ (List.range 16).map (fun d => (64 + 2 * d, 2))

/-- The first field of THM that fails its check (R39, R471, R481): a mask that leaves a die without a sensor fails at the register its
group lies in. -/
def ThmCtl.bad (c : ThmCtl) : Option FieldAt :=
  if c.graceMs < 10 ∨ 500 < c.graceMs then some (0x00200008, 0)
  else match maskGroups.find? (fun g => (List.range g.2).all (fun i => c.mask.contains (g.1 + i))) with
  | some g => some (0x00200010 + g.1 / 64 * 8, 0)
  | none =>
    if c.dieC < 60 ∨ 100 < c.dieC then some (0x00200028, 0)
    else if c.railC < 80 ∨ 125 < c.railC then some (0x00200028, 8) else none

/-- THM's latched set is applied or rejected. -/
def commitThermal (s : State) : State :=
  let c := s.thermal.commit
  if c.pending then
    let n := c.latched.foldl ThmCtl.write s.thermal.ctl
    match n.bad with
    | some x => commitReject 0x3F10 x (modThm (fun t => { t with commit := c.done false }) s)
    | none => modThm (fun t => { t with ctl := n, commit := c.done true }) s
  else s

/-- A stack report beyond its trip threshold, or an unobservable die, trips through the owl (R471, R477). -/
def owlTrip (s : State) : State :=
  match ((List.range 16).map (· + 128)).find? (fun n => decide ((sensorOf s n).cls = .valid) && decide (1680 < (sensorOf s n).reading)) with
  | some n => trip n (sensorOf s n).reading s
  | none => match unobservable s with
    | some n => trip n (sensorOf s n).reading s
    | none => s

/-- THERMAL_ROUND (R469 to R475): every 8 ms the owl reads all sensors and applies the rules. -/
def execThermalRound (rs : List SensorRead) (s : State) : Out :=
  if s.power.pwrOk = false ∨ s.power.st = .watch ∨ s.power.tripped = true ∨ s.boot.clkLost = true then .next s
  else
    let s := commitThermal s
    let s := forEach (rs.filter (fun r => decide (r.n < 144))) noteSensor s
    let s := forEach (List.range 8) noteGoverning s
    let s := modThm (fun t => { t with hottest := hottestSensor s }) s
    let s := owlTrip s
    if s.power.tripped then .next s
    else .next (forEach (List.range 8) enforceDie (noteRequest s))

/-! ### WATCH (R457 to R460, R479) -/

/-- Whether a logical bank is kept in WATCH (R459). -/
def bankKept (s : State) (b : Nat) : Bool :=
  s.power.ctl.keeps.any (fun e => decide (e.2.1 ≤ b) && decide (b < e.2.1 + e.2.2))

/-- Whether an S-die holds a kept bank. -/
def sdieKept (s : State) (d : Nat) : Bool := (List.range 256).any (fun i => bankKept s (256 * d + i))

/-- Whether WATCH is refused: a plan or a load, a lease, a domain in DRAINING, or a calibration write (R457, R512). -/
def watchBusy (s : State) : Bool :=
  planLoaded s || decide (s.load.stage ≠ .idle) || s.hub.lease.isSome || s.boot.writeBusy ||
  s.power.domains.any (fun e => decide (e.2.st = .draining))

/-- Entry to WATCH (R457): lanes close, switches open, kept banks stay, the rails go to retention. -/
def enterWatch (s : State) : State :=
  let sp := s.mem.sp.filter (fun c => bankKept s (c.1 / 2 ^ 23))
  let ps := s.mem.spPoison.filter (fun l => bankKept s (l * 64 / 2 ^ 23))
  let s := forEach (List.range 8) closeTile s
  let s := forEach (List.range 8) (fun k s => openSwitch (16 + k) s) s
  let s := forEach (List.range 8) (fun k s => openSwitch (8 + k) s) s
  let s := forEach (List.range 8) openSwitch s
  let s := { s with mem := { s.mem with sp := sp, spPoison := ps } }
  let s := forEach (List.range 4) (fun j s => setRail j 550 s) (setRail 4 620 s)
  let s := { s with power := { s.power with st := .watch }, hub := { s.hub with ready := false } }
  let s := modThm (fun t => { t with request := false, cool := 0 }) s
  logEvent 0x2040 srcDevice [] s

/-- WATCH (R457). -/
def execWatch (q id : Nat) (rsv : Bool) (s : State) : Out :=
  onCmd q id rsv s (fun s => if watchBusy s then endCmd q id 2 s else enterWatch (endCmd q id 0 s))

/-- WATCH_WAKE (R460). -/
def execWatchWake (cause : Nat) (s : State) : Out := .next (if 1 ≤ cause ∧ cause ≤ 3 then startWake cause s else s)

/-- The sensors a round in WATCH reads: the hub's, the host-link engine's, and those of S-dies with kept banks (R479). -/
def watchSensors (s : State) : List Nat :=
  (List.range 144).filter (fun n => decide (120 ≤ n ∧ n < 126) || (decide (64 ≤ n ∧ n < 96) && sdieKept s ((n - 64) / 2)))

/-- Whether a sensor reads above the WATCH threshold: a broken one counts as too hot, a masked one takes no part. -/
def watchHot (s : State) (r : SensorRead) : Bool :=
  !s.thermal.ctl.mask.contains r.n &&
  (r.diag || r.stale || decide (r.reading < -640) || decide ((s.thermal.ctl.dieC : Int) * 16 < r.reading))

/-- WATCH_ROUND (R458, R479): the first sensor above die_c, or the first regulator above rail_c (as sensor 144 + its rail, log entry 31),
wakes the device. -/
def execWatchRound (rs : List SensorRead) (railC : List Nat) (s : State) : Out :=
  if s.power.st ≠ .watch ∨ s.power.waking = true then .next s
  else
    let ns := watchSensors s
    match rs.find? (fun r => ns.contains r.n && watchHot s r) with
    | some r => .next (startWake 3 (logEvent 0x3008 srcDevice [(4, r.n)] s))
    | none =>
      match (List.range railC.length).find? (fun i => decide (s.thermal.ctl.railC < railC.getD i 0)) with
      | some i => .next (startWake 3 (logEvent 0x3008 srcDevice [(4, 144 + i)] s))
      | none => .next s

end Sys2Proof.Machine
end

