-- ==== Sys2Proof/Machine/Boot.lean ====
section
/-! DEFINITION. Resets, the boot paths and the wake table, repair at boot, the calibration store, licences, patches, and links inside the
package (R460, R461, R482 to R513, R536, R549, R556). -/

namespace Sys2Proof.Machine

open Sys2Proof

/-! ### Licences (R508 to R511) -/

/-- The first reason a licence is not valid (R509, R511): 4 format, 2 device, 3 key revoked, 1 signature; 0 for a valid one. -/
def licReason (d : List Byte) : Nat :=
  let zero := fun (o n : Nat) => decide (leAt d o n = 0)
  if !(decide (d.length = 160) && decide (leAt d 0 4 = 0x434E524C) && decide (leAt d 4 2 = 1) && decide (leAt d 6 1 < 4) && zero 7 1 &&
      decide (leAt d 0x18 1 < 4) && decide (leAt d 0x19 1 < 2) && zero 0x1A 2 && zero 0x20 32) then 4
  else if leAt d 8 16 ≠ Config.deviceId.toNat then 2
  else if bit Config.revoked.toNat (leAt d 6 1) then 3
  else if Config.signatureOk (leAt d 6 1) (d.take 64) (d.drop 64) then 0 else 1

/-- The entry a licence makes (R513). -/
def licEntry (d : List Byte) : LicEntry :=
  if d.isEmpty then {}
  else
    let r := licReason d
    { present := true, valid := decide (r = 0), tier := leAt d 0x18 1 % 4, frozen := bit (leAt d 0x19 1) 0
      key := leAt d 6 1 % 4, serial := leAt d 0x1C 4, reason := r }

/-- The licences present: 0 the factory's, 1 to 8 the flash entries. -/
def licBytes (s : State) (i : Nat) : List Byte := if i = 0 then Config.factoryLicence else SMap.get [] s.boot.flash (i - 1)

/-- The licences are verified and the capability fixed (R8, R9, R13, R509). -/
def verifyLicences (s : State) : State :=
  let es := (List.range 9).map (fun i => licEntry (licBytes s i))
  let valid := es.filter (·.valid)
  let s := modBoot (fun b => { b with licences := (List.zip (List.range 9) es).foldl (fun m x => SMap.set {} m x.1 x.2) [] }) s
  let s := { s with
    tier := (valid.map (·.tier)).foldl max 0
    frozen := valid.any (·.frozen)
    licences := valid.length }
  let s := forEach (List.zip (List.range 9) es) (fun x s =>
    if x.2.present && !x.2.valid then logEvent 0x5022 srcDevice [(4, x.1), (4, x.2.reason)] s else s) s
  if valid.isEmpty then logEvent 0x5020 srcDevice [] s else s

/-- A licence install is refused (R511). -/
def licRefuse (q id r : Nat) (s : State) : State := postCompletion q id 1 r (logEvent 0x5024 srcDevice [(4, r)] s)

/-- LICENCE_INSTALL (R510, R511): verified, and stored in the lowest sector that is empty or holds no valid licence. -/
def execLicenceInstall (q id : Nat) (rsv : Bool) (addr : Nat) (d : List Byte) (ok : Bool) (s : State) : Out :=
  onCmd q id rsv s (fun s =>
    if !hostAddrOk addr 1 then endCmd q id 3 s
    else if !ok then endCmd q id 6 s
    else
      let d := slice d 0 160
      let r := licReason d
      let dup := (List.range 9).any (fun i => decide (licReason (licBytes s i) = 0) && decide (leAt (licBytes s i) 0x1C 4 = leAt d 0x1C 4))
      if r ≠ 0 then licRefuse q id r s
      else if dup then licRefuse q id 6 s
      else match (List.range 8).find? (fun i => decide (licReason (SMap.get [] s.boot.flash i) ≠ 0)) with
        | none => licRefuse q id 5 s
        | some i =>
          let s := modBoot (fun b => { b with flash := SMap.set [] b.flash i d }) s
          endCmd q id 0 (logEvent 0x5023 srcDevice [(8, leAt d 0x1C 4), (4, leAt d 0x18 1), (4, leAt d 0x19 1)] s))

/-! ### Patches (R536) -/

/-- The first reason a patch is not valid: 4 format, 2 ROM image, 3 key revoked, 1 signature; 0 for a valid one. -/
def patchReason (d : List Byte) (slot : Nat) : Nat :=
  let n := leAt d 0x0C 4
  if !(decide (leAt d 0 4 = 0x5450524C) && decide (leAt d 4 2 = 1) && decide (leAt d 6 1 < 4) && decide (leAt d 7 1 = slot) &&
      decide (n ≤ 65376) && decide (leAt d 0x14 44 = 0) && decide (d.length = 0x40 + n + 96)) then 4
  else if leAt d 8 4 ≠ Config.romImageId.toNat then 2
  else if bit Config.revoked.toNat (leAt d 6 1) then 3
  else if Config.signatureOk (leAt d 6 1) (d.take (0x40 + n)) (d.drop (0x40 + n)) then 0 else 1

/-- PATCH_INSTALL (R536): checked, written and read back (`back` is the read-back's outcome). It takes effect at the next reset. -/
def execPatchInstall (q id : Nat) (rsv : Bool) (addr len slot : Nat) (d : List Byte) (ok back : Bool) (s : State) : Out :=
  onCmd q id rsv s (fun s =>
    if 16 ≤ slot ∨ 65536 < len ∨ hostAddrOk addr 1 = false then endCmd q id 3 s
    else if !ok then endCmd q id 6 s
    else
      let d := slice d 0 len
      let r := patchReason d slot
      if r ≠ 0 then postCompletion q id 1 r s
      else if !back then postCompletion q id 1 5 s
      else
        let s := { s with hub := { s.hub with patches := SMap.set {} s.hub.patches slot { valid := true, serial := leAt d 0x10 4, body := d } } }
        endCmd q id 0 (logEvent 0x5071 srcDevice [(4, slot)] s))

/-- PATCH_CLEAR (R536): the slot is erased. -/
def execPatchClear (q id : Nat) (rsv : Bool) (slot : Nat) (s : State) : Out :=
  onCmd q id rsv s (fun s =>
    if 16 ≤ slot then endCmd q id 3 s
    else endCmd q id 0 { s with hub := { s.hub with patches := SMap.erase slot s.hub.patches } })

/-- The patch slots are verified at boot (R536): a valid one is applied, an invalid one recorded. -/
def verifyPatches (s : State) : State :=
  let s := { s with hub := { s.hub with patchActive := 0 } }
  forEach s.hub.patches (fun p s =>
    if patchReason p.2.body p.1 = 0 then { s with hub := { s.hub with patchActive := s.hub.patchActive + 2 ^ p.1 } }
    else logEvent 0x5070 srcDevice [(4, p.1)] s) s

/-! ### The calibration store (R499 to R501) -/

/-- The first check of R499 that a slot fails, 0 for a valid one. In the rule's order (log entry 48): 1 header magic, 2 header_crc, 3 device_id,
4 body_crc; of the commit record 5 magic, 6 commit_crc, 7 sequence, 8 body_crc, 9 header_crc. -/
def slotCheck (c : CalSlot) : Nat :=
  let h := c.header
  let k := c.commit
  let n := leAt h 0x0C 4
  let body := c.body.take n ++ List.replicate (n - c.body.length) 0xFF
  (([(1, decide (leAt h 0 4 = 0x4C43524C)), (2, decide (leAt h 0x24 4 = crc32 (h.take 0x24))),
     (3, decide (leAt h 0x10 16 = Config.deviceId.toNat)), (4, decide (leAt h 0x20 4 = crc32 body)),
     (5, decide (leAt k 0 4 = 0x4D43524C)), (6, decide (leAt k 0x10 4 = crc32 (k.take 0x10))),
     (7, decide (leAt k 4 4 = leAt h 8 4)), (8, decide (leAt k 8 4 = leAt h 0x20 4)), (9, decide (leAt k 0x0C 4 = leAt h 0x24 4))] :
    List (Nat × Bool)).find? (fun x => !x.2)).elim 0 (·.1)

/-- The sequence in a slot's header. -/
def slotSeq (c : CalSlot) : Nat := leAt c.header 8 4

/-- The records of a body by type (R498): unknown types are skipped, and a record without data counts as missing. -/
def calRecords : Nat → List Byte → SMap (List Byte) → SMap (List Byte)
  | 0, _, m => m
  | n + 1, l, m =>
    if l.length < 8 then m
    else
      let t := leAt l 0 2
      let len := leAt l 4 4
      calRecords n (l.drop (8 + alignUp len 8)) (if 1 ≤ t ∧ t ≤ 8 then SMap.set [] m t ((l.drop 8).take len) else m)

/-- What a slot holds, by record type. -/
def slotData (c : CalSlot) : SMap (List Byte) :=
  let body := c.body.take (leAt c.header 0x0C 4)
  calRecords (body.length / 8) body []

/-- One record of a body (R498). -/
def calRecordBytes (t : Nat) (d : List Byte) : List Byte :=
  leBytes 2 t ++ leBytes 2 0 ++ leBytes 4 d.length ++ d ++ List.replicate (alignUp d.length 8 - d.length) 0

/-- The data of the field repair list's record: its count and its unit codes, 4 bytes each (log entry 48). -/
def repairBytes (l : List Nat) : List Byte := leBytes 4 l.length ++ (l.map (leBytes 4)).flatten

/-- The field repair list in a record's data. -/
def repairsOf (d : List Byte) : List Nat := (List.range (min (leAt d 0 4) (d.length / 4))).map (fun i => leAt d (4 + 4 * i) 4)

/-- The contents of a write (R498, R500): the field repair list as it stands, the characterised rates and path delays of the store, and the
device's own results. A record is kept to 512 KiB, so that the body fits (R497). -/
def calContents (s : State) (t : Nat) : List Byte :=
  if t = 8 then repairBytes s.boot.repairs
  else
    let old := SMap.get [] s.boot.calData t
    if (decide (t = 1) || decide (t = 5)) && !old.isEmpty then old else (Config.calRecord s.free t).take 0x80000

/-- The body of a write. -/
def calBody (s : State) : List Byte := ((List.range 8).map (fun i => calRecordBytes (i + 1) (calContents s (i + 1)))).flatten

/-- The header of a slot (R497). -/
def calHeader (seq : Nat) (body : List Byte) : List Byte :=
  let h := leBytes 4 0x4C43524C ++ leBytes 2 1 ++ leBytes 2 0 ++ leBytes 4 seq ++ leBytes 4 body.length ++
    leBytes 16 Config.deviceId.toNat ++ leBytes 4 (crc32 body)
  h ++ leBytes 4 (crc32 h)

/-- The commit record that goes with a header (R497). -/
def calCommit (h : List Byte) : List Byte :=
  let k := leBytes 4 0x4D43524C ++ slice h 8 4 ++ slice h 0x20 8
  k ++ leBytes 4 (crc32 k)

/-- The slots as boot reads them: what the device left in the flash, or what it finds there instead. -/
def readSlots (r : BootResult) (s : State) : State :=
  let put := fun (i : Nat) (c : Option CalSlot) (m : SMap CalSlot) => match c with
    | some c => SMap.set {} m i c
    | none => m
  modBoot (fun b => { b with cal := put 1 r.slotB (put 0 r.slotA b.cal) }) s

/-- A slot is chosen (R499, R501): the valid one with the higher sequence; with none, or a record missing, defaults serve for what is missing
and a write is due. The field repair list in hub SRAM stands where a warm reset that fell back has kept it (R482, R494). -/
def chooseSlot (s : State) : State :=
  let ca := SMap.get {} s.boot.cal 0
  let cb := SMap.get {} s.boot.cal 1
  let a := decide (slotCheck ca = 0)
  let b := decide (slotCheck cb = 0)
  let pick := if a && b then (if slotSeq ca < slotSeq cb then 1 else 0) else if b then 1 else 0
  let c := if pick = 1 then cb else ca
  let data := if a || b then slotData c else []
  let s := if a then s else logEvent 0x5041 srcDevice [(4, 0), (4, slotCheck ca)] s
  let s := if b then s else logEvent 0x5041 srcDevice [(4, 1), (4, slotCheck cb)] s
  let bad := (List.range 8).any (fun i => (SMap.get [] data (i + 1)).isEmpty)
  let s := modBoot (fun x => { x with
    slot := pick, slotValid := a || b, otherValid := a && b, defaults := bad, calData := data
    repairs := if x.fallback && !x.listLost then x.repairs else (repairsOf (SMap.get [] data 8)).foldl (fun l c => insertNat c l) []
    seq := if a || b then slotSeq c else 0 }) s
  if bad then calDirty (logEvent 0x5040 srcDevice [] s) else s

/-- Whether recalibration results may be written: at most once per hour (R500). -/
def recalWriteDue (s : State) : Bool :=
  s.boot.recalDue && (match s.boot.recalWrite with
    | some t => decide (t + 3600 ≤ s.time.hall.sec)
    | none => true)

/-- CAL_WRITE_START (R500): the hub writes the slot not in use, with the higher sequence + 1: its commit record is erased, and header and body
are programmed. -/
def execCalWriteStart (s : State) : Out :=
  if s.hub.ready && (s.boot.writeDue || recalWriteDue s) && !s.boot.writeBusy then
    let body := calBody s
    let c : CalSlot := { header := calHeader ((s.boot.seq + 1) % 2 ^ 32) body, body := body }
    .next { modBoot (fun b => { b with
      writeBusy := true, writeDue := false, writeAgain := false, retried := false, otherValid := false
      recalDue := false, recalWrite := if b.recalDue then some s.time.hall.sec else b.recalWrite
      cal := SMap.set {} b.cal (1 - b.slot) c }) s with free := s.free + 1 }
  else .next s

/-- The commit record of the slot that was written is programmed, and the copy in hub SRAM is what it holds. -/
def commitSlot (b : Boot) : Boot :=
  let i := 1 - b.slot
  let c := SMap.get {} b.cal i
  { b with
    cal := SMap.set {} b.cal i { c with commit := calCommit c.header }, calData := slotData c
    writeBusy := false, writeDue := b.writeDue || b.writeAgain, writeAgain := false, written := satAdd 32 b.written 1
    slot := i, otherValid := b.slotValid, slotValid := true, seq := (b.seq + 1) % 2 ^ 32, defaults := false }

/-- CAL_WRITTEN (R500): the write completes, is tried once more, or fails. -/
def execCalWritten (ok : Bool) (s : State) : Out :=
  let b := s.boot
  if !b.writeBusy then .next s
  else if ok then .next (logEvent 0x5042 srcDevice [] (modBoot commitSlot s))
  else if !b.retried then .next (modBoot (fun b => { b with retried := true }) s)
  else
    .next (logEvent 0x5043 srcDevice [] (modBoot (fun b => { b with
      writeBusy := false, writeDue := b.writeDue || b.writeAgain, writeAgain := false, failed := satAdd 32 b.failed 1 }) s))

/-! ### Repair at a cold start (R492 to R494) -/

/-- The healthy physical units of a class and die, ascending. -/
def healthyUnits (bad : List Nat) (cls die : Nat) : List Nat :=
  (List.range (unitsOf cls + sparesOf cls)).filter (fun u => !bad.contains (engId cls die u))

/-- Logical units of a class take the healthy physical ones in order; the highest numbers are absent where too few are left (R492, R493). -/
def numberClass (bad : List Nat) (cls die : Nat) (s : State) : State :=
  let h := healthyUnits bad cls die
  let n := unitsOf cls
  let set := fun (u : Nat) (m : SMap Nat) => match h[u]? with
    | some p => if p = u then m else SMap.set 0 m (engId cls die u) (p + 1)
    | none => m
  { s with units := { s.units with
    phys := (List.range n).foldl (fun m u => set u m) s.units.phys
    absent := s.units.absent ++ ((List.range n).filter (fun u => decide (h.length ≤ u))).map (engId cls die) } }

/-- The healthy banks of an S-die in order behind its 256 logical banks (R492). -/
def numberBanks (bad : List Nat) (d : Nat) (s : State) : State :=
  let h := healthyBanks bad d
  modBoot (fun x => { x with
    bankSpares := SMap.set 0 x.bankSpares d ((h.take 256).filter (fun b => decide (256 ≤ b))).length
    absentBanks := x.absentBanks ++ ((List.range 256).filter (fun i => decide (h.length ≤ i))).map (fun i => 256 * d + i) }) s

/-- The spare that stands in for a bad unit: the first healthy spare of its kind, if one is left. -/
def spareFor (bad : List Nat) (code : Nat) : Option Nat :=
  if code < 0x10000 then
    let cls := code / 4096
    (healthyUnits bad cls (code / 256 % 16)).find? (fun u => decide (unitsOf cls ≤ u))
  else if code < 0x20000 then ((List.range 8).map (· + 256)).find? (fun b => !bad.contains (bankCode ((code - 0x10000) / 264) b))
  else if 0x30000 ≤ code then
    ((List.range 8).map (· + 16384)).find? (fun r => !bad.contains (rowCode ((code - 0x30000) / 16392) r))
  else none

/-- Units of one step's tests against the field repair list (R494): a unit that passes returns, a new one is entered, and one beyond its
spares is recorded as such (R489). -/
def settleRepairs (mine : Nat → Bool) (r : BootResult) (s : State) : State :=
  let bad := r.bad.filter mine
  let back := s.boot.repairs.filter (fun c => mine c && !bad.contains c)
  let s := forEach back (fun c s => logEvent 0x5012 srcDevice []
    (calDirty (modBoot (fun b => { b with repairs := b.repairs.erase c }) s))) s
  let fresh := bad.filter (fun c => !r.fused.contains c && !s.boot.repairs.contains c)
  forEach fresh (fun c s => match spareFor r.bad c with
    | some p => listRepair c p s
    | none => logEvent 0x5011 srcDevice [(4, c)] (calDirty (modBoot (fun b => { b with repairs := insertNat c b.repairs }) s))) s

/-- Bank repair at step 4 of the cold path. -/
def repairBanks (r : BootResult) (s : State) : State :=
  let s := modBoot (fun b => { b with
    absentBanks := [], bankSpares := [], bankMoves := [], bankBad := r.bad.filter (fun c => decide (0x10000 ≤ c ∧ c < 0x20000)) }) s
  settleRepairs (fun c => decide (0x10000 ≤ c ∧ c < 0x20000)) r (forEach (List.range 16) (numberBanks r.bad) s)

/-- Engine repair at step 5 of the cold path. -/
def repairEngines (r : BootResult) (s : State) : State :=
  let s := { s with units := { s.units with phys := [], absent := [], badUnits := r.bad.filter (fun c => decide (c < 0x10000)) } }
  let s := forEach (List.range 8) (fun k s => forEach (List.range 5) (fun c s => numberClass r.bad c k s) s) s
  settleRepairs (fun c => decide (c < 0x10000)) r s

/-- Row repair of the CS slices at step 5 of the cold path. -/
def repairRows (r : BootResult) (s : State) : State :=
  let rows := r.bad.filter (fun c => decide (0x30000 ≤ c))
  let s := modBoot (fun b => { b with rowMoves := [], bankBad := b.bankBad.filter (fun c => decide (c < 0x20000)) ++ rows }) s
  settleRepairs (fun c => decide (0x30000 ≤ c)) r (numberRows rows s)

/-- The compute dies with a CS slice beyond its spare rows (R493). -/
def rowlessDies (bad : List Nat) : List Nat :=
  (List.range 8).filter (fun k => decide (8 < (bad.filter (fun c => decide (rowCode k 0 ≤ c ∧ c < rowCode (k + 1) 0))).length))

/-- The hub links at step 5 (R505). -/
def checkHubLinks (r : BootResult) (s : State) : State :=
  let note := fun (k : Nat) (f : HubLink → HubLink) (s : State) =>
    modBoot (fun b => { b with hubLinks := SMap.modify {} b.hubLinks k f }) s
  let s := forEach r.hubSpareDown (fun k s => logEvent 0x5032 srcDevice [] (note k (fun h => { h with down := true }) s)) s
  let s := forEach r.hubSpareUp (fun k s => logEvent 0x5032 srcDevice [] (note k (fun h => { h with up := true }) s)) s
  forEach r.hubFailed (fun k s => logEvent 0x5033 srcDevice [] (note k (fun h => { h with failed := true }) s)) s

/-! ### Powering at boot and wake -/

/-- A rail stands confirmed at a voltage as a boot step completes; a faulted rail keeps its own. -/
def settleRail (r mv : Nat) (s : State) : State :=
  if (railOf s r).faulted then s
  else modRail r (fun x => { x with request := mv, confirmed := mv, change := none, fails := 0, gap := 0 }) s

/-- A compute die is powered at boot or wake: ON, or FAILED on a faulted rail below lo, disabled or absent (R466, R493, R505). -/
def bootDie (k : Nat) (s : State) : State :=
  if (domOf s k).adminOff then s
  else if s.boot.absentDies.contains k || !canRise s k then modDom k (fun x => { x with st := .failed }) s
  else domOn k s

/-- An HBM pair or a tile is powered where its die is ON. -/
def bootDep (d : Nat) (s : State) : State :=
  if (domOf s d).adminOff then s
  else if canRise s d then domOn d s
  else modDom d (fun x => { x with st := .failed }) s

/-- Stacks found untrained. -/
def noteUntrained (l : List Nat) (s : State) : State :=
  { s with mem := { s.mem with hbmc := l.foldl (fun m i => SMap.modify {} m i (fun h => { h with trained := false })) s.mem.hbmc } }

/-- The first field of a tile profile that is not as R503 requires, by its offset; 0x40 where the link is not trained or sent none (log entry
48). -/
def profileFail (t : TileRead) : Option Nat :=
  let p := t.profile
  let need := fun (o n v : Nat) => (o, decide (leAt p o n = v))
  if !t.trained || p.isEmpty then some 0x40
  else (([need 0 2 1, need 4 1 4, (5, decide (9 ≤ leAt p 5 1)), need 6 1 32, need 7 1 1, need 8 4 226000, need 0x0C 2 200, need 0x0E 2 200,
    need 0x10 2 16, need 0x12 2 64, need 0x14 40 0, need 0x3C 4 (crc32 (p.take 0x3C))] : List (Nat × Bool)).find? (fun x => !x.2)).map (·.1)

/-- A tile's link and profile (R503, R504): in service, degraded, or refused with its domain FAILED. -/
def noteTile (k : Nat) (t : TileRead) (s : State) : State :=
  let bad := profileFail t
  let st := if bad.isSome then 3 else if t.rate = 32 ∧ t.modules = 8 then 1 else 2
  let s := modBoot (fun b => { b with links := SMap.modify {} b.links k (fun l =>
    { l with st := st, rate := if t.trained then t.rate else 0, modules := if t.trained then t.modules else 0, vendor := leAt t.profile 2 2 }) }) s
  if st = 3 then logEvent 0x5031 (engId 5 k 0) [(4, bad.getD 0)] (modDom (16 + k) (fun x => { x with st := .failed }) s)
  else if st = 2 then logEvent 0x5030 (engId 5 k 0) [(8, t.rate), (4, t.modules)] s
  else s

/-- A laser feed found at boot (R283). -/
def noteFeed (f : FeedRead) (s : State) : State :=
  let g : Feed := { tones := f.tones, avg := f.avg, minLine := f.low }
  setFeed f.unit f.b { g with ok := feedHealthy g } s

/-- The active feed after reset: the selected one where healthy, else the other, else none (R283). -/
def pickFeed (k : Nat) (s : State) : State :=
  let first := if k = 8 then false else (tileOf s k).ctl.select
  setActive k (if feedUsable s k first then b2n first else if feedUsable s k (!first) then b2n (!first) else 2) s

/-- A ring found faulty in its sweep (R289, R492). -/
def noteRing (x : Nat × Bool × Nat) (s : State) : State :=
  let s := modRing x.1 x.2.1 x.2.2 (fun g => { g with state := .faulty }) s
  let s := modPort x.1 (fun p =>
    if x.2.1 then { p with rxFaulty := setBits p.rxFaulty x.2.2 1 1, rxSpare := if p.rxSpare = x.2.2 then 15 else p.rxSpare }
    else { p with txFaulty := setBits p.txFaulty x.2.2 1 1, txSpare := if p.txSpare = x.2.2 then 15 else p.txSpare }) s
  logEvent 0x7102 srcDevice [] s

/-- The full recalibration of a tile's projection engine on the cold path (R485): cause 3 stands for boot (log entry 32). -/
def bootRecal (us k : Nat) (s : State) : State :=
  if (domOf s (16 + k)).st = .on then
    logEvent 0x7A10 (engId 5 k 0) [(4, k), (4, 3), (8, us)] (modPpe k (fun p => { p with
      lastRecal := s.time.hall.sec % 2 ^ 32, recals := satAdd 16 p.recals 1, recalTemp := (sensorOf s (98 + 3 * k)).reading
      overdue := false }) s)
  else s

/-- Tiles are powered, linked and checked (R485, R487, R460). -/
def bootTiles (r : BootResult) (s : State) : State :=
  let s := forEach (List.range 8) (fun k s => bootDep (16 + k) s) s
  let s := forEach (List.zip (List.range 8) r.tiles) (fun x s => if (domOf s (16 + x.1)).st = .on then noteTile x.1 x.2 s else s) s
  let s := forEach r.feeds noteFeed s
  forEach r.badRings noteRing (forEach (List.range 9) pickFeed s)

/-! ### Resets (R461, R482, R483) -/

/-- What is left without power: what the flash, the fuses and the patch store hold, and host memory, which is the host's. -/
def unpowered (s : State) : State :=
  { ({} : State) with
    mem := { host := s.mem.host }
    hub := { patches := s.hub.patches }
    boot := { flash := s.boot.flash, cal := s.boot.cal, trip := s.boot.trip }
    free := s.free
    pending := s.pending }

/-- PWR_OK_FALL (R461): everything is lost. -/
def execPwrOkFall (s : State) : Out := .next (if s.power.pwrOk then unpowered s else s)

/-- The start of a cold path (R482, R485): hall time, log and state are new; a prior trip's record is logged at its first step. -/
def coldState (s : State) : State :=
  let u := unpowered s
  { u with power := { u.power with pwrOk := true }, boot := { u.boot with path := .cold } }

/-- COLD_START (R482): PWR_OK rises. -/
def execColdStart (s : State) : Out := .next (if s.power.pwrOk then s else coldState s)

/-- A lane's counters are cleared, and it is out of service (R319, R482). -/
def resetPort (p : Port) : Port :=
  { txFaulty := p.txFaulty, rxFaulty := p.rxFaulty, txSpare := p.txSpare, rxSpare := p.rxSpare, mgmtDis := p.mgmtDis }

/-- What a warm reset keeps (R428, R482): the log, hall time, boot's copies, repair, counters kept to the next cold reset, a latched trip,
disables of the management path, and the configuration of the host link, which keeps its training. -/
def warmState (s : State) : State :=
  let h := s.hub
  let b := s.boot
  let hub : Hub := {
    l0 := h.l0, feedActive := h.feedActive, feedA := h.feedA, feedB := h.feedB, switches := h.switches, downs := h.downs,
    mgmtDisagree := h.mgmtDisagree, hostFaults := h.hostFaults, bar2 := h.bar2, bar4 := h.bar4, mps := h.mps, mrrs := h.mrrs,
    d3hot := h.d3hot, patches := h.patches, mgmtDiffer := h.mgmtDiffer, sensor600 := h.sensor600, out := h.out }
  let power : Power := {
    pwrOk := true, tripped := s.power.tripped, droops := s.power.droops, wakeCause := s.power.wakeCause,
    domains := SMap.mapVals {} s.power.domains (fun _ x => { adminOff := x.adminOff }),
    rails := s.power.rails.map (fun x => { x with change := none, after := none, short := false }) }
  let thermal : Thermal := {
    sensors := s.thermal.sensors, requests := s.thermal.requests, enforcements := s.thermal.enforcements,
    brokenCount := s.thermal.brokenCount, disagree := s.thermal.disagree, tripPin := s.thermal.tripPin }
  let boot : Boot := { b with
    path := .none, step := 0, wakeStep := 0, warm := false, fallback := false, listLost := false, trained := false, failStep := 0, failCode := 0, bootUs := 0,
    writeBusy := false, writeAgain := false, writeDue := b.writeDue || b.writeBusy || b.writeAgain,
    strapLogged := false, testLogged := false }
  let units : Units := {
    phys := s.units.phys, badUnits := s.units.badUnits, absent := s.units.absent,
    ppe := SMap.mapVals {} s.units.ppe (fun _ p => {
      lastRecal := p.lastRecal, recalTemp := p.recalTemp,
      inSpare := p.inSpare, outSpare := p.outSpare, spareUsed := p.spareUsed }) }
  let fab : Fab := {
    position := s.fab.position, ports := SMap.mapVals {} s.fab.ports (fun _ p => resetPort p),
    rings := s.fab.rings.filter (fun e => decide (e.2.state = RingState.faulty)) }
  { ({} : State) with
    mem := { host := s.mem.host }, log := { s.log with phaseMarks := [] }, msix := s.msix, time := s.time, hub := hub,
    power := power, thermal := thermal, boot := boot, units := units, fab := fab, free := s.free, pending := s.pending }

/-- A warm reset (R482 to R484, R487): the fast path, or the cold path from its step 2 with the condition that failed: 0 READY never
asserted, 4 a latched trip. -/
def startWarm (s : State) : State :=
  let ever := s.boot.everReady
  let tripped := s.power.tripped
  let s := warmState s
  if ever && !tripped then modBoot (fun b => { b with path := .warm }) s
  else
    logEvent 0x5002 srcDevice [(4, if tripped then 4 else 0)] (modBoot (fun b => { b with path := .cold, step := 1, fallback := true }) s)

/-- WARM_RST_N (R482, R550): a pulse of at least 1 us resets as it ends, one below 0.9 us is ignored, and one between is forbidden. -/
def execWarmRstN (ns : Nat) (s : State) : Out :=
  if !s.power.pwrOk || decide (ns < 900) then .next s
  else if ns < 1000 then .fault .warmResetForbidden
  else .next (startWarm s)

/-- RESET (R528): completes, then a warm reset is due. -/
def execReset (q id : Nat) (rsv : Bool) (s : State) : Out :=
  onCmd q id rsv s (fun s => let s := endCmd q id 0 s; { s with hub := { s.hub with resetDue := true, resetQueue := q } })

/-- Whether the completion of the last RESET has been performed: it waits for no room in its ring and not for the link. -/
def resetPerformed (s : State) : Bool := (queueOf s s.hub.resetQueue).held.isNone && s.hub.out.isEmpty

/-- WARM_RESET_DELAY (R528): 100 us after the completion has been performed the warm reset begins. -/
def execWarmResetDelay (s : State) : Out := .next (if s.hub.resetDue && resetPerformed s then startWarm s else s)

/-! ### Boot steps (R460, R485, R487, R489) -/

/-- The boot stops: READY is never asserted (R489); cause 1 a fuse word, 2 a hub core. -/
def bootFail (step cause : Nat) (s : State) : State :=
  logEvent 0x5003 srcDevice [(4, step), (4, cause)] (modBoot (fun b => { b with path := .none, failStep := step, failCode := 0x5003 }) s)

/-- READY (R485, R487): the device is in service with the bring-up tree, and records its path, 0 cold or 1 warm, and duration. -/
def bootReady (warm : Bool) (us : Nat) (s : State) : State :=
  let s := { s with hub := { s.hub with ready := true }, power := { s.power with st := .run, waking := false } }
  let s := modBoot (fun b => { b with path := .none, warm := warm, everReady := true, bootUs := us }) s
  let s := logEvent 0x5001 srcDevice [(4, b2n warm), (8, us)] s
  refreshParent (applyTree (treeRoot s) s)

/-- The straps are read (R549). -/
def readStraps (r : BootResult) (s : State) : State := { s with fab := { s.fab with position := r.position % 32768 } }

/-- A prior trip's record is read, logged and cleared (R478). -/
def priorTrip (s : State) : State :=
  match s.boot.trip with
  | some t => logEvent 0x3011 srcDevice [(4, t.1), (8, ofInt 64 t.2.1), (8, t.2.2.sec)] (modBoot (fun b => { b with trip := none }) s)
  | none => s

/-- The fuses are read and corrected (R495). -/
def readFuses (r : BootResult) (s : State) : State :=
  let first := decide (s.boot.fuseCorr = 0 ∧ 0 < r.fuseCorr)
  let s := modBoot (fun b => { b with fuseCorr := satAdd 16 b.fuseCorr r.fuseCorr, fuseBad := r.fuseBad }) s
  if first then logEvent 0x5004 srcDevice [] s else s

/-- One step of the cold path (R485). -/
def coldStep (n : Nat) (r : BootResult) (s : State) : State :=
  match n with
  | 1 => if r.coreFail then bootFail 1 2 s else readStraps r s
  | 2 =>
    let s := readFuses r s
    if r.fuseBad then bootFail 2 1 s
    else
      let s := verifyPatches s
      { s with hub := { s.hub with l0 := r.l0 } }
  | 3 => verifyLicences (chooseSlot (readSlots r (priorTrip s)))
  | 4 => repairBanks r (settleRail 4 800 s)
  | 5 =>
    let s := forEach (List.range 4) (fun j s => settleRail j 750 s) s
    let s := modBoot (fun b => { b with absentDies := r.hubFailed ++ rowlessDies r.bad }) (checkHubLinks r s)
    repairRows r (repairEngines r (forEach (List.range 8) bootDie s))
  | 6 =>
    let s := forEach (List.range 8) (fun k s => bootDep (8 + k) s) s
    let s := modBoot (fun b => { b with absentStacks := r.absentStacks }) s
    let s := forEach r.absentStacks (fun i s => logEvent 0x5011 srcDevice [(4, stackCode i)] s) s
    noteUntrained (r.absentStacks ++ r.untrained) s
  | 7 =>
    let s := bootTiles r s
    let s := forEach (List.range 8) (bootRecal r.us) s
    if r.changed then calDirty s else s
  | _ => bootReady false r.us { s with hub := { s.hub with l0 := r.l0 } }

/-- One step of the warm path (R487): at step 2 a copy that fails its CRC, or is not written yet, leaves the cold path to be run (R484,
R501). -/
def warmStep (n : Nat) (r : BootResult) (s : State) : State :=
  match n with
  | 1 => if r.coreFail then bootFail 1 2 s else readStraps r s
  | 2 =>
    let bad := if r.copyBad ≠ 0 then r.copyBad else if s.boot.defaults then 2 else 0
    if bad ≠ 0 then
      logEvent 0x5002 srcDevice [(4, bad)] (modBoot (fun b => { b with
        path := .cold, step := 1, fallback := true, listLost := decide (r.copyBad = 3) }) s)
    else verifyPatches s
  | 3 => verifyLicences s
  | 4 =>
    let s := forEach (List.range 4) (fun j s => settleRail j 750 s) (settleRail 4 800 s)
    forEach (List.range 8) bootDie s
  | 5 => forEach (List.range 8) (fun k s => if (domOf s k).st = .on then loseDie k s else s) s
  | 6 => noteUntrained (s.boot.absentStacks ++ r.untrained) (forEach (List.range 8) (fun k s => bootDep (8 + k) s) s)
  | 7 => bootTiles r s
  | _ => bootReady true r.us s

/-- The SP kept through WATCH stays as its die is powered again (R459, R460). -/
def wakeDie (k : Nat) (s : State) : State :=
  let m := s.mem
  let s := bootDie k s
  { s with mem := { s.mem with sp := m.sp, spPoison := m.spPoison } }

/-- Kept banks have been scrubbed once: passes of the SP scrub of every die (R460, R214). -/
def wakeScrub (s : State) : State :=
  forEach (List.range 8) (fun k s => { s with mem := { s.mem with ecc := SMap.modify {} s.mem.ecc k (fun r =>
    { r with passes := satAdd 32 r.passes 1 }) } }) s

/-- One step of the wake table (R460). -/
def wakeStep (n : Nat) (r : BootResult) (s : State) : State :=
  match n with
  | 3 => settleRail 4 800 s
  | 4 => wakeDie 1 (wakeDie 0 (settleRail 0 750 s))
  | 5 => wakeDie 3 (wakeDie 2 (settleRail 1 750 s))
  | 6 => wakeDie 5 (wakeDie 4 (settleRail 2 750 s))
  | 7 => wakeDie 7 (wakeDie 6 (settleRail 3 750 s))
  | 8 => wakeScrub s
  | 9 => noteUntrained (s.boot.absentStacks ++ r.untrained) (forEach (List.range 8) (fun k s => bootDep (8 + k) s) s)
  | 10 => bootTiles r s
  | 11 =>
    let s := { s with hub := { s.hub with ready := true }, power := { s.power with st := .run, waking := false } }
    refreshParent (applyTree (treeRoot s) (modBoot (fun b => { b with path := .none }) s))
  | _ => s

/-- BOOT_STEP_COMPLETE (R460, R485, R487, R506): the next step of the path under way completes. A tripped device powers nothing, and one on
which a test instruction ran or whose reference clock is lost waits for a cold start. -/
def execBootStepComplete (r : BootResult) (s : State) : Out :=
  let b := s.boot
  if b.path = .none ∨ s.power.pwrOk = false ∨ b.testRun = true ∨ b.clkLost = true ∨ (s.power.tripped = true ∧ 3 ≤ b.step) then .next s
  else
    let next := modBoot (fun b => { b with step := b.step + 1 }) s
    match b.path with
    | .cold => .next (coldStep (b.step + 1) r next)
    | .warm => .next (warmStep (b.step + 1) r next)
    | _ => .next (wakeStep (b.wakeStep + 1) r (modBoot (fun b => { b with wakeStep := b.wakeStep + 1 }) s))

/-! ### After READY -/

/-- HBM_STORED_BAD (R488): the full training of a stack whose stored values failed completes. -/
def execHbmStoredBad (stack : Nat) (s : State) : Out :=
  if 16 ≤ stack ∨ (SMap.get {} s.mem.hbmc stack).trained = true ∨ s.boot.absentStacks.contains stack = true ∨
      (domOf s (8 + stack / 2)).st ≠ .on then .next s
  else
    .next (logEvent 0x5051 srcDevice []
      { s with mem := { s.mem with hbmc := SMap.modify {} s.mem.hbmc stack (fun h => { h with trained := true }) } })

/-- Every port of a powered tile has passed or failed its cabling check once, and every lane of the tree has reached UP or DOWN once; lanes and
ports disabled here are left out (R490). -/
def fabricTried (s : State) : Bool :=
  (List.range 32).all (fun p => domDown s (16 + p / 4) || portDisabled s p || (portOf s p).cabled || (portOf s p).cablingTried) &&
  s.fab.lanes.all (fun e =>
    let l := e.2
    decide (s.fab.mode ≠ 1) || !l.named || domDown s (16 + lanePort e.1 / 4) || portDisabled s (lanePort e.1) ||
    decide (l.state ∈ [.up, .marked, .down, .held, .closing, .admin]) || l.lastFlap.isSome || decide (l.downReason ≠ 0))

/-- FABRIC_TRAINED (R490). -/
def execFabricTrained (s : State) : Out :=
  if s.hub.ready && !s.boot.trained && fabricTried s then .next (logEvent 0x5007 srcDevice [] (modBoot (fun b => { b with trained := true }) s)) else .next s

/-- UCIE_RETRAIN (R491): a module of a tile's link retrains. -/
def execUcieRetrain (k m : Nat) (s : State) : Out :=
  if 8 ≤ k ∨ 8 ≤ m ∨ domDown s (16 + k) = true then .next s
  else
    .next (logEvent 0x5034 srcDevice []
      (modBoot (fun b => { b with links := SMap.modify {} b.links k (fun l => { l with retrains := satAdd 16 l.retrains 1 }) }) s))

/-- HUB_LINK_SPARE (R491, R505): a lane with `n` errors in 1 s, more than 16, is replaced by the spare; a second in one direction leaves the die
unreachable. -/
def execHubLinkSpare (k n : Nat) (up : Bool) (s : State) : Out :=
  let h := SMap.get {} s.boot.hubLinks k
  if 8 ≤ k ∨ h.failed = true ∨ domDown s k = true then .next s
  else
    let set := fun (f : HubLink → HubLink) (s : State) => modBoot (fun b => { b with hubLinks := SMap.modify {} b.hubLinks k f }) s
    let s := set (fun h => { h with errors := satAdd 32 h.errors n }) s
    if n ≤ 16 then .next s
    else if (if up then h.up else h.down) then
      let used := (domTree k).any (domUsed s)
      let s := logEvent 0x5033 srcDevice [] (set (fun h => { h with failed := true }) s)
      let s := modBoot (fun b => { b with absentDies := insertNat k b.absentDies }) s
      let s := forEach (domTree k) (fun d s => modDom d (fun x => { x with st := .failed }) (openSwitch d s)) s
      .next (if used then epochFault 0x5033 srcDevice true s else s)
    else
      .next (logEvent 0x5032 srcDevice []
        (set (fun h => if up then { h with up := true } else { h with down := true }) s))

/-- POS_STRAP_CHANGED (R549): a sample of the straps differs from FAB.POSITION. -/
def execPosStrapChanged (pos : Nat) (s : State) : Out :=
  if s.power.pwrOk && decide (pos ≠ s.fab.position) && !s.boot.strapLogged then
    .next (logEvent 0x5080 srcDevice [(2, s.fab.position), (2, pos)] (modBoot (fun b => { b with strapLogged := true }) s))
  else .next s

/-- Whether an instruction of the test access port is accepted after READY (R507). -/
def tapOpen : TapIns → Bool
  | .bypass => true
  | .idcode => true
  | .sample => true
  | _ => false

/-- What the test port shifts out under the instruction in force, where R506 or IEEE 1149.1 fixes it: IDCODE, and the 0 of BYPASS. -/
def tapData (s : State) : Option Nat :=
  match s.boot.tap with
  | .idcode => some (Config.stepping.toNat % 16 * 2 ^ 28 + 0x0002 * 2 ^ 12 + 0x3A5 * 2 + 1)
  | .bypass => some 0
  | _ => none

/-- TAP_INSTRUCTION (R506, R507): the instruction is in force. After READY the others act as BYPASS and are recorded once; before it one that
ran keeps the device out of service. -/
def execTapInstruction (ins : TapIns) (s : State) : Out :=
  let load := fun (i : TapIns) => modBoot (fun b => { b with tap := i })
  if tapOpen ins then .next (load ins s)
  else if s.hub.ready || decide (s.power.st = .watch) then
    let s := load .bypass s
    .next (if s.boot.testLogged then s else logEvent 0x5060 srcDevice [] (modBoot (fun b => { b with testLogged := true }) s))
  else .next (modBoot (fun b => { b with testRun := true }) (load ins s))

/-- REF_CLK_LOST (R556): the hub management domain stops. -/
def execRefClkLost (s : State) : Out :=
  if s.hub.ready then .next (modBoot (fun b => { b with clkLost := true }) { s with hub := { s.hub with ready := false } }) else .next s

end Sys2Proof.Machine
end

