-- ==== Sys2Proof/Machine/Hold.lean ====
section
/-! DEFINITION. A plan on the device: its HBM mapping, what GO sets up, and how a plan ends and is discarded (R78, R192 to R194, R378, R531). -/

namespace Sys2Proof.Machine

open Sys2Proof

/-! ### The mapping of HBM (R192 to R194) -/

/-- The granule of an interleave code; none for sliced. -/
def codeGranule (code : Nat) : Option Nat :=
  if code = 0 then some 256 else if 1 ≤ code ∧ code ≤ 7 then some (2 ^ (code + 5)) else none

/-- The parts of a range in each stack, with one interleave code. -/
def stackParts (base size code : Nat) : List Region :=
  if size = 0 then []
  else
    let n := (base + size - 1) / 2 ^ 36 - base / 2 ^ 36 + 1
    (List.range n).map (fun i =>
      let st := base / 2 ^ 36 + i
      let lo := max base (2 ^ 36 * st)
      { base := lo, size := min (base + size) (2 ^ 36 * (st + 1)) - lo, code := code })

/-- The regions in force: the plan's, its hoard and keep, and a lease's (R192). -/
def hbmRegions (s : State) : List Region :=
  (match s.run.plan with
    | some p => p.regions
    | none => []) ++
  ((hoardSpans s).map (fun h => stackParts h.1 (h.2 / 3 * 2) 7 ++ stackParts (h.1 + h.2 / 3 * 2) (h.2 - h.2 / 3 * 2) 7)).flatten

/-- The default mapping of a stack: base 0, 64 GiB, 256 bytes. -/
def defaultRegion (stack : Nat) : Region := { base := 2 ^ 36 * stack, size := 2 ^ 36, code := 3 }

/-- Where a byte of a region stands: its pseudo-channel and the address within it (R193). -/
def regionPlace (r : Region) (o : Nat) : Nat × Nat :=
  let b := r.base % 2 ^ 36
  let x := o - r.base
  match codeGranule r.code with
  | some g => (x / g % 64, b / 64 + x / g / 64 * g + x % g)
  | none => (x / (r.size / 64), b / 64 + x % (r.size / 64))

/-- The offset of a place of a region. -/
def regionOffset (r : Region) (pc loc : Nat) : Nat :=
  let l := loc - r.base % 2 ^ 36 / 64
  match codeGranule r.code with
  | some g => r.base + (l / g * 64 + pc) * g + l % g
  | none => r.base + pc * (r.size / 64) + l

/-- The offset under a new mapping of the byte that an offset named under an old one. -/
def remapOffset (old new : List Region) (o : Nat) : Nat :=
  let st := o / 2 ^ 36
  let r := (old.find? (fun r => decide (r.base ≤ o) && decide (o < r.base + r.size))).getD (defaultRegion st)
  let p := regionPlace r o
  let q := (new.find? (fun r => decide (r.base / 2 ^ 36 = st) && decide (r.base % 2 ^ 36 / 64 ≤ p.2) &&
    decide (p.2 < (r.base % 2 ^ 36 + r.size) / 64))).getD (defaultRegion st)
  regionOffset q p.1 p.2

/-- HBM keeps its contents as the mapping changes: every byte is found where the new mapping puts it (R194). -/
def remapHbm (old new : List Region) (s : State) : State :=
  if old = new then s
  else { s with mem := { s.mem with
    hbm := s.mem.hbm.foldl (fun m c => Memory.write m (remapOffset old new c.1) c.2) []
    hbmPoison := s.mem.hbmPoison.foldl (fun acc l => insertNat (remapOffset old new (l * 64) / 64) acc) [] } }

/-- Make a change that may change the mapping. -/
def withMapping (f : State → State) (s : State) : State :=
  let t := f s
  remapHbm (hbmRegions s) (hbmRegions t) t

/-! ### Counters cleared at plan load -/

/-- The counters of the engines (R110, R134, R164, R183, R214, R257, R279, R401). -/
def clearUnits (u : Units) : Units :=
  { u with
    bear := SMap.mapVals {} u.bear (fun _ b => { b with mmaCount := 0, rows := 0, keepRows := 0, drainCount := 0, drainFlags := 0, accCorr := 0 })
    badger := SMap.mapVals {} u.badger (fun _ b => { b with instrs := 0, groups := 0, keepSteps := 0, flags := 0, corrected := 0 })
    fox := SMap.mapVals {} u.fox (fun _ c => { c with instret := 0, eccCorr := 0, userDrops := 0, userLogged := 0 })
    hare := SMap.mapVals {} u.hare (fun _ h => { h with bytes := 0, posts := 0 })
    str := SMap.mapVals {} u.str (fun _ d => { d with appends := 0, tokens := 0, digital := 0, copies := 0, hits := 0, discards := 0, failed := 0 })
    pack := SMap.mapVals {} u.pack (fun _ k => { k with colls := 0, sent := 0, recv := 0, adds := 0, retries := 0, flags := 0, residue := 0 })
    ppe := SMap.mapVals {} u.ppe (fun _ p => { p with vectors := 0, sketches := 0, badkey := 0 }) }

/-- The error registers of the stores: HBM keeps its error counts and its first poisoned line (R214, R215). -/
def clearEcc (m : SMap EccRegs) : SMap EccRegs :=
  SMap.mapVals {} m (fun k r => if k < 16 then {} else { r with passes := 0 })

/-- Clear what a plan load clears. -/
def clearCounters (s : State) : State :=
  let r := s.remote
  let f := s.fab
  { s with
    units := clearUnits s.units
    mem := { s.mem with ecc := clearEcc s.mem.ecc, hbmc := SMap.mapVals {} s.mem.hbmc (fun _ h => { h with latReads := 0, bulkBytes := 0 }) }
    fab := { f with
      forwarded := 0, escaped := 0, detours := 0, deadDrops := 0, staleDrops := 0, orderHolds := 0, orderRetries := 0, badType := 0 }
    remote := { r with timeouts := 0, late := 0, errors := 0, peak := r.used }
    sett := { s.sett with counts := SMap.mapVals {} s.sett.counts (fun _ c => {
      snoopTimeout := c.snoopTimeout, ownerLost := c.ownerLost, stray := c.stray }) } }

/-! ### What GO sets up (R78) -/

/-- Every directory entry is I and every L1 is empty (R378). -/
def clearDirectory (s : State) : State := { s with sett := { s.sett with dir := [], l1 := [], waiting := [] } }

/-- The tallies a plan allocates, at their initial counts (R68); the firmware's start at zero. -/
def planTallies (m : DevSections) : SMap Tally :=
  m.tallies.foldl (fun acc r => (List.range r.count).foldl (fun acc i =>
    SMap.set {} acc (r.first + i) { count := r.initial, allocated := true }) acc) []

/-- The initial contents of a context: zero, or 32 PARAM words; flags bit 0 is its path (R70). -/
def initCtx (p : Plan) (m : DevSections) (r : StreamRec) (i : Nat) : Ctx :=
  let b := match r.initParam with
    | some w => ((m.params.drop (w + 32 * i)).take 32).map (fun (x : Word64) => leBytes 8 x.toNat)
    | none => []
  let x : Ctx := { alloc := true, mem := ctxInitial b.flatten }
  x.put 0x09 1 (x.fld 0x09 1 / 2 * 2 + b2n (r.digital || p.repro))

/-- The contexts a plan allocates. -/
def planCtxs (p : Plan) (m : DevSections) : SMap Ctx :=
  m.streams.foldl (fun acc r => (List.range r.count).foldl (fun acc i => SMap.set {} acc (r.first + i) (initCtx p m r i)) acc) []

/-- The roles of this device in the span, and its hoard partner (R411, R426). -/
def setRoles (s : State) : State :=
  let st := stewardOf s
  let part := match s.run.me, s.run.plan.bind (·.epoch) with
    | some d, some _ => some (partnerOf d)
    | _, _ => none
  { s with epoch := { s.epoch with
    steward := decide (s.run.me = some st)
    deputy := decide (s.run.me = some (deputyOf s)) && decide (deputyOf s ≠ st)
    coordinator := isCoordinator s
    partner := match part with
      | some q => (physOf s q).getD q
      | none => 0
    inSpan := match part with
      | some q => (physOf s q).isSome
      | none => false } }

/-- Put programs, tallies and contexts of the device's sections in place. -/
def placePlan (s : State) : State :=
  match s.run.plan with
  | some p => { s with
      tallies := planTallies (mySections s), eng := []
      units := { s.units with ctx := planCtxs p (mySections s) } }
  | none => s

/-- GO makes every mesh EMPTY, and a projection engine whose last full recalibration is more than 60 s old recalibrates (R265, R275). -/
def freshMeshes (s : State) : State :=
  forEach (List.range 8) (fun k s =>
    let s := modPpe k (fun p => { p with mesh := .empty, record := none, load := none, committed := none }) s
    if !domDown s (16 + k) && decide (60 < ppeAge s k) then startRecal 1 k s else s) s

/-- Lanes of this device that some colour set of the plan names and that are displaced are recorded with their number (R328). -/
def noteDisplaced (s : State) : State :=
  match s.run.plan with
  | some p =>
    let n := (p.colours.map (fun c => displacedCount s c.2)).foldl (· + ·) 0
    if n = 0 then s else logEvent 0x8034 srcDevice [(4, n)] s
  | none => s

/-- Put a roster in force as a committed set (R38, R78, R419). -/
def commitRoster (ro : SMap RosterEntry) (s : State) : State :=
  let f := s.fab
  { s with fab := { f with
    ctl := { f.ctl with roster := ro }
    commit := { f.commit with generation := (f.commit.generation + 1) % 65536 } } }

/-- The position of a roster entry of a plan's SPAN section. -/
def spanPos (p : Plan) (d : Nat) : Option Nat := (p.span.find? (fun e => e.logical == some d)).map (·.physical)

/-- This device's entry of a plan's SPAN section. -/
def spanEntry (p : Plan) (pos : Nat) : Option SpanEntry := p.span.find? (fun e => e.physical == pos)

/-- The roster GO writes: the steward records spares that have not joined as unavailable (R77; log entry 37). -/
def goRoster (p : Plan) (s : State) : SMap RosterEntry :=
  let ro := spanRoster p.span
  if spanPos p p.steward ≠ some s.fab.position then ro
  else SMap.mapVals {} ro (fun pos e =>
    if e.role = 2 ∧ !(match SMap.get none s.load.joined pos with
      | some j => j.matching && decide (j.code = 0)
      | none => false) then { e with role := 3 } else e)

/-- The plan comes onto the device (R78): its logical number, and what was there before is gone. -/
def takePlan (p : Plan) (s : State) : State :=
  let me := (spanEntry p s.fab.position).bind (·.logical)
  { s with run := { st := .hold, plan := some p, me := me, lastId := s.run.lastId } }

/-- GO is complete (R78, R80): the status record, the event and the completion of the load. -/
def goDone (p : Plan) (s : State) : State :=
  let s := postStatus (logEvent 0x1400 srcDevice [(8, p.planId.toNat)] { s with load := { s.load with goDue := false } })
  postCompletion s.load.queue s.load.cmdId 0 p.planId.toNat s

/-- GO (R78): roster, tallies, contexts, programs, hoard, HOLD. The load is complete once no projection engine recalibrates (R80, R275). -/
def goPlan (p : Plan) (s : State) : State :=
  let l := s.load
  let s := commitRoster (goRoster p s) s
  let s := withMapping (takePlan p) s
  let s := clearDirectory (clearCounters (placePlan s))
  let s := { s with
    hub := { s.hub with
      notifies := [], statusRing := l.ring.toNat, planVector := l.vector, statusSeq := 0
      saveArea := none, suspending := false, suspendAwait := [], suspendAsked := false }
    load := { s.load with stage := .idle, image := [] }
    epoch := { lease := decide (l.lease = .confirmed), stage := if p.epoch.isSome then .running else .none }
    power := { s.power with st := .hold } }
  let s := setRoles (freshMeshes s)
  let s := noteDisplaced s
  let s := refreshParent (changeTree (treeRoot s) s)
  if recalling s then { s with load := { s.load with goDue := true } } else goDone p s

/-! ### How a plan ends -/

/-- Appended positions not yet sketched are discarded (R255). -/
def dropAppends (s : State) : State :=
  { s with units := { s.units with ctx := SMap.mapVals {} s.units.ctx (fun _ x => { (x.put 0x00 3 x.sketched) with queue := [], closing := false, later := [] }) } }

/-- Complete a waiting command that is no longer wanted, with NO_PLAN. -/
def giveUp (w : Option Waiter) (s : State) : State :=
  match w with
  | some w => finishWaiter w 5 0 s
  | none => s

/-- The suspend and start commands that wait on the plan complete with NO_PLAN as it ends (R528, R534). -/
def releaseWaiters (s : State) : State :=
  let h := s.hub
  let s := { s with hub := { h with
    suspender := none, starter := none, suspending := false, suspendAwait := [], suspendAsked := false, saveArea := none } }
  giveUp h.starter (giveUp h.suspender s)

/-- The event of a completion: 1 DONE, 2 STOPPED, 3 UNRECOVERABLE (R531). -/
def endCode (c : Nat) : Nat := if c = 1 then 0x1500 else if c = 2 then 0x1501 else 0x1502

/-- The plan ends with a completion (R49, R424, R528): engines stop, staging slots and unsketched positions go, forced domains drain. Its
final record and the completion of its stop commands wait for its last access (R225). -/
def endPlan (c : Nat) (s : State) : State :=
  let s := dropAppends (freeAllStg (stopEngines s))
  let s := { s with
    run := { s.run with st := .ended, completion := c, between := false, startAt := none, begun := false, stopAtBoundary := false, lastId := planId s }
    epoch := { s.epoch with stage := .none, xfers := [], lostList := [], restartAt := none, swaps := [], confirming := [], awaiting := [], missed := [] } }
  let s := logEvent (endCode c) srcDevice [] s
  drainForced (releaseWaiters (settleEnd { s with hub := { s.hub with endDue := some c } }))

/-- The plan's state is gone: its tallies, contexts, programs and notifications (R528, R533). -/
def discardRun (s : State) : State :=
  { s with
    run := { lastId := planId s }
    load := {}
    tallies := s.tallies.filter (fun e => decide (65280 ≤ e.1))
    eng := []
    units := { s.units with ctx := [] }
    hub := { s.hub with notifies := [] }
    epoch := { s.epoch with stage := .none, steward := false, deputy := false, coordinator := false, keepValid := false }
    power := { s.power with st := .run } }

/-- The plan is discarded and its hoard and keep freed (R528): the tree returns to FAB.TREE_ROOT (R349). A final record that still waits
goes first (DESIGN CHOICE, log entry 44). -/
def discardPlan (s : State) : State :=
  let s := match s.hub.endDue with
    | some c => postEnd c s
    | none => s
  let s := match s.load.goDue, s.run.plan with
    | true, some p => goDone p s
    | _, _ => s
  let s := withMapping discardRun s
  let s := releaseWaiters (forEach s.hub.stoppers (fun w s => finishWaiter w 5 0 s) { s with hub := { s.hub with stoppers := [] } })
  refreshParent (drainForced (if s.fab.mode = 1 then changeTree s.fab.ctl.treeRoot s else applyTree s.fab.ctl.treeRoot s))

end Sys2Proof.Machine
end

