-- ==== Sys2Proof/Machine/Mgmt.lean ====
section
/-! DEFINITION. The management path (R541 to R544). -/

namespace Sys2Proof.Machine

open Sys2Proof

/-- The administrative state of a port is applied to its lanes (R318, R320): disabled, they close; enabled, those named start. A port that is
disabled starts training anew, with its cabling check, once it is enabled (R323). -/
def applyPortAdmin (n : Nat) (s : State) : State :=
  let ks := ((portLanes s n).filter (fun e => decide (e.2.state ≠ .unused))).map (·.1)
  if portDisabled s n then
    let s := modPort n (fun p => { p with cabled := false, cablingTried := false, cabling := false, train0 := none }) s
    forEach ks (fun k s => match (laneOf s k).state with
      | .up | .marked => unplannedClose k 7 true false s
      | .closing => s
      | _ => modLane k (fun l => { l with state := .admin, downReason := 7 }) s) s
  else
    let ks := ((portLanes s n).filter (fun e => e.2.named && decide (e.2.state = .admin))).map (·.1)
    forEach ks tuneLane s

/-- The record of an effecter's change (R543). -/
def mgmtAdmin (id v : Nat) (s : State) : State := logEvent 0x1301 srcDevice [(4, id), (8, v)] s

/-- MGMT_PORT_DISABLE (R543, R320). -/
def execMgmtPortDisable (n : Nat) (off : Bool) (s : State) : Out :=
  if 32 ≤ n then .next s
  else .next (applyPortAdmin n (modPort n (fun p => { p with mgmtDis := off }) (mgmtAdmin (1100 + n) (b2n off) s)))

/-- MGMT_WARM_RESET (R482, R543). -/
def execMgmtWarmReset (s : State) : Out := .next (if s.power.pwrOk then startWarm (mgmtAdmin 1200 1 s) else s)

/-- MGMT_WAKE (R460, R543). -/
def execMgmtWake (s : State) : Out := .next (if s.power.pwrOk then startWake 2 (mgmtAdmin 1201 1 s) else s)

/-- MGMT_DISAGREE (R544): the two paths have shown different states of a unit for more than 1 s; or none has stood for 10 s and sensor 600
clears. A sensor's disagreement counts in THM as well (R480): sensors are units 144 × 0 + n. -/
def execMgmtDisagree (unit mgmt data : Nat) (clear : Bool) (s : State) : Out :=
  if clear then .next { s with hub := { s.hub with sensor600 := false, mgmtDiffer := [] } }
  else if mgmt = data then .next s
  else
    let s := { s with hub := { s.hub with
      mgmtDisagree := satAdd 32 s.hub.mgmtDisagree 1, sensor600 := true, mgmtDiffer := insertNat unit s.hub.mgmtDiffer } }
    let s := if unit < 144 then
        logEvent 0x3009 srcDevice [] (modThm (fun t => { t with disagree := satAdd 16 t.disagree 1 }) s)
      else s
    .next (msixSend s.hub.vLink (logEvent 0x1300 srcDevice [(4, unit), (2, mgmt), (2, data)] s))

/-- The code of a domain's state (R467). -/
def DomSt.code : DomSt → Nat
  | .on => 0 | .draining => 1 | .off => 2 | .waking => 3 | .failed => 4

/-- Lanes of a port that are up (R318, R542). -/
def lanesUp (s : State) (n : Nat) : Nat := ((portLanes s n).filter (fun e => decide (e.2.state = .up ∨ e.2.state = .marked))).length

/-- The value of a PLDM sensor (R542), none for an ID that is not one. A port's is its lanes up, plus 256 where a ring is faulty; boot's is
its step, plus 16 for READY and 256 times the failure's code (log entry 33). -/
def pldmSensor (s : State) (n : Nat) : Option Int :=
  if 1 ≤ n ∧ n ≤ 144 then some (sensorOf s (n - 1)).reading
  else if 200 ≤ n ∧ n ≤ 206 then some (railOf s (n - 200)).confirmed
  else if 210 ≤ n ∧ n ≤ 216 then some (railOf s (n - 210)).current
  else if n = 220 then some s.power.avgW
  else if 300 ≤ n ∧ n ≤ 331 then
    let p := portOf s (n - 300)
    some (lanesUp s (n - 300) + (if p.txFaulty ≠ 0 ∨ p.rxFaulty ≠ 0 then 256 else 0) : Nat)
  else if 400 ≤ n ∧ n ≤ 423 then some (domOf s (n - 400)).st.code
  else if n = 500 then some (s.boot.step + b2n s.hub.ready * 16 + s.boot.failCode * 256 : Nat)
  else if n = 510 then some s.time.st.code
  else if n = 520 then some s.run.st.code
  else if n = 600 then some (b2n s.hub.sensor600)
  else none

/-- PLDM_GET_SENSOR (R541, R542): answered from step 1 of every boot path, in WATCH and after a boot failure. -/
def execPldmGetSensor (n : Nat) (s : State) : Out :=
  if s.power.pwrOk && !s.boot.clkLost && (s.hub.ready || decide (1 ≤ s.boot.step) || decide (s.power.st = .watch)) then
    .next { s with hub := { s.hub with pldm := pldmSensor s n } }
  else .next s

/-! ### Output pins (R551) -/

/-- READY. -/
def readyOut (s : State) : Bool := s.hub.ready

/-- THROTTLE_REQ: a thermal request, from READY on and not in WATCH. -/
def throttleOut (s : State) : Bool := s.hub.ready && s.thermal.request && decide (s.power.st ≠ .watch)

/-- THERMTRIP_N is asserted. -/
def tripOut (s : State) : Bool := s.thermal.tripPin

/-- TIME_PPS_OUT pulses: from step 1 of the cold path on, through warm resets and WATCH. -/
def ppsOut (s : State) : Bool :=
  s.power.pwrOk && (s.hub.ready || decide (1 ≤ s.boot.step) || decide (s.boot.path = .warm) || decide (s.power.st = .watch))

/-- The level of TDO where it is driven and fixed: it shifts out the data of the instruction in force (R506). -/
def tdoOut (s : State) : Option Nat := if s.power.pwrOk then tapData s else none

end Sys2Proof.Machine
end

