-- ==== Sys2Proof/Machine/Commit.lean ====
section
/-! DEFINITION. Staged registers: COMMIT.go and the latched sets at their safe points (R37 to R39, R317, R318, R325, R353, R467). -/

namespace Sys2Proof.Machine

open Sys2Proof

/-! ### The COMMIT registers (R37) -/

/-- The COMMIT register of a block. -/
def blockCommit (s : State) : CommitBlock → Commit
  | .fab => s.fab.commit
  | .otil k => (tileOf s k).commit
  | .pwr => s.power.commit
  | .thm => s.thermal.commit
  | .time => s.time.commit

/-- Change the COMMIT register of a block. -/
def modCommit (b : CommitBlock) (f : Commit → Commit) (s : State) : State :=
  match b with
  | .fab => { s with fab := { s.fab with commit := f s.fab.commit } }
  | .otil k => modTile k (fun t => { t with commit := f t.commit }) s
  | .pwr => { s with power := { s.power with commit := f s.power.commit } }
  | .thm => modThm (fun t => { t with commit := f t.commit }) s
  | .time => modTime (fun t => { t with commit := f t.commit }) s

/-- The event range of a block (R39). -/
def commitDigit : CommitBlock → Nat
  | .pwr => 2 | .thm => 3 | .time => 4 | .otil _ => 7 | .fab => 8

/-- Whether a block stands behind an open power switch: a tile's registers do with its domain. -/
def blockDown (s : State) : CommitBlock → Bool
  | .otil k => decide (8 ≤ k) || domDown s (16 + k)
  | _ => false

/-- A write of 1 to COMMIT.go (R37, R39). -/
def commitGo (b : CommitBlock) (s : State) : State :=
  if blockDown s b then s
  else if (blockCommit s b).pending then
    logEvent (commitDigit b * 0x1000 + 0x0F11) srcDevice [] (modCommit b (fun c => { c with overrun := true }) s)
  else modCommit b (fun c => { c with latched := c.staged, staged := [], pending := true }) s

/-- COMMIT_GO (R37). -/
def execCommitGo (b : CommitBlock) (s : State) : Out := onHost s (fun s => commitGo b (hostPosted s))

/-- The end of a latched set that fails: nothing is applied (R39). -/
def rejectSet (b : CommitBlock) (x : FieldAt) (s : State) : State :=
  commitReject (commitDigit b * 0x1000 + 0x0F10) x (modCommit b (fun c => c.done false) s)

/-! ### FAB (R325, R353) -/

/-- The staged fields of FAB after a write (R324, R353). -/
def FabCtl.write (c : FabCtl) (w : RegWrite) : FabCtl :=
  if w.off = 0x02000010 then { c with treeRoot := w.put c.treeRoot 0 15 }
  else if 0x02010000 ≤ w.off ∧ w.off < 0x02050000 then
    let p := (w.off - 0x02010000) / 8
    let e := SMap.get {} c.roster p
    { c with roster := SMap.set {} c.roster p { logical := w.put e.logical 0 15, role := w.put e.role 16 2 } }
  else c

/-- The first roster entry that breaks R325, ascending; `seen` holds the logical numbers of the entries before it. -/
def rosterBad : SMap RosterEntry → List Nat → Option Nat
  | [], _ => none
  | (p, e) :: l, seen =>
    if e.role ≠ 1 then rosterBad l seen
    else if seen.contains e.logical || decide (e.logical / 32 ≠ p / 32) then some p
    else rosterBad l (e.logical :: seen)

/-- Whether a latched set of FAB writes TREE_ROOT: with a plan loaded it waits until the plan is unloaded (R353). -/
def waitsUnload (s : State) : Bool := planLoaded s && s.fab.commit.latched.any (fun w => w.off == 0x02000010)

/-- Apply FAB's latched set: with no plan loaded the tree takes its new root (R349, R353). -/
def commitFab (s : State) : State :=
  let f := s.fab
  if !f.commit.pending || waitsUnload s then s
  else
    let n := f.commit.latched.foldl FabCtl.write f.ctl
    match rosterBad n.roster [] with
    | some p => rejectSet .fab (0x02010000 + 8 * p, 0) s
    | none =>
      let s := { s with fab := { f with ctl := n, commit := f.commit.done true } }
      refreshParent (if planLoaded s || decide (n.treeRoot = f.ctl.treeRoot) then s else changeTree n.treeRoot s)

/-! ### OTIL (R317, R318) -/

/-- The DCS base of a tile's block (R520). -/
def otilBase (k : Nat) : Nat := 0x01800000 + 0x80000 * k

/-- The staged fields of a tile after a write (R317). -/
def TileCtl.write (k : Nat) (c : TileCtl) (w : RegWrite) : TileCtl :=
  if w.off = otilBase k + 0x10 then
    { c with select := w.put (b2n c.select) 0 1 == 1, aDis := w.put (b2n c.aDis) 1 1 == 1, bDis := w.put (b2n c.bDis) 2 1 == 1 }
  else if w.off = otilBase k + 0x18 then
    { c with ucwMark := w.put c.ucwMark 0 16, serMark := w.put c.serMark 16 24, serWarn := w.put c.serWarn 40 24 }
  else c

/-- The administrative fields of a port after a write to its window at `off` (R318). -/
def PortAdmin.write (off : Nat) (a : PortAdmin) (w : RegWrite) : PortAdmin :=
  if w.off = off then
    { txDis := w.put a.txDis 0 9, rxDis := w.put a.rxDis 9 9, portDis := w.put (b2n a.portDis) 18 1 == 1 }
  else a

/-- The first field of a tile's set that fails (R317): the active feed disabled while the other is unhealthy, both feeds disabled, or a
threshold of zero. -/
def tileBad (s : State) (k : Nat) (c : TileCtl) : Option FieldAt :=
  let t := tileOf s k
  let feed := otilBase k + 0x10
  let lane := otilBase k + 0x18
  if c.aDis && decide (t.active = 0) && !t.b.ok then some (feed, 1)
  else if c.bDis && (c.aDis || (decide (t.active = 1) && !t.a.ok)) then some (feed, 2)
  else if c.ucwMark = 0 then some (lane, 0)
  else if c.serMark = 0 then some (lane, 16)
  else if c.serWarn = 0 then some (lane, 40)
  else none

/-- A committed feed choice takes effect: a changed select switches to the feed it names if that is healthy, a disabled feed gives way to the
other, and where no feed was active a usable one becomes so, the selected one first (R283, R317). -/
def takeFeeds (k : Nat) (old : TileCtl) (s : State) : State :=
  let t := tileOf s k
  let c := t.ctl
  if t.active = 2 then
    if feedUsable s k c.select then startFeed k c.select s else if feedUsable s k (!c.select) then startFeed k (!c.select) s else s
  else
    let want := if c.select ≠ old.select ∧ feedUsable s k c.select = true then c.select
      else if feedUsable s k (t.active == 1) || !feedUsable s k (t.active == 0) then t.active == 1 else t.active == 0
    if b2n want = t.active then s else switchFeed k want s

/-- Lanes on rings that are disabled, with no other ring to move to, leave service (R298, R318, R320). -/
def leaveRings (n : Nat) (s : State) : State :=
  forEach (((portLanes s n).filter (fun e => ringsDisabled s e.1)).map (·.1)) (fun k s =>
    match (laneOf s k).state with
    | .up | .marked => unplannedClose k 7 true false s
    | .tuning | .acquiring | .down => tuneLane k s
    | _ => s) s

/-- A tile's ports with the administrative fields of a set, nothing else changed. -/
def withAdmin (k : Nat) (ws : List RegWrite) (s : State) : State :=
  forEach (List.zip (List.range 4) (tilePorts k)) (fun x s =>
    modPort x.2 (fun p => { p with admin := ws.foldl (PortAdmin.write (otilBase k + 0x10008 + 0x1000 * x.1)) p.admin }) s) s

/-- The rings a set takes from lanes in use: the lane and the bus (R38, R318). `t` holds the set's fields. -/
def ringMoves (t : State) (k : Nat) : List (Nat × Bool) :=
  (t.fab.lanes.filter (fun e =>
    tileOfPort (lanePort e.1) == k && !portDisabled t (lanePort e.1) &&
    decide (e.2.state = .up ∨ e.2.state = .marked ∨ e.2.state = .acquiring ∨ e.2.state = .tuning))).flatMap (fun e =>
    let a := (portOf t (lanePort e.1)).admin
    (if e.2.txRing < 9 ∧ bit a.txDis e.2.txRing = true then [(e.1, false)] else []) ++
    (if e.2.rxRing < 9 ∧ bit a.rxDis e.2.rxRing = true then [(e.1, true)] else []))

/-- The line a lane uses on a bus. -/
def busLine (k : Nat) (rx : Bool) : Nat := if rx then rxLine k else laneLine k

/-- Whether a ring may be given to a lane: usable and on no lane. -/
def ringFree (t : State) (port : Nat) (rx : Bool) (r : Nat) : Bool :=
  ringUsable t port rx r && !(portLanes t port).any (fun e => laneRing e.2 rx == r)

/-- The free ring retuned, or being retuned, to a lane's line. -/
def moveTarget (t : State) (m : Nat × Bool) : Option Nat :=
  (List.range 9).find? (fun r =>
    ringFree t (lanePort m.1) m.2 r && decide ((ringOf t (lanePort m.1) m.2 r).line = busLine m.1 m.2) &&
    decide ((ringOf t (lanePort m.1) m.2 r).state ≠ .parked ∧ (ringOf t (lanePort m.1) m.2 r).state ≠ .faulty))

/-- A free ring that a set's retune may take: a parked one, the spare last. -/
def moveRing (t : State) (m : Nat × Bool) : Option Nat :=
  let port := lanePort m.1
  let free := fun (r : Nat) => ringFree t port m.2 r && decide ((ringOf t port m.2 r).state = .parked)
  match (List.range 9).find? (fun r => free r && decide (r ≠ spareRing t port m.2)) with
  | some r => some r
  | none => (List.range 9).find? free

/-- A lane takes a retuned ring in place of one a set disables. -/
def takeRing (t : State) (m : Nat × Bool) (s : State) : State :=
  let port := lanePort m.1
  match moveTarget t m with
  | none => s
  | some r =>
    let old := laneRing (laneOf s m.1) m.2
    let s := modLane m.1 (fun l => if m.2 then { l with rxRing := r } else { l with txRing := r }) (parkRing port m.2 old s)
    if spareRing s port m.2 = r then modPort port (fun p => if m.2 then { p with rxSpare := 15 } else { p with txSpare := 15 }) s else s

/-- A port's administrative fields take effect. -/
def takeAdmin (k q : Nat) (ws : List RegWrite) (s : State) : State :=
  match (tilePorts k)[q]? with
  | some n =>
    let old := (portOf s n).admin
    let new := ws.foldl (PortAdmin.write (otilBase k + 0x10008 + 0x1000 * q)) old
    if new = old then s else applyPortAdmin n (leaveRings n (modPort n (fun p => { p with admin := new }) s))
  | none => s

/-- A tile's latched set at its safe point (R38): its lanes stand between frames. A ring it takes from a lane in use is replaced first: another
ring is retuned to the line, and the set waits until it is verified. Only a lane with no ring to move to is disabled. -/
def commitTile (k : Nat) (s : State) : State :=
  let t := tileOf s k
  if !t.commit.pending then s
  else
    let n := t.commit.latched.foldl (TileCtl.write k) t.ctl
    match tileBad s k n with
    | some x => rejectSet (.otil k) x s
    | none =>
      let ws := t.commit.latched
      let moves := ringMoves (withAdmin k ws s) k
      let retune := moves.filter (fun m => (moveTarget (withAdmin k ws s) m).isNone && (moveRing (withAdmin k ws s) m).isSome)
      if !retune.isEmpty then
        forEach retune (fun m s => match moveRing (withAdmin k ws s) m with
          | some r => tuneRing (lanePort m.1) m.2 r (busLine m.1 m.2) s
          | none => s) s
      else if moves.any (fun m => (moveTarget (withAdmin k ws s) m).any (fun r =>
          decide ((ringOf s (lanePort m.1) m.2 r).state ≠ .verified))) then s
      else
        let s := forEach moves (fun m s => takeRing (withAdmin k ws s) m s) s
        let s := modTile k (fun x => { x with ctl := n, commit := x.commit.done true }) s
        forEach (List.range 4) (fun q s => takeAdmin k q ws s) (takeFeeds k t.ctl s)

/-! ### PWR (R467) -/

/-- The staged fields of PWR after a write (R467). -/
def PwrCtl.write (c : PwrCtl) (w : RegWrite) : PwrCtl :=
  if w.off = 0x00100008 then
    { c with floorMv := w.put c.floorMv 0 16, ceilMv := w.put c.ceilMv 16 16, capW := w.put c.capW 32 16 }
  else if w.off = 0x00100018 then { c with periodMs := w.put c.periodMs 0 14 }
  else if 0x00100020 ≤ w.off ∧ w.off < 0x00100060 then
    let i := (w.off - 0x00100020) / 8
    let r := SMap.get (0, 0) c.keeps i
    { c with keeps := SMap.set (0, 0) c.keeps i (w.put r.1 0 12, w.put r.2 12 10) }
  else c

/-- Whether a policy voltage is out of range. -/
def mvBad (v : Nat) : Bool := decide (v ≠ 0) && (decide (v < 550) || decide (900 < v))

/-- The first field of the keep ranges that fails, ascending: the count of a range that reaches beyond bank 4,095, the first bank of one
that overlaps an earlier one, or the count that takes the total beyond 512 banks. -/
def keepsBad (all : SMap (Nat × Nat)) : SMap (Nat × Nat) → Nat → Option FieldAt
  | [], _ => none
  | (i, r) :: m, total =>
    if all.any (fun f => decide (f.1 < i) && overlaps f.2 r) then some (0x00100020 + 8 * i, 0)
    else if 4096 < r.1 + r.2 ∨ 512 < total + r.2 then some (0x00100020 + 8 * i, 12)
    else keepsBad all m (total + r.2)

/-- The first field of PWR's set that fails (R467). A floor above the ceiling fails at the floor. -/
def PwrCtl.bad (c : PwrCtl) : Option FieldAt :=
  if mvBad c.floorMv || (decide (c.floorMv ≠ 0 ∧ c.ceilMv ≠ 0) && decide (c.ceilMv < c.floorMv)) then some (0x00100008, 0)
  else if mvBad c.ceilMv then some (0x00100008, 16)
  else if c.capW ≠ 0 ∧ c.capW < 700 then some (0x00100008, 32)
  else if c.periodMs < 10 ∨ 10000 < c.periodMs then some (0x00100018, 0)
  else keepsBad c.keeps c.keeps 0

/-- VCORE rails whose confirmed voltage lies outside the range a set gives: the changes it requires. In HOLD and WATCH rails do not move,
and a faulted rail cannot. -/
def railsOutside (s : State) (c : PwrCtl) : List (Nat × Nat) :=
  if s.power.st ≠ .run then []
  else
    let t := { s with power := { s.power with ctl := c } }
    (List.range 4).filterMap (fun j =>
      let x := railOf s j
      let r := railRange t j
      if x.faulted ∨ (railDies s j).isEmpty = true ∨ (r.1 ≤ x.confirmed ∧ x.confirmed ≤ r.2.1) then none
      else some (j, min r.2.1 (max r.1 x.confirmed)))

/-- PWR's latched set: rejected, or its voltage changes are requested, or applied once they are confirmed (R38, R467). -/
def commitPower (s : State) : State :=
  let p := s.power
  if !p.commit.pending then s
  else
    let n := p.commit.latched.foldl PwrCtl.write p.ctl
    match n.bad with
    | some x => rejectSet .pwr x s
    | none =>
      match railsOutside s n with
      | [] => { s with power := { p with ctl := n, commit := p.commit.done true } }
      | l => forEach l (fun x s => if (railOf s x.1).change.isSome then s else requestMv x.1 x.2 s) s

/-- COMMIT_APPLY (R38): the block's safe point. FAB's is a phase boundary, or now with no plan in RUN. -/
def execCommitApply (b : CommitBlock) (s : State) : Out :=
  if (blockCommit s b).pending = false ∨ blockDown s b = true then .next s
  else match b with
  | .fab => .next (if s.run.st = .run ∧ s.run.between = false then s else commitFab s)
  | .otil k => .next (commitTile k s)
  | .pwr => .next (commitPower s)
  | .thm => .next (commitThermal s)
  | .time => .next (commitTime s)

end Sys2Proof.Machine
end

