-- ==== Sys2Proof/Machine/Span.lean ====
section
/-! DEFINITION. Gatherers, the keep, restores and rollbacks: what the commands of epochs and recovery are built of (R408 to R425). -/

namespace Sys2Proof.Machine

open Sys2Proof

/-! ### Gatherers (R411) -/

/-- The position gathers run relative to: the coordinator's. -/
def coordPos (s : State) : Nat := (physOf s (coordinatorOf s)).getD s.fab.position

/-- The rack gatherer of a rack. -/
def rackGatherer (s : State) (row rack : Nat) : Option Nat :=
  let p := mkPos row rack (posSlot (coordPos s))
  if posUsable s p then some p else ((List.range 32).map (mkPos row rack)).find? (posUsable s)

/-- The row gatherer of a row. -/
def rowGatherer (s : State) (row : Nat) : Option Nat :=
  match rackGatherer s row (posRack (coordPos s)) with
  | some g => some g
  | none => (List.range 32).findSome? (rackGatherer s row)

/-- Active logical devices whose positions satisfy a condition. -/
def activeAt (s : State) (f : Nat → Bool) : List Nat :=
  ((roster s).filter (fun e => decide (e.2.role = 1) && f e.1)).map (·.2.logical)

/-- The devices this device gathers for, and where it forwards to: none for the coordinator, which acts itself. -/
def gatherFor (s : State) : List Nat × Option Nat :=
  let me := s.fab.position
  if me = coordPos s then (activeAt s (fun _ => true), none)
  else if rowGatherer s (posRow me) = some me then (activeAt s (fun p => posRow p == posRow me), some (coordPos s))
  else (activeAt s (fun p => posRow p == posRow me && posRack p == posRack me), rowGatherer s (posRow me))

/-- Whether a list holds every device of another. -/
def allIn (need have' : List Nat) : Bool := need.all have'.contains

/-- Send a report to this device's rack gatherer. -/
def report (m : Msg) (s : State) : State :=
  match rackGatherer s (posRow s.fab.position) (posRack s.fab.position) with
  | some g => sendMsgPos m g s
  | none => s

/-- What a gatherer does with a report: `done` where everything is gathered at the coordinator, else one combined message up once its
own devices have all reported. -/
def gather (old new : List Nat) (up : Msg) (done : State → State) (s : State) : State :=
  let g := gatherFor s
  if allIn g.1 new && !allIn g.1 old then
    match g.2 with
    | none => done s
    | some pos => sendMsgPos up pos s
  else s

/-- Whether this device is a member that holds a logical identity in a plan with epochs. -/
def epochMember (s : State) : Bool := s.run.me.isSome && (s.run.plan.bind (·.epoch)).isSome

/-- Whether a message comes from a device of this device's span, by position. -/
def ours (p : Packet) (s : State) : Bool := s.run.plan.isSome && decide ((SMap.get {} (roster s) p.source).role ≠ 0)

/-! ### The keep (R409, R412) -/

/-- Write a state record and the live shards into the keep. -/
def writeKeep (s : State) : State :=
  let b := keepBase s
  let rc := stateRecord s s.epoch.commit s.epoch.next s.epoch.began
  let t := putRange rc [] 0 .hbm b recordSize s
  let t := forEach (shardPlaces recordSize (mySections s).shards) (fun x t =>
    match spaceStore x.2.space with
    | some st => putRange (storeOf s st) (poisonOf s st) x.2.off .hbm (b + x.1) x.2.size t
    | none => t) t
  { t with epoch := { t.epoch with keepValid := true } }

/-- A commit is this device's last one: its number, what it holds for a spare without shards, and its event (R412, R423). -/
def setCommit (c : Nat) (t : HallTime) (s : State) : State :=
  let s := { s with
    epoch := { s.epoch with
      has := true, commit := c, passes := s.run.passes, next := s.run.phase, began := hallNs t, keepValid := false }
    units := { s.units with ppe := SMap.mapVals {} s.units.ppe (fun _ p => { p with committed := p.record }) } }
  logEvery 0xA001 0 60000000000 srcDevice [(8, c)] s

/-! ### Restores (R408, R420, R421) -/

/-- A number in a copy. -/
def copyField (m : Memory) (b off n : Nat) : Nat := leVal (m.bytes (b + off) n)

/-- Whether a copy's header is intact and is this device's copy of a commit (R421). -/
def headerOk (m : Memory) (b c : Nat) (s : State) : Bool :=
  decide (copyField m b 0x2C 4 = crc32 (m.bytes b 0x2C)) && decide (copyField m b 0x00 8 = planId s) &&
  decide (copyField m b 0x08 8 = c) && decide (some (copyField m b 0x10 2) = s.run.me) && decide (copyField m b 0x18 8 = copySize s)

/-- The matrix record of a tile in a state record. -/
def recordMatrix (m : Memory) (b k : Nat) : Option MatRec :=
  let o := b + 0x10000 + 0x8000 * k
  let mode := copyField m o 16392 1
  if mode = 0xFF then none
  else some {
    w := (List.range 64).map (fun i => (List.range 64).map (fun j => copyField m o (4 * (64 * i + j)) 4))
    fold := BitVec.ofNat 64 (copyField m o 16384 8), mode := mode }

/-- A tally of a state record. -/
def recordTally (m : Memory) (b i : Nat) : Tally :=
  let o := b + 0x100000 + 16 * i
  { count := copyField m o 0 8, error := bit (copyField m o 8 1) 0, allocated := true
    errCode := copyField m o 10 2, errEngine := copyField m o 12 2 }

/-- Indices a list of blocks allocates. -/
def blockIndices (l : List (Nat × Nat)) : List Nat := (l.map (fun r => (List.range r.2).map (· + r.1))).flatten

/-- Take a state record: tallies, contexts, pass counters, the next phase and the matrix records (R408, R420). A context's appends that
were not sketched are gone (R255). -/
def applyRecord (m : Memory) (b : Nat) (s : State) : State :=
  let ts := blockIndices ((mySections s).tallies.map (fun r => (r.first, r.count)))
  let cs := blockIndices ((mySections s).streams.map (fun r => (r.first, r.count)))
  let n := match s.run.plan with
    | some p => p.phases.length
    | none => 0
  let s := { s with
    tallies := ts.foldl (fun acc i => SMap.set {} acc i (recordTally m b i)) (s.tallies.filter (fun e => decide (65280 ≤ e.1)))
    run := { s.run with
      phase := copyField m b 0x14 4
      passes := (List.range n).foldl (fun acc p => SMap.set 0 acc p (copyField m b (0x600000 + 4 * p) 4)) [] } }
  let s := { s with units := { s.units with
    ctx := cs.foldl (fun acc c => SMap.set {} acc c
      { alloc := true, mem := Memory.writeBytes [] 0 (m.bytes (b + 0x200000 + 256 * c) 256) }) []
    ppe := (List.range 8).foldl (fun acc k => SMap.modify {} acc k (fun p =>
      let r := recordMatrix m b k
      if domDown s (16 + k) then { p with record := none, committed := r, load := none, mesh := .empty }
      else { p with record := r, committed := r, load := none, mesh := if p.mesh = .recal then .recal else meshOf r })) s.units.ppe } }
  dropAppends s

/-- Take the shards of a copy. -/
def applyShards (m : Memory) (bad : List Nat) (b : Nat) (s : State) : State :=
  forEach (shardPlaces recordSize (mySections s).shards) (fun x s =>
    match spaceStore x.2.space with
    | some st => putRange m bad (b + x.1) st x.2.off x.2.size s
    | none => s) s

/-! ### Deciding on a rollback (R419, R424) -/

/-- Positions of spares that can be taken, in a rack, lowest slot first. -/
def freeSpare (s : State) (taken : List Nat) (pos : Nat) : Option Nat :=
  ((List.range 32).map (mkPos (posRow pos) (posRack pos))).find? (fun q => decide ((SMap.get {} (roster s) q).role = 2) && !taken.contains q)

/-- Choose a spare for every lost device that has none. -/
def chooseSpares (s : State) : List Lost → List Nat → List Lost
  | [], _ => []
  | l :: rest, taken =>
    match l.spare with
    | some _ => l :: chooseSpares s rest taken
    | none => match freeSpare s taken l.physical with
      | some q => { l with spare := some q } :: chooseSpares s rest (q :: taken)
      | none => l :: chooseSpares s rest taken

/-- Merge newly lost devices into a list: a device lost again replaces its entry. -/
def mergeLost (old new : List Lost) : List Lost := old.filter (fun l => !new.any (fun n => n.logical == l.logical)) ++ new

/-- Lost devices with shards that no intact copy remains of: their partners are lost too (R424). -/
def noCopies (p : Plan) (lost : List Lost) : List Nat :=
  (lost.filter (fun l => !(p.sections l.logical).shards.isEmpty && lost.any (fun m => m.logical == partnerOf l.logical))).map (·.logical)

/-- The span cannot be restored: the coordinator records it and stops the plan (R424). -/
def unrecoverable (devs : List Nat) (s : State) : State :=
  broadcastMsg (.stop 3) (logEvent 0xA00A srcDevice (devs.map (fun d => (2, d))) s)

/-- The coordinator decides on a rollback with newly lost devices (R419, R425): ROLLBACK with a higher serial and the merged list, to the
span and to the lease holders of lost devices. -/
def startRollback (new : List Lost) (s : State) : State :=
  match s.run.plan with
  | none => s
  | some p =>
    let lost := chooseSpares s (mergeLost s.epoch.lostSent new) (s.epoch.lostSent.filterMap (·.spare))
    if p.epoch.isNone then unrecoverable (new.map (·.logical)) s
    else if !(noCopies p lost).isEmpty then unrecoverable (noCopies p lost) s
    else
      let e := s.epoch
      let first := decide (s.run.me ≠ some p.steward) && lost.any (fun l => l.logical == p.steward) &&
        !e.lostSent.any (fun l => l.logical == p.steward)
      let s := if first then logEvent 0xA00C srcDevice [] s else s
      let n := max e.serial e.serialSent + 1
      let s := { s with epoch := { s.epoch with serialSent := n, lostSent := lost } }
      let m : Msg := .rollback e.commit n lost e.next e.passes
      let out := (lost.map (fun l => partnerOf l.logical)).filter (fun q => (spanPos p q).isNone)
      forEach out (fun q s => sendMsgPos m q s) (broadcastMsg m s)

/-- A logical device is declared lost (R416, R423): cause 0 probe, 1 dead target, 2 self. -/
def declareLost (d cause : Nat) (s : State) : State :=
  match physOf s d with
  | none => s
  | some pos =>
    let s := logEvent 0xA003 srcDevice [(4, cause)] { s with epoch := { s.epoch with causes := SMap.set 0 s.epoch.causes d cause } }
    startRollback [{ logical := d, physical := pos, spare := none }] s

end Sys2Proof.Machine
end

