-- ==== Sys2Proof/Machine/Phase.lean ====
section
/-! DEFINITION. A plan's phases: START, the entry into phase 0, and the start and the end of every phase (R27, R28, R49, R79). -/

namespace Sys2Proof.Machine

open Sys2Proof

/-! ### START and phase 0 (R79) -/

/-- START (R79): a device in HOLD notes the hall time of phase 0. -/
def execStart (p : Packet) (s : State) : Out :=
  let s := relayMsg p (takeIngress p s)
  match msgOf p with
  | some (.start t) => .next (if s.run.st = .hold ∧ ours p s = true then { s with run := { s.run with startAt := some t } } else s)
  | _ => .next s

/-- Bears of the device. -/
def allBears : List Nat := (List.range 128).map (fun i => engId 0 (i / 16) (i % 16))
/-- Badgers of the device. -/
def allBadgers : List Nat := (List.range 32).map (fun i => engId 1 (i / 4) (i % 4))

/-- Current keeping at a plan's start (R106, R162): density 0, and the registers behind the dummies seeded from engine ID and plan_id. -/
def seedKeeping (s : State) : State :=
  let seed := fun (e : Nat) => (Config.lfsrSeed e (BitVec.ofNat 64 (planId s))).toNat
  let s := forEach allBears (fun e s => modBear e (fun b => { b with keep := {}, lfsr := seed e, shifts := 0, filled := false }) s) s
  forEach allBadgers (fun e s => modBadger e (fun b => { b with keep := {}, lfsr := seed e, shifts := 0 }) s) s

/-- Order counters and collective sequences start at zero (R341, R395). -/
def zeroOrders (s : State) : State :=
  { s with
    fab := { s.fab with sent := [], applied := [], flaggedHeld := [], flaggedSent := [], orderResend := [], skipMarked := [] }
    units := { s.units with pack := SMap.mapVals {} s.units.pack (fun _ k => { k with next := 0 }) } }

/-- Contexts whose initial state is 1 are opened, in ascending order (R238). -/
def openContexts (s : State) : State :=
  forEach ((s.units.ctx.filter (fun e => e.2.alloc && decide (e.2.state = 1))).map (·.1))
    (fun c s => ctxOpen c (modCtx c (fun x => x.put 0x08 1 0) s)) s

/-- What a first start finds at zero: banks, current keeping, retired instructions; and the contexts it opens (R106, R115, R170, R238). A
resumed plan goes on with what its save area held (R534). -/
def freshStart (s : State) : State :=
  if s.run.resumed then s
  else
    let s := seedKeeping (clearBanks s)
    openContexts { s with units := { s.units with fox := SMap.mapVals {} s.units.fox (fun _ c => { c with instret := 0 }) } }

/-- The colour set of a phase comes into force (R27, R349). -/
def applyPhase (i : Nat) (s : State) : State := applyColour (phaseOf s i).colourSet (treeRoot s) s

/-- A device begins the phase that START enters (R79). A spare only takes the colour set and the power class. -/
def beginPlan (s : State) : State :=
  let s := { s with run := { s.run with startAt := none, begun := true, clsPhase := s.run.phase } }
  if s.run.me.isNone then applyPhase s.run.phase s
  else
    let s := zeroOrders { s with
      run := { s.run with st := .run, between := true, halted := false }
      power := { s.power with st := .run } }
    let s := applyPhase s.run.phase (freshStart s)
    postStatus (logEvent 0x1503 srcDevice [] s)

/-- PLAN_START_TIME (R79): the hall time named by START; with epochs, once commit 0 is in the keep (R412, R415), and with no projection engine
in the recalibration of a load or a resumption (R275). -/
def execPlanStartTime (s : State) : Out :=
  match s.run.startAt with
  | some t =>
    if s.run.st = .hold ∧ (s.epoch.stage = .none ∨ s.epoch.stage = .running) ∧ recalling s = false then .next (beginPlan (reachTime t s)) else .next s
  | none => .next s

/-! ### The start of a phase (R27) -/

/-- The binding of an engine in a phase (R64). -/
def bindAt (s : State) (phase e : Nat) : Option Bind :=
  (mySections s).binds.find? (fun b => b.engine == e && decide (b.first ≤ phase) && decide (phase ≤ b.last))

/-- The bindings of a phase. -/
def bindsAt (s : State) (phase : Nat) : List Bind :=
  (mySections s).binds.filter (fun b => decide (b.first ≤ phase) && decide (phase ≤ b.last))

/-- The state a fox core starts from at every entry (R170); its log entries of a phase are counted anew (R178). -/
def Fox.entry (c : Fox) : Fox :=
  { c with
    x := [], f := [], fcsr := 0, v := [], vl := 0, vtype := BitVec.ofNat 64 (2 ^ 63), vstart := 0, vcsr := 0
    reservation := none, lastTally := none, yielding := false, hostWrote := none, readbacks := [], acquired := false, pos := 0, busy := false
    userLogged := 0 }

/-- A bear at the entry to a program: banks are cleared where its last program ended in compatibility mode (R115). -/
def Bear.entry (b : Bear) : Bear :=
  if b.compat then { b with acc := [], compat := false, cub16 := false, instances := 1, window := 0, aStride := 0, bStride := 0, cStride := 0 } else b

/-- Start the program of a binding (R64, R91, R170). -/
def startBind (b : Bind) (s : State) : State :=
  let e := b.engine
  let entry := match s.run.plan with
    | some p => ((p.progs.find? (fun g => g.key == b.prog)).map (·.entry)).getD 0
    | none => 0
  let s := setSeq e { st := .running, prog := b.prog, param := b.param, pc := if engClass e = 2 then entry else entry / 8 } s
  if engClass e = 2 then modFox e Fox.entry s
  else if engClass e = 0 then modBear e Bear.entry s
  else s

/-- Projection engines that recalibrate in a phase (R61, R275). -/
def windowTiles (s : State) (phase : Nat) : List Nat :=
  match s.run.plan with
  | some p => (List.range 8).filter (fun k => p.calwins.any (fun w => decide (w.1 = phase) && bit w.2 k))
  | none => []

/-- The phase that follows a phase, and its pass counter then (R49). -/
def nextPhase (s : State) (i : Nat) : Nat × Nat :=
  let ph := phaseOf s i
  let n := SMap.get 0 s.run.passes i
  if n < ph.altCount then (ph.alt, n + 1) else (ph.next, 0)

/-- The idle spare of each bus of a port tunes to the lowest line that the next phase's set needs there and no ring of the current set
uses (R291). -/
def preTunePort (set : List (Nat × Nat)) (port : Nat) (s : State) : State :=
  let me := s.fab.position
  let busy := (portLanes s port).filter (fun e => decide (e.2.state ≠ .unused))
  if (portOf s port).cabling || busy.any (fun e => e.2.repair.isSome || e.2.swapWanted) then s
  else
    let ks := (set.filter (fun e => e.1 == port)).map (fun e => laneKey port (lineTo (portTier port) me e.2))
    match (ks.filter (fun k => !busy.any (fun e => e.1 == k))).foldl (fun m k => some (min k (m.getD k))) (none : Option Nat) with
    | some k =>
      let one := fun (rx : Bool) (s : State) => if hasSpare s port rx then preTuneSpare k rx s else s
      one true (one false s)
    | none => s

/-- The spares tune ahead to the next phase's lines. -/
def preTune (s : State) : State :=
  let c := (phaseOf s (nextPhase s s.run.phase).1).colourSet
  if c = 0xFFFF then s
  else
    let epoch := (s.run.plan.map (·.epoch.isSome)).getD false
    let set := (completeSet (roster s) s.fab.position (colourRecs s c) epoch (outsidePartner s)).1
    forEach (List.range 32) (preTunePort set) s

/-- Start the programs of the phase in force: the class applies, calibration windows open, and every other engine is unbound (R27, R64,
R275, R453). -/
def startPhase (s : State) : State :=
  let s := { s with
    run := { s.run with between := false, clsPhase := s.run.phase, resumed := false }
    log := { s.log with phaseMarks := [] }
    eng := [] }
  let s := forEach (windowTiles s s.run.phase) (fun k s => if domDown s (16 + k) then s else startRecal 0 k s) s
  preTune (forEach (bindsAt s s.run.phase) startBind s)

/-- Whether no boundary, rollback or swap is in progress. -/
def epochIdle (s : State) : Bool := decide (s.epoch.stage = .none ∨ s.epoch.stage = .running)

/-- PHASE_START (R27): once every ring the phase's set changes is locked and verified. A halt phase ends the plan (R49). -/
def execPhaseStart (s : State) : Out :=
  if s.run.st = .run ∧ s.run.between = true ∧ s.run.halted = false ∧ epochIdle s = true ∧ s.hub.suspending = false ∧
      ringsLocked s = true then
    .next (if (phaseOf s s.run.phase).kind = 2 then endPlan 1 s else startPhase s)
  else .next s

/-! ### The end of a phase (R27, R49) -/

/-- An engine has reached its program's end: a fatal trap of a fox core counts as one (R179), once its accesses have been performed (R219). -/
def engineDone (s : State) (e : Nat) : Bool :=
  let q := seqOf s e
  decide (q.st = .ended) || (decide (engClass e = 2) && decide (q.st = .faulted) && q.opens.isEmpty && q.signals.isEmpty)

/-- Whether the phase in force has ended on this device (R27, R69, R275). -/
def phaseDone (s : State) : Bool :=
  let i := s.run.phase
  decide (s.run.st = .run) && !s.run.between && !s.run.halted && epochIdle s &&
  (bindsAt s i).all (fun b => engineDone s b.engine) &&
  ((mySections s).compls.filter (fun c => c.phase == i)).all (fun c => decide (c.target ≤ (tallyOf s c.tally).count)) &&
  (windowTiles s i).all (fun k => decide ((ppeOf s k).mesh ≠ .recal))

/-- The density a bear or badger takes into the next phase (R107): kept from binding to binding, ramped down after a last binding, zero
after a phase without one. -/
def carryDensity (i j e : Nat) (s : State) : State :=
  if (keepOf s e).density = 0 ∧ (keepOf s e).ramp = .none ∧ (keepOf s e).hold = false then s
  else modKeep e (fun k =>
    if (bindAt s i e).isNone then {}
    else if (bindAt s j e).isSome then { density := k.density }
    else { density := k.density, ramp := if k.density = 0 then .none else .down }) s

/-- A member has ended its epoch: it reports its arrival, and asks again for a lease it has lost (R412, R425). -/
def arriveBoundary (s : State) : State :=
  let c := nextCommit s
  let s := { s with
    units := { s.units with pack := SMap.mapVals {} s.units.pack (fun _ k => { k with next := 0 }) }
    epoch := { s.epoch with stage := .arrived, boundaryAt := nowNs s } }
  let s := report (.arrive c [(s.run.me.getD 0, s.time.hall)]) s
  match s.run.plan with
  | some p =>
    if s.epoch.lost && !s.epoch.inSpan && !(mySections s).shards.isEmpty then
      sendMsgPos (.leaseCheck p.planId ((p.epoch.map (·.hoardSize)).getD 0) s.fab.position) s.epoch.partner s
    else s
  | none => s

/-- A phase boundary that is no epoch boundary ends the span where the coordinator was asked to stop there (R410, R528). -/
def stopHere (s : State) : State :=
  if s.run.stopAtBoundary && (s.run.plan.bind (·.epoch)).isNone && isCoordinator s then broadcastMsg (.stop 2) s else s

/-- The phase ends (R27, R49): ownership and the phase index pass to the next, its colour set and a pending roster commit apply; an epoch
boundary begins, or a halt phase ends the plan. -/
def endPhase (s : State) : State :=
  let i := s.run.phase
  let flagged := (phaseOf s i).epoch
  let n := nextPhase s i
  let s := if flagged || s.hub.suspending then l1WriteBack s else s
  let s := forEach (allBears ++ allBadgers) (fun e s => carryDensity i n.1 e (countGap e s)) s
  let s := { s with run := { s.run with phase := n.1, passes := SMap.set 0 s.run.passes i n.2, between := true } }
  let halt := decide ((phaseOf s n.1).kind = 2)
  let s := if halt then s else applyPhase n.1 s
  let s := commitFab s
  if flagged then arriveBoundary s
  else if halt then endPlan 1 s
  else stopHere s

/-- PHASE_END (R27, R49): before an epoch boundary or a suspension the dirty lines of other devices go home first (R407, R412). -/
def execPhaseEnd (s : State) : Out :=
  if !phaseDone s then .next s
  else if ((phaseOf s s.run.phase).epoch || s.hub.suspending) && !(l1Away s).isEmpty then .next (l1SendHome s)
  else .next (endPhase s)

end Sys2Proof.Machine
end

