-- ==== Sys2Proof/Machine/Epoch.lean ====
section
/-! DEFINITION. The epoch boundary: arrivals, mirror, seal, commit, keep, and the straggler swap (R411 to R415, R422). -/

namespace Sys2Proof.Machine

open Sys2Proof

/-! ### Arrivals and stragglers (R412, R422) -/

/-- The duration of an epoch on a device, from the previous commit or RESTART, in ns, less the steps of hall time in between (R422, R440). -/
def epochNs (s : State) (t : HallTime) : Int := durationNs s s.epoch.began (hallNs t)

/-- The reported durations of the active devices of a row. -/
def rowTimes (s : State) (row : Nat) : List (Nat × Int) :=
  (s.epoch.arrivals.filter (fun a => match physOf s a.1 with
    | some p => posRow p == row
    | none => false)).map (fun a => (a.1, epochNs s a.2))

/-- The median of a list: the lower middle value for an even count. -/
def lowerMedian (l : List Int) : Int := (sortInts l).getD ((l.length - 1) / 2) 0

/-- The straggler rule of the plan. -/
def epochRec (s : State) : Option EpochRec := s.run.plan.bind (·.epoch)

/-- The lag counts of one row after its arrivals; `note` for the row's own gatherer, which records a lagging device and, of its own lag,
its registers (R422). -/
def lagRow (note : Bool) (row : Nat) (s : State) : State :=
  match epochRec s with
  | none => s
  | some r =>
    let ts := rowTimes s row
    let m := lowerMedian (ts.map (·.2))
    forEach ts (fun x s =>
      let late := decide ((r.lag : Int) * m < (x.2 - m) * 1000)
      let n := if late then SMap.get 0 s.epoch.lags x.1 + 1 else 0
      let s := { s with epoch := { s.epoch with lags := SMap.set 0 s.epoch.lags x.1 n } }
      let s := if note && late then logEvent 0xA008 srcDevice [] s else s
      if note && decide (s.run.me = some x.1) then
        { s with epoch := { s.epoch with lag := sext 16 (ofInt 16 (((x.2 - m) * 1000).tdiv m)), lagCount := min 255 n } }
      else s) s

/-- Stragglers to be swapped, each with the spare of its rack (R422). -/
def chooseSwaps (s : State) (n : Nat) : List (Nat × Nat) → List Nat → List Swap
  | [], _ => []
  | (d, k) :: l, taken =>
    if k < n then chooseSwaps s n l taken
    else match (physOf s d).bind (freeSpare s taken) with
      | some q => { logical := d, spare := q } :: chooseSwaps s n l (q :: taken)
      | none => chooseSwaps s n l taken

/-- Every arrival is gathered at the coordinator: the swap list is made and MIRROR sent (R412, R422). -/
def arrivalsDone (c : Nat) (s : State) : State :=
  let own := posRow s.fab.position
  let s := forEach (List.range 32) (fun r s => lagRow (r == own) r s) s
  let sw := match epochRec s with
    | some r => if r.swap then chooseSwaps s r.epochs s.epoch.lags [] else []
    | none => []
  broadcastMsg (.mirror c) { s with epoch := { s.epoch with swaps := sw } }

/-- Merge reported arrivals, one for each device. -/
def mergeTimes (old new : List (Nat × HallTime)) : List (Nat × HallTime) :=
  old ++ new.filter (fun x => !old.any (fun y => y.1 == x.1))

/-- ARRIVE (R411, R412): of the next commit it is gathered, of an earlier one dropped; a later one waits. -/
def execArrive (p : Packet) (s : State) : Out :=
  match msgOf p with
  | some (.arrive c ts) =>
    if nextCommit s < c then .next s
    else
      let s := takeIngress p s
      if c ≠ nextCommit s ∨ ours p s = false then .next s
      else
        let old := s.epoch.arrivals
        let new := mergeTimes old ts
        let s := { s with epoch := { s.epoch with arrivals := new } }
        let g := gatherFor s
        let up := Msg.arrive c (new.filter (fun x => g.1.contains x.1))
        let row := fun (s : State) => if allIn g.1 (new.map (·.1)) && !allIn g.1 (old.map (·.1)) && g.2.isSome &&
            decide (rowGatherer s (posRow s.fab.position) = some s.fab.position) then lagRow true (posRow s.fab.position) s else s
        .next (gather (old.map (·.1)) (new.map (·.1)) up (arrivalsDone c) (row s))
  | _ => .next (takeIngress p s)

/-! ### The mirror (R412, R414, R415) -/

/-- READY of this device. -/
def sendReady (c : Nat) (s : State) : State :=
  report (.ready c [s.run.me.getD 0]) { s with epoch := { s.epoch with stage := .ready } }

/-- This device's copy goes into half c mod 2 of its partner's hoard; READY at once where it has no shards or no partner to take it. -/
def startMirror (c : Nat) (s : State) : State :=
  let e := s.epoch
  let half := ((hoardOf s false).getD (0, 0)).2 / 2
  let s := { s with epoch := { e with stage := .mirroring, boundaryAt := if s.run.st = .hold then nowNs s else e.boundaryAt } }
  if (mySections s).shards.isEmpty || (!e.inSpan && !e.lease) then sendReady c s
  else
    startXfer {
      kind := .mirror, dest := if e.inSpan then partnerOf (s.run.me.getD 0) else e.partner, phys := !e.inSpan
      base := c % 2 * half, size := copySize s } (tallySet 65283 0 s)

/-- MIRROR (R412, R415): at the boundary of its commit, or in HOLD for commit 0. A later one waits. -/
def execMirror (p : Packet) (s : State) : Out :=
  match msgOf p with
  | some (.mirror c) =>
    if nextCommit s < c then .next s
    else
      let s := relayMsg p (takeIngress p s)
      if epochMember s && ours p s && decide (c = nextCommit s) &&
          (decide (s.epoch.stage = .arrived) || (decide (s.run.st = .hold) && decide (s.epoch.stage = .running))) then
        .next (startMirror c s)
      else .next s
  | _ => .next (takeIngress p s)

/-- Bytes written into this device's hoard. -/
def hoardWrite (base : Nat) (p : Packet) (s : State) : State :=
  let m := memOf p
  let a := base + (hallAddr m.addr).off
  if m.poison then writePoisoned .hbm a m.data s else writeStore .hbm a m.data s

/-- The half of its hoard that this device takes: for a mirror that of the next commit, for a re-mirror that of the last one. A lease
holder takes either. -/
def hoardHalfOk (p : Packet) (half : Nat) (s : State) : Bool :=
  p.phys || decide (half = (if p.ptype = 0x70 then nextCommit s else s.epoch.target) % 2)

/-- The count of bytes received reaches the header's: SEALED (R412). -/
def sealCopy (p : Packet) (at' : Nat) (s : State) : State :=
  let n := copyField s.mem.hbm at' 0x18 8
  if (tallyOf s 65284).count ≠ n then s
  else
    let s := tallySet 65284 0 s
    let m := Msg.sealed (copyField s.mem.hbm at' 0x08 8) n
    if p.ptype ≠ 0x70 then s else if p.phys then sendMsgPos m p.source s else sendMsg m p.source s

/-- Mirror or re-mirror data (R414): written where it comes from this device's partner for the half being written. -/
def takeHoardData (p : Packet) (s : State) : State :=
  let m := memOf p
  let off := (hallAddr m.addr).off
  match hoardOf s p.phys with
  | some h =>
    let half := h.2 / 2
    let i := off / max 1 half
    if fromPartner p s && decide (off + m.data.length ≤ h.2) && hoardHalfOk p i s then
      let s := tallyAdd 65284 m.data.length srcDevice (hoardWrite h.1 p s)
      respondAck p 0 false false (sealCopy p (h.1 + i * half) s)
    else refuseRemote p 0x9003 true s
  | none => refuseRemote p 0x9003 true s

/-- Copy data for a spare (R420, R422): gathered until the restore or the swap takes it. -/
def takeCopyData (p : Packet) (s : State) : State :=
  let m := memOf p
  let half := ((hoardOf s false).getD (0, 0)).2 / 2
  let a := (hallAddr m.addr).off % max 1 half
  let e := s.epoch
  let s := { s with epoch := { e with
    incoming := Memory.writeBytes e.incoming a m.data
    incomingBad := if m.poison then (linesOf a m.data.length).foldl (fun acc l => insertNat l acc) e.incomingBad else e.incomingBad
    got := e.got + m.data.length } }
  respondAck p 0 false false s

/-- Whether this device awaits a copy: as the spare of a lost device, or of a straggler. -/
def awaitsCopy (s : State) : Bool :=
  let me := s.fab.position
  s.epoch.lostList.any (fun l => l.spare == some me) || s.epoch.swaps.any (fun w => w.spare == me)

/-- HOARD_DATA (R414, R420): data of types 0x70 and 0x71. -/
def execHoardData (p : Packet) (s : State) : Out :=
  let s := takeIngress p s
  if (memOf p).op = 0 then .next (takeHoardData p s)
  else if awaitsCopy s then .next (takeCopyData p s)
  else .next (refuseRemote p 0x9003 true s)

/-- SEALED (R412): the partner holds this device's copy. -/
def execSealed (p : Packet) (s : State) : Out :=
  let s := takeIngress p s
  match msgOf p with
  | some (.sealed c _) =>
    if s.epoch.stage = .mirroring ∧ c = nextCommit s then
      .next (sendReady c { s with epoch := { s.epoch with lost := false, xfers := s.epoch.xfers.filter (fun x => decide (x.kind ≠ .mirror)) } })
    else .next s
  | _ => .next s

/-! ### The commit (R412, R413) -/

/-- The commit takes effect at the coordinator, and every other device learns it (R413). A START that waited for commit 0 follows (R415). -/
def commitEffective (c : Nat) (s : State) : State :=
  let t := s.epoch.commitAt
  let s := setCommit c t { s with epoch := { s.epoch with commitSent := false } }
  broadcastMsg (.commit c t s.epoch.swaps) s

/-- READY is gathered at the coordinator: COMMIT goes to the deputy; alone, the coordinator is its own. -/
def readiesDone (c : Nat) (s : State) : State :=
  let s := { s with epoch := { s.epoch with commitSent := true, commitAt := s.time.hall } }
  if s.run.me = some (deputyOf s) then commitEffective c s
  else sendMsg (.commit c s.epoch.commitAt s.epoch.swaps) (deputyOf s) s

/-- Send START and complete the PLAN_START that asked for it: the named second in the detail (R528). -/
def sendStart (w : Waiter) (delayUs : Nat) (s : State) : State :=
  let t := hallPlus s.time.hall (delayUs * 1000)
  finishWaiter w 0 (t.sec % 2 ^ 48) (broadcastMsg (.start t) { s with hub := { s.hub with starter := none } })

/-- READY (R411, R412). -/
def execReady (p : Packet) (s : State) : Out :=
  match msgOf p with
  | some (.ready c ds) =>
    if nextCommit s < c then .next s
    else
      let s := takeIngress p s
      if c ≠ nextCommit s ∨ ours p s = false then .next s
      else
        let old := s.epoch.readies
        let new := ds.foldl (fun acc d => insertNat d acc) old
        let s := { s with epoch := { s.epoch with readies := new } }
        let done := fun (s : State) =>
          let s := readiesDone c s
          match s.hub.starter with
          | some w => if s.epoch.has && decide (s.epoch.commit = c) then sendStart w s.hub.startDelay s else s
          | none => s
        .next (gather old new (.ready c (new.filter (gatherFor s).1.contains)) done s)
  | _ => .next (takeIngress p s)

/-- COMMIT as the deputy receives it from the coordinator: acknowledged (R412, R413). -/
def deputyCommit (p : Packet) (c : Nat) (t : HallTime) (s : State) : State :=
  if epochMember s && decide (c = nextCommit s) then sendMsg (.commitAck c) p.source (setCommit c t s) else s

/-- COMMIT as it is broadcast (R412, R422): the keep is written next. A spare notes the swaps, and the commit, by which it gathers (R411). -/
def memberCommit (c : Nat) (t : HallTime) (sw : List Swap) (s : State) : State :=
  if epochMember s then
    let s := if c = nextCommit s then setCommit c t s else s
    if c ≠ s.epoch.commit ∨ s.epoch.stage ≠ .ready then s
    else { s with epoch := { s.epoch with
      stage := .keep, keepValid := false, swaps := sw, arrivals := [], readies := [], restoreds := [] } }
  else { s with epoch := { s.epoch with
    has := true, commit := c, began := hallNs t, arrivals := [], readies := [], restoreds := []
    swaps := sw, incoming := [], incomingBad := [], got := 0 } }

/-- COMMIT (R413). -/
def execCommit (p : Packet) (s : State) : Out :=
  match msgOf p with
  | some (.commit c t sw) =>
    if p.phys then
      let s := relayMsg p (takeIngress p s)
      .next (if ours p s then memberCommit c t sw s else s)
    else .next (deputyCommit p c t (takeIngress p s))
  | _ => .next (takeIngress p s)

/-- COMMIT_ACK (R413): from this moment every rollback targets the commit. -/
def execCommitAck (p : Packet) (s : State) : Out :=
  let s := takeIngress p s
  match msgOf p with
  | some (.commitAck c) =>
    if s.epoch.commitSent = true ∧ c = nextCommit s then
      let s := commitEffective c s
      .next (match s.hub.starter with
        | some w => sendStart w s.hub.startDelay s
        | none => s)
    else .next s
  | _ => .next s

/-! ### The keep, and the end of the boundary (R412, R422) -/

/-- The boundary is complete on this device: banks are cleared, and the plan ends where the next phase is a halt, or stops where the
coordinator was asked to (R27, R49, R115, R528). -/
def finishBoundary (s : State) : State :=
  let s := { s with epoch := { s.epoch with stage := .running } }
  if s.run.st ≠ .run then s
  else
    let s := clearBanks s
    if (phaseOf s s.run.phase).kind = 2 then endPlan 1 s
    else if s.run.stopAtBoundary && isCoordinator s then broadcastMsg (.stop 2) s
    else s

/-- A straggler that is swapped sends its live copy to the spare (R422). -/
def sendSwap (s : State) : State :=
  match s.epoch.swaps.find? (fun w => s.run.me == some w.logical) with
  | some w => startXfer { kind := .swap, dest := w.spare, phys := true, base := 0, size := copySize s } s
  | none => s

/-- KEEP_WRITE_DONE (R412, R422): the copy is in the keep. With a swap the device holds until the resumption. -/
def execKeepWriteDone (s : State) : Out :=
  if s.epoch.stage ≠ .keep ∨ s.epoch.keepValid = true then .next s
  else
    let s := writeKeep s
    let d := (durationNs s s.epoch.boundaryAt (nowNs s)).toNat / 1000
    let s := { s with epoch := { s.epoch with boundaryUs := min d (2 ^ 32 - 1) } }
    .next (if s.epoch.swaps.isEmpty then finishBoundary s else sendSwap s)

/-- SWAP_COPY_DONE (R422): the spare has the straggler's copy: it takes its state, writes its keep and tells the coordinator. -/
def execSwapCopyDone (s : State) : Out :=
  match s.epoch.swaps.find? (fun w => w.spare == s.fab.position) with
  | none => .next s
  | some w =>
    let m := s.epoch.incoming
    let c := copyField m 0 0x08 8
    if s.run.me.isSome ∨ s.epoch.got = 0 ∨ s.epoch.got ≠ copyField m 0 0x18 8 then .next s
    else
      let s := placePlan { s with run := { s.run with me := some w.logical } }
      if !headerOk m 0 c s || !s.epoch.incomingBad.isEmpty then
        .next { s with run := { s.run with me := none } }
      else
        let n := copySize s
        let s := applyShards m [] 0 (applyRecord m 0 (putRange m [] 0 .hbm (keepBase s) n s))
        let s := { s with epoch := { s.epoch with
          stage := .keep, has := true, commit := c, passes := s.run.passes, next := s.run.phase, keepValid := true, incoming := [], got := 0 } }
        .next (sendMsgPos (.restored s.epoch.serial [w.logical]) (coordPos s) s)

end Sys2Proof.Machine
end

