-- ==== Sys2Proof/Machine/Fabric.lean ====
section
/-! DEFINITION. The fabric's commands: forwarding, escape, detour, drops, flagged ordering and the tree's repair. -/

namespace Sys2Proof.Machine

open Sys2Proof

/-- Drop a packet without a next hop: counted, recorded once per destination per phase, its issuer answered (R334, R347). -/
def deadDrop (code : Nat) (p : Packet) (s : State) : State :=
  let s := { s with fab := { s.fab with deadDrops := satAdd 64 s.fab.deadDrops 1 } }
  let s := logOncePhase code p.dest srcDevice [(2, p.source), (2, p.dest), (2, p.ptype)] s
  dropPacket p code 1 s

/-- PACKET_FORWARD (R333, R334): a packet for another device chooses its next hop. -/
def execPacketForward (p : Packet) (s : State) : Out :=
  match s.fab.transit.find? (fun e => e.2 == p) with
  | none => .next s
  | some e =>
    let s := { s with fab := { s.fab with transit := s.fab.transit.erase e, forwarded := satAdd 64 s.fab.forwarded 1 } }
    let s := freeCreditOf e.1 p s
    if p.hops ≥ 7 then .next (deadDrop 0x8032 p s) else .next (routePacket p s)

/-- ESCAPE_CREDIT_TIMEOUT (R340): a forwarded packet that waited 4 us for credit leaves its planned hop for VC4. -/
def execEscapeCreditTimeout (k : Nat) (p : Packet) (s : State) : Out :=
  let l := laneOf s k
  if l.queue.contains p && decide (p.vc < 3) && decide (p.source ≠ myLogical s) then
    let s := modLane k (fun l => { l with queue := l.queue.erase p }) s
    let s := { s with fab := { s.fab with escaped := satAdd 64 s.fab.escaped 1 } }
    .next (routePacket { escapePacket p with hops := p.hops - 1 } s)
  else .next s

/-- DETOUR_WAIT_TIMEOUT (R346): a packet that waited 20 us for a live lane of its hop takes the detour, or waits on. -/
def execDetourWaitTimeout (p : Packet) (s : State) : Out :=
  match s.fab.held.find? (fun h => h.p == p) with
  | none => .next s
  | some h =>
    match destPos s p with
    | none => .next s
    | some dst => match detourHop s p dst with
      | none => .next s
      | some kq =>
        let s := { s with fab := { s.fab with held := s.fab.held.erase h } }
        .next (enqueue kq.1 p kq.2 s)

/-- PACKET_HOLD_TIMEOUT (R347): a packet held 50 us without a next hop is dropped. -/
def execPacketHoldTimeout (p : Packet) (s : State) : Out :=
  match s.fab.held.find? (fun h => h.p == p) with
  | none => .next s
  | some h => .next (deadDrop 0x8031 p { s with fab := { s.fab with held := s.fab.held.erase h } })

/-- ORDER_SKIP (R343): the lost count is added to A[s], and the next flagged packet of the source is marked. -/
def execOrderSkip (p : Packet) (s : State) : Out :=
  let s := takeIngress p s
  match p.body with
  | .msg (.orderSkip n) =>
    let s := logEvent 0x8033 srcDevice [(2, p.source), (4, n)] s
    let s := { s with fab := { s.fab with skipMarked := SMap.set 0 s.fab.skipMarked p.source 0x8033 } }
    .next (orderApplied p.source n s)
  | _ => .next s

/-- ORDER_RETRY (R342): the refused flagged packet waits to be sent again. -/
def execOrderRetry (p : Packet) (s : State) : Out :=
  let s := takeIngress p s
  match p.body with
  | .msg (.orderRetry n) =>
    match s.fab.flaggedSent.find? (fun q => q.tag == p.tag && q.dest == p.source && q.order == n) with
    | some q => .next { s with fab := { s.fab with orderResend := s.fab.orderResend ++ [q] } }
    | none => .next s
  | _ => .next s

/-- ORDER_RETRY_RESEND (R342): 1 us later the flagged packet goes again, on the same terms. -/
def execOrderRetryResend (p : Packet) (s : State) : Out :=
  if s.fab.orderResend.contains p then
    .next (routePacket p { s with fab := { s.fab with orderResend := s.fab.orderResend.erase p } })
  else .next s

/-- The uplink plane of this device in a tier's tree. -/
def uplinkPlane (s : State) (t : Nat) : Nat :=
  treeUplink (tierPlanes t) 4 ((tierCoord t s.fab.position + 32 - tierCoord t s.fab.root) % 32)

/-- Ask the root of the tier group for adoption on a plane, and name the lane at this end (R352). -/
def askAdopt (t plane : Nat) (s : State) : State :=
  let rootPos := withCoord t s.fab.position (tierCoord t s.fab.root)
  let me := s.fab.position
  let port := tierBase t + plane
  let s := { s with fab := { s.fab with
    orphan := SMap.set 0 s.fab.orphan t (plane + 1)
    adopted := insertNat (laneKey port (lineTo t me rootPos)) s.fab.adopted } }
  sendMsgPos (.adopt me t plane) rootPos (nameLane port rootPos s)

/-- ORPHAN_TIMEOUT (R352): the parent lane has been out of UP for 200 ms. -/
def execOrphanTimeout (t : Nat) (s : State) : Out :=
  let me := s.fab.position
  if 2 < t ∨ s.fab.mode ≠ 1 ∨ tierCoord t me = tierCoord t s.fab.root then .next s
  else
    let i := (tierCoord t me + 32 - tierCoord t s.fab.root) % 32
    let parent := withCoord t me ((treeParent (tierPlanes t) i + tierCoord t s.fab.root) % 32)
    let up := (laneOf s (laneKey (tierBase t + uplinkPlane s t) (lineTo t me parent))).state
    if up = .up ∨ up = .marked then .next s
    else .next (askAdopt t (uplinkPlane s t) (logEvery 0x8040 t 10000000000 srcDevice [(4, t), (2, parent)] s))

/-- ADOPT_RETRY (R352): a member still an orphan asks again, on the next plane. -/
def execAdoptRetry (t : Nat) (s : State) : Out :=
  let n := SMap.get 0 s.fab.orphan t
  if n = 0 ∨ s.fab.mode ≠ 1 ∨ 2 < t then .next s
  else
    let me := s.fab.position
    let i := (tierCoord t me + 32 - tierCoord t s.fab.root) % 32
    let parent := withCoord t me ((treeParent (tierPlanes t) i + tierCoord t s.fab.root) % 32)
    let s := logEvery 0x8040 t 10000000000 srcDevice [(4, t), (2, parent)] s
    .next (askAdopt t (n % tierPlanes t) s)

/-- ADOPT (R352): a tier root opens a lane pair to the orphan, or refuses where its port holds eight lanes. -/
def execAdopt (p : Packet) (s : State) : Out :=
  let s := takeIngress p s
  match p.body with
  | .msg (.adopt orphan t plane) =>
    let port := tierBase t + plane
    if 2 < t ∨ tierPlanes t ≤ plane then .next s
    else if 8 ≤ ((portLanes s port).filter (fun e => e.2.named)).length then .next s
    else
      let k := laneKey port (lineTo t s.fab.position orphan)
      .next (nameLane port orphan { s with fab := { s.fab with adoptees := insertNat k s.fab.adoptees } })
  | _ => .next s

/-- TREE_ROOT_CHANGE (R349): the tree changes its root, make-before-break. -/
def execTreeRootChange (s : State) : Out := .next (changeTree (treeRoot s) s)

/-- TREE_OLD_LANE_TIMEOUT (R349): 1 ms later the old lanes the new tree does not name close. -/
def execTreeOldLaneTimeout (s : State) : Out :=
  let old := s.fab.oldTree
  .next (forEach old dropLane { s with fab := { s.fab with oldTree := [] } })

end Sys2Proof.Machine
end

