-- ==== Sys2Proof/Machine/DcsMap.lean ====
section
/-! DEFINITION. The registers of the device control space as a read through BAR0 returns them (R518, R520). -/

namespace Sys2Proof.Machine

open Sys2Proof

/-- Fields of a register from its least significant bit up, as (width, value) pairs. -/
def regOf : List (Nat × Nat) → Nat
  | [] => 0
  | f :: fs => f.2 % 2 ^ f.1 + 2 ^ f.1 * regOf fs

/-- A signed 16-bit field. -/
def i16 (z : Int) : Nat × Nat := (16, ofInt 16 z)

/-- A field of Booleans, the first at the lowest bit. -/
def boolBits (l : List Bool) : Nat × Nat := (l.length, l.foldr (fun b n => b2n b + 2 * n) 0)

/-- A set of numbers below a width as a field. -/
def setBitsOf (w : Nat) (f : Nat → Bool) : Nat × Nat := boolBits ((List.range w).map f)

/-- The state code of an engine (R109, R163, R183, R214, R279, R401). -/
def EngSt.code : EngSt → Nat
  | .unbound => 0 | .running => 1 | .waiting => 2 | .ended => 3 | .faulted => 4

/-- A COMMIT register (R37). -/
def Commit.reg (c : Commit) : Nat := regOf [(1, 0), boolBits [c.pending, c.rejected, c.overrun], (12, 0), (16, c.generation)]

/-! ### Compute dies -/

/-- The state, density and pc of a bear or badger (R109, R163). -/
def meState (s : State) (e : Nat) (compat cub16 : Bool) (k : KeepSt) : Nat :=
  let q := seqOf s e
  regOf [(3, q.st.code), boolBits [compat, cub16], (3, k.density % 8), (1, k.density / 8), (13, q.pc)]

/-- A bear's window (R109, R110, R134). -/
def bearReg (s : State) (e o : Nat) : Nat :=
  let b := bearOf s e
  match o with
  | 0x00 => meState s e b.compat (b.compat && b.cub16) b.keep
  | 0x08 => b.mmaCount
  | 0x10 => b.rows
  | 0x18 => b.keepRows
  | 0x20 => regOf [boolBits [b.operandFault, b.tileRetry, b.tileFatal]]
  | 0x28 => b.drainCount
  | 0x30 => b.drainFlags
  | 0x38 => regOf [(32, b.accCorr), boolBits [b.accFatal]]
  | _ => 0

/-- A badger's window (R163, R164). -/
def badgerReg (s : State) (e o : Nat) : Nat :=
  let b := badgerOf s e
  match o with
  | 0x00 => meState s e false false b.keep
  | 0x08 => b.instrs
  | 0x10 => b.groups
  | 0x18 => b.keepSteps
  | 0x20 => b.flags
  | 0x28 => regOf [boolBits [b.operandFault, b.eccFatal, b.positionRange]]
  | 0x30 => regOf [(32, b.corrected)]
  | _ => 0

/-- A fox core's window (R183). A core is never seen in the monitor: traps and services end within one command. -/
def foxReg (s : State) (e o : Nat) : Nat :=
  let c := foxOf s e
  let q := seqOf s e
  match o with
  | 0x00 => regOf [(3, if c.yielding && decide (q.st = .running) then 2 else q.st.code), boolBits [c.yielding]]
  | 0x08 => q.pc
  | 0x10 => min c.instret (2 ^ 64 - 1)
  | 0x18 => regOf [boolBits [c.operandFault, c.trap, c.eccFatal]]
  | 0x20 => regOf [(32, c.eccCorr)]
  | 0x28 => c.userDrops
  | _ => 0

/-- A hare's window (R214). -/
def hareReg (s : State) (e o : Nat) : Nat :=
  let h := hareOf s e
  let q := seqOf s e
  match o with
  | 0x00 => regOf [(3, q.st.code), (3, h.copies.length), (3, 0), (13, q.pc)]
  | 0x08 => h.bytes
  | 0x10 => h.posts
  | 0x18 => regOf [(10, hareFlight s e)]
  | 0x20 => regOf [boolBits [h.operandFault, h.domainDown, h.hostError, h.poison]]
  | _ => 0

/-- The SP and CS registers of a die (R214). -/
def eccReg (s : State) (k o : Nat) : Nat :=
  let a := SMap.get {} s.mem.ecc k
  let c := SMap.get {} s.mem.ecc (8 + k)
  match o with
  | 0x00 => regOf [(32, a.corrected), (32, a.uncorrected)]
  | 0x08 => regOf [(35, a.poisonOff), (28, 0), boolBits [a.poisonValid]]
  | 0x10 => regOf [(32, a.passes)]
  | 0x18 => regOf [(32, c.corrected), (32, c.uncorrected)]
  | 0x20 => regOf [(26, c.poisonOff), (37, 0), boolBits [c.poisonValid]]
  | _ => 0

/-- The stream and staging registers of a die (R257). -/
def streamReg (s : State) (k o : Nat) : Nat :=
  let d := strOf s k
  match o with
  | 0x00 => d.appends
  | 0x08 => d.tokens
  | 0x10 => d.digital
  | 0x18 => regOf [(16, ((s.units.ctx.filter (fun c => ctxDie c.1 == k)).map (fun c => c.2.queue.length)).foldl (· + ·) 0), boolBits [heldDie s k]]
  | 0x20 => regOf [boolBits [d.contextFault, d.selectFault, d.stagingFault]]
  | 0x28 => regOf [(11, (s.units.stg.filter (fun g => decide (g.1 / 1024 = k) && g.2.opened)).length)]
  | 0x30 => d.copies
  | 0x38 => d.hits
  | 0x40 => d.discards
  | 0x48 => d.failed
  | _ => 0

/-- The coherence counters of a die (R380). -/
def settReg (s : State) (k o : Nat) : Nat :=
  let c := SMap.get {} s.sett.counts k
  match o with
  | 0x00 => c.gets
  | 0x08 => c.getm
  | 0x10 => c.snoops
  | 0x18 => c.invs
  | 0x20 => c.crossings
  | 0x28 => c.retries
  | 0x30 => c.uncached
  | 0x38 => regOf [boolBits [c.snoopTimeout, c.ownerLost, c.stray]]
  | _ => 0

/-- The registers of a pack unit (R401). -/
def packReg (s : State) (e o : Nat) : Nat :=
  let u := packOf s e
  match o with
  | 0x00 => regOf [(3, (seqOf s e).st.code), boolBits [u.coll.isSome], (3, (u.coll.map (fun c => c.stage + 1)).getD 0),
      (2, (u.coll.map (·.algo)).getD 0), (13, (seqOf s e).pc), (32, u.last)]
  | 0x08 => u.colls
  | 0x10 => u.sent
  | 0x18 => u.recv
  | 0x20 => u.adds
  | 0x28 => u.retries
  | 0x30 => u.flags
  | 0x38 => regOf [boolBits [u.operandFault, u.mismatch, u.workShort, u.residueFatal]]
  | 0x40 => regOf [(32, u.residue)]
  | _ => 0

/-- A register of block CDIEk by its offset in the block. -/
def cdieReg (s : State) (k o : Nat) : Nat :=
  if 0x20000 ≤ o ∧ o < 0x20400 then bearReg s (engId 0 k ((o - 0x20000) / 0x40)) (o % 0x40)
  else if o = 0x20400 then b2n (s.units.meOff.contains k)
  else if 0x21000 ≤ o ∧ o < 0x21100 then badgerReg s (engId 1 k ((o - 0x21000) / 0x40)) (o % 0x40)
  else if o = 0x21400 then b2n (s.units.veOff.contains k)
  else if 0x22000 ≤ o ∧ o < 0x22800 then foxReg s (engId 2 k ((o - 0x22000) / 0x40)) (o % 0x40)
  else if 0x23000 ≤ o ∧ o < 0x23200 then hareReg s (engId 3 k ((o - 0x23000) / 0x40)) (o % 0x40)
  else if 0x24000 ≤ o ∧ o < 0x24028 then eccReg s k (o - 0x24000)
  else if 0x25000 ≤ o ∧ o < 0x25050 then streamReg s k (o - 0x25000)
  else if 0x26000 ≤ o ∧ o < 0x26040 then settReg s k (o - 0x26000)
  else if 0x27000 ≤ o ∧ o < 0x27048 then packReg s (engId 4 k 0) (o - 0x27000)
  else 0

/-! ### Optical tiles -/

/-- The registers of a projection engine (R279). -/
def ppeReg (s : State) (k o : Nat) : Nat :=
  let p := ppeOf s k
  let q := seqOf s (engId 5 k 0)
  match o with
  | 0x00 => regOf [(3, q.st.code), (3, p.mesh.code), boolBits [p.overdue, p.spareUsed], (7, p.inSpare), (1, 0), (7, p.outSpare), (1, 0), (10, q.pc)]
  | 0x08 => p.vectors
  | 0x10 => p.sketches
  | 0x18 => p.badkey
  | 0x20 => regOf [(32, p.lastRecal), (16, p.recals)]
  | 0x28 => regOf [i16 p.recalTemp, i16 ((sensorOf s (98 + 3 * k)).reading - p.recalTemp)]
  | 0x30 => regOf [(32, p.chanCals)]
  | 0x38 => regOf [boolBits [p.operandFault, p.matrixFault, p.meshFault, p.channelFatal, p.feedSwitch]]
  | _ => 0

/-- A lane's window (R319); the window at line 0 reads zero. -/
def laneReg (s : State) (key o : Nat) : Nat :=
  let l := laneOf s key
  if key % 32 = 0 then 0
  else match o with
  | 0x00 => regOf [(4, l.state.code), (4, l.txRing), (4, l.rxRing), (15, l.far), (3, l.holdLevel), (2, 0), (8, l.downReason)]
  | 0x08 => regOf [(32, l.corr)]
  | 0x10 => regOf [(32, l.ucw)]
  | 0x18 => regOf [(32, l.retry)]
  | 0x20 => regOf [(32, l.flaps)]
  | 0x28 => regOf [(32, l.burst)]
  | 0x30 => regOf [(32, l.ident)]
  | 0x38 => regOf [(32, l.rtt)]
  | _ => 0

/-- A port's registers (R318). -/
def portReg (s : State) (n o : Nat) : Nat :=
  let p := portOf s n
  match o with
  | 0x000 => regOf [(9, p.txFaulty), (9, p.rxFaulty), (4, p.txSpare), (4, p.rxSpare), (4, lanesUp s n), boolBits [portLicensed s n]]
  | 0x008 => regOf [(9, p.admin.txDis), (9, p.admin.rxDis), boolBits [p.admin.portDis]]
  | 0x010 => regOf [(32, p.unlic)]
  | 0x018 => regOf [(32, p.disagree)]
  | _ => if 0x100 ≤ o ∧ o < 0x900 then laneReg s (laneKey n ((o - 0x100) / 0x40)) (o % 0x40) else 0

/-- A register of block OTILk by its offset in the block (R317 to R319, R279). -/
def otilReg (s : State) (k o : Nat) : Nat :=
  let t := tileOf s k
  match o with
  | 0x000 => regOf [(2, t.active), boolBits [t.a.ok, t.b.ok, t.a.tones, t.b.tones], (10, 0), (32, t.switches)]
  | 0x008 => regOf [i16 t.a.avg, i16 t.b.avg, i16 t.a.minLine, i16 t.b.minLine]
  | 0x010 => regOf [boolBits [t.ctl.select, t.ctl.aDis, t.ctl.bDis]]
  | 0x018 => regOf [(16, t.ctl.ucwMark), (24, t.ctl.serMark), (24, t.ctl.serWarn)]
  | 0x020 => regOf [(32, t.bursts)]
  | 0xFF8 => t.commit.reg
  | _ =>
    if 0x10000 ≤ o ∧ o < 0x14000 then
      match (tilePorts k)[(o - 0x10000) / 0x1000]? with
      | some n => portReg s n (o % 0x1000)
      | none => 0
    else if 0x60000 ≤ o ∧ o < 0x60040 then ppeReg s k (o - 0x60000)
    else 0

/-! ### HBM controllers and the fabric -/

/-- A register of block HBMCn (R215). -/
def hbmcReg (s : State) (n o : Nat) : Nat :=
  let h := SMap.get {} s.mem.hbmc n
  let x := SMap.get {} s.mem.ecc (16 + n)
  match o with
  | 0x000 => regOf [boolBits [h.trained, h.patrolBusy]]
  | 0x008 => regOf [(32, x.corrected), (32, x.uncorrected)]
  | 0x010 => regOf [(36, x.poisonOff), (27, 0), boolBits [x.poisonValid]]
  | 0x018 => h.latReads
  | 0x020 => h.bulkBytes
  | 0x028 => b2n h.patrol
  | _ => 0

/-- A register of the FAB block (R324, R353, R379). -/
def fabReg (s : State) (o : Nat) : Nat :=
  let f := s.fab
  let r := s.remote
  match o with
  | 0x000 => regOf [(2, f.mode), (16, f.colourSet), (7, f.completed)]
  | 0x008 => f.position
  | 0x010 => f.ctl.treeRoot
  | 0x018 => f.forwarded
  | 0x020 => f.escaped
  | 0x028 => f.detours
  | 0x030 => f.deadDrops
  | 0x038 => f.staleDrops
  | 0x040 => f.orderHolds
  | 0x048 => f.orderRetries
  | 0x050 => f.badType
  | 0x100 => regOf [(16, r.used), (16, r.peak)]
  | 0x108 => r.timeouts
  | 0x110 => r.late
  | 0x118 => r.errors
  | 0x120 => regOf [(15, r.deadDevice), boolBits [r.deadValid], (48, r.deadWhen)]
  | 0x128 => regOf [(4, myLogical s), (1, myLogical s / 16), setBitsOf 16 (fun m => (physOf s (settDev (myLogical s) m)).isSome)]
  | 0xFF8 => f.commit.reg
  | _ =>
    if 0x10000 ≤ o ∧ o < 0x50000 then
      let e := SMap.get {} (roster s) ((o - 0x10000) / 8)
      regOf [(15, e.logical), (1, 0), (2, e.role)]
    else if 0x50000 ≤ o ∧ o < 0x90000 then
      match physOf s ((o - 0x50000) / 8) with
      | some p => regOf [(15, p), (1, 1)]
      | none => 0
    else 0

/-! ### The hub, power, thermal, time and bring-up blocks -/

/-- A queue's window (R524); the doorbells are write-only and read zero. -/
def queueReg (s : State) (q o : Nat) : Nat :=
  let k := queueOf s q
  match o with
  | 0x00 => k.sqBase
  | 0x08 => k.cqBase
  | 0x10 => regOf [(12, k.sqSize), (4, 0), (12, k.cqSize), (4, 0), (11, queueVector s q), (5, 0), boolBits [k.enable]]
  | 0x28 => regOf [(12, k.sqHead), (4, 0), (12, k.cqTail), boolBits [k.phase, k.fault]]
  | _ => 0

/-- Eight bytes of the entry of the event log that stands at an index (R537). -/
def logReg (s : State) (i o : Nat) : Nat :=
  let e := SMap.get {} s.log.entries i
  if e.code = 0 then 0
  else match o with
  | 0x00 => regOf [(32, e.sequence), (16, e.code), (16, e.source)]
  | 0x08 => regOf [(32, e.seconds), (32, e.ns)]
  | _ => leVal (slice e.data (o - 0x10) 8)

/-- A register of the HUB block (R10, R11, R224, R521, R522, R524, R538). -/
def hubReg (s : State) (o : Nat) : Nat :=
  let h := s.hub
  match o with
  | 0x00 => regOf [(16, 0x1F4C), (16, 0x0E01), (16, 0x0002), (8, Config.stepping.toNat)]
  | 0x08 => Config.deviceId.toNat % 2 ^ 64
  | 0x10 => Config.deviceId.toNat / 2 ^ 64
  | 0x18 => regOf [(32, Config.romImageId.toNat), (16, h.patchActive)]
  | 0x20 => regOf [(2, s.tier), boolBits [s.frozen], (5, 0), (8, s.licences)]
  | 0x40 => h.hostWrites
  | 0x48 => regOf [(3, s.run.st.code), (2, s.run.completion), boolBits [s.epoch.steward, h.lease.isSome], (25, 0), (32, s.run.phase)]
  | 0x50 => planId s
  | 0x58 => regOf [(11, h.vThermal), (5, 0), (11, h.vLog), (5, 0), (11, h.vLink)]
  | 0x60 => regOf [(5, h.spBase), (11, 0), (10, h.hbmBase)]
  | 0x68 => regOf [(2, h.feedActive), boolBits [h.feedA.ok, h.feedB.ok, h.l0], (11, 0), (16, h.switches), (16, h.downs)]
  | 0x70 => regOf [(32, s.log.next), (32, s.log.overwritten)]
  | 0x78 => regOf [(32, s.log.acked)]
  | 0x80 => regOf [(13, s.log.threshold)]
  | 0x88 => regOf [(32, h.mgmtDisagree)]
  | 0x90 => regOf [(32, h.cmdCompleted), (32, h.cmdInvalid)]
  | 0x98 => regOf [(9, h.notifies.length)]
  | 0xA0 => regOf [(32, h.hostFaults)]
  | _ =>
    if 0x1000 ≤ o ∧ o < 0x1200 then queueReg s ((o - 0x1000) / 0x40) (o % 0x40)
    else if 0x8000 ≤ o ∧ o < 0x10000 then
      bits (SMap.get Msix.entry0 s.msix.table ((o - 0x8000) / 16)).toNat (o % 16 * 8) 64
    else if 0x10000 ≤ o ∧ o < 0x10100 then
      regOf [setBitsOf 64 (fun i => s.msix.pendingBits.contains ((o - 0x10000) * 8 + i))]
    else if 0x40000 ≤ o ∧ o < 0x80000 then logReg s ((o - 0x40000) / 32) (o % 32)
    else 0

/-- A register of the PWR block (R467). -/
def pwrReg (s : State) (o : Nat) : Nat :=
  let p := s.power
  match o with
  | 0x000 => regOf [(2, match p.st with | .run => 0 | .hold => 1 | .watch => 2),
      boolBits [p.rails.any (·.short), p.rangeEmpty, p.capActive, (List.range 8).any (fun k => (dieTherm s k).enforce)], (2, 0), (2, p.wakeCause)]
  | 0x008 => regOf [(16, p.ctl.floorMv), (16, p.ctl.ceilMv), (16, p.ctl.capW)]
  | 0x010 => regOf [(16, p.avgW), (16, capInForce s), (16, p.rateCap)]
  | 0x018 => regOf [(14, p.ctl.periodMs)]
  | 0xFF8 => p.commit.reg
  | _ =>
    if 0x020 ≤ o ∧ o < 0x060 then
      let r := SMap.get (0, 0) p.ctl.keeps ((o - 0x020) / 8)
      regOf [(12, r.1), (10, r.2)]
    else if 0x100 ≤ o ∧ o < 0x170 then
      let r := railOf s ((o - 0x100) / 0x10)
      if o % 0x10 = 0 then regOf [(16, r.request), (16, r.confirmed), (16, r.current), boolBits [r.faulted], (2, r.fails)]
      else regOf [(16, r.crc), (16, r.notDone), (16, r.readback)]
    else if 0x200 ≤ o ∧ o < 0x240 then
      let k := (o - 0x200) / 8
      if s.hub.ready then regOf [(16, (rateOf s k).canary), (16, dieTarget s k), (16, declaredRate s), boolBits [(rateOf s k).paced]] else 0
    else if 0x300 ≤ o ∧ o < 0x3C0 then
      let d := (o - 0x300) / 8
      regOf [(3, (domOf s d).st.code), boolBits [(domOf s d).adminOff, domUsed s d]]
    else if 0x400 ≤ o ∧ o < 0x420 then
      let j := SMap.get {} p.droops ((o - 0x400) / 8)
      regOf [(32, j.count), (16, j.deepest), (16, j.under)]
    else 0

/-- Milliseconds of grace left to a die (R474, R481). -/
def graceLeft (s : State) (k : Nat) : Nat :=
  let d := dieTherm s k
  match d.grace with
  | some t => if d.expired then 0 else (t - nowNs s) / 1000000
  | none => 0

/-- A register of the THM block (R481). -/
def thmReg (s : State) (o : Nat) : Nat :=
  let t := s.thermal
  match o with
  | 0x000 => regOf [boolBits [t.request], setBitsOf 8 (fun k => (dieTherm s k).enforce),
      boolBits [t.sensors.any (fun x => x.2.cls.broken)], (8, t.hottest)]
  | 0x008 => regOf [(10, t.ctl.graceMs)]
  | 0x010 => regOf [setBitsOf 64 (fun i => t.ctl.mask.contains i)]
  | 0x018 => regOf [setBitsOf 64 (fun i => t.ctl.mask.contains (64 + i))]
  | 0x020 => regOf [setBitsOf 16 (fun i => t.ctl.mask.contains (128 + i))]
  | 0x028 => regOf [(8, t.ctl.dieC), (8, t.ctl.railC)]
  | 0x030 => regOf [(16, t.requests), (16, t.enforcements), (16, t.brokenCount), (16, t.disagree)]
  | 0xFF8 => t.commit.reg
  | _ =>
    if 0x100 ≤ o ∧ o < 0x140 then
      let d := dieTherm s ((o - 0x100) / 8)
      regOf [i16 d.governing, (8, d.sensor), (16, d.rate), (10, graceLeft s ((o - 0x100) / 8))]
    else if 0x1000 ≤ o ∧ o < 0x1480 then
      let x := sensorOf s ((o - 0x1000) / 8)
      regOf [i16 x.reading, (3, x.cls.code), (13, 0), i16 x.peak]
    else 0

/-- A register of the TIME block (R442). -/
def timeReg (s : State) (o : Nat) : Nat :=
  let t := s.time
  match o with
  | 0x000 => regOf [(2, t.st.code), boolBits [isMaster s, t.backupActive, t.hold, t.selfRef, t.ppsOk, t.refOk], (3, min 7 t.hops),
      (15, t.parent.getD 0), boolBits [t.parent.isSome]]
  | 0x008 => regOf [(48, t.hall.sec)]
  | 0x010 => regOf [(32, t.latchNs), (16, t.latchFrac)]
  | 0x018 => regOf [(32, ofInt 32 t.offsetPs), (32, t.delayPs)]
  | 0x020 => regOf [(32, t.steps), (32, t.skipped)]
  | 0x028 => ofInt 64 t.lastStep
  | 0x030 => regOf [(15, t.ctl.primary), (1, 0), (15, t.ctl.backup), boolBits [t.ctl.backupEnable, t.ctl.usePps, t.ctl.useRef]]
  | 0x038 => regOf [(48, t.ctl.setSec)]
  | 0x040 => regOf [(16, t.ctl.limitMin)]
  | 0x048 => regOf [(16, t.ctl.ppsDelay)]
  | 0xFF8 => t.commit.reg
  | _ => 0

/-- Spares in use of a class on a die: logical units that stand on a physical spare (R492). -/
def sparesUsed (s : State) (cls k : Nat) : Nat :=
  ((List.range (unitsOf cls)).filter (fun u => decide (unitsOf cls ≤ physUnit s (engId cls k u)))).length

/-- Logical banks absent on an S-die. -/
def banksAbsent (s : State) (d : Nat) : Nat := (s.boot.absentBanks.filter (fun b => decide (b / 256 = d))).length

/-- A register of the LIC block (R513). -/
def licReg (s : State) (o : Nat) : Nat :=
  let b := s.boot
  let gone := fun (cls k : Nat) => setBitsOf (unitsOf cls) (fun u => s.units.absent.contains (engId cls k u))
  match o with
  | 0x000 => regOf [(4, b.step), boolBits [b.warm, b.fallback, s.hub.ready, b.trained], (8, b.failStep), (16, b.failCode), (32, b.bootUs)]
  | 0x008 => regOf [(16, b.fuseCorr), boolBits [b.fuseBad], (4, Config.revoked.toNat)]
  | 0x010 => regOf [(1, b.slot), boolBits [b.slotValid, b.otherValid, b.writeBusy, b.defaults], (27, 0), (32, b.seq)]
  | 0x018 => regOf [(32, b.written), (32, b.failed)]
  | _ =>
    if 0x100 ≤ o ∧ o < 0x148 then
      let l := SMap.get {} b.licences ((o - 0x100) / 8)
      regOf [boolBits [l.present, l.valid], (2, l.tier), boolBits [l.frozen], (2, l.key), (1, 0), (32, l.serial), (8, l.reason)]
    else if 0x200 ≤ o ∧ o < 0x240 then
      let k := (o - 0x200) / 8
      regOf [gone 0 k, gone 1 k, gone 3 k, gone 4 k, boolBits [b.absentDies.contains k], (2, 0), gone 2 k]
    else if 0x240 ≤ o ∧ o < 0x280 then
      let k := (o - 0x240) / 8
      regOf [(1, sparesUsed s 0 k), (1, sparesUsed s 1 k), (2, sparesUsed s 2 k), (4, SMap.get 0 b.bankSpares (2 * k)),
        (4, SMap.get 0 b.bankSpares (2 * k + 1)), (20, 0), (8, banksAbsent s (2 * k)), (8, banksAbsent s (2 * k + 1))]
    else if 0x300 ≤ o ∧ o < 0x340 then
      let l := SMap.get {} b.links ((o - 0x300) / 8)
      regOf [(2, l.st), (6, l.rate), (4, l.modules), (4, 0), (16, l.vendor), (16, l.retrains)]
    else if 0x340 ≤ o ∧ o < 0x380 then
      let l := SMap.get {} b.hubLinks ((o - 0x340) / 8)
      regOf [boolBits [l.down, l.up, l.failed], (29, 0), (32, l.errors)]
    else 0

/-! ### The whole space -/

/-- The power domain a register stands behind: its compute die's or its tile's; none in the hub. -/
def dcsDomain (off : Nat) : Option Nat :=
  if 0x01000000 ≤ off ∧ off < 0x01800000 then some ((off - 0x01000000) / 0x100000)
  else if 0x01800000 ≤ off ∧ off < 0x01C00000 then some (16 + (off - 0x01800000) / 0x80000)
  else if 0x01C00000 ≤ off ∧ off < 0x02000000 then some ((off - 0x01C00000) / 0x80000)
  else none

/-- Whether a domain's switches are open: it has no power. -/
def domDark (s : State) (d : Nat) : Bool := decide ((domOf s d).st ≠ .on) && decide ((domOf s d).st ≠ .draining)

/-- Whether a register has no power: the spec does not say what its read returns (log entry 39). -/
def dcsDark (s : State) (off : Nat) : Bool :=
  match dcsDomain off with
  | some d => domDark s d
  | none => false

/-- The 64-bit register at an aligned offset of DCS; a reserved offset reads zero (R518, R520). -/
def dcsReg (s : State) (off : Nat) : Nat :=
  if off < 0x00100000 then hubReg s off
  else if off < 0x00200000 then pwrReg s (off - 0x00100000)
  else if off < 0x00300000 then thmReg s (off - 0x00200000)
  else if off < 0x00400000 then timeReg s (off - 0x00300000)
  else if off < 0x00500000 then licReg s (off - 0x00400000)
  else if off < 0x01000000 then 0
  else if off < 0x01800000 then cdieReg s ((off - 0x01000000) / 0x100000) (off % 0x100000)
  else if off < 0x01C00000 then otilReg s ((off - 0x01800000) / 0x80000) (off % 0x80000)
  else if off < 0x02000000 then hbmcReg s ((off - 0x01C00000) / 0x40000) (off % 0x40000)
  else if off < 0x02800000 then fabReg s (off - 0x02000000)
  else if off < 0x03400000 then leVal (dcsLoad s off 8)
  else 0

end Sys2Proof.Machine
end

