-- ==== Sys2Proof/Machine/Host.lean ====
section
/-! DEFINITION. What the host does through its BARs: register reads and writes, memory accesses, AtomicOps and the tally window (R224, R230,
R403, R516 to R521). -/

namespace Sys2Proof.Machine

open Sys2Proof

/-! ### Writes of registers by type (R37, R518) -/

/-- A write of eight bytes, or of the half a 4-byte write names (R518). -/
def regWriteOf (off len v : Nat) : RegWrite :=
  let sh := off % 8 * 8
  { off := off / 8 * 8, mask := (2 ^ (8 * len) - 1) * 2 ^ sh, val := v % 2 ^ (8 * len) * 2 ^ sh }

/-- A W1C bit after a write. -/
def RegWrite.clear (w : RegWrite) (i : Nat) (old : Bool) : Bool := old && !bit (w.val &&& w.mask) i

/-- A one-bit RW field after a write. -/
def RegWrite.flag (w : RegWrite) (i : Nat) (old : Bool) : Bool := w.put (b2n old) i 1 == 1

/-- A write of a COMMIT register: rejected and overrun clear, and go latches the staged set (R37). -/
def writeCommit (b : CommitBlock) (w : RegWrite) (s : State) : State :=
  if blockDown s b then s
  else
    let s := modCommit b (fun c => { c with rejected := w.clear 2 c.rejected, overrun := w.clear 3 c.overrun }) s
    if bit (w.val &&& w.mask) 0 then commitGo b s else s

/-- A write of RWS fields joins the block's staged set (R37). -/
def stageWrite (b : CommitBlock) (w : RegWrite) (s : State) : State :=
  if blockDown s b then s else modCommit b (fun c => { c with staged := c.staged ++ [w] }) s

/-- Whether roster fields are locked: a plan is being loaded, is held, running, waiting for a spare, or suspended (R326). -/
def rosterLocked (s : State) : Bool :=
  decide (s.run.st = .loading ∨ s.run.st = .hold ∨ s.run.st = .run ∨ s.run.st = .waiting ∨ s.run.st = .suspended)

/-- A write in FAB: roster fields while a plan holds them are ignored and recorded at most once a second (R326). -/
def writeFab (w : RegWrite) (s : State) : State :=
  let o := w.off - 0x02000000
  if o = 0xFF8 then writeCommit .fab w s
  else if 0x10000 ≤ o ∧ o < 0x50000 then
    if rosterLocked s then logEvery 0x8020 0 1000000000 srcHost [] s else stageWrite .fab w s
  else if o = 0x10 then stageWrite .fab w s
  else if o = 0x120 then { s with remote := { s.remote with deadValid := w.clear 15 s.remote.deadValid } }
  else s

/-- A write in PWR: a rail's faulted bit resumes the rail (R447, R467). -/
def writePwr (w : RegWrite) (s : State) : State :=
  let o := w.off - 0x00100000
  if o = 0xFF8 then writeCommit .pwr w s
  else if o = 0x008 ∨ (0x018 ≤ o ∧ o < 0x060) then stageWrite .pwr w s
  else if 0x100 ≤ o ∧ o < 0x170 ∧ o % 0x10 = 0 ∧ bit (w.val &&& w.mask) 48 = true then
    let r := (o - 0x100) / 0x10
    if (railOf s r).faulted then clearRailFault r s else s
  else s

/-- A write in THM (R481). -/
def writeThm (w : RegWrite) (s : State) : State :=
  let o := w.off - 0x00200000
  if o = 0xFF8 then writeCommit .thm w s else if 0x008 ≤ o ∧ o < 0x030 then stageWrite .thm w s else s

/-- A write in TIME (R442). -/
def writeTime (w : RegWrite) (s : State) : State :=
  let o := w.off - 0x00300000
  if o = 0xFF8 then writeCommit .time w s else if 0x030 ≤ o ∧ o < 0x050 then stageWrite .time w s else s

/-- A write of a queue's window: bases while the queue is disabled, Q_CFG, and the doorbells (R524). -/
def writeQueue (q o : Nat) (w : RegWrite) (s : State) : State :=
  match o with
  | 0x00 => modQueue q (fun k => if k.enable then k else { k with sqBase := w.put k.sqBase 0 64 / 64 * 64 }) s
  | 0x08 => modQueue q (fun k => if k.enable then k else { k with cqBase := w.put k.cqBase 0 64 / 16 * 16 }) s
  | 0x10 =>
    let v := w.put (queueReg s q 0x10) 0 64
    if bit v 48 then enableQueue q v s else disableQueue q v s
  | 0x18 => ringSq q w.val s
  | 0x20 => ringCq q w.val s
  | _ => s

/-- A write in the MSI-X table: a vector whose mask is lifted sends what is pending (R522). -/
def writeVector (n lo : Nat) (w : RegWrite) (s : State) : State :=
  let e := (SMap.get Msix.entry0 s.msix.table n).toNat
  let e := setBits e (8 * lo) 64 (w.put (bits e (8 * lo) 64) 0 64)
  let s := { s with msix := { s.msix with table := SMap.set Msix.entry0 s.msix.table n (BitVec.ofNat 128 e) } }
  if s.msix.pendingBits.contains n && !bit e 96 && s.msix.enabled && !s.msix.maskAll then
    msixSend n { s with msix := { s.msix with pendingBits := s.msix.pendingBits.filter (· != n) } }
  else s

/-- A write in the HUB block (R521, R522, R524, R539). -/
def writeHub (w : RegWrite) (s : State) : State :=
  let o := w.off
  if 0x1000 ≤ o ∧ o < 0x1200 then writeQueue ((o - 0x1000) / 0x40) (o % 0x40) w s
  else if 0x8000 ≤ o ∧ o < 0x10000 then writeVector ((o - 0x8000) / 16) (o % 16) w s
  else match o with
  | 0x58 => { s with hub := { s.hub with vThermal := w.put s.hub.vThermal 0 11, vLog := w.put s.hub.vLog 16 11, vLink := w.put s.hub.vLink 32 11 } }
  | 0x60 => { s with hub := { s.hub with spBase := w.put s.hub.spBase 0 5, hbmBase := w.put s.hub.hbmBase 16 10 } }
  | 0x78 => ackLog (w.put s.log.acked 0 32) s
  | 0x80 => { s with log := { s.log with threshold := w.put s.log.threshold 0 13 } }
  | _ => s

/-- A write of current-keeping control: force_off stops dummy rows or groups of the die at once (R108, R162, R164). -/
def writeForceOff (k : Nat) (ve : Bool) (w : RegWrite) (s : State) : State :=
  let old := if ve then s.units.veOff.contains k else s.units.meOff.contains k
  let new := w.flag 0 old
  if new = old then s else setForceOff k ve new s

/-- A write in block CDIEk: fault flags clear where 1 is written (R110, R134, R164, R183, R214, R257, R380, R401). -/
def writeCdie (k o : Nat) (w : RegWrite) (s : State) : State :=
  let u := fun base => (o - base) / 0x40
  if 0x20000 ≤ o ∧ o < 0x20400 then
    if o % 0x40 = 0x20 then modBear (engId 0 k (u 0x20000)) (fun b => { b with
      operandFault := w.clear 0 b.operandFault, tileRetry := w.clear 1 b.tileRetry, tileFatal := w.clear 2 b.tileFatal }) s
    else if o % 0x40 = 0x38 then modBear (engId 0 k (u 0x20000)) (fun b => { b with accFatal := w.clear 32 b.accFatal }) s
    else s
  else if o = 0x20400 then writeForceOff k false w s
  else if 0x21000 ≤ o ∧ o < 0x21100 ∧ o % 0x40 = 0x28 then modBadger (engId 1 k (u 0x21000)) (fun b => { b with
    operandFault := w.clear 0 b.operandFault, eccFatal := w.clear 1 b.eccFatal, positionRange := w.clear 2 b.positionRange }) s
  else if o = 0x21400 then writeForceOff k true w s
  else if 0x22000 ≤ o ∧ o < 0x22800 ∧ o % 0x40 = 0x18 then modFox (engId 2 k (u 0x22000)) (fun c => { c with
    operandFault := w.clear 0 c.operandFault, trap := w.clear 1 c.trap, eccFatal := w.clear 2 c.eccFatal }) s
  else if 0x23000 ≤ o ∧ o < 0x23200 ∧ o % 0x40 = 0x20 then modHare (engId 3 k (u 0x23000)) (fun h => { h with
    operandFault := w.clear 0 h.operandFault, domainDown := w.clear 1 h.domainDown, hostError := w.clear 2 h.hostError
    poison := w.clear 3 h.poison }) s
  else if o = 0x24008 then modEcc .sp (2 ^ 32 * k) (fun r => { r with poisonValid := w.clear 63 r.poisonValid }) s
  else if o = 0x24020 then modEcc .cs (2 ^ 26 * k) (fun r => { r with poisonValid := w.clear 63 r.poisonValid }) s
  else if o = 0x25020 then modStr k (fun d => { d with
    contextFault := w.clear 0 d.contextFault, selectFault := w.clear 1 d.selectFault, stagingFault := w.clear 2 d.stagingFault }) s
  else if o = 0x26038 then { s with sett := { s.sett with counts := SMap.modify {} s.sett.counts k (fun c => { c with
    snoopTimeout := w.clear 0 c.snoopTimeout, ownerLost := w.clear 1 c.ownerLost, stray := w.clear 2 c.stray }) } }
  else if o = 0x27038 then modPack (engId 4 k 0) (fun p => { p with
    operandFault := w.clear 0 p.operandFault, mismatch := w.clear 1 p.mismatch, workShort := w.clear 2 p.workShort
    residueFatal := w.clear 3 p.residueFatal }) s
  else s

/-- A write in block OTILk: staged tile and port fields, COMMIT, and the projection engine's fault flags (R279, R317, R318). -/
def writeOtil (k o : Nat) (w : RegWrite) (s : State) : State :=
  if o = 0xFF8 then writeCommit (.otil k) w s
  else if o = 0x10 ∨ o = 0x18 ∨ (0x10000 ≤ o ∧ o < 0x14000 ∧ o % 0x1000 = 0x008) then stageWrite (.otil k) w s
  else if o = 0x60038 then modPpe k (fun p => { p with
    operandFault := w.clear 0 p.operandFault, matrixFault := w.clear 1 p.matrixFault, meshFault := w.clear 2 p.meshFault
    channelFatal := w.clear 3 p.channelFatal, feedSwitch := w.clear 4 p.feedSwitch }) s
  else s

/-- A write in block HBMCn (R215). -/
def writeHbmc (n o : Nat) (w : RegWrite) (s : State) : State :=
  if o = 0x10 then modEcc .hbm (2 ^ 36 * n) (fun r => { r with poisonValid := w.clear 63 r.poisonValid }) s
  else if o = 0x28 then { s with mem := { s.mem with hbmc := SMap.modify {} s.mem.hbmc n (fun h => { h with patrol := w.flag 0 h.patrol }) } }
  else s

/-- A refusal of a host access under R36, recorded with source 0x7000 and the address in its local form (R519, log entry 38). -/
def hostRefuse (code space off : Nat) (s : State) : State := addrFault code srcHost (BitVec.ofNat 64 (2 ^ 44 * space + off)) s

/-- A store to the TALLY or STREAM block: the tally unit or the stream unit takes it or refuses it (R238, R403); the epoch registers are
read-only. -/
def writeWindow (off len v : Nat) (s : State) : State :=
  match dcsStore srcHost off (leBytes len v) s with
  | some t => t
  | none => if off < 0x02A00000 then hostRefuse 0x9003 3 (off - 0x02800000) s else hostRefuse 0x9003 4 off s

/-- The effect of a write on DCS by the block it lies in; a reserved offset and a block without power take nothing (R518, R520). -/
def dcsWrite (off len v : Nat) (s : State) : State :=
  let w := regWriteOf off len v
  let o := w.off
  if dcsDark s off then s
  else if o < 0x00100000 then writeHub w s
  else if o < 0x00200000 then writePwr w s
  else if o < 0x00300000 then writeThm w s
  else if o < 0x00400000 then writeTime w s
  else if o < 0x01000000 then s
  else if o < 0x01800000 then writeCdie ((o - 0x01000000) / 0x100000) (o % 0x100000) w s
  else if o < 0x01C00000 then writeOtil ((o - 0x01800000) / 0x80000) (o % 0x80000) w s
  else if o < 0x02000000 then writeHbmc ((o - 0x01C00000) / 0x40000) (o % 0x40000) w s
  else if o < 0x02800000 then writeFab w s
  else if o < 0x03400000 then writeWindow off len v s
  else s

/-- Offsets a 4-byte write of which is an Unsupported Request: doorbells, COMMIT registers and set fields of tallies (R518). -/
def wholeOnly (o : Nat) : Bool :=
  (decide (0x1000 ≤ o ∧ o < 0x1200) && (o % 0x40 == 0x18 || o % 0x40 == 0x20)) ||
  [0x00100FF8, 0x00200FF8, 0x00300FF8, 0x02000FF8].contains o ||
  (decide (0x01800000 ≤ o ∧ o < 0x01C00000) && o % 0x80000 == 0xFF8) ||
  (decide (0x02800000 ≤ o ∧ o < 0x02A00000) && o % 32 == 16)

/-- Whether BAR0 takes an access: 4 or 8 bytes, aligned, inside its 64 MiB (R518). -/
def bar0Ok (off len : Nat) : Bool := decide (len = 4 ∨ len = 8) && decide (off % len = 0) && decide (off + len ≤ 0x04000000)

/-- REGISTER_WRITE (R37, R518). -/
def execRegisterWrite (off len v : Nat) (s : State) : Out :=
  onHost s (fun s =>
    if !bar0Ok off len || (decide (len = 4) && wholeOnly (off / 8 * 8)) then replyHost .ur s
    else dcsWrite off len v (hostPosted s))

/-! ### The tally window and DEV_SYNC (R224, R403) -/

/-- A store to a field of tally `i` in the direct window. -/
def tallyWindow (i o v size : Nat) (s : State) : State :=
  let off := 0x02800000 + 32 * i + o
  if !bar0Ok off size || decide (65536 ≤ i) || (decide (size = 4) && wholeOnly (off / 8 * 8)) then replyHost .ur s
  else writeWindow off size v (hostPosted s)

/-- TALLY_WINDOW_SIGNAL (R403): a flagged signal. -/
def execTallyWindowSignal (i v size : Nat) (s : State) : Out := onHost s (tallyWindow i 0x00 v size)

/-- TALLY_SET (R403). -/
def execTallySet (i v size : Nat) (s : State) : Out := onHost s (tallyWindow i 0x10 v size)

/-- TALLY_MARK_ERROR (R403). -/
def execTallyMarkError (i v size : Nat) (s : State) : Out := onHost s (tallyWindow i 0x08 v size)

/-- DEV_SYNC (R224): every earlier posted write has been performed, as each is when its command runs. -/
def execDevSync (s : State) : Out := onHost s (fun s => replyHost (.data (leBytes 8 s.hub.hostWrites) false) s)

/-! ### BAR reads, writes and AtomicOps (R230, R517 to R519) -/

/-- The store and offset behind a BAR2 or BAR4 access of `len` bytes: none where it leaves the BAR. The window's base is rounded down to
the BAR's size (R517). -/
def barTarget (s : State) (bar off len : Nat) : Option (Store × Nat) :=
  let size := if bar = 2 then s.hub.bar2 else s.hub.bar4
  let base := (if bar = 2 then s.hub.spBase else s.hub.hbmBase) / size * size
  if (bar ≠ 2 ∧ bar ≠ 4) ∨ len = 0 ∨ size * 2 ^ 30 < off + len then none
  else some (if bar = 2 then .sp else .hbm, 2 ^ 30 * base + off)

/-- The pattern of a refused read, in every 8-byte word it covers (R519). -/
def badPattern (off len : Nat) : List Byte := (List.range len).map (fun i => if (off + i) % 2 = 0 then 0xD0 else 0xBA)

/-- The checks of a class 7 access (R36, R189, R195, R517). -/
def hostCheck (s : State) (st : Store) (a len : Nat) (write : Bool) : Option Nat :=
  checkAccess s srcHost (BitVec.ofNat 64 (2 ^ 44 * storeSpace st + a)) len 1 write true

/-- A read of BAR0: the register, at the half a 4-byte read names; a read of TIME.NOW_S latches TIME.NOW_NS (R442, R518). -/
def bar0Read (off len : Nat) (s : State) : State :=
  if !bar0Ok off len then replyHost .ur s
  else if dcsDark s off then replyHost (.data (slice (leBytes 8 (freeWord s).toNat) 0 len) false) (useFree s)
  else
    let d := slice (leBytes 8 (dcsReg s (off / 8 * 8))) (off % 8) len
    let s := if off = 0x00300008 then modTime (fun t => { t with latchNs := t.hall.ns, latchFrac := t.hall.frac }) s else s
    replyHost (.data d false) s

/-- A read of BAR2 or BAR4: refused with the pattern, free where the domain has no power, poisoned where its line is (R212, R519). -/
def memRead (st : Store) (a len : Nat) (x : Ecc) (s : State) : State :=
  match hostCheck s st a len false with
  | some c => replyHost (.data (badPattern a len) false) (hostRefuse c (storeSpace st) a s)
  | none =>
    if domDark s (domainOf st a) then
      let r := freeBytes ((len + 7) / 8) s
      replyHost (.data (slice r.1 0 len) false) r.2
    else
      let s := served st false a len (eccNote st a srcHost x s)
      replyHost (.data (readStore s st a len) (poisoned s st a len)) s

/-- HOST_BAR_READ (R457, R517, R519), and the reads of registers through BAR0 (R518): in WATCH those of HUB and PWR are served. -/
def execHostBarRead (bar off len : Nat) (x : Ecc) (s : State) : Out :=
  if bar = 0 ∧ off < 0x00200000 ∧ s.power.st = .watch ∧ s.hub.l0 = true ∧ s.hub.ready = false then .next (bar0Read off len s)
  else onHost s (fun s =>
    if bar = 0 then bar0Read off len s
    else match barTarget s bar off len with
      | some (st, a) => memRead st a len x s
      | none => replyHost .ur s)

/-- A write to BAR2 or BAR4: a refused one is discarded (R519), and one to a domain without power is lost. -/
def memWrite (st : Store) (a : Nat) (d : List Byte) (s : State) : State :=
  match hostCheck s st a d.length true with
  | some c => hostRefuse c (storeSpace st) a s
  | none => if domDark s (domainOf st a) then s else served st false a d.length (writeStore st a d s)

/-- HOST_BAR_WRITE (R517, R519). -/
def execHostBarWrite (bar off : Nat) (d : List Byte) (s : State) : Out :=
  onHost s (fun s => match barTarget s bar off d.length with
    | some (st, a) => memWrite st a d (hostPosted s)
    | none => replyHost .ur s)

/-- The operation code and element type of an AtomicOp of a size: 0 FetchAdd, 1 Swap, 2 CAS (R230, R514). -/
def atomicOp (op size : Nat) : Option (Nat × Nat) :=
  let elem := if size = 4 then 0 else if size = 8 then 1 else 4
  if size ≠ 4 ∧ size ≠ 8 ∧ size ≠ 16 then none
  else match op with
  | 0 => if size = 16 then none else some (1, elem)
  | 1 => if size = 16 then none else some (10, elem)
  | 2 => some (11, elem)
  | _ => none

/-- An AtomicOp at the home: the old value returns, poisoned where the line is (R229, R230, R519, R557). -/
def memAtomic (st : Store) (a size : Nat) (o : Nat × Nat) (v cmp : Word128) (x : Ecc) (s : State) : State :=
  match hostCheck s st a size true with
  | some c => replyHost (.data (badPattern a size) false) (hostRefuse c (storeSpace st) a s)
  | none =>
    if domDark s (domainOf st a) then
      let r := freeBytes ((size + 7) / 8) s
      replyHost (.data (slice r.1 0 size) false) r.2
    else
      let s := served st false a size (eccNote st a srcHost x s)
      let r := if o.1 = 11 then atomAt st a 11 o.2 cmp.toNat v.toNat s else atomAt st a o.1 o.2 v.toNat 0 s
      replyHost (.data (leBytes size r.1) r.2.1) r.2.2

/-- HOST_ATOMIC (R230): PCIe defines its address as naturally aligned. -/
def execHostAtomic (bar off op size : Nat) (v cmp : Word128) (x : Ecc) (s : State) : Out :=
  onHost s (fun s => match atomicOp op size, barTarget s bar off size with
    | some o, some (st, a) => if off % size = 0 then memAtomic st a size o v cmp x s else replyHost .ur s
    | _, _ => replyHost .ur s)

end Sys2Proof.Machine
end

