-- ==== Sys2Proof/Machine/Sha.lean ====
section
/-! DEFINITION. SHA-384 (FIPS 180-4), which the common digest of a plan image names (R76). The standard's text is outside the spec
(PRESUMED, log entry 34). -/

namespace Sys2Proof.Machine

open Sys2Proof

/-- The round constants. -/
def shaK : List Nat :=
  [0x428A2F98D728AE22, 0x7137449123EF65CD, 0xB5C0FBCFEC4D3B2F, 0xE9B5DBA58189DBBC,
    0x3956C25BF348B538, 0x59F111F1B605D019, 0x923F82A4AF194F9B, 0xAB1C5ED5DA6D8118,
    0xD807AA98A3030242, 0x12835B0145706FBE, 0x243185BE4EE4B28C, 0x550C7DC3D5FFB4E2,
    0x72BE5D74F27B896F, 0x80DEB1FE3B1696B1, 0x9BDC06A725C71235, 0xC19BF174CF692694,
    0xE49B69C19EF14AD2, 0xEFBE4786384F25E3, 0x0FC19DC68B8CD5B5, 0x240CA1CC77AC9C65] ++
  [0x2DE92C6F592B0275, 0x4A7484AA6EA6E483, 0x5CB0A9DCBD41FBD4, 0x76F988DA831153B5,
    0x983E5152EE66DFAB, 0xA831C66D2DB43210, 0xB00327C898FB213F, 0xBF597FC7BEEF0EE4,
    0xC6E00BF33DA88FC2, 0xD5A79147930AA725, 0x06CA6351E003826F, 0x142929670A0E6E70,
    0x27B70A8546D22FFC, 0x2E1B21385C26C926, 0x4D2C6DFC5AC42AED, 0x53380D139D95B3DF,
    0x650A73548BAF63DE, 0x766A0ABB3C77B2A8, 0x81C2C92E47EDAEE6, 0x92722C851482353B] ++
  [0xA2BFE8A14CF10364, 0xA81A664BBC423001, 0xC24B8B70D0F89791, 0xC76C51A30654BE30,
    0xD192E819D6EF5218, 0xD69906245565A910, 0xF40E35855771202A, 0x106AA07032BBD1B8,
    0x19A4C116B8D2D0C8, 0x1E376C085141AB53, 0x2748774CDF8EEB99, 0x34B0BCB5E19B48A8,
    0x391C0CB3C5C95A63, 0x4ED8AA4AE3418ACB, 0x5B9CCA4F7763E373, 0x682E6FF3D6B2B8A3,
    0x748F82EE5DEFB2FC, 0x78A5636F43172F60, 0x84C87814A1F0AB72, 0x8CC702081A6439EC] ++
  [0x90BEFFFA23631E28, 0xA4506CEBDE82BDE9, 0xBEF9A3F7B2C67915, 0xC67178F2E372532B,
    0xCA273ECEEA26619C, 0xD186B8C721C0C207, 0xEADA7DD6CDE0EB1E, 0xF57D4F7FEE6ED178,
    0x06F067AA72176FBA, 0x0A637DC5A2C898A6, 0x113F9804BEF90DAE, 0x1B710B35131C471B,
    0x28DB77F523047D84, 0x32CAAB7B40C72493, 0x3C9EBE0A15C9BEBC, 0x431D67C49C100D4C,
    0x4CC5D4BECB3E42B6, 0x597F299CFC657E2A, 0x5FCB6FAB3AD6FAEC, 0x6C44198C4A475817]

/-- The initial hash value of SHA-384. -/
def shaH0 : List Nat :=
  [0xCBBB9D5DC1059ED8, 0x629A292A367CD507, 0x9159015A3070DD17, 0x152FECD8F70E5939,
    0x67332667FFC00B31, 0x8EB44A8768581511, 0xDB0C2E0D64F98FA7, 0x47B5481DBEFA4FA4]

/-- A word modulo 2^64. -/
def w64n (n : Nat) : Nat := n % 2 ^ 64
/-- Rotate a 64-bit word right. -/
def rotr (n x : Nat) : Nat := (x >>> n) ||| w64n (x <<< (64 - n))
/-- The functions of the message schedule and of the rounds. -/
def shaS (a b c x : Nat) : Nat := rotr a x ^^^ rotr b x ^^^ (x >>> c)
/-- The rotations of the rounds. -/
def shaB (a b c x : Nat) : Nat := rotr a x ^^^ rotr b x ^^^ rotr c x

/-- The message schedule of a block, newest word first, from its 16 words. -/
def shaSchedule : Nat → List Nat → List Nat
  | 0, ws => ws
  | n + 1, ws =>
    let w := fun (i : Nat) => ws.getD i 0
    shaSchedule n (w64n (shaS 19 61 6 (w 1) + w 6 + shaS 1 8 7 (w 14) + w 15) :: ws)

/-- One round: the eight working words. -/
def shaRound (h : List Nat) (kw : Nat) : List Nat :=
  match h with
  | [a, b, c, d, e, f, g, x] =>
    let t1 := x + shaB 14 18 41 e + ((e &&& f) ^^^ ((2 ^ 64 - 1 - e) &&& g)) + kw
    let t2 := shaB 28 34 39 a + ((a &&& b) ^^^ (a &&& c) ^^^ (b &&& c))
    [w64n (t1 + t2), a, b, c, w64n (d + t1), e, f, g]
  | _ => h

/-- Big-endian value of a byte list. -/
def beVal (l : List Byte) : Nat := l.foldl (fun n b => n * 256 + b.toNat) 0

/-- One 128-byte block. -/
def shaBlock (h : List Nat) (b : List Byte) : List Nat :=
  let ws := (shaSchedule 64 ((chunksOf 8 16 b).map beVal).reverse).reverse
  let r := (List.zip shaK ws).foldl (fun h x => shaRound h (x.1 + x.2)) h
  (List.zip h r).map (fun x => w64n (x.1 + x.2))

/-- The padded message. -/
def shaPad (l : List Byte) : List Byte :=
  let n := l.length
  l ++ [0x80] ++ List.replicate ((128 - (n + 17) % 128) % 128) 0 ++ (leBytes 16 (8 * n)).reverse

/-- SHA-384 of a byte list, as the number its bytes make, most significant first. -/
def sha384 (l : List Byte) : BitVec 384 :=
  let p := shaPad l
  let h := (chunksOf 128 (p.length / 128) p).foldl shaBlock shaH0
  BitVec.ofNat 384 ((h.take 6).foldl (fun n w => n * 2 ^ 64 + w) 0)

end Sys2Proof.Machine
end

