-- ==== Sys2Proof/Machine/Image.lean ====
section
/-! DEFINITION. Plan images: the section table, stage 1 of the loader's checks, and the plan an image holds (R40 to R76). -/

namespace Sys2Proof.Machine

open Sys2Proof

/-- A refusal of the loader (R75): its code, section index, record index and byte offset; 0xFFFFFFFF where no section or record applies. -/
structure LoadErr where
  code : Nat
  sec : Nat := 0xFFFFFFFF
  rcd : Nat := 0xFFFFFFFF
  off : Nat := 0
deriving DecidableEq, Repr

/-- A section table entry (R43) with its place in the table. -/
structure Sec where
  idx : Nat
  ty : Nat
  key : Nat
  off : Nat
  size : Nat
  count : Nat
deriving DecidableEq, Repr

/-- An image with its section table. -/
structure Img where
  bytes : List Byte
  secs : List Sec
deriving DecidableEq, Repr

/-- A failure where a condition holds. -/
def errIf (b : Bool) (e : LoadErr) : Option LoadErr := if b then some e else none
/-- The first failure of a list of checks. -/
def firstErr (l : List (Option LoadErr)) : Option LoadErr := l.findSome? id
/-- A failure of a header field. -/
def hdrErr (code off : Nat) (b : Bool) : Option LoadErr := errIf b { code := code, off := off }

/-- A field of the image. -/
def Img.u (m : Img) (off n : Nat) : Nat := leAt m.bytes off n
/-- The offset of the section table. -/
def Img.table (m : Img) : Nat := m.u 0x0C 4
/-- The size of the image. -/
def Img.size (m : Img) : Nat := m.u 0x08 4

/-- The section table of an image's bytes (R41, R43). -/
def parseSecs (d : List Byte) : List Sec :=
  let t := leAt d 0x0C 4
  (List.range (min (leAt d 0x10 4) (d.length / 16))).map (fun i =>
    let o := t + 16 * i
    { idx := i, ty := leAt d o 2, key := leAt d (o + 2) 2, off := leAt d (o + 4) 4, size := leAt d (o + 8) 4, count := leAt d (o + 12) 4 })

/-- An image. -/
def parseImg (d : List Byte) : Img := { bytes := d, secs := parseSecs d }

/-- The section of a type and key. -/
def Img.sec? (m : Img) (ty key : Nat) : Option Sec := m.secs.find? (fun x => x.ty == ty && x.key == key)

/-- The record size of a type; 0 for SPAN and PROG (R44). -/
def recSize (ty : Nat) : Nat :=
  match ty with
  | 0x0002 => 32 | 0x0003 => 8 | 0x0004 => 16 | 0x0005 => 16 | 0x0006 => 16 | 0x0007 => 32 | 0x0008 => 8
  | 0x0101 => 24 | 0x0102 => 16 | 0x0103 => 8 | 0x0104 => 16 | 0x0105 => 16 | 0x0106 => 16 | 0x0107 => 16
  | _ => 0

/-- Whether a type is one of R44. -/
def secKnown (ty : Nat) : Bool := decide (1 ≤ ty ∧ ty ≤ 9) || decide (0x0101 ≤ ty ∧ ty ≤ 0x0107)

/-- Whether a key is allowed for a type (R45). -/
def keyOk (ty key : Nat) : Bool :=
  if ty = 0x0003 then decide (key ≤ 65534)
  else if ty = 0x0009 then true
  else if 0x0100 ≤ ty then decide (key ≤ 32767 ∨ key = 0xFFFF)
  else decide (key = 0)

/-- The records of a section: index and offset. -/
def Sec.recs (x : Sec) : List (Nat × Nat) := (List.range x.count).map (fun i => (i, x.off + i * recSize x.ty))

/-- A failure of a record of a section, at an offset in the image. -/
def recErr (code : Nat) (x : Sec) (i off : Nat) (b : Bool) : Option LoadErr := errIf b { code := code, sec := x.idx, rcd := i, off := off }
/-- A failure of a section's table entry. -/
def entErr (m : Img) (code : Nat) (x : Sec) (f : Nat) (b : Bool) : Option LoadErr :=
  errIf b { code := code, sec := x.idx, off := m.table + 16 * x.idx + f }

/-! ### Stage 1 (R74) -/

/-- The sum of the image's 32-bit words is zero (R42). -/
def sumOk (d : List Byte) : Bool := decide (((chunksOf 4 d.length d).map leVal).foldl (· + ·) 0 % 2 ^ 32 = 0)

/-- PR_SIZE, PR_MAGIC, PR_VERSION, PR_CHECK, PR_TARGET. -/
def checkHeader (d : List Byte) (len : Nat) : Option LoadErr :=
  let u := fun (o n : Nat) => leAt d o n
  firstErr [
    hdrErr 0x01 0x08 (decide (u 8 4 ≠ len ∨ u 8 4 < 128 ∨ u 8 4 % 8 ≠ 0)),
    hdrErr 0x02 0x00 (decide (u 0 4 ≠ 0x504E524C)),
    hdrErr 0x03 0x04 (decide (u 4 2 ≠ 1)),
    hdrErr 0x03 0x06 (decide (u 6 2 ≠ 0)),
    hdrErr 0x04 0x7C (!sumOk d),
    hdrErr 0x05 0x20 (decide (u 0x20 2 ≠ 0x0E01)),
    hdrErr 0x05 0x22 (decide (u 0x22 2 ≠ 0x0002)),
    hdrErr 0x05 0x24 (decide (Config.stepping.toNat < u 0x24 1))]

/-- PR_TABLE (R40, R41, R43). -/
def checkTable (m : Img) : Option LoadErr :=
  let n := m.u 0x10 4
  let t := m.table
  let meets := fun (a b : Nat × Nat) => decide (a.2 ≠ 0) && decide (b.2 ≠ 0) && overlaps a b
  firstErr ([
    hdrErr 0x06 0x0C (decide (t % 8 ≠ 0 ∨ t < 0x80 ∨ m.size < t + 16 * n)),
    hdrErr 0x06 0x10 (decide (n < 1 ∨ 262144 < n))] ++
    m.secs.map (fun x =>
      let prev := (m.secs[x.idx - 1]?).getD x
      let me := (x.off, x.size)
      firstErr [
        entErr m 0x06 x 0 (decide (x.idx ≠ 0) && decide (65536 * x.ty + x.key ≤ 65536 * prev.ty + prev.key)),
        entErr m 0x06 x 4 (decide (x.off % 8 ≠ 0 ∨ m.size < x.off + x.size)),
        entErr m 0x06 x 8 (decide (x.size % 8 ≠ 0)),
        entErr m 0x06 x 4 (meets me (0, 128) || meets me (t, 16 * n) || m.secs.any (fun y => y.idx != x.idx && meets me (y.off, y.size)))]))

/-- PR_TYPE (R44, R45). -/
def checkTypes (m : Img) : Option LoadErr :=
  firstErr (m.secs.map (fun x =>
    let size := if x.ty = 0x0001 then alignUp (8 + 4 * x.count) 8
      else if x.ty = 0x0009 then 16 + m.u (x.off + 4) 4 else x.count * recSize x.ty
    firstErr [
      entErr m 0x07 x 0 (!secKnown x.ty),
      entErr m 0x07 x 2 (!keyOk x.ty x.key),
      entErr m 0x07 x 8 (decide (x.size ≠ size) || (decide (x.ty = 0x0009) && decide (x.count ≠ 1 ∨ x.size < 16)))]))

/-- PR_PRESENCE (R44): record counts of the Occurrence column, then missing sections. R74 and R75 give such a count no offset and no place
among the missing sections: the record names the count field of the section's table entry, and counts come first (DESIGN CHOICE, log
entry 43). -/
def checkPresence (m : Img) : Option LoadErr :=
  firstErr (m.secs.map (fun x => entErr m 0x08 x 12
      ((decide (x.ty = 0x0004) && decide (x.count < 1 ∨ 256 < x.count)) || (decide (x.ty = 0x0005) && decide (256 < x.count)) ||
       (decide (x.ty = 0x0007) && decide (x.count ≠ 1)))) ++
    [0x0001, 0x0002, 0x0004].map (fun ty => hdrErr 0x08 m.table (m.sec? ty 0).isNone))

/-- Reserved and code fields of a record: offset, bytes, and the largest value allowed (R74). -/
def reservedFields (ty : Nat) : List (Nat × Nat × Nat) :=
  match ty with
  | 0x0002 => [(0, 1, 2), (1, 1, 1), (6, 2, 0), (0x14, 12, 0)]
  | 0x0003 => [(0, 1, 1), (2, 1, 0)]
  | 0x0004 => [(0x0A, 1, 1), (0x0B, 1, 0), (0x0E, 2, 0)]
  | 0x0005 => [(0x0E, 2, 0)]
  | 0x0006 => [(7, 1, 7), (0x0C, 4, 0)]
  | 0x0007 => [(0x13, 1, 1), (0x14, 12, 0)]
  | 0x0008 => [(5, 3, 0)]
  | 0x0101 => [(0x0C, 1, 1), (0x0D, 3, 0)]
  | 0x0106 => [(8, 4, 1)]
  | _ => []

/-- PR_RESERVED of one section. R44 does not say whether the padding of SPAN is reserved: a non-zero byte of it is refused here
(DESIGN CHOICE, log entry 43). -/
def checkReservedSec (m : Img) (x : Sec) : Option LoadErr :=
  if x.ty = 0x0001 then
    let pad := x.off + 8 + 4 * x.count
    let at' := fun (o : Nat) => errIf true { code := 0x09, sec := x.idx, off := o }
    if m.u (x.off + 6) 2 ≠ 0 then at' (x.off + 6)
    else if m.u pad (x.off + x.size - pad) ≠ 0 then at' pad
    else none
  else if x.ty = 0x0009 then
    let cls := m.u x.off 1
    firstErr [
      recErr 0x09 x 0 x.off (decide (5 < cls)),
      recErr 0x09 x 0 (x.off + 1) (decide (m.u (x.off + 1) 1 > (if cls = 5 then 1 else 0))),
      recErr 0x09 x 0 (x.off + 2) (decide (m.u (x.off + 2) 2 ≠ 0))]
  else
    firstErr (x.recs.map (fun r => firstErr ((reservedFields x.ty).map (fun f =>
      recErr 0x09 x r.1 (r.2 + f.1) (decide (f.2.2 < m.u (r.2 + f.1) f.2.1))))))

/-- PR_RESERVED: the header, the sections in table order, then bytes that lie in none of them (R43, R74). -/
def checkReserved (m : Img) : Option LoadErr :=
  let spans := (0, 128) :: (m.table, 16 * m.secs.length) :: m.secs.map (fun x => (x.off, x.size))
  let stray := (List.zip (List.range m.bytes.length) m.bytes).find? (fun b =>
    decide (b.2 ≠ 0) && !spans.any (fun p => decide (p.1 ≤ b.1) && decide (b.1 < p.1 + p.2)))
  firstErr ([
    hdrErr 0x09 0x25 (decide (1 < m.u 0x25 1)),
    hdrErr 0x09 0x26 (decide (m.u 0x26 2 ≠ 0)),
    hdrErr 0x09 0x28 (decide (60000 < m.u 0x28 4)),
    hdrErr 0x09 0x30 (decide (m.u 0x30 76 ≠ 0))] ++ m.secs.map (checkReservedSec m) ++
    [stray.map (fun b => { code := 0x09, off := b.1 })])

/-- Stage 1, in the order of R74. -/
def checkStage1 (d : List Byte) (len : Nat) : Option LoadErr :=
  match checkHeader d len with
  | some e => some e
  | none =>
    let m := parseImg d
    match checkTable m with
    | some e => some e
    | none => match checkTypes m with
      | some e => some e
      | none => match checkPresence m with
        | some e => some e
        | none => checkReserved m

/-! ### The common digest (R76) -/

/-- Zero bytes `[lo, lo + n)` of a byte list. -/
def zeroAt (l : List Byte) (lo n : Nat) : List Byte := l.take lo ++ List.replicate (min n (l.length - lo)) 0 ++ l.drop (lo + n)

/-- The common digest of an image. -/
def commonDigest (m : Img) : BitVec 384 :=
  let head := zeroAt (zeroAt (m.bytes.take 128) 0x08 12) 0x7C 4
  let cs := m.secs.filter (fun x => decide (x.ty < 0x0100))
  let ents := cs.flatMap (fun x => zeroAt ((m.bytes.drop (m.table + 16 * x.idx)).take 16) 4 4)
  sha384 (head ++ ents ++ cs.flatMap (fun x => (m.bytes.drop x.off).take x.size))

/-! ### The plan an image holds -/

/-- The records of the section of a type and key, as offsets. -/
def Img.offs (m : Img) (ty key : Nat) : List Nat :=
  match m.sec? ty key with
  | some x => x.recs.map (·.2)
  | none => []

/-- The roster entries (R46). -/
def Img.span (m : Img) : List SpanEntry :=
  match m.sec? 0x0001 0 with
  | some x => (List.range x.count).map (fun i =>
      let o := x.off + 8 + 4 * i
      { logical := if m.u o 2 = 0xFFFF then none else some (m.u o 2), physical := m.u (o + 2) 2 })
  | none => []

/-- A PHASE record. -/
def Img.phase (m : Img) (o : Nat) : Phase :=
  { kind := m.u o 1, epoch := bit (m.u (o + 1) 1) 0, colourSet := m.u (o + 2) 2, powerClass := m.u (o + 4) 2
    next := m.u (o + 8) 4, alt := m.u (o + 12) 4, altCount := m.u (o + 16) 4 }

/-- A COLOUR record. -/
def Img.colour (m : Img) (o : Nat) : ColourRec :=
  { shiftKind := decide (m.u o 1 = 1), port := m.u (o + 1) 1, shift := m.u (o + 3) 1, src := m.u (o + 4) 2, dst := m.u (o + 6) 2 }

/-- A POWER record. -/
def Img.power (m : Img) (o : Nat) : PowerClass :=
  { stepRate := m.u o 4, floorMv := m.u (o + 4) 2, ceilMv := m.u (o + 6) 2
    keepGap := if m.u (o + 8) 2 = 0 then 2000 else m.u (o + 8) 2, keepEnable := decide (m.u (o + 10) 1 = 1), limitW := m.u (o + 12) 2 }

/-- The EPOCH record. -/
def Img.epoch (m : Img) (o : Nat) : EpochRec :=
  { hoardBase := m.u o 8, hoardSize := m.u (o + 8) 8, lag := if m.u (o + 16) 2 = 0 then 50 else m.u (o + 16) 2
    epochs := if m.u (o + 18) 1 = 0 then 3 else m.u (o + 18) 1, swap := bit (m.u (o + 19) 1) 0 }

/-- A program. -/
def Img.prog (m : Img) (x : Sec) : Prog :=
  { key := x.key, cls := m.u x.off 1, mode := m.u (x.off + 1) 1, entry := m.u (x.off + 8) 4, paramWords := m.u (x.off + 12) 4
    code := (List.range (m.u (x.off + 4) 4 / 8)).map (fun i => BitVec.ofNat 64 (m.u (x.off + 16 + 8 * i) 8)) }

/-- Whether a key has per-device sections (R45). -/
def Img.hasKey (m : Img) (key : Nat) : Bool := m.secs.any (fun x => decide (0x0100 ≤ x.ty) && x.key == key)

/-- The key whose per-device sections a logical device uses (R45). -/
def Img.devKey (m : Img) (d : Nat) : Option Nat :=
  if m.hasKey d then some d else if m.hasKey 0xFFFF then some 0xFFFF else none

/-- A HOLD record: its owners up to the first unused entry. -/
def Img.hold (m : Img) (o : Nat) : Hold :=
  { first := m.u o 4, last := m.u (o + 4) 4, bank := m.u (o + 8) 2, count := m.u (o + 10) 2, shared := decide (m.u (o + 12) 1 = 1)
    owners := ((List.range 4).map (fun j => m.u (o + 16 + 2 * j) 2)).takeWhile (fun e => e != 0xFFFF) }

/-- The per-device sections of a key. -/
def Img.dev (m : Img) (key : Nat) : DevSections :=
  { holds := (m.offs 0x0101 key).map m.hold
    binds := (m.offs 0x0102 key).map (fun o =>
      { first := m.u o 4, last := m.u (o + 4) 4, engine := m.u (o + 8) 2, prog := m.u (o + 10) 2, param := m.u (o + 12) 4 })
    params := (m.offs 0x0103 key).map (fun o => BitVec.ofNat 64 (m.u o 8))
    tallies := (m.offs 0x0104 key).map (fun o => { first := m.u o 4, count := m.u (o + 4) 4, initial := m.u (o + 8) 8 })
    compls := (m.offs 0x0105 key).map (fun o => { phase := m.u o 4, tally := m.u (o + 4) 4, target := m.u (o + 8) 8 })
    streams := (m.offs 0x0106 key).map (fun o =>
      { first := m.u o 4, count := m.u (o + 4) 4, digital := bit (m.u (o + 8) 4) 0
        initParam := if m.u (o + 12) 4 = 0xFFFFFFFF then none else some (m.u (o + 12) 4) })
    shards := (m.offs 0x0107 key).map (fun o => { space := bits (m.u o 8) 44 3, off := bits (m.u o 8) 0 44, size := m.u (o + 8) 8 }) }

/-- The keys of an image's per-device sections. -/
def Img.devKeys (m : Img) : List Nat :=
  ((m.secs.filter (fun x => decide (0x0100 ≤ x.ty))).map (·.key)).foldl (fun acc k => insertNat k acc) []

/-- The plan an image holds. -/
def Img.plan (m : Img) : Plan :=
  { planId := BitVec.ofNat 64 (m.u 0x18 8), repro := bit (m.u 0x25 1) 0
    joinTimeout := if m.u 0x28 4 = 0 then 10000 else m.u 0x28 4
    steward := match m.sec? 0x0001 0 with
      | some x => m.u (x.off + 4) 2
      | none => 0
    spanDevices := m.u 0x14 4, digest := commonDigest m, span := m.span
    phases := (m.offs 0x0002 0).map m.phase
    colours := (m.secs.filter (fun x => x.ty == 0x0003)).map (fun x => (x.key, x.recs.map (fun r => m.colour r.2)))
    powers := (m.offs 0x0004 0).map m.power
    regions := (m.offs 0x0005 0).map (fun o => { base := m.u o 8, size := m.u (o + 8) 4 * 2 ^ 20, code := m.u (o + 12) 2 })
    routes := (m.offs 0x0006 0).map (fun o =>
      { colourSet := m.u o 2, src := m.u (o + 2) 2, dst := m.u (o + 4) 2, hops := m.u (o + 6) 1, vcMask := m.u (o + 7) 1
        via1 := m.u (o + 8) 2, via2 := m.u (o + 10) 2 })
    epoch := ((m.offs 0x0007 0).map m.epoch).head?
    calwins := (m.offs 0x0008 0).map (fun o => (m.u o 4, m.u (o + 4) 1))
    progs := (m.secs.filter (fun x => x.ty == 0x0009)).map m.prog
    devs := m.devKeys.map (fun k => (k, m.dev k)) }

end Sys2Proof.Machine
end

