-- ==== Sys2Proof/Machine/Lint.lean ====
section
/-! DEFINITION. The loader's checks of engine programs and of the descriptors their instructions read (R62, R74, R89 to R102, R120 to R129,
R139 to R159, R198 to R204, R246 to R252, R262 to R264, R366, R382 to R386). -/

namespace Sys2Proof.Machine

open Sys2Proof

/-! ### Instructions (stage 2) -/

/-- Whether a word has no bit set outside some fields. -/
def onlyBits (w : Nat) (fs : List (Nat × Nat)) : Bool := decide (fs.foldl (fun n f => setBits n f.1 f.2 0) w = 0)

/-- The control instructions, at instruction index `pc` (R91). -/
def ctrlOk (w pc : Nat) : Bool :=
  match w % 256 with
  | 0x00 => decide (w < 256)
  | 0x01 => decide (w < 256)
  | 0x02 => onlyBits w [(0, 9), (16, 48)]
  | 0x03 => onlyBits w [(0, 8), (16, 48)]
  | 0x04 => onlyBits w [(0, 8), (16, 16)]
  | 0x08 => onlyBits w [(0, 12), (32, 32)]
  | 0x09 => onlyBits w [(0, 12), (32, 32)]
  | 0x0A => onlyBits w [(0, 12), (32, 32)] && decide (bits w 32 32 % 8 = 0 ∧ bits w 32 32 < 8 * pc)
  | _ => false

/-- The mode of a bear's instruction: native, or compatibility with 32 or 16 as the cub (R100). -/
inductive BearMode where
  | native
  | cub32
  | cub16
deriving DecidableEq, Repr

/-- The mode a CMODE enters. -/
def cmodeMode (w : Nat) : BearMode := if !bit w 9 then .native else if bit w 8 then .cub16 else .cub32

/-- The mode the nearest CMODE before an index sets (R100). -/
def modeAt (code : List Word64) (pc : Nat) : BearMode :=
  (code.take pc).foldl (fun m w => if fld w 0 8 = 0x31 then cmodeMode w.toNat else m) .native

/-- A bear's own instructions (R90 to R102, R120, R128, R129). -/
def bearOk (m : BearMode) (w : Nat) : Bool :=
  let rows := fun (lo lim : Nat) => decide (bits w lo 9 + bits w 45 9 + 1 ≤ lim)
  match w % 256, m with
  | 0x0C, _ => onlyBits w [(0, 9)]
  | 0x31, _ =>
    onlyBits w [(0, 10), (16, 16)] &&
    (if bit w 9 then bit w 8 || decide (bits w 16 6 ≤ 15) else decide (bits w 16 16 = 0) && !bit w 8)
  | 0x10, .native => onlyBits w [(0, 10), (12, 52)] && decide (bits w 55 9 + bits w 32 9 + 1 ≤ 512)
  | 0x20, .native => onlyBits w [(0, 61)] && decide (bits w 14 2 ≠ 3) && rows 36 512 &&
      (decide (bits w 14 2 ≠ 0) || decide (bits w 26 10 = 0))
  | 0x21, .native => onlyBits w [(0, 9), (36, 18)] && rows 36 512
  | 0x23, .native => onlyBits w [(0, 9), (16, 10), (36, 18)] && rows 36 512
  | 0x40, .cub32 => onlyBits w [(0, 14), (16, 46)] && decide (bits w 8 4 < 4) && decide (bits w 55 7 + bits w 48 7 + 1 ≤ 128)
  | 0x41, .cub16 => onlyBits w [(0, 14), (16, 46)] && decide (bits w 8 4 < 4) && decide (bits w 48 7 < 64) &&
      decide (bits w 55 7 + bits w 48 7 + 1 ≤ 64)
  | 0x42, .cub32 => onlyBits w [(0, 12), (13, 1), (16, 23), (40, 7)] && decide (bits w 8 4 < 5) && decide (bits w 32 7 + bits w 40 7 + 1 ≤ 128)
  | 0x42, .cub16 => onlyBits w [(0, 12), (13, 1), (16, 23), (40, 7)] && decide (bits w 8 4 < 5) && decide (bits w 32 7 + bits w 40 7 + 1 ≤ 64)
  | _, _ => false

/-- A badger's own instructions (R139, R142, R157, R159). -/
def badgerOk (w : Nat) : Bool :=
  match w % 256 with
  | 0x0C => onlyBits w [(0, 9)]
  | 0x50 => onlyBits w [(0, 18), (32, 32)]
  | 0x51 => onlyBits w [(0, 11), (12, 52)]
  | 0x52 => onlyBits w [(0, 11), (12, 46)] && decide (bits w 50 7 ≤ 64)
  | _ => false

/-- A hare's own instructions (R199, R246, R249, R250, R252). -/
def hareOk (w : Nat) : Bool :=
  let slots := decide (bits w 20 10 + bits w 30 10 + 1 ≤ 1024)
  match w % 256 with
  | 0x60 => onlyBits w [(0, 20)]
  | 0x61 => onlyBits w [(0, 9), (10, 10)]
  | 0x62 => onlyBits w [(0, 9), (10, 10)]
  | 0x64 => onlyBits w [(0, 8), (10, 30)] && slots
  | 0x65 => onlyBits w [(0, 8), (20, 36)] && slots
  | 0x66 => onlyBits w [(0, 8), (10, 31)] && slots && (bit w 40 || decide (bits w 20 20 = 0))
  | 0x67 => onlyBits w [(0, 8), (20, 20)] && slots
  | _ => false

/-- A projection engine's own instructions (R262, R264). -/
def ppeOk (mode w : Nat) : Bool :=
  match w % 256, mode with
  | 0x70, _ => onlyBits w [(0, 18)]
  | 0x71, 0 => onlyBits w [(0, 29), (32, 24)]
  | 0x72, 1 => onlyBits w [(0, 28), (29, 27)]
  | _, _ => false

/-- Whether a LOOP goes back past a CMODE (R100). -/
def loopPastCmode (code : List Word64) (pc w : Nat) : Bool :=
  decide (w % 256 = 0x0A) && ((code.take pc).drop (bits w 32 32 / 8 + 1)).any (fun v => decide (fld v 0 8 = 0x31))

/-- Whether an instruction of a program is decodable (R62, R74). -/
def insOk (p : Prog) (pc : Nat) (w : Nat) : Bool :=
  if ctrlOk w pc then !(decide (p.cls = 0) && loopPastCmode p.code pc w)
  else match p.cls with
    | 0 => bearOk (modeAt p.code pc) w
    | 1 => badgerOk w
    | 3 => hareOk w
    | 4 => decide (w % 256 = 0x80) && onlyBits w [(0, 18)]
    | 5 => ppeOk p.mode w
    | _ => false

/-- Bytes of the instruction store of a class (R90, R139, R169, R198, R262, R382). -/
def storeBytes (cls : Nat) : Nat := if cls = 2 then 262144 else if cls = 5 then 8192 else 65536

/-- The first failure of a program under PR_PROGRAM at stage 2: an offset in its section. -/
def lintProg (p : Prog) (len : Nat) : Option Nat :=
  if storeBytes p.cls < len ∨ len % 8 ≠ 0 then some 4
  else if p.entry % 8 ≠ 0 ∨ len ≤ p.entry then some 8
  else if p.cls = 2 then (if 65536 < p.paramWords then some 12 else none)
  else match (List.range p.code.length).find? (fun i => !insOk p i ((p.code[i]?).getD 0).toNat) with
    | some i => some (16 + 8 * i)
    | none => if fld ((p.code.getLast?).getD 0) 0 8 = 0x01 then none else some (16 + len - 8)

/-! ### Descriptors (stage 3) -/

/-- A binding's PARAM words as a check of descriptors reads them, and how many there are. -/
structure Words where
  at' : Nat → Nat
  n : Nat

/-- Checks of PARAM words: the index of each and whether it holds. The first that fails is reported. -/
abbrev WordChecks := List (Nat × Bool)

/-- A slot of `k` words lies within the binding's PARAM words (log entry 35). -/
def Words.has (g : Words) (k d : Nat) : WordChecks := [(k * d, decide (k * d + k ≤ g.n))]

/-- Whether a code is one of R83. -/
def opCode (c : Nat) : Bool := decide (c = 0x01 ∨ c = 0x02 ∨ (0x08 ≤ c ∧ c ≤ 0x0C) ∨ c = 0x10 ∨ c = 0x11 ∨ c = 0x20 ∨ c = 0x21)

/-- Whether two codes form a pair of R84. -/
def opPair (a b : Nat) : Bool :=
  let f8 := fun c => decide (c = 0x01 ∨ c = 0x02)
  let mx := fun c => decide (0x08 ≤ c ∧ c ≤ 0x0C)
  let i := fun c => decide (c = 0x20 ∨ c = 0x21)
  (f8 a && f8 b) || (mx a && mx b) || (decide (a = b) && decide (a = 0x10 ∨ a = 0x11)) || (i a && i b)

/-- An operand descriptor of an MMA: `e` elements in a row, `sc` the least stride of scales (R89). -/
def lintOperand (g : Words) (d e sc : Nat) : WordChecks :=
  let w := fun i => g.at' (4 * d + i)
  let c := bits (w 1) 32 8
  g.has 4 d ++ [
    (4 * d, decide (w 0 < 2 ^ 35)),
    (4 * d + 1, opCode c && decide (w 1 < 2 ^ 40) && decide (bits (w 1) 0 32 % 16 = 0 ∧ rowLen c e ≤ bits (w 1) 0 32)),
    (4 * d + 2, if codeIsMx c then decide (bits (w 2) 35 13 = 0) && decide (sc ≤ bits (w 2) 48 16) else decide (w 2 = 0)),
    (4 * d + 3, decide (w 3 < 2 ^ 60))]

/-- The descriptors of an MMA (R84, R89, R92). -/
def lintMma (g : Words) (w : Nat) : WordChecks :=
  let a := bits w 12 10
  let b := bits w 22 10
  let k := bits w 41 7 + 1
  let n := bits w 48 7 + 1
  let fmt := fun d => bits (g.at' (4 * d + 1)) 32 8
  lintOperand g a k ((k + 31) / 32) ++ lintOperand g b n n ++ [(4 * b + 1, opPair (fmt a) (fmt b))]

/-- Whether a code may be a drain's output (R122). -/
def outCode (c : Nat) : Bool := decide (c ∈ [0x01, 0x02, 0x10, 0x11, 0x12, 0x20, 0x22, 0x23, 0x30])
/-- Whether a code may be a fused operand (R122). -/
def fusedCode (int : Bool) (c : Nat) : Bool := decide (c ∈ [0x10, 0x11, 0x12]) || (int && codeIsInt c && decide (c ≠ 0x21))

/-- The descriptors of a DRN (R121, R122). -/
def lintDrn (g : Words) (w : Nat) : WordChecks :=
  let o := bits w 16 10
  let f := bits w 26 10
  let x := fun i => g.at' (4 * o + i)
  let y := fun i => g.at' (4 * f + i)
  let c := bits (x 1) 32 8
  let cf := bits (y 1) 32 8
  let cols := if bit w 12 then 1 else bits w 54 7 + 1
  let raw := decide (c = 0x30)
  g.has 4 o ++ [
    (4 * o, decide (x 0 < 2 ^ 35)),
    (4 * o + 1, outCode c && decide (bits (x 1) 0 32 % 16 = 0 ∧ cols * codeBytes c ≤ bits (x 1) 0 32) &&
      !(raw && (decide (bits w 14 2 ≠ 0) || bit w 12 || bit w 9 || bit w 10))),
    (4 * o + 2, decide (bits (x 2) 36 12 = 0) && decide (bits (x 2) 0 35 % 16 = 0 ∧ bits (x 2) 48 16 % 16 = 0) &&
      (!bit (x 2) 35 || decide (16 ≤ bits (x 2) 48 16))),
    (4 * o + 3, decide (x 3 < 2 ^ 60))] ++
  (if bits w 14 2 = 0 then [] else g.has 4 f ++ [
    (4 * f, decide (y 0 < 2 ^ 35)),
    (4 * f + 1, fusedCode (bit w 13) cf && decide (y 1 < 2 ^ 42) &&
      (if bits (y 1) 40 2 = 0 then decide (bits (y 1) 0 32 % 16 = 0 ∧ (bits w 54 7 + 1) * codeBytes cf ≤ bits (y 1) 0 32)
       else decide (bits (y 1) 0 32 = 0))),
    (4 * f + 2, decide (y 2 = 0)),
    (4 * f + 3, decide (bits (y 3) 32 24 = 0) && decide (y 3 < 2 ^ 60))])

/-- The descriptor of an ALOAD (R121, R129). -/
def lintAload (g : Words) (w : Nat) : WordChecks :=
  let d := bits w 16 10
  let x := fun i => g.at' (4 * d + i)
  g.has 4 d ++ [
    (4 * d, decide (x 0 < 2 ^ 35)),
    (4 * d + 1, decide (x 1 < 2 ^ 40) && decide (bits (x 1) 32 8 = 0x30) && decide (bits (x 1) 0 32 % 16 = 0 ∧ 768 ≤ bits (x 1) 0 32)),
    (4 * d + 2, !bit (x 2) 35 && decide (bits (x 2) 36 12 = 0) && decide (bits (x 2) 0 35 % 16 = 0 ∧ bits (x 2) 48 16 % 16 = 0)),
    (4 * d + 3, decide (x 3 < 2 ^ 60))]

/-- The compatibility descriptor of a CMODE that enters the mode (R99). -/
def lintCmode (g : Words) (w : Nat) : WordChecks :=
  let d := bits w 22 10
  if !bit w 9 then []
  else
    g.has 4 d ++ [(4 * d, decide (g.at' (4 * d) < 2 ^ 35) && decide (g.at' (4 * d) % 64 = 0))] ++
    [1, 2, 3].map (fun i => (4 * d + i, decide (g.at' (4 * d + i) < 2 ^ 32) && decide (g.at' (4 * d + i) % 64 = 0)))

/-- A badger's or projection engine's operand descriptor (R140, R263): allowed formats and shapes, the least stride of a tensor, whether
its stride is zero, and whether its extra field is free up to a width. -/
def lintSlot (g : Words) (d : Nat) (fmts shapes : List Nat) (row : Nat) (flat : Bool) (extra : Nat) : WordChecks :=
  let x := fun i => g.at' (4 * d + i)
  let sh := bits (x 1) 40 2
  let st := bits (x 1) 0 32
  g.has 4 d ++ [
    (4 * d, decide (x 0 < 2 ^ 35)),
    (4 * d + 1, decide (x 1 < 2 ^ 42) && fmts.contains (bits (x 1) 32 8) && shapes.contains sh &&
      (if sh = 0 ∧ flat = false then decide (st % 16 = 0 ∧ row ≤ st) else decide (st = 0))),
    (4 * d + 2, decide (x 2 < 2 ^ extra)),
    (4 * d + 3, decide (bits (x 3) 32 24 = 0) && decide (x 3 < 2 ^ 60))]

/-- The formats of elements a chain reads and writes (R141). -/
def elemFmts : List Nat := [0x01, 0x02, 0x10, 0x11, 0x12, 0x20, 0x22, 0x23]

/-- The sources an operation uses, as bits a, b and c (R146). -/
def opUses (op md : Nat) : Option Nat :=
  match op with
  | 0x01 => some 3 | 0x02 => some 3 | 0x03 => some 7
  | 0x04 => some 1 | 0x05 => some 1 | 0x06 => some 1 | 0x07 => some 1 | 0x08 => some 1
  | 0x09 => if md < 6 then some 7 else none
  | 0x0A => some 3 | 0x0B => some 3
  | 0x0C => if elemFmts.contains md then some 1 else none
  | 0x0D => if md < 2 then some 7 else none
  | 0x0E => if md = 0xFF then some 3 else if md < 6 then some 7 else none
  | _ => none

/-- Whether an operation names a modifier. -/
def opHasMod (op : Nat) : Bool := decide (op = 0x09 ∨ op = 0x0C ∨ op = 0x0D ∨ op = 0x0E)

/-- One stage of a chain: `fmt` and `shape` give the operand of an input, none where it is not enabled (R144, R152). -/
def stageOk (fmt : Nat → Option (Nat × Nat)) (cols mode w : Nat) : Bool :=
  let op := bits w 0 8
  let md := bits w 24 8
  match opUses op md with
  | none => false
  | some u =>
    let src := fun i => bits w (12 + 4 * i) 4
    let used := fun i => bit u i
    let inp := fun i => if 4 ≤ src i ∧ src i ≤ 7 then fmt (src i - 4) else none
    let plain := fun i =>
      decide (src i < 4 ∨ src i = 8 ∨ src i = 9 ∨ src i = 0xE ∨ src i = 0xF) || (match inp i with
        | some f => decide (f.1 ≠ 0x41 ∧ f.1 ≠ 0x42)
        | none => false)
    let isFmt := fun i c => match inp i with
      | some f => decide (f.1 = c)
      | none => false
    let ok := fun i => !used i ||
      (if op = 0x0E ∧ i < 2 then isFmt i 0x41
       else if op = 0x0D ∧ i = 1 then decide (src 1 = 8) || isFmt 1 0x23
       else if op = 0x0D ∧ i = 2 then (match inp 2 with
         | some f => decide (f = (0x42, 1))
         | none => false)
       else plain i)
    decide (bits w 10 2 = 0) && ok 0 && ok 1 && ok 2 &&
    [0, 1, 2].all (fun i => used i || decide (src i = 0)) && (opHasMod op || decide (md = 0)) &&
    (decide (bits w 32 32 = 0) || [0, 1, 2].any (fun i => used i && decide (src i = 0xF))) &&
    (decide (op ≠ 0x0D) || (decide (cols % 2 = 0) && decide (mode < 3)))

/-- The descriptors of a CHAIN (R142 to R152). -/
def lintChain (g : Words) (w : Nat) : WordChecks :=
  let b := 4 * bits w 8 10
  let h := fun i => g.at' (b + i)
  let cols := bits w 48 16 + 1
  let mode := bits (h 0) 8 3
  let en := fun i => bit (h 1) (40 + i)
  let slot := fun i => bits (h 1) (10 * i) 10
  let word1 := fun d => g.at' (4 * d + 1)
  let fmt := fun i => if i < 4 ∧ en i = true then some (bits (word1 (slot i)) 32 8, bits (word1 (slot i)) 40 2) else none
  let rowOf := fun d => cols * codeBytes (bits (word1 d) 32 8)
  let ins := (List.range 4).filter en
  let stages := bits (h 0) 0 4 + 1
  let bcast := ((ins.filter (fun i => decide (bits (word1 (slot i)) 40 2 = 1))).map (fun i => rowOf (slot i))).foldl (· + ·) 0
  [(b, decide (b + 12 ≤ g.n)),
   (b, onlyBits (h 0) [(0, 6), (8, 3), (12, 2), (16, 2), (20, 2), (24, 1)] && decide (stages ≤ 8) && decide (mode ≤ 4)),
   (b + 1, decide (h 1 < 2 ^ 44) && decide (bcast ≤ 32768)),
   (b + 2, decide (h 2 < 2 ^ 40) && (decide (mode ≠ 0) || decide (bits (h 2) 20 10 = 0)) && (decide (mode = 4) || decide (bits (h 2) 30 10 = 0))),
   (b + 3, decide (h 3 = 0))] ++
  (List.range 8).map (fun i => (b + 4 + i, if i < stages then stageOk fmt cols mode (h (4 + i)) else decide (h (4 + i) = 0))) ++
  ins.flatMap (fun i => lintSlot g (slot i) (elemFmts ++ [0x41, 0x42]) [0, 1, 2, 3] (rowOf (slot i)) false 0) ++
  lintSlot g (bits (h 2) 0 10) elemFmts [0] (rowOf (bits (h 2) 0 10)) false 0 ++
  (if bit (h 0) 24 then lintSlot g (bits (h 2) 10 10) elemFmts [0] (rowOf (bits (h 2) 10 10)) false 0 else []) ++
  (if mode = 0 then [] else lintSlot g (bits (h 2) 20 10) [0x40] [0] ((cols + 7) / 8) false 0) ++
  (if mode = 4 then lintSlot g (bits (h 2) 30 10) [0x23] [2] 0 false 0 else [])

/-- The descriptors of an ARGX (R157). -/
def lintArgx (g : Words) (w : Nat) : WordChecks :=
  let i := bits w 12 10
  let o := bits w 22 10
  let f := bits (g.at' (4 * i + 1)) 32 8
  let sh := if bit w 9 then 1 else 2
  lintSlot g i elemFmts [0] ((bits w 48 16 + 1) * codeBytes f) false 0 ++ lintSlot g o [f] [sh] 0 false 0 ++
  lintSlot g (o + 1) [0x23] [sh] 0 false 32

/-- The descriptors of an HSEL (R159). -/
def lintHsel (g : Words) (w : Nat) : WordChecks :=
  let k := bits w 12 10
  let n := bits (g.at' (4 * k + 2)) 0 16 + 1
  lintSlot g k [0x41] [0] 0 true 16 ++ lintSlot g (bits w 22 10) [0x41] [2] 0 false 0 ++
  lintSlot g (bits w 32 10) [0x43] [0] (4 * (bits w 42 8 + 1)) false 0 ++
  (if bit w 57 then lintSlot g (k + 1) [0x40] [0, 1] ((n + 7) / 8) false 0 else [])

/-- A hall address that does not name the hoard (R33). -/
def notHoard (a : Nat) : Bool := decide (bits a 44 3 ≠ 5)

/-- A destination-mask record (R366). -/
def lintMask (g : Words) (d : Nat) : WordChecks := g.has 8 d ++ [(8 * d + 1, decide (g.at' (8 * d + 1) < 2 ^ 33))]

/-- The descriptor of a COPY, GATHER or FILL (R200 to R204, R250, R366). -/
def lintCopy (g : Words) (w : Nat) : WordChecks :=
  let op := w % 256
  let d := bits w 10 10
  let x := fun i => g.at' (8 * d + i)
  let rb := bits (x 2) 0 32
  let rop := bits (x 5) 8 4
  let el := bits (x 5) 12 3
  let mc := bits (x 5) 16 16
  let plain := decide (rop = 0)
  g.has 8 d ++ [
    (8 * d, decide (op = 0x62) || notHoard (x 0)),
    (8 * d + 1, notHoard (x 1)),
    (8 * d + 2, decide (x 2 < 2 ^ 56) && decide (1 ≤ rb) &&
      (if op = 0x61 then decide (rb ≤ 65536) && decide (bits (x 2) 32 24 = 0)
       else if op = 0x62 then decide (rb % 8 = 0) else plain || decide (rb % elemBytes el = 0))),
    (8 * d + 4, decide (x 4 = 0) || notHoard (x 4)),
    (8 * d + 5, decide (bits (x 5) 0 2 < 3) && decide (bits (x 5) 2 6 = 0) && !bit (x 5) 15 && decide (x 5 < 2 ^ 32) &&
      (if plain then decide (el = 0) else decide (op = 0x60) && decide (rop ≤ 6) && atomOk rop el) &&
      (decide (mc = 0xFFFF) || (decide (mc < 1024) && decide (op ≠ 0x61) && plain && !bit w 9))),
    (8 * d + 6, decide (op ≠ 0x62) || decide (bits (x 6) 0 32 = 0)),
    (8 * d + 7, decide (x 7 < 16))] ++
  (if mc = 0xFFFF then [] else lintMask g mc)

/-- A run-ahead COPY under PR_RUNAHEAD: its tally word, its op, and a destination that is local SP (R74, R250). -/
def lintRunahead (g : Words) (w : Nat) : WordChecks :=
  let d := bits w 10 10
  let x := fun i => g.at' (8 * d + i)
  if w % 256 = 0x60 ∧ bit w 9 = true then
    [(8 * d + 1, decide (bits (x 1) 62 2 = 0) && decide (bits (x 1) 44 3 = 0)), (8 * d + 4, decide (x 4 = 0)),
     (8 * d + 5, decide (bits (x 5) 8 4 = 0))]
  else []

/-- The staging descriptor of an SOPEN (R249). -/
def lintSopen (g : Words) (w : Nat) : WordChecks :=
  let d := bits w 10 10
  let x := fun i => g.at' (8 * d + i)
  let sb := bits (x 1) 0 32
  g.has 8 d ++ [
    (8 * d, decide (x 0 < 2 ^ 35) && decide (x 0 % 64 = 0)),
    (8 * d + 1, decide (sb % 64 = 0 ∧ 64 ≤ sb ∧ sb ≤ 2 ^ 23) && decide (bits (x 1) 32 32 % 64 = 0 ∧ sb ≤ bits (x 1) 32 32)),
    (8 * d + 2, decide (x 2 < 16) && decide (bits (x 2) 1 2 < 3)),
    (8 * d + 3, decide (x 3 < 2 ^ 14)),
    (8 * d + 4, decide (x 4 < 2 ^ 35) && decide (x 4 % 16 = 0)),
    (8 * d + 5, decide (x 5 < 2 ^ 32)), (8 * d + 6, decide (x 6 = 0)), (8 * d + 7, decide (x 7 < 16))]

/-- The resolve descriptor of an SRES (R246). -/
def lintSres (g : Words) (w : Nat) : WordChecks :=
  let d := bits w 10 10
  let x := fun i => g.at' (8 * d + i)
  g.has 8 d ++ [
    (8 * d, decide (bits (x 0) 14 2 = 0) && decide (x 0 < 2 ^ 48)),
    (8 * d + 1, decide (x 1 < 2 ^ 43) && decide (bits (x 1) 0 35 % 16 = 0)),
    (8 * d + 2, decide (x 2 < 2 ^ 36) && decide (bits (x 2) 0 35 % 64 = 0)),
    (8 * d + 3, decide (x 3 < 2 ^ 36) && decide (bits (x 3) 0 35 % 64 = 0)),
    (8 * d + 4, decide (x 4 < 2 ^ 32) && decide (x 4 % 64 = 0)),
    (8 * d + 5, decide (x 5 < 2 ^ 35) && decide (x 5 % 16 = 0)),
    (8 * d + 6, decide (x 6 < 2 ^ 16)), (8 * d + 7, decide (x 7 < 16))]

/-- The collective a descriptor gives, its index register at zero. -/
def staticColl (g : Words) (w : Nat) : Coll :=
  let d := bits w 8 10
  let x := fun i => g.at' (8 * d + i)
  let gr := bits (x 5) 0 10
  let kind := bits (x 2) 48 3
  let count := bits (x 2) 0 32
  let cross := if bits (x 4) 32 16 = 0 then 256 else bits (x 4) 32 16
  let algo := if kind ≥ 2 then 0 else if bits (x 2) 52 2 ≠ 0 then bits (x 2) 52 2
    else if count * codeBytes (bits (x 2) 32 8) < 1024 * cross then 1 else 2
  { src := BitVec.ofNat 64 (x 0), dst := BitVec.ofNat 64 (x 1), work := BitVec.ofNat 64 (x 3), count := count
    inFmt := bits (x 2) 32 8, outFmt := bits (x 2) 40 8, kind := kind, algo := algo, root := bits (x 4) 48 16
    g0 := BitVec.ofNat 64 (g.at' (8 * gr)), g1 := BitVec.ofNat 64 (g.at' (8 * gr + 1)), tally := bits (x 5) 16 16 }

/-- The bytes a collective writes at its destination, an upper bound for a reduce-scatter's piece (R385). -/
def Coll.outSpan (c : Coll) (me : Nat) : Nat :=
  (if c.kind = 1 then (c.range me 3).2 else if c.kind = 2 then c.members * c.count else c.count) * c.outBytes

/-- The descriptors of a COLL (R383 to R386, R393): `inSpan` says which logical devices are non-spare entries of the roster. -/
def lintColl (g : Words) (inSpan : Nat → Bool) (me : Nat) (w : Nat) : WordChecks :=
  let d := bits w 8 10
  let x := fun i => g.at' (8 * d + i)
  let c := staticColl g w
  let gr := bits (x 5) 0 10
  let sums := decide (c.inFmt ∈ [0x12, 0x10, 0x01, 0x02]) && decide (c.outFmt = c.inFmt ∨ c.outFmt = 0x12)
  let moves := decide (c.inFmt ∈ [0x12, 0x10, 0x01, 0x02, 0x11, 0x20, 0x22, 0x23]) && decide (c.outFmt = c.inFmt)
  let mems := (maskBits (fld c.g0 0 32)).flatMap (fun r => (maskBits (fld c.g0 32 32)).flatMap (fun k =>
    (maskBits (fld c.g1 0 32)).map (fun n => mkPos r k n)))
  let area := fun (a : Word64) (n : Nat) => (a.toNat % 2 ^ 47, n)
  let meets := fun (a b : Nat × Nat) => decide (a.2 ≠ 0) && decide (b.2 ≠ 0) && overlaps a b
  let work := area c.work (if c.kind < 2 then bits (x 4) 0 32 else 0)
  let out := area c.dst (c.outSpan me)
  let inp := area c.src (c.count * c.inBytes)
  g.has 8 d ++ [
    (8 * d, notHoard (x 0)), (8 * d + 1, notHoard (x 1)),
    (8 * d + 2, decide (1 ≤ c.count ∧ c.count ≤ 2 ^ 28) && decide (c.kind ≤ 3) && decide (bits (x 2) 52 2 ≠ 3) && decide (x 2 < 2 ^ 54) &&
      (if c.kind < 2 then sums else moves))] ++
  g.has 8 gr ++ [
    (8 * gr + 1, decide (g.at' (8 * gr + 1) < 2 ^ 33) && bit (g.at' (8 * gr + 1)) 32),
    (8 * gr, mems.contains me && mems.all inSpan),
    (8 * d + 3, notHoard (x 3) && decide (c.kind ≥ 2 ∨ x 3 % 64 = 0) && !(meets work out || meets work inp)),
    (8 * d + 4, decide (c.kind ≥ 2 ∨ c.need ≤ bits (x 4) 0 32) && (if c.kind = 3 then decide (c.root < c.members) else decide (c.root = 0))),
    (8 * d + 5, decide (bits (x 5) 10 6 = 0) && decide (x 5 < 2 ^ 32)),
    (8 * d + 6, decide (x 6 < 2 ^ 36)), (8 * d + 7, decide (x 7 = 0))]

/-- The descriptors of a projection engine's instruction (R263, R264). -/
def lintPpe (g : Words) (mode w : Nat) : WordChecks :=
  let i := bits w 8 10
  let o := bits w 18 10
  match w % 256 with
  | 0x70 => lintSlot g i [0x12] [0] 256 false (if mode = 1 then 0 else 64)
  | 0x71 =>
    let b := codeBytes (bits (g.at' (4 * i + 1)) 32 8)
    lintSlot g i [0x01, 0x02, 0x10, 0x11] [0] ((if bit w 28 then 128 else 64) * b) false 0 ++ lintSlot g o [0x41] [0] 0 true 0
  | 0x72 => lintSlot g i [0x20] [0] 64 false 0 ++ lintSlot g o [0x20] [0] 64 false 0
  | _ => []

/-- The descriptors an instruction of a binding reads. -/
def lintIns (g : Words) (p : Prog) (inSpan : Nat → Bool) (me : Nat) (w : Nat) : WordChecks :=
  match p.cls, w % 256 with
  | 0, 0x10 => lintMma g w
  | 0, 0x20 => lintDrn g w
  | 0, 0x23 => lintAload g w
  | 0, 0x31 => lintCmode g w
  | 1, 0x50 => lintChain g w
  | 1, 0x51 => lintArgx g w
  | 1, 0x52 => lintHsel g w
  | 3, 0x60 => lintCopy g w
  | 3, 0x61 => lintCopy g w
  | 3, 0x62 => lintCopy g w
  | 3, 0x64 => lintSopen g w
  | 3, 0x66 => lintSres g w
  | 4, 0x80 => lintColl g inSpan me w
  | 5, _ => lintPpe g p.mode w
  | _, _ => []

/-- The first PARAM word of a binding that fails in some checks of its program's instructions. R74 does not say which of several failing
words is the first: the order is that of the instructions, and within one that of its checks (DESIGN CHOICE, log entry 43). -/
def lintBind (p : Prog) (f : Nat → WordChecks) : Option Nat :=
  (p.code.findSome? (fun w => ((f w.toNat).find? (fun c => !c.2)).map (·.1)))

end Sys2Proof.Machine
end

