-- ==== Sys2Proof/Machine/Static.lean ====
section
/-! DEFINITION. The addresses and tallies of a bound program that do not depend on an index register, and the loader's checks of them
(R74: PR_ACCESS, PR_REMOTE, PR_TALLY). -/

namespace Sys2Proof.Machine

open Sys2Proof

/-- The device as a binding's phase would find it: the plan in RUN with its roster, and the engine at its program's entry. -/
def probeState (s : State) (p : Plan) (me : Nat) (b : Bind) (phase : Nat) : State :=
  { s with
    run := { s.run with st := .run, plan := some p, me := some me, phase := phase }
    eng := SMap.set {} [] b.engine { prog := b.prog, param := b.param }
    units := { s.units with stg := [] }
    fab := { s.fab with ctl := { s.fab.ctl with roster := spanRoster p.span } } }

/-- Rows of SP an instruction touches: whether the address is static, and whether its base must be a multiple of 16. -/
structure Touch where
  fixed : Bool
  base : Int
  stride : Nat
  count : Nat
  len : Nat
  write : Bool
  align : Bool := true
deriving DecidableEq, Repr

/-- Whether a static operand would be refused. -/
def Touch.bad (s : State) (e : Nat) (t : Touch) : Bool :=
  t.fixed && ((t.align && decide (t.base % 16 ≠ 0)) ||
    (List.range t.count).any (fun i => (spStage s e (t.base + ((i * t.stride : Nat) : Int)) t.len t.write).isSome))

/-- Whether the data step of a slot of four words is zero. -/
def fixed4 (s : State) (e d : Nat) : Bool := decide (fld (descWord s e d 3) 0 32 = 0)
/-- Whether the scale step of a slot of four words is zero. -/
def fixedScale (s : State) (e d : Nat) : Bool := decide (fld (descWord s e d 3) 32 24 = 0)

/-- Rows of a slot that starts at its base. -/
def slotTouch (s : State) (e d stride count len : Nat) (write : Bool) : Touch :=
  { fixed := fixed4 s e d, base := descBase s e d, stride := stride, count := count, len := len, write := write }

/-- What an operand of a badger touches by its shape, for a tile (R140, R121). -/
def shapeTouch (s : State) (e d rows cols : Nat) (write : Bool) : Touch :=
  let eb := codeBytes (descFmt s e d)
  match fld (descWord s e d 1) 40 2 with
  | 0 => slotTouch s e d (descStride s e d) rows (if descFmt s e d = 0x40 then (cols + 7) / 8 else cols * eb) write
  | 1 => slotTouch s e d 0 1 (cols * eb) write
  | 2 => slotTouch s e d 0 1 (rows * eb) write
  | _ => slotTouch s e d 0 1 eb write

/-- The rows a bear's instruction touches. The window of a compatibility instruction is that of the nearest CMODE before it. -/
def bearTouches (s : State) (e : Nat) (p : Prog) (pc : Nat) (w : Word64) : List Touch :=
  match fld w 0 8 with
  | 0x10 =>
    let da := fld w 12 10
    let db := fld w 22 10
    let st := [fixed4 s e da, fixed4 s e db, fixedScale s e da, fixedScale s e db]
    (List.zip st (mmaRows s e w)).map (fun x =>
      { fixed := x.1, base := x.2.1.base, stride := x.2.1.stride, count := x.2.1.count, len := x.2.1.len, write := false, align := x.2.2 })
  | 0x20 =>
    let r := drnOf s e w
    let d := fld w 16 10
    let f := fld w 26 10
    let eb := codeBytes r.fFmt
    [slotTouch s e d r.outStride r.count ((if r.reduce then 1 else r.cols) * codeBytes r.outFmt) true] ++
    (if r.flagOn then [{ fixed := fixedScale s e d, base := r.flagBase, stride := r.flagStride, count := r.count
                         len := (r.cols + 7) / 8, write := true }] else []) ++
    (if r.fuse = 0 then [] else match r.fShape with
      | 0 => [slotTouch s e f r.fStride r.count (r.cols * eb) false]
      | 1 => [slotTouch s e f 0 1 (r.cols * eb) false]
      | 2 => [slotTouch s e f 0 1 (r.count * eb) false]
      | _ => [slotTouch s e f 0 1 eb false])
  | 0x23 => [slotTouch s e (fld w 16 10) (descStride s e (fld w 16 10)) (fld w 45 9 + 1) 768 false]
  | op =>
    match ((p.code.take pc).reverse.find? (fun v => decide (fld v 0 8 = 0x31))) with
    | none => []
    | some v =>
      let d := fld v 22 10
      let win := (descWord s e d 0).toNat
      let n := fld v 16 6 + 1
      let c := if fld v 8 1 = 1 then 16 else 32
      let one := fun (at' stride bytes : Nat) (write : Bool) => (List.range n).map (fun q =>
        ({ fixed := true, base := ((win + 64 * at' + q * stride : Nat) : Int), stride := 0, count := 1, len := bytes
           write := write, align := false } : Touch))
      let eb := if fld w 8 4 = 2 then 2 else 1
      if op = 0x40 ∨ op = 0x41 then
        one (fld w 16 16) (descWord s e d 1).toNat ((fld w 48 7 + 1) * c * eb) false ++ one (fld w 32 16) (descWord s e d 2).toNat (c * c * eb) false
      else if op = 0x42 then
        let ob := match fld w 8 4 with
          | 0 => 4 | 1 => 2 | 3 => 4 | _ => 1
        one (fld w 16 16) (descWord s e d 3).toNat ((fld w 40 7 + 1) * c * ob) true
      else []

/-- The rows a badger's instruction touches: the whole tile, whatever a mask leaves out (log entry 35). -/
def badgerTouches (s : State) (e : Nat) (w : Word64) : List Touch :=
  let rows := fld w 32 16 + 1
  let cols := fld w 48 16 + 1
  match fld w 0 8 with
  | 0x50 =>
    let b := fld w 8 10
    let h := fun i => (descWord s e b i).toNat
    ((List.range 4).filter (fun i => bit (h 1) (40 + i))).map (fun i => shapeTouch s e (bits (h 1) (10 * i) 10) rows cols false) ++
    [shapeTouch s e (bits (h 2) 0 10) rows cols true] ++
    (if bit (h 0) 24 then [shapeTouch s e (bits (h 2) 10 10) rows cols true] else []) ++
    (if bits (h 0) 8 3 = 0 then [] else [shapeTouch s e (bits (h 2) 20 10) rows cols false]) ++
    (if bits (h 0) 8 3 = 4 then [shapeTouch s e (bits (h 2) 30 10) rows cols true] else [])
  | 0x51 => [shapeTouch s e (fld w 12 10) rows cols false, shapeTouch s e (fld w 22 10) rows cols true, shapeTouch s e (fld w 22 10 + 1) rows cols true]
  | 0x52 =>
    let k := fld w 12 10
    let n := fld (descWord s e k 2) 0 16 + 1
    let q := fld w 8 3 + 1
    [slotTouch s e k 0 1 (8 * n) false, slotTouch s e (fld w 22 10) 0 1 (8 * q) false,
     slotTouch s e (fld w 32 10) (descStride s e (fld w 32 10)) q (4 * (fld w 42 8 + 1)) true] ++
    (if bit w.toNat 57 then [slotTouch s e (k + 1) 0 1 ((n + 7) / 8) false] else [])
  | _ => []

/-- The rows a projection engine's instruction touches (R263). -/
def ppeTouches (s : State) (e : Nat) (w : Word64) : List Touch :=
  let i := fld w 8 10
  let o := fld w 18 10
  let n := fld w 32 24 + 1
  match fld w 0 8 with
  | 0x70 => [slotTouch s e i (descStride s e i) 64 256 false]
  | 0x71 => [slotTouch s e i (descStride s e i) n ((if bit w.toNat 28 then 128 else 64) * codeBytes (descFmt s e i)) false, slotTouch s e o 8 n 8 true]
  | 0x72 => [slotTouch s e i (descStride s e i) n 64 false, slotTouch s e o (descStride s e o) n 64 true]
  | _ => []

/-- Whether a static address of a hare's instruction would be refused (R201, R249, R246). A destination that is not static takes no part
in the checks of the others. -/
def hareBad (s : State) (e : Nat) (w : Word64) : Bool :=
  let g := hareSlot s e (fld w 10 10)
  let op := fld w 0 8
  let sp := fun (fixed : Bool) (a stride count len : Nat) (write : Bool) =>
    Touch.bad s e { fixed := fixed, base := (a : Int), stride := stride, count := count, len := len, write := write, align := false }
  if op = 0x60 ∨ op = 0x61 ∨ op = 0x62 then
    let c := resolveCopy s e w
    let srcFixed := decide (fld (g 6) 0 32 = 0)
    let dstFixed := decide (fld (g 6) 32 32 = 0)
    let rows := (List.range c.rows).map (fun i => i * c.row)
    let cs := if dstFixed then c else { c with dst := 0 }
    let ct := if dstFixed then c else { c with dst := c.tally }
    (srcFixed && rows.any (fun pos => (srcStages s e cs pos c.row).any (fun x => x.2.isSome))) ||
    (dstFixed && rows.any (fun pos => (dstStage s e c pos c.row).2.isSome)) ||
    (tallyStages s e ct 0).any (fun x => x.2.isSome)
  else if op = 0x64 then
    let fixed := decide (fld (g 5) 0 32 = 0)
    sp fixed (fld (g 0) 0 35) (fld (g 1) 32 32) (fld w 30 10 + 1) (fld (g 1) 0 32) true || sp fixed (fld (g 4) 0 35) 0 1 (4 * (fld w 30 10 + 1)) false
  else if op = 0x66 then
    let fixed := decide (fld (g 0) 16 32 = 0)
    sp fixed (fld (g 1) 0 35) 0 1 (4 * fld (g 1) 35 8) false || sp fixed (fld (g 5) 0 35) 0 1 1024 true
  else false

/-- Whether a static address of a collective would be refused (R381). -/
def packBad (s : State) (e : Nat) (w : Word64) : Bool :=
  let g := hareSlot s e (fld w 8 10)
  let c := staticColl { at' := fun i => (paramAt s e i).toNat, n := 0 } w.toNat
  let bad := fun (a : Word64) (n : Nat) (write : Bool) => decide (n ≠ 0) && (accessStage s e a n 1 write (packMay e (hallAddr a))).isSome
  decide (fld (g 6) 0 32 = 0) &&
  (bad c.src (c.count * c.inBytes) false || bad c.dst (c.outSpan (myLogical s)) true ||
   (decide (c.kind < 2) && bad c.work (fld (g 4) 0 32) true))

/-- Whether a static address of an instruction would be refused, on the device as `probeState` gives it. -/
def insBad (s : State) (e : Nat) (p : Prog) (pc : Nat) (w : Word64) : Bool :=
  match p.cls with
  | 0 => (bearTouches s e p pc w).any (Touch.bad s e)
  | 1 => (badgerTouches s e w).any (Touch.bad s e)
  | 3 => hareBad s e w
  | 4 => decide (fld w 0 8 = 0x80) && packBad s e w
  | 5 => (ppeTouches s e w).any (Touch.bad s e)
  | _ => false

/-- The other devices that static addresses of a copy name: its source and destination where their steps are zero, and its arrival tally,
to which no step applies (R74, R200). -/
def insRemotes (s : State) (e : Nat) (p : Prog) (w : Word64) : List Nat :=
  let op := fld w 0 8
  if p.cls = 3 ∧ (op = 0x60 ∨ op = 0x61 ∨ op = 0x62) then
    let c := resolveCopy s e w
    let g := hareSlot s e (fld w 10 10)
    let far := fun (fixed : Bool) (a : Word64) => if fixed && isRemote s (hallAddr a) then [(hallAddr a).dev] else []
    (if c.kind = .copy then far (decide (fld (g 6) 0 32 = 0)) c.src else []) ++
    (if c.mcast.isSome then [] else far (decide (fld (g 6) 32 32 = 0)) c.dst ++ far (decide (c.tally ≠ 0)) c.tally)
  else []

/-- The local tallies an instruction names (R74, R91, R200, R246, R252, R383). -/
def insTallies (s : State) (e : Nat) (p : Prog) (w : Word64) : List Nat :=
  let op := fld w 0 8
  if p.cls = 2 then []
  else if op = 0x02 ∨ op = 0x03 ∨ op = 0x04 then [fld w 16 16]
  else if p.cls = 3 ∧ (op = 0x60 ∨ op = 0x61 ∨ op = 0x62) then
    let c := resolveCopy s e w
    let h := hallAddr (c.tallyForm s)
    if c.tally = 0 ∨ c.mcast.isSome = true ∨ isRemote s h = true then [] else [h.off / 32]
  else if p.cls = 3 ∧ op = 0x65 then [fld w 40 16]
  else if p.cls = 3 ∧ op = 0x66 then [fld (hareSlot s e (fld w 10 10) 6) 0 16]
  else if p.cls = 4 ∧ op = 0x80 then [fld (hareSlot s e (fld w 8 10) 5) 16 16]
  else []

end Sys2Proof.Machine
end

