-- ==== Sys2Proof/Machine/Checks.lean ====
section
/-! DEFINITION. Stages 2 and 3 of the loader's checks (R74). -/

namespace Sys2Proof.Machine

open Sys2Proof

/-- What the loader's checks run on: the device, the image and the plan it holds. -/
structure Ldr where
  s : State
  m : Img
  p : Plan

/-- The SPAN section. -/
def Ldr.spanSec (l : Ldr) : Sec := (l.m.sec? 0x0001 0).getD { idx := 0xFFFFFFFF, ty := 1, key := 0, off := 0, size := 0, count := 0 }
/-- The roster the image gives. -/
def Ldr.roster (l : Ldr) : SMap RosterEntry := spanRoster l.p.span
/-- This device's position. -/
def Ldr.pos (l : Ldr) : Nat := l.s.fab.position
/-- This device's logical number in the image, none for a spare. -/
def Ldr.me (l : Ldr) : Option Nat := ((l.p.span.find? (fun e => e.physical == l.pos)).bind (·.logical))
/-- Whether a logical device is a non-spare entry of the roster. -/
def Ldr.has (l : Ldr) (d : Nat) : Bool := l.p.span.any (fun e => e.logical == some d)
/-- The key whose sections this device uses: none for a spare (R45). -/
def Ldr.key (l : Ldr) : Option Nat := l.me.bind l.m.devKey
/-- A section of this device. -/
def Ldr.mine (l : Ldr) (ty : Nat) : Option Sec := l.key.bind (l.m.sec? ty)
/-- This device's sections. -/
def Ldr.dev (l : Ldr) : DevSections :=
  match l.key with
  | some k => l.m.dev k
  | none => {}

/-- The failures of the records of a section: `f` gives the code and offset in the record of what fails. -/
def overRecs (o : Option Sec) (f : Nat → Nat → Option (Nat × Nat)) : Option LoadErr :=
  match o with
  | none => none
  | some x => x.recs.findSome? (fun r => (f r.1 r.2).map (fun e => { code := e.1, sec := x.idx, rcd := r.1, off := r.2 + e.2 }))

/-- The first of some offsets whose condition holds. -/
def badField (code : Nat) (l : List (Nat × Bool)) : Option (Nat × Nat) := (l.find? (·.2)).map (fun x => (code, x.1))

/-- An engine ID of classes 0 to 7 that names a unit (R63). -/
def engNamed (e : Nat) : Bool := engValid e || decide (e = 0x6000 ∨ e = 0x7000)

/-- A range of HBM that touches a stack absent after repair (R493). -/
def Ldr.stackGone (l : Ldr) (base size : Nat) : Bool := l.s.boot.absentStacks.any (fun n => overlaps (2 ^ 36 * n, 2 ^ 36) (base, size))

/-- A range of HBM that overlaps the lease this device has granted (R532). -/
def Ldr.leased (l : Ldr) (base size : Nat) : Bool :=
  match l.s.hub.lease with
  | some x => overlaps (x.base, x.size + x.size / 2) (base, size)
  | none => false

/-! ### Stage 2 -/

/-- PR_ROSTER (R46, R47). -/
def Ldr.checkRoster (l : Ldr) : Option LoadErr :=
  let x := l.spanSec
  let n := l.m.u x.off 4
  let sp := l.p.span
  let head := fun (o : Nat) (b : Bool) => errIf b ({ code := 0x0A, sec := x.idx, off := x.off + o } : LoadErr)
  firstErr ([head 0 (decide (n < 1 ∨ 32768 < n ∨ n ≠ x.count))] ++
    (List.zip (List.range sp.length) sp).map (fun e =>
      let o := x.off + 8 + 4 * e.1
      let prev := (sp.take e.1).getLast?
      firstErr [
        recErr 0x0A x e.1 (o + 2) (decide (0x7FFF < e.2.physical) || (match prev with
          | some q => decide (e.2.physical ≤ q.physical)
          | none => false)),
        recErr 0x0A x e.1 o (match e.2.logical with
          | some d => decide (0x7FFF < d ∨ d / 32 ≠ e.2.physical / 32) || (sp.take e.1).any (fun q => q.logical == some d)
          | none => false)]) ++
    [hdrErr 0x0A 0x14 (decide ((sp.filter (fun e => e.logical.isSome)).length ≠ l.p.spanDevices)),
     head 4 (!l.has l.p.steward)])

/-- PR_POSITION (R47). -/
def Ldr.checkPosition (l : Ldr) : Option LoadErr :=
  errIf (!l.p.span.any (fun e => e.physical == l.pos)) { code := 0x0B, sec := l.spanSec.idx, off := l.spanSec.off }

/-- PR_LICENCE_SPAN (R5, R9). -/
def Ldr.checkLicence (l : Ldr) : Option LoadErr :=
  let x := l.spanSec
  let out := fun (q : Nat) =>
    match l.s.tier with
    | 0 => decide (q ≠ l.pos)
    | 1 => decide (q / 32 ≠ l.pos / 32)
    | 2 => decide (posRow q ≠ posRow l.pos)
    | _ => false
  firstErr ((List.zip (List.range l.p.span.length) l.p.span).map (fun e => recErr 0x0C x e.1 (x.off + 8 + 4 * e.1) (out e.2.physical)))

/-- Whether following next_phase alone from a phase reaches a halt phase within some moves (R50). -/
def reachesHalt (ps : List Phase) : Nat → Nat → Bool
  | 0, i => decide ((ps.getD i {}).kind = 2)
  | f + 1, i => decide ((ps.getD i {}).kind = 2) || (decide (i < ps.length) && reachesHalt ps f (ps.getD i {}).next)

/-- PR_PHASE (R48, R50). A halt record names nothing: its zero colour_set and power_class need not name a section or a record, which R50
does not say (DESIGN CHOICE, log entry 43). -/
def Ldr.checkPhases (l : Ldr) : Option LoadErr :=
  let ps := l.p.phases
  let n := ps.length
  match hdrErr 0x0D 0x2C (decide (l.m.u 0x2C 4 ≠ n ∨ n < 2 ∨ 1048576 < n)) with
  | some e => some e
  | none =>
    overRecs (l.m.sec? 0x0002 0) (fun i o =>
      let p := ps.getD i {}
      if p.kind = 2 then badField 0x0D ((0, decide (i = 0)) ::
          [(1, 1), (2, 2), (4, 2), (8, 4), (12, 4), (16, 4)].map (fun f => (f.1, decide (l.m.u (o + f.1) f.2 ≠ 0))))
      else badField 0x0D [
        (1, p.epoch && l.p.epoch.isNone),
        (2, decide (p.colourSet ≠ 0xFFFF) && (l.m.sec? 0x0003 p.colourSet).isNone),
        (4, decide (l.p.powers.length ≤ p.powerClass)),
        (8, decide (n ≤ p.next)),
        (12, decide (n ≤ p.alt) || (decide (p.altCount = 0) && decide (p.alt ≠ 0))),
        (8, !reachesHalt ps (n - 1) i)])

/-- PR_POWER (R56). -/
def Ldr.checkPower (l : Ldr) : Option LoadErr :=
  overRecs (l.m.sec? 0x0004 0) (fun _ o =>
    let c := l.m.power o
    badField 0x0E [(0, decide (c.stepRate < 500 ∨ 3000 < c.stepRate)), (4, decide (c.floorMv < 550 ∨ 900 < c.floorMv)),
      (6, decide (c.ceilMv < c.floorMv ∨ 900 < c.ceilMv)), (12, decide (c.limitW < 700 ∨ 2600 < c.limitW))])

/-- The characterised rate of the device at a ceiling (R57, R501): the least over its dies, at the entry at or below it. -/
def charRate (s : State) (mv : Nat) : Nat :=
  let rec1 := SMap.get [] s.boot.calData 1
  if rec1.isEmpty then 2000
  else (((List.range 8).filter (fun k => !s.boot.absentDies.contains k)).map (fun k => Config.charRate rec1 k (mv / 5 * 5))).foldl min 0xFFFFFFFF

/-- PR_RATE (R57). -/
def Ldr.checkRate (l : Ldr) : Option LoadErr :=
  overRecs (l.m.sec? 0x0004 0) (fun _ o =>
    let c := l.m.power o
    badField 0x0F [(0, decide (charRate l.s c.ceilMv < c.stepRate))])

/-- The COLOUR sections. -/
def Ldr.colourSecs (l : Ldr) : List Sec := l.m.secs.filter (fun x => x.ty == 0x0003)

/-- PR_COLOUR (R52, R53): a set of more than 8,388,608 records fails at the first one beyond that limit (R52, R72). -/
def Ldr.checkColour (l : Ldr) : Option LoadErr :=
  firstErr (l.colourSecs.map (fun x => overRecs (some x) (fun i o =>
    let c := l.m.colour o
    let t := portTier c.port
    badField 0x10 (
      if c.shiftKind then
        [(0, decide (8388608 ≤ i)), (1, decide (31 < c.port)), (3, decide (c.shift < 1 ∨ 31 < c.shift)), (4, decide (c.src ≠ 0)), (6, decide (c.dst ≠ 0))]
      else
        [(0, decide (8388608 ≤ i)), (1, decide (31 < c.port)), (3, decide (c.shift ≠ 0)), (4, !l.has c.src), (6, !l.has c.dst || !sameGroup t c.src c.dst)]))))

/-- The lanes of a record that have this device as source or destination. -/
def Ldr.myLanes (l : Ldr) (r : ColourRec) : List (Nat × Nat × Nat) :=
  match l.me with
  | some d => (recordLanes l.roster r).filter (fun x => x.2.1 == d || x.2.2 == d)
  | none => []

/-- The lane holder outside the span that this device's partner lane would go to (R339). -/
def Ldr.outside (l : Ldr) : Option Nat :=
  match l.me with
  | some d => if l.p.epoch.isSome && !l.has (partnerOf d) && !l.dev.shards.isEmpty then some (partnerOf d) else none
  | none => none

/-- PR_LANE_LIMIT (R54, R337): among the lanes that have this device as source or destination (R74), the record that makes a ninth lane
leaving this device on a port, or a second lane of one source to one destination on a port; then what completion cannot place. -/
def Ldr.checkLaneLimit (l : Ldr) : Option LoadErr :=
  firstErr (l.colourSecs.map (fun x =>
    let recs := x.recs.map (fun r => (r, l.myLanes (l.m.colour r.2)))
    let step := fun (acc : List (Nat × Nat × Nat) × Option LoadErr) (r : (Nat × Nat) × List (Nat × Nat × Nat)) =>
      if acc.2.isSome then acc
      else
        let bad := (List.range r.2.length).any (fun i =>
          let y := r.2.getD i (0, 0, 0)
          let before := acc.1 ++ r.2.take i
          before.contains y ||
            (some y.2.1 == l.me && decide (8 ≤ (before.filter (fun z => z.1 == y.1 && some z.2.1 == l.me)).length)))
        (acc.1 ++ r.2, if bad then some { code := 0x11, sec := x.idx, rcd := r.1.1, off := r.1.2 } else none)
    let own := (recs.foldl step ([], none)).2
    match own with
    | some e => some e
    | none =>
      let c := completeSet l.roster l.pos (x.recs.map (fun r => l.m.colour r.2)) l.p.epoch.isSome l.outside
      let full := (List.range 32).any (fun n => decide (8 < (c.1.filter (fun y => y.1 == n)).length))
      errIf (decide (c.2.2 ≠ 0) || full) { code := 0x11, sec := x.idx, rcd := if x.count = 0 then 0xFFFFFFFF else 0, off := x.off }))

/-- PR_LANE_PAIR (R54): completion adds no partner to a lane the set names in one direction only (R337). -/
def Ldr.checkLanePair (l : Ldr) : Option LoadErr :=
  firstErr (l.colourSecs.map (fun x =>
    let all := x.recs.flatMap (fun r => l.myLanes (l.m.colour r.2))
    overRecs (some x) (fun _ o =>
      badField 0x12 [(0, (l.myLanes (l.m.colour o)).any (fun y => !all.contains (y.1, y.2.2, y.2.1)))])))

/-- PR_LICENCE_LANE (R7). -/
def Ldr.checkLaneLicence (l : Ldr) : Option LoadErr :=
  firstErr (l.colourSecs.map (fun x => overRecs (some x) (fun _ o =>
    let c := l.m.colour o
    badField 0x13 [(1, !portLicensed l.s c.port && !(l.myLanes c).isEmpty)])))

/-- Whether a completed colour set holds a lane between two logical devices (R55). -/
def Ldr.hasLane (l : Ldr) (set a b : Nat) : Bool :=
  match l.m.sec? 0x0003 set, rosterPhys l.roster a, rosterPhys l.roster b with
  | some x, some pa, some pb =>
    (completeSet l.roster pa (x.recs.map (fun r => l.m.colour r.2)) l.p.epoch.isSome none).1.any (fun y => y.2 == pb)
  | _, _, _ => false

/-- PR_ROUTE (R55). A vc_mask of 0 breaks R55 and is refused here and not as a reserved code, and a record between two devices that have a
direct lane in the set is accepted: R55 and R74 leave both open (DESIGN CHOICE, log entry 43). -/
def Ldr.checkRoutes (l : Ldr) : Option LoadErr :=
  overRecs (l.m.sec? 0x0006 0) (fun i _ =>
    let r := l.p.routes.getD i { colourSet := 0, src := 0, dst := 0, hops := 0, vcMask := 0, via1 := 0, via2 := 0 }
    let path := if r.hops = 3 then [r.src, r.via1, r.via2, r.dst] else [r.src, r.via1, r.dst]
    badField 0x14 [
      (0, (l.m.sec? 0x0003 r.colourSet).isNone), (2, !l.has r.src), (4, !l.has r.dst || decide (r.src = r.dst)),
      (6, decide (r.hops ≠ 2 ∧ r.hops ≠ 3)), (7, decide (r.vcMask = 0)), (8, !l.has r.via1),
      (10, if r.hops = 2 then decide (r.via2 ≠ 0) else !l.has r.via2),
      (0, (List.zip path (path.drop 1)).any (fun h => !l.hasLane r.colourSet h.1 h.2)),
      (7, (l.p.routes.take i).any (fun q =>
        q.colourSet == r.colourSet && q.src == r.src && q.dst == r.dst && decide (q.vcMask &&& r.vcMask ≠ 0)))])

/-- Whether an interleave code is defined (R192). -/
def codeOk (c : Nat) : Bool := decide (c ≤ 7 ∨ c = 0x10)

/-- PR_REGION (R58, R493, R532). -/
def Ldr.checkRegions (l : Ldr) : Option LoadErr :=
  overRecs (l.m.sec? 0x0005 0) (fun i _ =>
    let r := l.p.regions.getD i { base := 0, size := 0, code := 0 }
    let me := (r.base, r.size)
    badField 0x15 [
      (0, decide (r.base % 2 ^ 26 ≠ 0 ∨ 2 ^ 40 ≤ r.base)), (8, decide (r.size % 2 ^ 26 ≠ 0 ∨ r.size = 0)), (12, !codeOk r.code),
      (0, decide (r.base / 2 ^ 36 ≠ (r.base + r.size - 1) / 2 ^ 36) || (l.p.regions.take i).any (fun q => overlaps (q.base, q.size) me) ||
        l.stackGone r.base r.size || l.leased r.base r.size)])

/-- PR_EPOCH (R59, R409, R493, R532). -/
def Ldr.checkEpoch (l : Ldr) : Option LoadErr :=
  overRecs (l.m.sec? 0x0007 0) (fun _ o =>
    let b := l.m.u o 8
    let n := l.m.u (o + 8) 8
    let all := n + n / 2
    badField 0x16 [
      (0, decide (b % 2 ^ 30 ≠ 0)), (8, decide (n % 2 ^ 30 ≠ 0 ∨ n < 2 ^ 30 ∨ 2 ^ 38 < n)), (16, decide (1000 < l.m.u (o + 16) 2)),
      (0, decide (2 ^ 40 < b + all) || l.p.regions.any (fun q => overlaps (q.base, q.size) (b, all)) || l.stackGone b all || l.leased b all)])

/-- PR_CALWIN (R61). -/
def Ldr.checkCalwin (l : Ldr) : Option LoadErr :=
  overRecs (l.m.sec? 0x0008 0) (fun i _ =>
    let c := l.p.calwins.getD i (0, 0)
    badField 0x17 [(0, decide (l.p.phases.length ≤ c.1) || (l.p.calwins.take i).any (fun q => q.1 == c.1)), (4, decide (c.2 = 0))])

/-- PR_PROGRAM at stage 2 (R62). -/
def Ldr.checkPrograms (l : Ldr) : Option LoadErr :=
  firstErr ((l.m.secs.filter (fun x => x.ty == 0x0009)).map (fun x =>
    (lintProg (l.m.prog x) (l.m.u (x.off + 4) 4)).map (fun o => { code := 0x18, sec := x.idx, rcd := 0, off := x.off + o })))

/-- The PARAM words of a binding (R65). -/
def bindWords (ps : List Word64) (p : Prog) (b : Bind) : Words := { at' := fun i => (ps.getD (b.param + i) 0).toNat, n := p.paramWords }

/-- The program of an image by its index. -/
def Ldr.prog? (l : Ldr) (key : Nat) : Option Prog := l.p.progs.find? (fun g => g.key == key)

/-- The failure of a binding's PARAM words under a code. -/
def Ldr.bindErr (l : Ldr) (code key : Nat) (b : Bind) (f : Prog → Words → Nat → WordChecks) : Option LoadErr :=
  match l.prog? b.prog with
  | none => none
  | some p =>
    (lintBind p (f p (bindWords (l.m.dev key).params p b))).map (fun i =>
      match l.m.sec? 0x0103 key with
      | some x => { code := code, sec := x.idx, rcd := b.param + i, off := x.off + 8 * (b.param + i) }
      | none => { code := code })

/-- PR_RUNAHEAD (R250), for every binding of the image. -/
def Ldr.checkRunahead (l : Ldr) : Option LoadErr :=
  firstErr (l.m.devKeys.flatMap (fun k => (l.m.dev k).binds.map (fun b =>
    l.bindErr 0x19 k b (fun p g w => if p.cls = 3 then lintRunahead g w else []))))

/-- The first failure of some checks in order, each run only where those before it pass. -/
def inOrder (l : Ldr) : List (Ldr → Option LoadErr) → Option LoadErr
  | [] => none
  | f :: fs => match f l with
    | some e => some e
    | none => inOrder l fs

/-- Stage 2 after PR_ROSTER and PR_POSITION. -/
def stage2 : List (Ldr → Option LoadErr) :=
  [Ldr.checkLicence, Ldr.checkPhases, Ldr.checkPower, Ldr.checkRate, Ldr.checkColour, Ldr.checkLaneLimit, Ldr.checkLanePair,
   Ldr.checkLaneLicence, Ldr.checkRoutes, Ldr.checkRegions, Ldr.checkEpoch, Ldr.checkCalwin, Ldr.checkPrograms, Ldr.checkRunahead]

/-! ### Stage 3 -/

/-- PR_SPARE_COVER. -/
def Ldr.checkSpareCover (l : Ldr) : Option LoadErr :=
  if l.me.isSome then none
  else
    let x := l.spanSec
    firstErr ((List.zip (List.range l.p.span.length) l.p.span).map (fun e => recErr 0x1A x e.1 (x.off + 8 + 4 * e.1)
      (decide (e.2.physical / 32 = l.pos / 32) && (match e.2.logical with
        | some d => (l.m.devKey d).isNone
        | none => false))))

/-- Whether some phase of a binding is of a kind. -/
def Ldr.covers (l : Ldr) (b : Bind) (kind : Nat) : Bool :=
  (List.range (b.last + 1 - b.first)).any (fun i => decide ((l.p.phases.getD (b.first + i) {}).kind = kind))

/-- Whether an engine is absent after repair, with its die, or with a refused tile (R493, R504). -/
def engGone (s : State) (e : Nat) : Bool :=
  s.units.absent.contains e || s.boot.absentDies.contains (engDie e) ||
  (decide (engClass e = 5) && decide ((SMap.get {} s.boot.links (engDie e)).st = 3))

/-- Whether the device's sections allocate an analog context homed on a die (R265). -/
def Ldr.analogOn (l : Ldr) (k : Nat) : Bool :=
  !l.p.repro && l.dev.streams.any (fun r => !r.digital && decide (r.count ≠ 0) && decide (r.first / 2048 ≤ k ∧ k ≤ (r.first + r.count - 1) / 2048))

/-- PR_ENGINE (R64, R51, R381, R265, R493). -/
def Ldr.checkEngine (l : Ldr) : Option LoadErr :=
  overRecs (l.mine 0x0102) (fun i _ =>
    let bs := l.dev.binds
    let b := bs.getD i { first := 0, last := 0, engine := 0, prog := 0, param := 0 }
    let n := l.p.phases.length
    let p := l.prog? b.prog
    let cls := engClass b.engine
    badField 0x1B [
      (0, decide (n ≤ b.first)), (4, decide (b.last < b.first ∨ n ≤ b.last)), (8, !engValid b.engine || engGone l.s b.engine),
      (10, match p with
        | some p => decide (p.cls ≠ cls)
        | none => true),
      (12, match p with
        | some p => decide (p.paramWords = 0) && decide (b.param ≠ 0xFFFFFFFF)
        | none => false),
      (8, (bs.take i).any (fun q => q.engine == b.engine && decide (q.first ≤ b.last) && decide (b.first ≤ q.last))),
      (8, (decide (cls ≤ 1) && l.covers b 1) || (decide (cls = 4) && l.covers b 0)),
      (8, decide (cls = 5) && decide ((p.map (·.mode)) = some 1) && l.analogOn (engDie b.engine))])

/-- A check of this device's bindings of projection engines by their program's mode. -/
def Ldr.checkPpe (l : Ldr) (code mode : Nat) (on : Bool) : Option LoadErr :=
  overRecs (l.mine 0x0102) (fun i _ =>
    match l.dev.binds[i]? with
    | some b => badField code [(10, on && decide (engClass b.engine = 5) && decide (((l.prog? b.prog).map (·.mode)) = some mode))]
    | none => none)

/-- PR_LICENCE_FROZEN (R7). -/
def Ldr.checkFrozen (l : Ldr) : Option LoadErr := l.checkPpe 0x1C 1 (!l.s.frozen)
/-- PR_REPRO. -/
def Ldr.checkRepro (l : Ldr) : Option LoadErr := l.checkPpe 0x1D 0 l.p.repro

/-- PR_PARAM (R65, R70). -/
def Ldr.checkParam (l : Ldr) : Option LoadErr :=
  let n := l.dev.params.length
  firstErr [
    overRecs (l.mine 0x0102) (fun i _ =>
      match l.dev.binds[i]? with
      | some b =>
        let k := ((l.prog? b.prog).map (·.paramWords)).getD 0
        badField 0x1E [(12, decide (k ≠ 0) && decide (n < b.param + k))]
      | none => none),
    (match l.mine 0x0103 with
      | some x => errIf (decide (16777216 < x.count)) { code := 0x1E, sec := x.idx, off := x.off }
      | none => none),
    overRecs (l.mine 0x0106) (fun i _ =>
      match l.dev.streams[i]? with
      | some r => badField 0x1E [(12, match r.initParam with
          | some a => decide (n < a + 32 * r.count)
          | none => false)]
      | none => none)]

/-- PR_PROGRAM at stage 3: descriptors. -/
def Ldr.checkDescriptors (l : Ldr) : Option LoadErr :=
  match l.key, l.me with
  | some k, some d => firstErr (l.dev.binds.map (fun b => l.bindErr 0x18 k b (fun p g w => lintIns g p l.has d w)))
  | _, _ => none

/-- Whether an owner of classes 0 to 5 has a binding in a phase, or is a projection engine that sketches into the holding through a stream
context (R67). R67 does not say how the loader finds the latter: an engine whose die is the home of an allocated analog context counts,
wherever that context's tables lie (DESIGN CHOICE, log entry 43). -/
def Ldr.ownerBound (l : Ldr) (e phase : Nat) : Bool :=
  decide (6 ≤ engClass e) || l.dev.binds.any (fun b => b.engine == e && decide (b.first ≤ phase) && decide (phase ≤ b.last)) ||
  (decide (engClass e = 5) && l.analogOn (engDie e))

/-- PR_HOLDING (R66, R67, R493). -/
def Ldr.checkHolding (l : Ldr) : Option LoadErr :=
  overRecs (l.mine 0x0101) (fun i o =>
    let hs := l.dev.holds
    let h := hs.getD i { first := 0, last := 0, bank := 0, count := 0, shared := false, owners := [] }
    let n := l.p.phases.length
    let own := (List.range 4).map (fun j => l.m.u (o + 16 + 2 * j) 2)
    badField 0x1F [
      (0, decide (n ≤ h.first)), (4, decide (h.last < h.first ∨ n ≤ h.last)), (8, decide (4095 < h.bank)),
      (10, decide (h.count < 1 ∨ 4096 < h.count ∨ 4096 < h.bank + h.count)),
      (16, (own.drop h.owners.length).any (fun e => e != 0xFFFF) || h.owners.any (fun e => !engNamed e)),
      (8, l.s.boot.absentBanks.any (fun b => decide (h.bank ≤ b ∧ b < h.bank + h.count))),
      (8, (hs.take i).any (fun q => decide (q.first ≤ h.last ∧ h.first ≤ q.last) && overlaps (q.bank, q.count) (h.bank, h.count) &&
        !(q.shared && h.shared))),
      (16, h.owners.any (fun e => (List.range (h.last + 1 - h.first)).any (fun k => !l.ownerBound e (h.first + k))))])

/-- The failure of an instruction of some binding of this device under a code, in a phase of the binding. -/
def Ldr.insErr (l : Ldr) (code : Nat) (f : State → Nat → Prog → Nat → Word64 → Bool) : Option LoadErr :=
  match l.me with
  | none => none
  | some d => firstErr (l.dev.binds.map (fun b =>
    match l.prog? b.prog, l.m.sec? 0x0009 b.prog with
    | some p, some x =>
      (List.range (b.last + 1 - b.first)).findSome? (fun k =>
        let s := probeState l.s l.p d b (b.first + k)
        ((List.zip (List.range p.code.length) p.code).find? (fun i => f s b.engine p i.1 i.2)).map (fun i =>
          ({ code := code, sec := x.idx, rcd := 0, off := x.off + 16 + 8 * i.1 } : LoadErr)))
    | _, _ => none))

/-- PR_ACCESS (R36). -/
def Ldr.checkAccess (l : Ldr) : Option LoadErr := l.insErr 0x20 (fun s e p i w => insBad s e p i w)

/-- PR_REMOTE: no lane of this device and no route from it reaches the address in the phase's colour set. -/
def Ldr.checkRemote (l : Ldr) : Option LoadErr :=
  l.insErr 0x21 (fun s e p _ w => (insRemotes s e p w).any (fun d =>
    let c := (phaseOf s s.run.phase).colourSet
    let me := myLogical s
    !(l.hasLane c me d || l.p.routes.any (fun r => r.colourSet == c && r.src == me && r.dst == d))))

/-- Whether a tally is allocated by this device's TALLY records. -/
def Ldr.allocated (l : Ldr) (i : Nat) : Bool := decide (i < 65280) && l.dev.tallies.any (fun r => decide (r.first ≤ i ∧ i < r.first + r.count))

/-- PR_TALLY (R68, R69). -/
def Ldr.checkTally (l : Ldr) : Option LoadErr :=
  firstErr [
    l.insErr 0x22 (fun s e p _ w => (insTallies s e p w).any (fun i => !l.allocated i)),
    overRecs (l.mine 0x0104) (fun i _ =>
      let ts := l.dev.tallies
      let t := ts.getD i { first := 0, count := 0, initial := 0 }
      badField 0x22 [(0, decide (65280 ≤ t.first)), (4, decide (t.count < 1 ∨ 65280 < t.first + t.count)),
        (0, (ts.take i).any (fun q => overlaps (q.first, q.count) (t.first, t.count)))]),
    overRecs (l.mine 0x0105) (fun i _ =>
      let c := l.dev.compls.getD i { phase := 0, tally := 0, target := 0 }
      badField 0x22 [(0, decide (l.p.phases.length ≤ c.phase)), (4, !l.allocated c.tally)])]

/-- PR_STREAM (R70). -/
def Ldr.checkStream (l : Ldr) : Option LoadErr :=
  overRecs (l.mine 0x0106) (fun i _ =>
    let rs := l.dev.streams
    let r := rs.getD i { first := 0, count := 0, digital := false, initParam := none }
    badField 0x23 [(0, decide (16384 ≤ r.first)), (4, decide (r.count < 1 ∨ 16384 < r.first + r.count)),
      (0, (rs.take i).any (fun q => overlaps (q.first, q.count) (r.first, r.count)))])

/-- PR_SHARD (R71, R59, R409, R493, R532). -/
def Ldr.checkShard (l : Ldr) : Option LoadErr :=
  let ss := l.dev.shards
  let total := (ss.map (·.size)).foldl (· + ·) 0
  firstErr [
    overRecs (l.mine 0x0107) (fun i o =>
      let x := ss.getD i { space := 0, off := 0, size := 0 }
      let me := (x.off, x.size)
      badField 0x24 [
        (0, decide (bits (l.m.u o 8) 62 2 ≠ 0 ∨ 2 < x.space ∨ x.off % 4096 ≠ 0)),
        (8, decide (x.size % 4096 ≠ 0 ∨ x.size < 4096 ∨ spaceSize l.s x.space < x.off + x.size)),
        (0, (ss.take i).any (fun q => decide (q.space = x.space) && overlaps (q.off, q.size) me)),
        (0, decide (x.space = 1) && (l.stackGone x.off x.size || l.leased x.off x.size || (match l.p.epoch with
          | some e => overlaps (e.hoardBase, e.hoardSize + e.hoardSize / 2) me
          | none => false)))]),
    (match l.p.epoch, l.me with
      | some e, some _ => errIf (decide (e.hoardSize < 2 * (total + 2 ^ 24))) (match l.mine 0x0107 with
        | some x => { code := 0x24, sec := x.idx, off := x.off }
        | none => { code := 0x24 })
      | _, _ => none)]

/-- Whether an allocated analog context homed on a die sets continuous in its initial contents (R256). -/
def Ldr.continuousOn (l : Ldr) (k : Nat) : Bool :=
  !l.p.repro && l.dev.streams.any (fun r => !r.digital && (match r.initParam with
    | some a => (List.range r.count).any (fun c =>
        decide ((r.first + c) / 2048 = k) && bit ((l.dev.params.getD (a + 32 * c + 1) 0).toNat) 9)
    | none => false))

/-- PR_CALWIN_USE (R61, R256). -/
def Ldr.checkCalwinUse (l : Ldr) : Option LoadErr :=
  overRecs (l.m.sec? 0x0008 0) (fun i _ =>
    let c := l.p.calwins.getD i (0, 0)
    badField 0x25 [(4, (List.range 8).any (fun k => bit c.2 k &&
      (l.continuousOn k || l.dev.binds.any (fun b => decide (b.engine = engId 5 k 0) && decide (b.first ≤ c.1 ∧ c.1 ≤ b.last)))))])

/-- Stage 3. -/
def stage3 : List (Ldr → Option LoadErr) :=
  [Ldr.checkSpareCover, Ldr.checkEngine, Ldr.checkFrozen, Ldr.checkRepro, Ldr.checkParam, Ldr.checkDescriptors, Ldr.checkHolding,
   Ldr.checkAccess, Ldr.checkRemote, Ldr.checkTally, Ldr.checkStream, Ldr.checkShard, Ldr.checkCalwinUse]

/-- The outcome of the loader's checks: a refusal before the device knows its place in the roster, one after it, or a plan that passed. -/
inductive Loaded where
  | refused (e : LoadErr)
  | refusedKnown (p : Plan) (e : LoadErr)
  | passed (p : Plan)

/-- Stages 1 to 3 in order (R74). -/
def checkImage (s : State) (d : List Byte) (len : Nat) : Loaded :=
  match checkStage1 d len with
  | some e => .refused e
  | none =>
    let m := parseImg d
    let l : Ldr := { s := s, m := m, p := m.plan }
    match inOrder l [Ldr.checkRoster, Ldr.checkPosition] with
    | some e => .refused e
    | none => match inOrder l (stage2 ++ stage3) with
      | some e => .refusedKnown l.p e
      | none => .passed l.p

end Sys2Proof.Machine
end

