-- ==== Sys2Proof/Machine/Load.lean ====
section
/-! DEFINITION. Loading a plan: the command, the checks' outcome, the span's join, its verdict and the hoard leases of partners outside the
span (R60, R73 to R80, R528, R530, R532). -/

namespace Sys2Proof.Machine

open Sys2Proof

/-! ### PLAN_LOAD (R528, R535) -/

/-- The stacks of powered HBM pairs are trained: until then a load waits in its queue (R488). -/
def hbmReady (s : State) : Bool :=
  (List.range 16).all (fun n =>
    decide ((domOf s (8 + n / 2)).st ≠ .on) || s.boot.absentStacks.contains n || (SMap.get {} s.mem.hbmc n).trained)

/-- PLAN_LOAD: INVALID for a bad address, BUSY while a plan is loading, held, running, suspended or waiting. A plan that has ended goes:
R80, R528 and R535 do not say when, and here it is discarded as the command is taken, even where the new load is then refused (DESIGN
CHOICE, log entry 43). -/
def execPlanLoad (q id : Nat) (rsv : Bool) (addr len ring vector : Nat) (s : State) : Out :=
  if !hbmReady s then .next s
  else onCmd q id rsv s (fun s =>
    if !hostAddrOk addr 8 || decide (2 ^ 32 ≤ len) || !hostAddrOk ring 64 || decide (2048 ≤ vector) then endCmd q id 3 s
    else if s.run.st ≠ .none ∧ s.run.st ≠ .ended then endCmd q id 2 s
    else
      let s := if s.run.st = .ended then discardPlan s else s
      { s with
        load := { stage := .reading, length := len, queue := q, cmdId := id % 65536, ring := BitVec.ofNat 64 ring, vector := vector }
        run := { st := .loading, lastId := s.run.lastId } })

/-! ### Refusal (R75, R530) -/

/-- The detail of a refused load. -/
def refuseDetail (code off dev devCode : Nat) : Nat :=
  code + (if code = 0x27 then dev * 2 ^ 8 + 2 ^ 23 + 2 ^ 24 * devCode else 0) + off % 2 ^ 32 * 2 ^ 32

/-- The load ends refused: the event of its code, the completion, and no plan is left. -/
def refuseLoad (id : Nat) (e : LoadErr) (dev devCode : Nat) (s : State) : State :=
  let fs := [(8, id), (4, e.sec), (4, e.rcd), (4, e.off)] ++ (if e.code = 0x27 then [(2, dev), (2, devCode)] else [])
  let s := logEvent (0x1400 + e.code) srcDevice fs s
  let l := s.load
  let s := { s with
    load := { l with stage := .idle, image := [], plan := none, refusal := some (e.code, e.off) }
    run := { lastId := s.run.lastId } }
  postCompletion l.queue l.cmdId 1 (refuseDetail e.code e.off dev devCode) s

/-! ### Join (R60, R77) -/

/-- The message JOIN of this device. -/
def joinMsg (p : Plan) (code : Nat) (lease : Lease) (s : State) : Msg :=
  let d := (spanEntry p s.fab.position).bind (·.logical)
  .join d.isNone (d.getD 0) p.planId p.digest code lease

/-- Send JOIN to the steward. -/
def sendJoin (p : Plan) (code : Nat) (lease : Lease) (s : State) : State :=
  match spanPos p p.steward with
  | some pos => sendMsgPos (joinMsg p code lease s) pos s
  | none => s

/-- Whether this device's position is the steward's. -/
def stewardHere (p : Plan) (s : State) : Bool := decide (spanPos p p.steward = some s.fab.position)

/-- The position of a hoard partner that must hold a lease: of a device with shards in a plan with an EPOCH section whose partner lies
outside the span (R60). -/
def leasePartner (p : Plan) (s : State) : Option Nat :=
  match p.epoch, (spanEntry p s.fab.position).bind (·.logical) with
  | some _, some d => if (p.sections d).shards.isEmpty ∨ (spanPos p (partnerOf d)).isSome = true then none else some (partnerOf d)
  | _, _ => none

/-- Stages 1 to 3 have passed: JOIN, and LEASE_CHECK where a partner outside the span is needed. -/
def startJoin (p : Plan) (s : State) : State :=
  let part := leasePartner p s
  let lease : Lease := if part.isSome then .pending else .notNeeded
  let s := { s with load := { s.load with stage := .joining, image := [], plan := some p, lease := lease, leaseSent := part.isSome } }
  let s := sendJoin p 0 lease s
  match part with
  | some q => sendMsgPos (.leaseCheck p.planId ((p.epoch.map (·.hoardSize)).getD 0) s.fab.position) q s
  | none => s

/-- A refusal once the roster is known: its own completion, JOIN with its code, and as steward the service of R77. The lease status of a
JOIN that carries a refusal code is "not needed", which R77 leaves open (DESIGN CHOICE, log entry 43). -/
def refuseKnown (p : Plan) (e : LoadErr) (s : State) : State :=
  let s := refuseLoad p.planId.toNat e 0 0 s
  let s := if stewardHere p s then { s with load := { s.load with refusing := true, plan := some p } } else s
  sendJoin p e.code .notNeeded s

/-- LOAD_CHECKS (R73, R74, R77): the image has been read, or its read failed. -/
def execLoadChecks (image : List Byte) (ok : Bool) (s : State) : Out :=
  let l := s.load
  if l.stage ≠ .reading then .next s
  else if !ok then .next (endCmd l.queue l.cmdId 6 (dropLoad l.queue s))
  else if image.length ≠ l.length then .next s
  else match checkImage s image l.length with
    | .refused e => .next (refuseLoad (leAt image 0x18 8) e 0 0 s)
    | .refusedKnown p e => .next (refuseKnown p e s)
    | .passed p => .next (startJoin p s)

/-- The steward's record of a JOIN: whether it matches the steward's plan. -/
def joinRecord (p : Plan) (m : Msg) : Option Joined :=
  match m with
  | .join spare logical id digest code lease =>
    some { spare := spare, logical := logical, code := code, matching := decide (id = p.planId ∧ digest = p.digest), lease := lease }
  | _ => none

/-- A verdict as a message. -/
def Verdict.msg (v : Verdict) : Msg := .verdict v.go v.code v.dev v.devCode

/-- The positions that have joined. -/
def joinedAt (s : State) : List Nat := s.load.joined.map (·.1)

/-- The steward gives its verdict: every device that has joined receives it. -/
def giveVerdict (v : Verdict) (s : State) : State :=
  forEach (joinedAt s) (fun pos s => sendMsgPos v.msg pos s) { s with load := { s.load with verdict := some v } }

/-- A refusing verdict. -/
def refusal (code : Nat) : Verdict := { go := false, code := code, dev := 0, devCode := 0 }

/-- The failure a device's JOIN shows, if any. -/
def joinFailure (j : Joined) : Option Verdict :=
  if !j.matching then some (refusal 0x26)
  else if j.code = 0x29 then some (refusal 0x29)
  else if j.code ≠ 0 then some { go := false, code := 0x27, dev := j.logical, devCode := j.code }
  else none

/-- Whether every non-spare device of the roster has joined well, with its lease not needed or confirmed. -/
def allJoined (p : Plan) (s : State) : Bool :=
  p.span.all (fun e => e.logical.isNone || (match SMap.get none s.load.joined e.physical with
    | some j => j.matching && decide (j.code = 0) && decide (j.lease ≠ .pending)
    | none => false))

/-- A good spare that joins after GO becomes available (R77): in the steward's roster, and to a rollback that waits (R423). -/
def lateSpare (pos : Nat) (s : State) : State :=
  let e := SMap.get {} (roster s) pos
  if e.role = 3 then
    let s := { s with fab := { s.fab with ctl := { s.fab.ctl with roster := SMap.set {} (roster s) pos { e with role := 2 } } } }
    if s.run.st = .waiting ∧ isCoordinator s = true ∧ s.epoch.lostSent.any (fun l => l.spare.isNone && (freeSpare s [] l.physical).isSome) = true then
      startRollback [] s
    else s
  else s

/-- JOIN at a steward that serves the join: a verdict at once where this JOIN decides it, or the one already given. -/
def takeJoin (p : Plan) (pos : Nat) (j : Joined) (s : State) : State :=
  let s := { s with load := { s.load with joined := SMap.set none s.load.joined pos (some j) } }
  match s.load.verdict with
  | some v =>
    let s := sendMsgPos v.msg pos s
    if v.go && j.spare && j.matching && decide (j.code = 0) then lateSpare pos s else s
  | none =>
    match (if j.spare then none else joinFailure j) with
    | some v => giveVerdict v s
    | none => if allJoined p s then giveVerdict { go := true, code := 0, dev := 0, devCode := 0 } s else s

/-- The plan of the join this device serves as steward: its own load's, or the plan it holds. -/
def joinPlan (s : State) : Option Plan :=
  match s.load.plan with
  | some p => if stewardHere p s then some p else none
  | none => none

/-- Whether this steward can take a JOIN: it has finished its own stage 3, or refuses, or has given its verdict. Before that a JOIN waits. -/
def joinServed (s : State) : Bool := s.load.refusing || s.load.verdict.isSome || decide (s.load.stage = .joining)

/-- The answer of a refusing steward. -/
def refusingVerdict (p : Plan) (s : State) : Msg := .verdict false 0x27 p.steward ((s.load.refusal.map (·.1)).getD 0)

/-- JOIN (R77). -/
def execJoin (p : Packet) (s : State) : Out :=
  match joinPlan s with
  | none => .next s
  | some pl =>
    if !joinServed s then .next s
    else
      let s := takeIngress p s
      if (spanEntry pl p.source).isNone then .next s
      else if s.load.refusing then .next (sendMsgPos (refusingVerdict pl s) p.source s)
      else match (msgOf p).bind (joinRecord pl) with
        | some j => .next (takeJoin pl p.source j s)
        | none => .next s

/-- WITHDRAW (R77). -/
def execWithdraw (p : Packet) (s : State) : Out :=
  match joinPlan s with
  | none => .next s
  | some pl =>
    if !joinServed s then .next s
    else
      let s := takeIngress p s
      if (spanEntry pl p.source).isNone then .next s
      else if s.load.refusing then .next (sendMsgPos (refusingVerdict pl s) p.source s)
      else match s.load.verdict with
        | some v => .next (sendMsgPos v.msg p.source s)
        | none =>
          let s := giveVerdict (refusal 0x28) s
          .next (if (joinedAt s).contains p.source then s else sendMsgPos (refusal 0x28).msg p.source s)

/-- STEWARD_JOIN_TIMEOUT (R77). -/
def execStewardJoinTimeout (s : State) : Out :=
  if (joinPlan s).isSome ∧ s.load.stage = .joining ∧ s.load.verdict.isNone = true then .next (giveVerdict (refusal 0x28) s)
  else .next s

/-- REFUSING_STEWARD_END (R77). -/
def execRefusingStewardEnd (s : State) : Out :=
  if s.load.refusing then .next { s with load := { s.load with refusing := false, plan := none } } else .next s

/-- JOIN_TIMEOUT (R77): WITHDRAW goes to the steward. A steward has a timeout of its own. -/
def execJoinTimeout (s : State) : Out :=
  match s.load.plan with
  | some p =>
    if s.load.stage = .joining ∧ stewardHere p s = false then
      let s := { s with load := { s.load with stage := .withdrawn } }
      .next (match spanPos p p.steward with
        | some pos => sendMsgPos .withdraw pos s
        | none => s)
    else .next s
  | none => .next s

/-- The load's own refusal of stage 4. -/
def refuseStage4 (code dev devCode : Nat) (s : State) : State :=
  match s.load.plan with
  | some p => refuseLoad p.planId.toNat { code := code } dev devCode s
  | none => s

/-- WITHDRAW_TIMEOUT (R77). -/
def execWithdrawTimeout (s : State) : Out :=
  if s.load.stage = .withdrawn then .next (refuseStage4 0x28 0 0 s) else .next s

/-- A refused load of the steward keeps the plan and its verdict for devices that join later. -/
def keepVerdict (v : Option Verdict) (p : Option Plan) (j : SMap (Option Joined)) (s : State) : State :=
  { s with load := { s.load with verdict := v, plan := p, joined := j } }

/-- The effect of a verdict on a device that waits for it (R77, R78). -/
def takeVerdict (p : Plan) (go : Bool) (code dev devCode : Nat) (s : State) : State :=
  let l := s.load
  if go then goPlan p s
  else
    let s := refuseStage4 code dev devCode s
    if stewardHere p s then keepVerdict l.verdict l.plan l.joined s else s

/-- VERDICT (R77, R78). A device that has refused keeps its own code. -/
def execVerdict (p : Packet) (s : State) : Out :=
  let s := takeIngress p s
  match msgOf p, s.load.plan with
  | some (.verdict go code dev devCode), some pl =>
    if (s.load.stage = .joining ∨ s.load.stage = .withdrawn) ∧ spanPos pl pl.steward = some p.source then
      .next (takeVerdict pl go code dev devCode s)
    else .next s
  | _, _ => .next s

/-! ### Leases (R60, R77, R532) -/

/-- The lanes in force with the partner lanes of now (R339). -/
def refreshPartnerLanes (s : State) : State :=
  forEach (partnerLanes s) (fun e s => nameLane e.1 e.2 s) s

/-- LEASE_CHECK (R60): LEASE_OK where a lease of this plan_id is large enough, and its device is served from now on. -/
def execLeaseCheck (p : Packet) (s : State) : Out :=
  let s := takeIngress p s
  match msgOf p with
  | some (.leaseCheck id size pos) =>
    match s.hub.lease with
    | some l =>
      if l.planId = id ∧ size ≤ l.size then
        let s := { s with hub := { s.hub with lease := some { l with served := some pos, need := size } } }
        .next (sendMsgPos (.leaseOk id true) pos (refreshPartnerLanes s))
      else .next (sendMsgPos (.leaseOk id false) pos s)
    | none => .next (sendMsgPos (.leaseOk id false) pos s)
  | _ => .next s

/-- The device refuses with PR_HOARD_PARTNER and joins again with that code (R77). A steward's own failure decides its verdict, which every
device that has joined or joins later receives. The lease status of that JOIN is "not needed" (DESIGN CHOICE, log entry 43). -/
def leaseRefused (p : Plan) (s : State) : State :=
  let v := s.load.verdict
  let j := s.load.joined
  let s := refuseStage4 0x29 0 0 s
  let s := if stewardHere p s then
      let s := keepVerdict v (some p) j s
      if v.isSome then s else giveVerdict (refusal 0x29) s
    else s
  sendJoin p 0x29 .notNeeded s

/-- LEASE_OK (R77) during a join; with a plan loaded, a lease granted again or ended (R425). -/
def execLeaseOk (p : Packet) (s : State) : Out :=
  let s := takeIngress p s
  match msgOf p with
  | some (.leaseOk id ok) =>
    match s.load.plan, s.run.plan with
    | some pl, none =>
      if s.load.stage ≠ .joining ∨ s.load.lease ≠ .pending ∨ id ≠ pl.planId then .next s
      else if ok then .next (sendJoin pl 0 .confirmed { s with load := { s.load with lease := .confirmed } })
      else .next (leaseRefused pl s)
    | _, some pl =>
      if id ≠ pl.planId ∨ s.epoch.inSpan = true ∨ p.source ≠ s.epoch.partner then .next s
      else if ok then .next { s with epoch := { s.epoch with lease := true } }
      else .next (hoardLost s)
    | _, _ => .next s
  | _ => .next s

/-- LEASE_CHECK_TIMEOUT (R77): 10 ms without an answer. -/
def execLeaseCheckTimeout (s : State) : Out :=
  match s.load.plan with
  | some p => if s.load.stage = .joining ∧ s.load.lease = .pending then .next (leaseRefused p s) else .next s
  | none => .next s

end Sys2Proof.Machine
end

