-- ==== Sys2Proof/Machine/Recovery.lean ====
section
/-! DEFINITION. Faults, liveness, rollback, takeover and the ends that recovery brings (R416 to R425, R410). -/

namespace Sys2Proof.Machine

open Sys2Proof

/-! ### Faults and stops -/

/-- Whether a message comes from a member of the span: by its position, or by its logical number. -/
def fromMember (p : Packet) (s : State) : Bool := if p.phys then ours p s else s.run.plan.isSome && (physOf s p.source).isSome

/-- FAULT (R417, R419, R424): a rollback, with a takeover where the device treats itself as lost; a restore that found no intact copy ends
the plan. -/
def execFault (p : Packet) (s : State) : Out :=
  let s := takeIngress p s
  match msgOf p with
  | some (.fault cause _ selfLost) =>
    if !planRuns s || !fromMember p s then .next s
    else if cause = 0xA00A ∨ (epochRec s).isNone = true then .next (unrecoverable [p.source] s)
    else if selfLost then .next (declareLost p.source 2 s)
    else .next (startRollback [] s)
  | _ => .next s

/-- STOP (R424, R528): the plan ends with the named status. -/
def execStop (p : Packet) (s : State) : Out :=
  let s := relayMsg p (takeIngress p s)
  match msgOf p with
  | some (.stop st) =>
    if ours p s = true ∧ (s.run.st = .run ∨ s.run.st = .hold ∨ s.run.st = .waiting) then .next (endPlan st s) else .next s
  | _ => .next s

/-- STOP_REQ (R410, R528): at once, or at the next boundary. A plan that waits for a spare stops at once (R535). -/
def execStopReq (p : Packet) (s : State) : Out :=
  let s := takeIngress p s
  match msgOf p with
  | some (.stopReq later) =>
    if !fromMember p s || !isCoordinator s then .next s
    else if later && decide (s.run.st ≠ .waiting) then .next { s with run := { s.run with stopAtBoundary := true } }
    else .next (broadcastMsg (.stop 2) s)
  | _ => .next s

/-! ### Liveness (R416) -/

/-- The positions this device probes: as rack gatherer its members, as row gatherer its rack gatherers, as coordinator the row gatherers,
as deputy the steward. -/
def probeTargets (s : State) : List Nat :=
  let me := s.fab.position
  let rack := if rackGatherer s (posRow me) (posRack me) = some me then
      ((List.range 32).map (mkPos (posRow me) (posRack me))).filter (posActive s) else []
  let row := if rowGatherer s (posRow me) = some me then (List.range 32).filterMap (rackGatherer s (posRow me)) else []
  let hall := if isCoordinator s then (List.range 32).filterMap (rowGatherer s) else []
  let dep := if s.run.me = some (deputyOf s) then ((physOf s (stewardOf s)).map (fun q => [q])).getD [] else []
  ((rack ++ row ++ hall ++ dep).foldl (fun acc q => insertNat q acc) []).filter (· ≠ me)

/-- The position that probes a device, as its rack gatherer. -/
def probedBy (s : State) (pos : Nat) : Option Nat := rackGatherer s (posRow pos) (posRack pos)

/-- Send a probe to a position. -/
def sendProbe (pos : Nat) (s : State) : State :=
  sendMsgPos (.probe s.epoch.probeSeq) pos { s with epoch := { s.epoch with probeSeq := (s.epoch.probeSeq + 1) % 2 ^ 32 } }

/-- SUSPECT (R416): the coordinator confirms it with three probes. The cause is a missed probe where the sender probes the device. -/
def execSuspect (p : Packet) (s : State) : Out :=
  let s := takeIngress p s
  match msgOf p with
  | some (.suspect d) =>
    match physOf s d with
    | some pos =>
      if !planRuns s || !fromMember p s || s.epoch.confirming.any (fun e => e.1 == d) then .next s
      else
        let src := if p.phys then some p.source else physOf s p.source
        let cause := if src = probedBy s pos then 0 else 1
        .next (sendProbe pos { s with epoch := { s.epoch with
          confirming := SMap.set 0 s.epoch.confirming d 1, causes := SMap.set 0 s.epoch.causes d cause } })
    | none => .next s
  | _ => .next s

/-- PROBE (R416): answered whether or not a plan is running. -/
def execProbe (p : Packet) (s : State) : Out :=
  let s := takeIngress p s
  match msgOf p with
  | some (.probe n) => .next (if p.phys then sendMsgPos (.probeAck n) p.source s else sendMsg (.probeAck n) p.source s)
  | _ => .next s

/-- PROBE_ACK (R416): the device is alive. -/
def execProbeAck (p : Packet) (s : State) : Out :=
  let s := takeIngress p s
  match msgOf p with
  | some (.probeAck _) =>
    let d := (SMap.get {} (roster s) p.source).logical
    let e := s.epoch
    .next { s with epoch := { e with
      awaiting := e.awaiting.filter (· ≠ p.source), missed := SMap.erase p.source e.missed
      confirming := if posActive s p.source then SMap.erase d e.confirming else e.confirming } }
  | _ => .next s

/-- One position is probed: a third answer missed in a row makes its device suspect. -/
def probeOne (pos : Nat) (s : State) : State :=
  let e := s.epoch
  let n := if e.awaiting.contains pos then SMap.get 0 e.missed pos + 1 else 0
  let s := { s with epoch := { e with
    missed := SMap.set 0 e.missed pos (if n < 3 then n else 0), awaiting := insertNat pos e.awaiting } }
  let s := if 3 ≤ n ∧ posActive s pos = true then
      let d := (SMap.get {} (roster s) pos).logical
      sendMsg (.suspect d) (coordinatorBut s d) s
    else s
  sendProbe pos s

/-- One suspect under confirmation: the next probe, or after three missed the loss. -/
def confirmOne (d : Nat) (s : State) : State :=
  match SMap.get 0 s.epoch.confirming d, physOf s d with
  | 0, _ => s
  | n, some pos =>
    if n < 3 then sendProbe pos { s with epoch := { s.epoch with confirming := SMap.set 0 s.epoch.confirming d (n + 1) } }
    else declareLost d (SMap.get 0 s.epoch.causes d) { s with epoch := { s.epoch with confirming := SMap.erase d s.epoch.confirming } }
  | _, none => { s with epoch := { s.epoch with confirming := SMap.erase d s.epoch.confirming } }

/-- PROBE_TICK (R416): the 1 ms tick of a confirmation, or the 10 ms tick of the probes. -/
def execProbeTick (s : State) : Out :=
  if !spanRuns s then .next s
  else if s.epoch.confirming.isEmpty then
    let ts := probeTargets s
    .next (forEach ts probeOne { s with epoch := { s.epoch with awaiting := s.epoch.awaiting.filter ts.contains } })
  else .next (forEach (s.epoch.confirming.map (·.1)) confirmOne s)

/-! ### ROLLBACK (R418 to R420) -/

/-- Free every request slot without completion (R378, R419). -/
def freeSlots (s : State) : State :=
  { s with remote := { s.remote with
    used := 0
    slots := SMap.mapVals {} s.remote.slots (fun _ k => if k.busy then { ({} : Slot) with gen := k.gen } else k) } }

/-- Packets of the abandoned run are gone: only urgent ones stay (R327, R425). -/
def dropRun (s : State) : State :=
  let f := s.fab
  { s with fab := { f with
    ingress := f.ingress.filter (fun p => p.vc == 3)
    held := f.held.filter (fun h => h.p.vc == 3)
    flaggedHeld := [], flaggedSent := [], orderResend := [], skipMarked := [] } }

/-- Step 2 of R419: every engine stopped, staging and request slots freed, L1s invalidated, unsketched positions dropped. -/
def abandonRun (s : State) : State :=
  dropAppends (clearDirectory (dropRun (freeSlots (freeAllStg (stopEngines s)))))

/-- The roster after a takeover: lost positions become spare unavailable, their spares active (R419). -/
def takeoverRoster (lost : List Lost) (ro : SMap RosterEntry) : SMap RosterEntry :=
  lost.foldl (fun ro l =>
    let ro := SMap.set {} ro l.physical { SMap.get {} ro l.physical with role := 3 }
    match l.spare with
    | some q => SMap.set {} ro q { logical := l.logical, role := 1 }
    | none => ro) ro

/-- A device takes up a logical identity: its sections of the image, and the state it runs in (R419, R420). -/
def takeIdentity (d : Nat) (s : State) : State := placePlan { s with run := { s.run with me := some d } }

/-- A device whose position is no longer active has no further part in the plan (R418). -/
def loseIdentity (s : State) : State :=
  let s := logEvent 0xA00E srcDevice [] s
  let s := freeSlots (stopEngines { s with
    run := { s.run with me := none, st := .hold, between := false }
    power := { s.power with st := .hold }
    epoch := { s.epoch with xfers := [] } })
  postStatus s

/-- The partner lanes used for restores: line 16 of FP28 to FP30 where a ring is free, beside the tree (R419). -/
def restoreLanes (q : Nat) (s : State) : State :=
  forEach [28, 29, 30] (fun port s =>
    if sameGroup 2 s.fab.position q && (pickRing s port false).isSome && (pickRing s port true).isSome then nameLane port q s else s) s

/-- The lost device whose hoard partner this device is. -/
def lostPartner (lost : List Lost) (s : State) : Option Lost := lost.find? (fun l => s.run.me == some (partnerOf l.logical))

/-- What a survivor sends (R420): to the spare of its partner the copy its hoard holds, and a re-mirror of its own keep. -/
def sendRestores (s : State) : State :=
  let e := s.epoch
  match lostPartner e.lostList s, hoardOf s false with
  | some l, some h =>
    if l.spare.isNone then s
    else
      let half := h.2 / 2
      let base := e.target % 2 * half
      let there := match s.run.plan with
        | some p => !(p.sections l.logical).shards.isEmpty
        | none => false
      let s := if there then
          startXfer { kind := .restore, dest := l.logical, phys := false, base := base, size := copyField s.mem.hbm (h.1 + base) 0x18 8 } s
        else s
      if (mySections s).shards.isEmpty then s
      else startXfer { kind := .remirror, dest := l.logical, phys := false, base := base, size := copySize s } s
  | _, _ => s

/-- A survivor whose keep does not hold the target writes it from its live state, which equals it (R413, R420). -/
def settleKeep (target : Nat) (s : State) : State :=
  let s := if s.epoch.has && decide (s.epoch.commit = target) then s else setCommit target s.time.hall s
  if s.epoch.keepValid then s else writeKeep s

/-- The registers of the last loss (R426): the cause is known to the coordinator that declared it. -/
def noteLost (target : Nat) (lost : List Lost) (s : State) : State :=
  match lost.getLast? with
  | none => s
  | some l =>
    let cause := if s.epoch.causes.any (fun e => e.1 == l.logical) then SMap.get 0 s.epoch.causes l.logical
      else if isCoordinator s then 0 else 3
    { s with epoch := { s.epoch with
      lostLogical := l.logical, lostPhysical := l.physical, lostCause := cause, lostCommit := target } }

/-- The records of a rollback and of each takeover that is new (R423). -/
def noteRollback (target : Nat) (lost : List Lost) (s : State) : State :=
  let again := decide (s.epoch.stage = .rollback ∨ s.epoch.stage = .waitSpare)
  let new := lost.filter (fun l => l.spare.isSome && !s.epoch.lostList.contains l)
  let s := if again then s else logEvent 0xA004 srcDevice [(8, target)] s
  let s := forEach new (fun l s => logEvent 0xA006 srcDevice [(2, l.physical), (2, l.spare.getD 0)] s) s
  let e := s.epoch
  { s with epoch := { e with
    rollbacks := if again then e.rollbacks else satAdd 32 e.rollbacks 1
    takeovers := satAdd 16 e.takeovers new.length
    rollbackAt := if again then e.rollbackAt else nowNs s } }

/-- The position of the tree's root in a rollback (R349): the coordinator's. -/
def rollbackRoot (s : State) : Nat := (physOf s (coordinatorOf s)).getD s.fab.ctl.treeRoot

/-- Steps 2 and 3 of R419 on a member of the span, and what it then sends. -/
def rollbackHere (target serial : Nat) (lost : List Lost) (next : Nat) (passes : List (Nat × Nat)) (s : State) : State :=
  let pos := s.fab.position
  let was := s.run.me
  let s := noteRollback target lost s
  let s := if was.isSome ∧ (s.epoch.stage ≠ .rollback ∧ s.epoch.stage ≠ .waitSpare) ∧ s.epoch.has = true then settleKeep target s else s
  let s := abandonRun s
  let e := s.epoch
  let s := { s with
    run := { s.run with between := true, halted := true }
    epoch := { e with
      stage := .rollback, serial := serial, target := target, lostList := lost, restored := false, placed := false
      arrivals := [], readies := [], restoreds := [], commitSent := false, swaps := [], lags := [], lagCount := 0
      xfers := [], incoming := [], incomingBad := [], got := 0, noCopy := false, restartAt := none
      has := true, commit := target, next := if was.isSome then e.next else next, passes := if was.isSome then e.passes else passes
      awaiting := [], missed := [], confirming := [] } }
  let s := noteLost target lost (tallySet 65284 0 s)
  let s := noteDisplaced (commitRoster (takeoverRoster lost (roster s)) s)
  let s := if was.isSome && !posActive s pos then loseIdentity s else s
  let s := match lost.find? (fun l => l.spare == some pos) with
    | some l => if was = some l.logical then s else takeIdentity l.logical s
    | none => s
  let root := rollbackRoot s
  let s := if s.fab.mode = 1 then changeTree root s else applyTree root s
  let s := refreshParent (setRoles s)
  let s := match s.run.me, lost.find? (fun l => l.spare == some pos) with
    | some d, some _ =>
      let s := if s.epoch.inSpan then s else { s with epoch := { s.epoch with lease := !(mySections s).shards.isEmpty } }
      restoreLanes ((physOf s (partnerOf d)).getD (partnerOf d)) s
    | _, _ => match lostPartner lost s with
      | some l => match l.spare with
        | some q => restoreLanes q s
        | none => s
      | none => s
  if s.run.me.isSome then sendRestores s else s

/-- ROLLBACK at a lease holder of another span (R411, R420): it serves the spare from now on, and sends it the copy of the target. -/
def rollbackForeign (target : Nat) (lost : List Lost) (s : State) : State :=
  match s.hub.lease, lost.find? (fun l => partnerOf l.logical == s.fab.position) with
  | some h, some l =>
    match l.spare with
    | some q =>
      let base := target % 2 * (h.need / 2)
      let s := refreshPartnerLanes { s with hub := { s.hub with lease := some { h with served := some q } } }
      startXfer { kind := .restore, dest := q, phys := true, base := base, size := copyField s.mem.hbm (h.base + base) 0x18 8 }
        { s with epoch := { s.epoch with xfers := s.epoch.xfers.filter (fun x => !x.phys) } }
    | none => s
  | _, _ => s

/-- ROLLBACK (R418, R419): of a higher serial than the last one taken. -/
def execRollback (p : Packet) (s : State) : Out :=
  let s := relayMsg p (takeIngress p s)
  match msgOf p with
  | some (.rollback target serial lost next passes) =>
    if !ours p s then .next (rollbackForeign target lost s)
    else if serial ≤ s.epoch.serial ∨ (s.run.st ≠ .run ∧ s.run.st ≠ .hold ∧ s.run.st ≠ .waiting) then .next s
    else .next (rollbackHere target serial lost next passes s)
  | _ => .next s

/-! ### Restores (R420, R421) -/

/-- The poisoned lines of this device's keep that its copy covers. -/
def keepBad (s : State) : List Nat :=
  let b := keepBase s
  s.mem.hbmPoison.filter (fun l => decide (b ≤ l * 64) && decide (l * 64 < b + copySize s))

/-- Whether a read of the firmware is in flight. -/
def fetching (s : State) : Bool :=
  s.remote.slots.any (fun e => e.2.busy && decide (e.2.packet.ptype = 0) && (match e.2.use with
    | .firmware _ => true
    | _ => false))

/-- Whether the partner's hoard holds an intact copy of this device's target: not where the partner was lost, or took no mirror. -/
def partnerHolds (s : State) : Bool :=
  !(mySections s).shards.isEmpty && !s.epoch.lost && (s.epoch.inSpan || s.epoch.lease) && (lostPartner s.epoch.lostList s).isNone

/-- Fetch poisoned lines of the keep from the partner's hoard (R420). -/
def fetchLines (s : State) : State :=
  let e := s.epoch
  let half := ((hoardOf s false).getD (0, 0)).2 / 2
  let dest := if e.inSpan then partnerOf (s.run.me.getD 0) else e.partner
  forEach (keepBad s) (fun l s =>
    let b : MemBody := { len := 64, addr := mkHall dest 5 (e.target % 2 * half + (l * 64 - keepBase s)) }
    let p := issuePacket s 0x00 0 dest 0 (.mem b)
    let p := if e.inSpan then p else { p with phys := true, source := s.fab.position }
    (sendRequest srcDevice (.firmware 64) p s).getD s) s

/-- No intact copy is left: the coordinator learns it (R421, R424). -/
def noIntactCopy (s : State) : State := sendMsg (.fault 0xA00A srcDevice false) (coordinatorOf s) { s with epoch := { s.epoch with restored := true } }

/-- A spare of a device without shards starts from the image, with the coordinator's pass counters and next phase (R420). -/
def restoreImage (s : State) : State :=
  let s := { s with
    run := { s.run with phase := s.epoch.next, passes := s.epoch.passes }
    epoch := { s.epoch with has := true } }
  writeKeep s

/-- A spare's copy becomes its keep and its state (R420). -/
def restoreIncoming (s : State) : State :=
  let m := s.epoch.incoming
  let s := applyShards m [] 0 (applyRecord m 0 (putRange m [] 0 .hbm (keepBase s) (copySize s) s))
  { s with epoch := { s.epoch with
    has := true, passes := s.run.passes, next := s.run.phase, keepValid := true, incoming := [], incomingBad := [] } }

/-- A survivor's keep becomes its state (R420). -/
def restoreKeep (s : State) : State :=
  let m := s.mem.hbm
  let b := keepBase s
  let s := applyShards m s.mem.hbmPoison b (applyRecord m b s)
  { s with epoch := { s.epoch with passes := s.run.passes, next := s.run.phase } }

/-- The span holds for a spare: state, events and status (R423). -/
def waitForSpare (s : State) : State :=
  let s := { s with run := { s.run with st := .waiting }, epoch := { s.epoch with stage := .waitSpare } }
  postStatus (logEvent 0x1504 srcDevice [] (logEvent 0xA009 srcDevice [] s))

/-- This device has restored: banks, orders and sequences are zero, and the coordinator learns it (R419, R420). -/
def restoredHere (s : State) : State :=
  let s := zeroOrders (clearBanks s)
  let s := { s with epoch := { s.epoch with restored := true, placed := false } }
  let s := report (.restored s.epoch.serial [s.run.me.getD 0]) s
  if s.epoch.lostList.any (fun l => l.spare.isNone) then waitForSpare s else s

/-- Projection engines whose record is placed at a restart recalibrate first where their last full recalibration is more than 60 s old
(R277). -/
def restartRecal (s : State) : State :=
  forEach (List.range 8) (fun k s =>
    if (ppeOf s k).record.isSome && !domDown s (16 + k) && decide (60 < ppeAge s k) then startRecal 2 k s else s) s

/-- The copy is in place: the device has restored once no projection engine recalibrates (R277). -/
def placedHere (s : State) : State :=
  let s := restartRecal s
  if recalling s then { s with epoch := { s.epoch with placed := true } } else restoredHere s

/-- The end of a restore (R213, R419, R420): poisoned lines have been tested, with those that failed given, and are repaired; they are zero
but where the copy restores them. A device without a spare or repair left is lost. -/
def restoreTested (failed : List LineTest) (restore : State → State) (s : State) : State :=
  let r := testLines failed s
  match r.2 with
  | some st => epochFault (fatalCode st) srcDevice true { r.1 with epoch := { r.1.epoch with restored := true } }
  | none => placedHere (restore (zeroAllPoisoned r.1))

/-- A restore, with what the tests of its poisoned lines find (R213; a free value, log entry 3). -/
def restoreHere (restore : State → State) (s : State) : State := restoreTested (Config.lineTests s.free) restore (useFree s)

/-- RESTORE_DONE (R420, R421): every transfer of this device is complete, and its poisoned lines are tested. Poisoned lines of the keep are
fetched first. -/
def execRestoreDone (s : State) : Out :=
  let e := s.epoch
  let spare := e.lostList.any (fun l => l.spare == some s.fab.position)
  let bare := (mySections s).shards.isEmpty
  if e.stage ≠ .rollback ∨ e.restored = true ∨ e.placed = true ∨ s.run.me.isNone = true then .next s
  else if e.xfers.any (fun x => !x.phys && decide (x.acked < x.size)) then .next s
  else if e.noCopy then .next (noIntactCopy s)
  else if spare && bare then .next (restoreHere restoreImage s)
  else if spare then
    if e.got < copySize s then .next s
    else if !headerOk e.incoming 0 e.target s || !e.incomingBad.isEmpty then .next (noIntactCopy s)
    else .next (restoreHere restoreIncoming s)
  else if !(keepBad s).isEmpty then
    if fetching s then .next s
    else if partnerHolds s then .next (fetchLines s)
    else .next (noIntactCopy s)
  else if !headerOk s.mem.hbm (keepBase s) e.target s then .next (noIntactCopy s)
  else .next (restoreHere restoreKeep s)

/-! ### RESTORED, RESTART and the resumption (R419, R422) -/

/-- The coordinator names the restart 100 us ahead. -/
def sendRestart (s : State) : State := broadcastMsg (.restart (hallPlus s.time.hall 100000)) s

/-- RESTORED (R411, R419, R422): gathered; with every identity restored, RESTART. A swap's spares report to the coordinator directly. -/
def execRestored (p : Packet) (s : State) : Out :=
  match msgOf p with
  | some (.restored n ds) =>
    if s.epoch.serial < n then .next s
    else
      let s := takeIngress p s
      if n ≠ s.epoch.serial ∨ ours p s = false then .next s
      else
        let old := s.epoch.restoreds
        let new := ds.foldl (fun acc d => insertNat d acc) old
        let s := { s with epoch := { s.epoch with restoreds := new } }
        if !s.epoch.swaps.isEmpty then
          .next (if isCoordinator s && allIn (s.epoch.swaps.map (·.logical)) new && !allIn (s.epoch.swaps.map (·.logical)) old then sendRestart s
            else s)
        else
          let done := fun (s : State) => if s.epoch.lostSent.any (fun l => l.spare.isNone) then s else sendRestart s
          .next (gather old new (.restored n (new.filter (gatherFor s).1.contains)) done s)
  | _ => .next (takeIngress p s)

/-- RESTART (R419, R422): the hall time is noted. A spare outside the takeover goes back to its place. -/
def execRestart (p : Packet) (s : State) : Out :=
  let s := relayMsg p (takeIngress p s)
  match msgOf p with
  | some (.restart t) =>
    if ours p s = false ∨ (s.epoch.stage ≠ .rollback ∧ s.epoch.stage ≠ .keep ∧ s.epoch.swaps.isEmpty = true) then .next s
    else
      .next { s with epoch := { s.epoch with restartAt := some t } }
  | _ => .next s

/-- What a device of the span does at a restart, beside its state: roles, lanes of the phase, and the record (R349, R419). -/
def rejoin (s : State) : State :=
  let s := { s with
    run := { s.run with between := s.run.me.isSome, halted := false, clsPhase := s.run.phase }
    epoch := { s.epoch with stage := .running, restartAt := none, lostList := [], lostSent := [], swaps := [], causes := [] } }
  let s := setRoles s
  refreshParent (applyPhase s.run.phase s)

/-- The plan runs on this device from now on: the state and its record, where it did not run before (R531). -/
def nowRuns (s : State) : State :=
  if s.run.me.isNone ∨ s.run.st = .run then s
  else postStatus (logEvent 0x1503 srcDevice [] { s with run := { s.run with st := .run }, power := { s.power with st := .run } })

/-- The restart after a rollback (R419, R423): the phase after the target commit begins once its rings are locked. -/
def restartHere (t : HallTime) (s : State) : State :=
  let s := if s.run.me.isSome then s
    else { s with run := { s.run with phase := s.epoch.next } }
  let d := (durationNs s s.epoch.rollbackAt (nowNs s)).toNat / 1000
  let s := logEvent 0xA005 srcDevice [(8, s.epoch.target), (8, d)] s
  let s := { s with epoch := { s.epoch with began := hallNs t } }
  nowRuns (rejoin s)

/-- The roster after swaps (R422). -/
def swapRoster (sw : List Swap) (ro : SMap RosterEntry) : SMap RosterEntry :=
  takeoverRoster (sw.filterMap (fun w => (rosterPhys ro w.logical).map (fun q => { logical := w.logical, physical := q, spare := some w.spare }))) ro

/-- Whether a device's row gatherer is the same position in two states. -/
def sameGatherer (s t : State) (d : Nat) : Bool :=
  match physOf t d with
  | some p => rowGatherer s (posRow p) == rowGatherer t (posRow p)
  | none => false

/-- Lag counts return to 0 where the gatherer that holds them changes (R422). -/
def keepLags (old s : State) : State :=
  { s with epoch := { s.epoch with
    lags := s.epoch.lags.filter (fun x => sameGatherer old s x.1)
    lagCount := if sameGatherer old s (s.run.me.getD 0) then s.epoch.lagCount else 0 } }

/-- The resumption after a swap (R422): the roster is committed, order counters are zero, and the straggler is a spare unavailable. -/
def resumeSwap (t : HallTime) (s : State) : State :=
  let sw := s.epoch.swaps
  let s := keepLags s <| noteDisplaced (commitRoster (swapRoster sw (roster s)) s)
  let s := forEach sw (fun _ s => logEvent 0xA007 srcDevice [] s) s
  let s := { s with epoch := { s.epoch with
    began := hallNs t, takeovers := satAdd 16 s.epoch.takeovers sw.length, xfers := [] } }
  let s := if s.run.me.isSome && !posActive s s.fab.position then loseIdentity s else s
  nowRuns (clearBanks (rejoin (zeroOrders s)))

/-- RESTART_TIME (R419, R422): the named hall time. A device waits for its own restore, or its keep. -/
def execRestartTime (s : State) : Out :=
  match s.epoch.restartAt with
  | none => .next s
  | some t =>
    if !s.epoch.swaps.isEmpty then
      if s.run.me.isSome && !s.epoch.keepValid then .next s else .next (resumeSwap t (reachTime t s))
    else if s.run.me.isSome && !s.epoch.restored then .next s
    else .next (restartHere t (reachTime t s))

/-- NO_SPARE (R423): every 60 s; a spare that has become available is taken. -/
def execNoSpare (s : State) : Out :=
  if s.run.st ≠ .waiting then .next s
  else
    let s := logEvent 0xA009 srcDevice [] s
    .next (if isCoordinator s && s.epoch.lostSent.any (fun l => l.spare.isNone && (freeSpare s [] l.physical).isSome) then startRollback [] s
      else s)

end Sys2Proof.Machine
end

