-- ==== Sys2Proof/Machine/Plans.lean ====
section
/-! DEFINITION. The commands on a loaded plan: start, stop, unload, suspend and resume, and the hoard lease (R528, R532, R534, R535). -/

namespace Sys2Proof.Machine

open Sys2Proof

/-! ### Start, stop and unload (R528, R535) -/

/-- The start of the span (R79, R415): commit 0 first where the plan has epochs, then START. -/
def startSpan (w : Waiter) (d : Nat) (s : State) : State :=
  if (epochRec s).isSome && !s.epoch.has then
    broadcastMsg (.mirror 0) { s with hub := { s.hub with starter := some w, startDelay := d } }
  else sendStart w d s

/-- PLAN_START (R528): on the steward of a held plan. -/
def execPlanStart (q id : Nat) (rsv : Bool) (delay : Nat) (s : State) : Out :=
  onCmd q id rsv s (fun s =>
    let d := if delay = 0 then 1000 else delay
    if d < 100 ∨ 10000000 < d then endCmd q id 3 s
    else match s.run.st with
    | .run | .waiting => endCmd q id (if s.run.me ≠ some (stewardOf s) then 4 else 2) s
    | .hold =>
      if s.run.me ≠ some (stewardOf s) then endCmd q id 4 s
      else if s.hub.starter.isSome ∨ s.run.startAt.isSome = true then endCmd q id 2 s
      else startSpan { queue := q, cmdId := id % 65536 } d s
    | _ => endCmd q id 5 s)

/-- A stop of the span is asked for; the command completes when the plan ends STOPPED (R528). -/
def askStop (q id : Nat) (later : Bool) (s : State) : State :=
  match s.run.st with
  | .run | .hold | .waiting =>
    sendMsg (.stopReq later) (coordinatorOf s)
      { s with hub := { s.hub with stoppers := s.hub.stoppers ++ [{ queue := q, cmdId := id % 65536 }] } }
  | .loading => endCmd q id 2 s
  | _ => endCmd q id 5 s

/-- PLAN_STOP (R528): at once. -/
def execPlanStop (q id : Nat) (rsv : Bool) (s : State) : Out := onCmd q id rsv s (askStop q id false)

/-- PLAN_STOP with bit 1 (R528): at the next epoch boundary. -/
def execPlanStopAtBoundary (q id : Nat) (rsv : Bool) (s : State) : Out := onCmd q id rsv s (askStop q id true)

/-- PLAN_UNLOAD (R528, R535): from held, suspended or ended. -/
def execPlanUnload (q id : Nat) (rsv : Bool) (s : State) : Out :=
  onCmd q id rsv s (fun s =>
    match s.run.st with
    | .hold | .suspended | .ended => endCmd q id 0 (discardPlan s)
    | .none => endCmd q id 5 s
    | _ => endCmd q id 2 s)

/-! ### Suspension (R133, R534) -/

/-- The bytes of a save area: accumulators, then a state record. -/
def saveSize : Nat := 112 * 2 ^ 20
/-- The offset of the state record in a save area. -/
def saveRecord : Nat := 96 * 2 ^ 20

/-- Whether an address can name a save area: local form, space 1 or 6, inside it, and in space 1 outside hoards. -/
def areaOk (s : State) (a : Word64) : Bool :=
  let h := hallAddr a
  decide (h.form = 0) && decide (h.space = 1 ∨ h.space = 6) && decide (h.off + saveSize ≤ spaceSize s h.space) &&
  (decide (h.space = 6) || !(hoardSpans s).any (overlaps (h.off, saveSize)))

/-- The steward asks the span to suspend. -/
def askSuspend (s : State) : State :=
  broadcastMsg (.suspend true false)
    { s with hub := { s.hub with suspendAsked := true, suspendAwait := activeLogicals s } }

/-- PLAN_SUSPEND (R528, R534): names this device's save area, and on the steward suspends the span. A second one takes the place of the
first, which completes with BUSY. -/
def execPlanSuspend (q id : Nat) (rsv : Bool) (area : Word64) (s : State) : Out :=
  onCmd q id rsv s (fun s =>
    if !areaOk s area then endCmd q id 3 s
    else if s.run.st ≠ .run ∧ s.run.st ≠ .hold ∧ s.run.st ≠ .waiting then endCmd q id 5 s
    else
      let s := match s.hub.suspender with
        | some w => finishWaiter w 2 0 s
        | none => s
      let s := { s with hub := { s.hub with saveArea := some area, suspender := some { queue := q, cmdId := id % 65536 } } }
      if s.run.me = some (stewardOf s) ∧ s.hub.suspending = false then askSuspend s else s)

/-- The suspension is off: the steward's command completes with BUSY, and areas stay named. -/
def dropSuspend (s : State) : State :=
  let w := s.hub.suspender
  let s := { s with hub := { s.hub with suspendAsked := false, suspendAwait := [], suspender := none } }
  match w with
  | some w => finishWaiter w 2 0 s
  | none => s

/-- An answer at the steward: a refusal ends it, the last acceptance decides it. -/
def takeAnswer (d : Nat) (ok : Bool) (s : State) : State :=
  if !s.hub.suspendAsked then s
  else if !ok then dropSuspend s
  else
    let l := s.hub.suspendAwait.filter (· ≠ d)
    let s := { s with hub := { s.hub with suspendAwait := l } }
    if l.isEmpty then broadcastMsg (.suspend true true) { s with hub := { s.hub with suspendAsked := false } } else s

/-- SUSPEND_REQUEST (R534): a device accepts if its driver has named a save area; with the steward's decision it suspends at the end of the
phase in progress. An answer is the steward's. -/
def execSuspendRequest (p : Packet) (s : State) : Out :=
  match msgOf p with
  | some (.suspend true decided) =>
    let s := relayMsg p (takeIngress p s)
    if s.run.me.isNone ∨ ours p s = false then .next s
    else if decided then
      .next (if s.hub.saveArea.isSome then { s with hub := { s.hub with suspending := true } } else s)
    else .next (sendMsg (.suspend false s.hub.saveArea.isSome) (stewardOf s) s)
  | some (.suspend false ok) =>
    let s := takeIngress p s
    .next (if fromMember p s then takeAnswer p.source ok s else s)
  | _ => .next (takeIngress p s)

/-- SUSPEND_ANSWER_TIMEOUT (R534): 10 ms after the request an answer is missing. -/
def execSuspendAnswerTimeout (s : State) : Out := .next (if s.hub.suspendAsked then dropSuspend s else s)

/-- The accumulators of the device in the layout of R133. -/
def saveBanks (s : State) : Memory :=
  s.units.bear.foldl (fun m x =>
    let o := engDie x.1 * 12 * 2 ^ 20 + engUnit x.1 * 768 * 2 ^ 10
    x.2.acc.foldl (fun m a => Memory.writeBytes m (o + 6 * a.1) (leBytes 6 a.2)) m) []

/-- A save area: accumulators at 0 and a state record with a commit number of all ones at 96 MiB (R534). -/
def saveImage (s : State) : Memory :=
  copyRange (stateRecord s (2 ^ 64 - 1) s.run.phase (nowNs s)) 0 (saveBanks s) saveRecord recordSize

/-- Write a save area to the space it lies in. -/
def putSave (a : Word64) (m : Memory) (s : State) : State :=
  let h := hallAddr a
  if h.space = 1 then putRange m [] 0 .hbm h.off saveSize s
  else { s with mem := { s.mem with host := copyRange m 0 s.mem.host h.off saveSize } }

/-- Whether a device that suspends can save now: its phase and any boundary have ended, every accepted append is sketched, and the dirty L1
lines of other devices are home (R182, R255, R534). A save area in host memory waits for the link. -/
def canSave (s : State) (a : Word64) : Bool :=
  decide (s.run.st = .run) && s.run.between && !s.run.halted && epochIdle s && s.hub.suspending &&
  s.units.ctx.all (fun x => x.2.queue.isEmpty && !x.2.closing) && (decide ((hallAddr a).space = 1) || s.hub.l0) && (l1Away s).isEmpty

/-- SAVE_AREA_WRITTEN (R534): the device is suspended, once every dirty L1 line has been written back (R182). -/
def execSaveAreaWritten (s : State) : Out :=
  match s.hub.saveArea with
  | none => .next s
  | some a =>
    if !canSave s a then .next (if s.hub.suspending && s.run.between then l1SendHome s else s)
    else
      let s := l1WriteBack s
      let s := freeAllStg (putSave a (saveImage s) s)
      let w := s.hub.suspender
      let s := { s with
        run := { s.run with st := .suspended, begun := false }
        power := { s.power with st := .hold }
        hub := { s.hub with suspending := false, saveArea := none, suspender := none } }
      let s := postStatus (logEvent 0x1510 srcDevice [] s)
      .next (match w with
        | some w => finishWaiter w 0 0 s
        | none => s)

/-- Whether a save area's header is intact and names this plan and device (R534). -/
def saveOk (m : Memory) (s : State) : Bool :=
  let b := saveRecord
  decide (copyField m b 0x2C 4 = crc32 (m.bytes b 0x2C)) && decide (copyField m b 0x00 8 = planId s) &&
  decide (some (copyField m b 0x10 2) = s.run.me)

/-- The accumulators a save area holds. -/
def loadBanks (m : Memory) (s : State) : State :=
  let row := fun (o : Nat) => (m.filter (fun c => decide (o ≤ c.1 ∧ c.1 < o + 768 * 2 ^ 10))).foldl (fun acc c =>
    let i := (c.1 - o) / 6
    SMap.set 0 acc i (leVal (m.bytes (o + 6 * i) 6))) ([] : SMap Nat)
  forEach allBears (fun e s => modBear e (fun b => { b with acc := row (engDie e * 12 * 2 ^ 20 + engUnit e * 768 * 2 ^ 10) }) s) s

/-- Restore a suspended plan (R534): tallies, contexts, pass counters, projection records and accumulators. The plan stays held, and START
enters the phase the header names. -/
def resumePlan (m : Memory) (s : State) : State :=
  let s := restartRecal (loadBanks m (applyRecord m saveRecord s))
  let s := { s with run := { s.run with resumed := true, clsPhase := s.run.phase } }
  postStatus (logEvent 0x1511 srcDevice [] s)

/-- PLAN_RESUME (R528, R534): `host` is a save area in host memory as it was read, `ok` whether the read succeeded. -/
def execPlanResume (q id : Nat) (rsv : Bool) (area : Word64) (host : List Byte) (ok : Bool) (s : State) : Out :=
  onCmd q id rsv s (fun s =>
    let h := hallAddr area
    if !areaOk s area then endCmd q id 3 s
    else if s.run.st ≠ .hold ∨ s.run.me.isNone = true then endCmd q id 5 s
    else if s.hub.starter.isSome ∨ s.run.startAt.isSome = true then endCmd q id 2 s
    else if h.space = 6 ∧ ok = false then endCmd q id 6 s
    else
      let m := if h.space = 6 then Memory.writeBytes [] 0 (host.take saveSize) else copyRange s.mem.hbm h.off [] 0 saveSize
      if !saveOk m s then postCompletion q id 1 1 s else endCmd q id 0 (resumePlan m s))

/-! ### Hoard leases (R532) -/

/-- Ranges of HBM a loaded plan uses, of which a lease takes none (R532). -/
def planRanges (s : State) : List (Nat × Nat) := planHbm s

/-- Whether a lease's words are in range (R59, R409). -/
def leaseOkWords (base size : Nat) : Bool :=
  decide (base % 2 ^ 30 = 0) && decide (size % 2 ^ 30 = 0) && decide (2 ^ 30 ≤ size) && decide (size ≤ 256 * 2 ^ 30) &&
  decide (base + size + size / 2 ≤ 2 ^ 40)

/-- HOARD_LEASE (R532): one lease at a time, clear of the loaded plan's HBM. -/
def execHoardLeaseGrant (q id : Nat) (rsv : Bool) (plan : Word64) (base size : Nat) (s : State) : Out :=
  onCmd q id rsv s (fun s =>
    if !leaseOkWords base size then endCmd q id 3 s
    else if s.hub.lease.isSome ∨ (planRanges s).any (overlaps (base, size + size / 2)) = true then endCmd q id 2 s
    else endCmd q id 0 (withMapping (fun s => { s with hub := { s.hub with lease := some { planId := plan, base := base, size := size } } }) s))

/-- The lanes in force are made again: a partner lane no longer kept goes (R339). -/
def remakeLanes (s : State) : State :=
  if s.fab.mode = 2 then applyColour s.fab.colourSet s.fab.root s else changeTree s.fab.root s

/-- The lease ends: the device it serves learns it, and the partner lane goes (R339, R425, R532). -/
def revokeLease (l : LeaseRec) (s : State) : State :=
  let s := withMapping (fun s => { s with hub := { s.hub with lease := none } }) s
  match l.served with
  | some q => remakeLanes (sendMsgPos (.leaseOk l.planId false) q s)
  | none => s

/-- HOARD_LEASE with bit 1 (R532): a revoke completes at once. -/
def execHoardLeaseRevoke (q id : Nat) (rsv : Bool) (plan : Word64) (_base _size : Nat) (s : State) : Out :=
  onCmd q id rsv s (fun s =>
    match s.hub.lease with
    | some l => endCmd q id 0 (if l.planId = plan then revokeLease l s else s)
    | none => endCmd q id 0 s)

end Sys2Proof.Machine
end

