-- ==== Sys2Proof/Machine/Recal.lean ====
section
/-! DEFINITION. The end of a full recalibration, and what waits for it: a load, a restore (R80, R275, R277). -/

namespace Sys2Proof.Machine

open Sys2Proof

/-- What waits for the last recalibration goes on: the completion of a load, or the report of a restore. -/
def afterRecal (s : State) : State :=
  if recalling s then s
  else match s.load.goDue, s.run.plan with
    | true, some p => goDone p s
    | _, _ => if s.epoch.placed && decide (s.epoch.stage = .rollback) then restoredHere s else s

/-- PPE_RECAL_DONE (R275, R276, R277, R281): the matrix record is back in the mesh, and what waited for it goes on. -/
def execPpeRecalDone (k : Nat) (ok : Bool) (badChan : Option Nat) (us : Nat) (s : State) : Out :=
  if (ppeOf s k).mesh ≠ .recal then .next s else .next (afterRecal (recalDone k ok badChan us s))

end Sys2Proof.Machine
end

