-- ==== Sys2Proof/Machine/Scrub.lean ====
section
/-! DEFINITION. The scrub of SP and CS and the patrol of HBM (R210 to R212, R214, R215). -/

namespace Sys2Proof.Machine

open Sys2Proof

/-- What a check of the line at `a` of a store finds; nothing consumes it, so an error names no engine (R212). -/
def scrubLine (st : Store) (a : Nat) (x : Ecc) (s : State) : State :=
  if domDark s (domainOf st a) then s else eccNote st a srcDevice x s

/-- SP_SCRUB_STEP (R210, R214): a line of SP; with the last of a die, a pass is complete. -/
def execSpScrubStep (a : Nat) (x : Ecc) (last : Bool) (s : State) : Out :=
  if 2 ^ 35 ≤ a ∨ domDark s (domainOf .sp a) = true then .next s
  else
    let s := scrubLine .sp a x s
    .next (if last then modEcc .sp a (fun r => { r with passes := satAdd 32 r.passes 1 }) s else s)

/-- CS_SCRUB_STEP (R210): a line of a slice; the spec gives CS no register of its passes, so the last of a pass changes nothing more. -/
def execCsScrubStep (a : Nat) (x : Ecc) (_last : Bool) (s : State) : Out :=
  .next (if 2 ^ 29 ≤ a then s else scrubLine .cs a x s)

/-- HBM_PATROL (R210, R215): a read of the patrol of a stack whose patrol is enabled and which is trained; the last ends the pass. -/
def execHbmPatrol (a : Nat) (x : Ecc) (last : Bool) (s : State) : Out :=
  let n := a / 2 ^ 36
  let h := SMap.get {} s.mem.hbmc n
  if 2 ^ 40 ≤ a ∨ h.trained = false ∨ h.patrol = false then .next s
  else
    let s := scrubLine .hbm a x s
    .next { s with mem := { s.mem with hbmc := SMap.modify {} s.mem.hbmc n (fun h => { h with patrolBusy := !last }) } }

end Sys2Proof.Machine
end

