-- ==== Sys2Proof/Machine/Dispatch.lean ====
section
/-! DEFINITION. The dispatch: one arm for each command, each one direct call of its meaning. -/

namespace Sys2Proof.Machine

open Sys2Proof

/-- The effect of a command on everything but the queue. -/
def exec (i : Instr) (s : State) : Host.Outcome State Fault Refusal :=
  match i with
  | .commitGo b => Sys2Proof.Machine.execCommitGo b s
  | .commitApply b => Sys2Proof.Machine.execCommitApply b s
  | .registerWrite off len v => Sys2Proof.Machine.execRegisterWrite off len v s
  | .phaseEnd => Sys2Proof.Machine.execPhaseEnd s
  | .phaseStart => Sys2Proof.Machine.execPhaseStart s
  | .planLoad q id rsv addr len ring vector => Sys2Proof.Machine.execPlanLoad q id rsv addr len ring vector s
  | .loadChecks image ok => Sys2Proof.Machine.execLoadChecks image ok s
  | .join p => Sys2Proof.Machine.execJoin p s
  | .withdraw p => Sys2Proof.Machine.execWithdraw p s
  | .verdict p => Sys2Proof.Machine.execVerdict p s
  | .joinTimeout => Sys2Proof.Machine.execJoinTimeout s
  | .withdrawTimeout => Sys2Proof.Machine.execWithdrawTimeout s
  | .stewardJoinTimeout => Sys2Proof.Machine.execStewardJoinTimeout s
  | .refusingStewardEnd => Sys2Proof.Machine.execRefusingStewardEnd s
  | .leaseCheck p => Sys2Proof.Machine.execLeaseCheck p s
  | .leaseOk p => Sys2Proof.Machine.execLeaseOk p s
  | .leaseCheckTimeout => Sys2Proof.Machine.execLeaseCheckTimeout s
  | .start p => Sys2Proof.Machine.execStart p s
  | .planStartTime => Sys2Proof.Machine.execPlanStartTime s
  | .nop e => Sys2Proof.Machine.execNop e s
  | .endProg e => Sys2Proof.Machine.execEndProg e s
  | .waitT e => Sys2Proof.Machine.execWaitT e s
  | .signal e => Sys2Proof.Machine.execSignal e s
  | .signalApply e => Sys2Proof.Machine.execSignalApply e s
  | .errt e => Sys2Proof.Machine.execErrt e s
  | .setx e => Sys2Proof.Machine.execSetx e s
  | .addx e => Sys2Proof.Machine.execAddx e s
  | .loopX e => Sys2Proof.Machine.execLoopX e s
  | .keep e => Sys2Proof.Machine.execKeep e s
  | .keepRampTick e => Sys2Proof.Machine.execKeepRampTick e s
  | .keepGapExpire e => Sys2Proof.Machine.execKeepGapExpire e s
  | .meKeepAdminOff die ve on => Sys2Proof.Machine.execMeKeepAdminOff die ve on s
  | .mma e ecc acc => Sys2Proof.Machine.execMma e ecc acc s
  | .mmaSwap e parity dummy => Sys2Proof.Machine.execMmaSwap e parity dummy s
  | .tileRefillDone e parity => Sys2Proof.Machine.execTileRefillDone e parity s
  | .mmaComplete e => Sys2Proof.Machine.execMmaComplete e s
  | .meTileFault e => Sys2Proof.Machine.execMeTileFault e s
  | .drn e ecc acc => Sys2Proof.Machine.execDrn e ecc acc s
  | .drnComplete e => Sys2Proof.Machine.execDrnComplete e s
  | .dzero e => Sys2Proof.Machine.execDzero e s
  | .aload e ecc => Sys2Proof.Machine.execAload e ecc s
  | .cmode e => Sys2Proof.Machine.execCmode e s
  | .omma32 e ecc acc => Sys2Proof.Machine.execOmma32 e ecc acc s
  | .omma16 e ecc acc => Sys2Proof.Machine.execOmma16 e ecc acc s
  | .odrn e acc => Sys2Proof.Machine.execOdrn e acc s
  | .accScrub e bank row x => Sys2Proof.Machine.execAccScrub e bank row x s
  | .chain e ecc lane dummy => Sys2Proof.Machine.execChain e ecc lane dummy s
  | .argx e ecc lane => Sys2Proof.Machine.execArgx e ecc lane s
  | .hsel e ecc lane => Sys2Proof.Machine.execHsel e ecc lane s
  | .veEccFatal e => Sys2Proof.Machine.execVeEccFatal e s
  | .fcLoad e ecc host => Sys2Proof.Machine.execFcLoad e ecc host s
  | .fcStore e => Sys2Proof.Machine.execFcStore e s
  | .fcAmo e => Sys2Proof.Machine.execFcAmo e s
  | .fcLr x => Sys2Proof.Machine.execFcLr x s
  | .fcSc e => Sys2Proof.Machine.execFcSc e s
  | .fcFence e => Sys2Proof.Machine.execFcFence e s
  | .fcCsr e => Sys2Proof.Machine.execFcCsr e s
  | .fcCompute e => Sys2Proof.Machine.execFcCompute e s
  | .fend e => Sys2Proof.Machine.execFend e s
  | .tsig e => Sys2Proof.Machine.execTsig e s
  | .twait e => Sys2Proof.Machine.execTwait e s
  | .terrt e => Sys2Proof.Machine.execTerrt e s
  | .sdf e => Sys2Proof.Machine.execSdf e s
  | .prm e => Sys2Proof.Machine.execPrm e s
  | .fadda e => Sys2Proof.Machine.execFadda e s
  | .ecallLog e => Sys2Proof.Machine.execEcallLog e s
  | .ecallYield e => Sys2Proof.Machine.execEcallYield e s
  | .yieldEnd e => Sys2Proof.Machine.execYieldEnd e s
  | .fcEccFatal e => Sys2Proof.Machine.execFcEccFatal e s
  | .copy e ecc => Sys2Proof.Machine.execCopy e ecc s
  | .gather e => Sys2Proof.Machine.execGather e s
  | .fill e => Sys2Proof.Machine.execFill e s
  | .chunkPerformed e ix ecc host => Sys2Proof.Machine.execChunkPerformed e ix ecc host s
  | .hostReadbackDone e ix status => Sys2Proof.Machine.execHostReadbackDone e ix status s
  | .ceDrainCut e ix => Sys2Proof.Machine.execCeDrainCut e ix s
  | .sopen e => Sys2Proof.Machine.execSopen e s
  | .spub e => Sys2Proof.Machine.execSpub e s
  | .scan e => Sys2Proof.Machine.execScan e s
  | .sres e => Sys2Proof.Machine.execSres e s
  | .runaheadCopyDone die n ok host => Sys2Proof.Machine.execRunaheadCopyDone die n ok host s
  | .spScrubStep a x last => Sys2Proof.Machine.execSpScrubStep a x last s
  | .csScrubStep a x last => Sys2Proof.Machine.execCsScrubStep a x last s
  | .hbmPatrol a x last => Sys2Proof.Machine.execHbmPatrol a x last s
  | .devSync => Sys2Proof.Machine.execDevSync s
  | .hostBarRead bar off len x => Sys2Proof.Machine.execHostBarRead bar off len x s
  | .hostBarWrite bar off d => Sys2Proof.Machine.execHostBarWrite bar off d s
  | .hostAtomic bar off op size v cmp x => Sys2Proof.Machine.execHostAtomic bar off op size v cmp x s
  | .tallyWindowSignal ix v size => Sys2Proof.Machine.execTallyWindowSignal ix v size s
  | .tallySet ix v size => Sys2Proof.Machine.execTallySet ix v size s
  | .tallyMarkError ix v size => Sys2Proof.Machine.execTallyMarkError ix v size s
  | .streamAppend e c n => Sys2Proof.Machine.execStreamAppend e c n s
  | .streamOpen e c => Sys2Proof.Machine.execStreamOpen e c s
  | .streamClose e c => Sys2Proof.Machine.execStreamClose e c s
  | .streamReset e c => Sys2Proof.Machine.execStreamReset e c s
  | .contextStore e c off d => Sys2Proof.Machine.execContextStore e c off d s
  | .appendServe c ecc => Sys2Proof.Machine.execAppendServe c ecc s
  | .digitalSketchJob c ecc => Sys2Proof.Machine.execDigitalSketchJob c ecc s
  | .closeComplete c => Sys2Proof.Machine.execCloseComplete c s
  | .mload e ecc => Sys2Proof.Machine.execMload e ecc s
  | .mloadComplete e => Sys2Proof.Machine.execMloadComplete e s
  | .sketch e ecc => Sys2Proof.Machine.execSketch e ecc s
  | .mvm e ecc => Sys2Proof.Machine.execMvm e ecc s
  | .ppeChannelCal k ok => Sys2Proof.Machine.execPpeChannelCal k ok s
  | .ppeRecalDone k ok badChan us => Sys2Proof.Machine.execPpeRecalDone k ok badChan us s
  | .ppeCalOverdue k => Sys2Proof.Machine.execPpeCalOverdue k s
  | .toneCheck k b passed line => Sys2Proof.Machine.execToneCheck k b passed line s
  | .laserFeedLost k b avg low => Sys2Proof.Machine.execLaserFeedLost k b avg low s
  | .feedRelockDone k => Sys2Proof.Machine.execFeedRelockDone k s
  | .laserFeedRestored k b avg low => Sys2Proof.Machine.execLaserFeedRestored k b avg low s
  | .noticeWindowEnd k => Sys2Proof.Machine.execNoticeWindowEnd k s
  | .ringSweepDone port rx r found => Sys2Proof.Machine.execRingSweepDone port rx r found s
  | .ringLock port rx r driveOk => Sys2Proof.Machine.execRingLock port rx r driveOk s
  | .retuneTimeout port rx r => Sys2Proof.Machine.execRetuneTimeout port rx r s
  | .ringToneCheckDone port rx r passed => Sys2Proof.Machine.execRingToneCheckDone port rx r passed s
  | .spareMove k rx loopOk => Sys2Proof.Machine.execSpareMove k rx loopOk s
  | .frameSend k => Sys2Proof.Machine.execFrameSend k s
  | .frameReceive k f places values read rtt => Sys2Proof.Machine.execFrameReceive k f places values read rtt s
  | .retryTimeout k => Sys2Proof.Machine.execRetryTimeout k s
  | .lossOfFrame x => Sys2Proof.Machine.execLossOfFrame x s
  | .acquireTimeout k => Sys2Proof.Machine.execAcquireTimeout k s
  | .downRetry k => Sys2Proof.Machine.execDownRetry k s
  | .ucwClassify k n lanes ports tiles retuned => Sys2Proof.Machine.execUcwClassify k n lanes ports tiles retuned s
  | .repairObservationEnd k => Sys2Proof.Machine.execRepairObservationEnd k s
  | .plannedCloseTimeout k => Sys2Proof.Machine.execPlannedCloseTimeout k s
  | .close p => Sys2Proof.Machine.execClose p s
  | .laneCloseTimeout k => Sys2Proof.Machine.execLaneCloseTimeout k s
  | .laneHoldEnd k => Sys2Proof.Machine.execLaneHoldEnd k s
  | .holdTimeReset k => Sys2Proof.Machine.execHoldTimeReset k s
  | .laneDisagreeTimer k reported => Sys2Proof.Machine.execLaneDisagreeTimer k reported s
  | .planeCablingCheck port seen => Sys2Proof.Machine.execPlaneCablingCheck port seen s
  | .packetForward p => Sys2Proof.Machine.execPacketForward p s
  | .escapeCreditTimeout k p => Sys2Proof.Machine.execEscapeCreditTimeout k p s
  | .detourWaitTimeout p => Sys2Proof.Machine.execDetourWaitTimeout p s
  | .packetHoldTimeout p => Sys2Proof.Machine.execPacketHoldTimeout p s
  | .orderSkip p => Sys2Proof.Machine.execOrderSkip p s
  | .orderRetry p => Sys2Proof.Machine.execOrderRetry p s
  | .orderRetryResend p => Sys2Proof.Machine.execOrderRetryResend p s
  | .adopt p => Sys2Proof.Machine.execAdopt p s
  | .orphanTimeout t => Sys2Proof.Machine.execOrphanTimeout t s
  | .adoptRetry t => Sys2Proof.Machine.execAdoptRetry t s
  | .treeRootChange => Sys2Proof.Machine.execTreeRootChange s
  | .treeOldLaneTimeout => Sys2Proof.Machine.execTreeOldLaneTimeout s
  | .wrMc p => Sys2Proof.Machine.execWrMc p s
  | .rd p ecc => Sys2Proof.Machine.execRd p ecc s
  | .wr p => Sys2Proof.Machine.execWr p s
  | .atom x => Sys2Proof.Machine.execAtom x s
  | .red x => Sys2Proof.Machine.execRed x s
  | .sig p => Sys2Proof.Machine.execSig p s
  | .rdData p => Sys2Proof.Machine.execRdData p s
  | .ack p => Sys2Proof.Machine.execAck p s
  | .err p => Sys2Proof.Machine.execErr p s
  | .requestSlotTimeout ix => Sys2Proof.Machine.execRequestSlotTimeout ix s
  | .gets p => Sys2Proof.Machine.execGets p s
  | .getm p => Sys2Proof.Machine.execGetm p s
  | .upg p => Sys2Proof.Machine.execUpg p s
  | .putm p => Sys2Proof.Machine.execPutm p s
  | .pute p => Sys2Proof.Machine.execPute p s
  | .snpShare p => Sys2Proof.Machine.execSnpShare p s
  | .snpInv p => Sys2Proof.Machine.execSnpInv p s
  | .inv p => Sys2Proof.Machine.execInv p s
  | .dataS p => Sys2Proof.Machine.execDataS p s
  | .dataE p => Sys2Proof.Machine.execDataE p s
  | .dataM p => Sys2Proof.Machine.execDataM p s
  | .grant p => Sys2Proof.Machine.execGrant p s
  | .snpData p => Sys2Proof.Machine.execSnpData p s
  | .invAck p => Sys2Proof.Machine.execInvAck p s
  | .dataInFlight p => Sys2Proof.Machine.execDataInFlight p s
  | .wbAck p => Sys2Proof.Machine.execWbAck p s
  | .retry p => Sys2Proof.Machine.execRetry p s
  | .retryResend ix core key => Sys2Proof.Machine.execRetryResend ix core key s
  | .homeWaitTimeout line => Sys2Proof.Machine.execHomeWaitTimeout line s
  | .coll x => Sys2Proof.Machine.execColl x s
  | .collData p => Sys2Proof.Machine.execCollData p s
  | .collChunkSum e k ecc res => Sys2Proof.Machine.execCollChunkSum e k ecc res s
  | .collComplete e => Sys2Proof.Machine.execCollComplete e s
  | .arrive p => Sys2Proof.Machine.execArrive p s
  | .mirror p => Sys2Proof.Machine.execMirror p s
  | .hoardData p => Sys2Proof.Machine.execHoardData p s
  | .sealed p => Sys2Proof.Machine.execSealed p s
  | .ready p => Sys2Proof.Machine.execReady p s
  | .commit p => Sys2Proof.Machine.execCommit p s
  | .commitAck p => Sys2Proof.Machine.execCommitAck p s
  | .keepWriteDone => Sys2Proof.Machine.execKeepWriteDone s
  | .fault p => Sys2Proof.Machine.execFault p s
  | .suspect p => Sys2Proof.Machine.execSuspect p s
  | .probe p => Sys2Proof.Machine.execProbe p s
  | .probeAck p => Sys2Proof.Machine.execProbeAck p s
  | .probeTick => Sys2Proof.Machine.execProbeTick s
  | .rollback p => Sys2Proof.Machine.execRollback p s
  | .restoreDone => Sys2Proof.Machine.execRestoreDone s
  | .restored p => Sys2Proof.Machine.execRestored p s
  | .restart p => Sys2Proof.Machine.execRestart p s
  | .restartTime => Sys2Proof.Machine.execRestartTime s
  | .swapCopyDone => Sys2Proof.Machine.execSwapCopyDone s
  | .noSpare => Sys2Proof.Machine.execNoSpare s
  | .stop p => Sys2Proof.Machine.execStop p s
  | .stopReq p => Sys2Proof.Machine.execStopReq p s
  | .syncTick child t1 resent => Sys2Proof.Machine.execSyncTick child t1 resent s
  | .sync p t2 => Sys2Proof.Machine.execSync p t2 s
  | .follow p t3 resent => Sys2Proof.Machine.execFollow p t3 resent s
  | .delayReq p t4 => Sys2Proof.Machine.execDelayReq p t4 s
  | .delayResp p => Sys2Proof.Machine.execDelayResp p s
  | .announce p => Sys2Proof.Machine.execAnnounce p s
  | .announceTick child => Sys2Proof.Machine.execAnnounceTick child s
  | .masterTake p => Sys2Proof.Machine.execMasterTake p s
  | .backupTakeoverTimer => Sys2Proof.Machine.execBackupTakeoverTimer s
  | .timeExchangeTimeout lane => Sys2Proof.Machine.execTimeExchangeTimeout lane s
  | .acquireFreerunTimeout => Sys2Proof.Machine.execAcquireFreerunTimeout s
  | .holdoverLimit => Sys2Proof.Machine.execHoldoverLimit s
  | .secondBoundary refOk => Sys2Proof.Machine.execSecondBoundary refOk s
  | .ppsInEdge => Sys2Proof.Machine.execPpsInEdge s
  | .timeRefLost ref => Sys2Proof.Machine.execTimeRefLost ref s
  | .timeOffsetHigh => Sys2Proof.Machine.execTimeOffsetHigh s
  | .controlInterval rates => Sys2Proof.Machine.execControlInterval rates s
  | .avsResponse r a => Sys2Proof.Machine.execAvsResponse r a s
  | .avsReadbackTimeout r mv => Sys2Proof.Machine.execAvsReadbackTimeout r mv s
  | .avsRetryDelay r => Sys2Proof.Machine.execAvsRetryDelay r s
  | .railFaultClear r => Sys2Proof.Machine.execRailFaultClear r s
  | .powerMeasure w => Sys2Proof.Machine.execPowerMeasure w s
  | .droop die depth ns => Sys2Proof.Machine.execDroop die depth ns s
  | .vcoreUndervolt die mv ns => Sys2Proof.Machine.execVcoreUndervolt die mv ns s
  | .watch q id rsv => Sys2Proof.Machine.execWatch q id rsv s
  | .watchRound rs railC => Sys2Proof.Machine.execWatchRound rs railC s
  | .watchWake cause => Sys2Proof.Machine.execWatchWake cause s
  | .domainPowerOff q id rsv d force => Sys2Proof.Machine.execDomainPowerOff q id rsv d force s
  | .domainPowerOn q id rsv d => Sys2Proof.Machine.execDomainPowerOn q id rsv d s
  | .domainOffComplete d => Sys2Proof.Machine.execDomainOffComplete d s
  | .domainOnComplete d ok => Sys2Proof.Machine.execDomainOnComplete d ok s
  | .pwrOkFall => Sys2Proof.Machine.execPwrOkFall s
  | .thermalRound rs => Sys2Proof.Machine.execThermalRound rs s
  | .graceExpire k => Sys2Proof.Machine.execGraceExpire k s
  | .thermTrip n reading => Sys2Proof.Machine.execThermTrip n reading s
  | .coldStart => Sys2Proof.Machine.execColdStart s
  | .warmRstN ns => Sys2Proof.Machine.execWarmRstN ns s
  | .bootStepComplete r => Sys2Proof.Machine.execBootStepComplete r s
  | .hbmStoredBad stack => Sys2Proof.Machine.execHbmStoredBad stack s
  | .fabricTrained => Sys2Proof.Machine.execFabricTrained s
  | .ucieRetrain k m => Sys2Proof.Machine.execUcieRetrain k m s
  | .hubLinkSpare k n up => Sys2Proof.Machine.execHubLinkSpare k n up s
  | .calWritten ok => Sys2Proof.Machine.execCalWritten ok s
  | .posStrapChanged pos => Sys2Proof.Machine.execPosStrapChanged pos s
  | .tapInstruction ins => Sys2Proof.Machine.execTapInstruction ins s
  | .reset q id rsv => Sys2Proof.Machine.execReset q id rsv s
  | .planStart q id rsv delay => Sys2Proof.Machine.execPlanStart q id rsv delay s
  | .planStop q id rsv => Sys2Proof.Machine.execPlanStop q id rsv s
  | .planStopAtBoundary q id rsv => Sys2Proof.Machine.execPlanStopAtBoundary q id rsv s
  | .planUnload q id rsv => Sys2Proof.Machine.execPlanUnload q id rsv s
  | .planSuspend q id rsv area => Sys2Proof.Machine.execPlanSuspend q id rsv area s
  | .suspendRequest p => Sys2Proof.Machine.execSuspendRequest p s
  | .suspendAnswerTimeout => Sys2Proof.Machine.execSuspendAnswerTimeout s
  | .planResume q id rsv area host ok => Sys2Proof.Machine.execPlanResume q id rsv area host ok s
  | .planStatus q id rsv addr status => Sys2Proof.Machine.execPlanStatus q id rsv addr status s
  | .hoardLeaseGrant q id rsv plan base size => Sys2Proof.Machine.execHoardLeaseGrant q id rsv plan base size s
  | .hoardLeaseRevoke q id rsv plan base size => Sys2Proof.Machine.execHoardLeaseRevoke q id rsv plan base size s
  | .licenceInstall q id rsv addr d ok => Sys2Proof.Machine.execLicenceInstall q id rsv addr d ok s
  | .patchInstall q id rsv addr len slot d ok back => Sys2Proof.Machine.execPatchInstall q id rsv addr len slot d ok back s
  | .patchClear q id rsv slot => Sys2Proof.Machine.execPatchClear q id rsv slot s
  | .tallyNotifyArm q id rsv tally target vector => Sys2Proof.Machine.execTallyNotifyArm q id rsv tally target vector s
  | .tallyNotifyDisarm q id rsv tally => Sys2Proof.Machine.execTallyNotifyDisarm q id rsv tally s
  | .sqTail q v size => Sys2Proof.Machine.execSqTail q v size s
  | .cqHead q v size => Sys2Proof.Machine.execCqHead q v size s
  | .queueEnable q v => Sys2Proof.Machine.execQueueEnable q v s
  | .queueDisable q v => Sys2Proof.Machine.execQueueDisable q v s
  | .logAck v => Sys2Proof.Machine.execLogAck v s
  | .hostlinkDown cause => Sys2Proof.Machine.execHostlinkDown cause s
  | .hostlinkUp => Sys2Proof.Machine.execHostlinkUp s
  | .pldmGetSensor n => Sys2Proof.Machine.execPldmGetSensor n s
  | .mgmtDomainDisable d off => Sys2Proof.Machine.execMgmtDomainDisable d off s
  | .mgmtPortDisable n off => Sys2Proof.Machine.execMgmtPortDisable n off s
  | .mgmtWarmReset => Sys2Proof.Machine.execMgmtWarmReset s
  | .mgmtWake => Sys2Proof.Machine.execMgmtWake s
  | .mgmtDisagree unit mgmt data clear => Sys2Proof.Machine.execMgmtDisagree unit mgmt data clear s
  | .laserPowerLow k b avg low line => Sys2Proof.Machine.execLaserPowerLow k b avg low line s
  | .refClkLost => Sys2Proof.Machine.execRefClkLost s
  | .saveAreaWritten => Sys2Proof.Machine.execSaveAreaWritten s
  | .hostCompletionTimeout r => Sys2Proof.Machine.execHostCompletionTimeout r s
  | .warmResetDelay => Sys2Proof.Machine.execWarmResetDelay s
  | .calWriteStart => Sys2Proof.Machine.execCalWriteStart s
  | .configurationRequest c => Sys2Proof.Machine.execConfigurationRequest c s

end Sys2Proof.Machine
end

