-- ==== Sys2Proof/Safety.lean ====
section
/-! DEFINITION. What counts as a safe run, in the terms the statements use: canonical state, what a command answers, and what it leaves alone. -/

namespace Sys2Proof.Machine

open Sys2Proof

/-- The four byte memories are in canonical form, and the seven adaptive rails are there (R443). -/
abbrev Canonical (s : State) : Prop :=
  s.mem.sp.wf = true ∧ s.mem.hbm.wf = true ∧ s.mem.cs.wf = true ∧ s.mem.host.wf = true ∧ s.power.rails.length = 7

/-- What holds from one state to a later one whatever runs between: the queue is as it was, and a canonical state stays canonical. -/
def Keeps (s t : State) : Prop := t.pending = s.pending ∧ (Canonical s → Canonical t)

/-- A command completes: `exec` answers a next state, and `P` holds of it. -/
def Yields (c : Instr) (s : State) (P : State → Prop) : Prop := ∃ t, exec c s = .next t ∧ P t

/-- The host link carries the host's requests: it is in L0, and the device has reached READY (R516, R535). -/
abbrev HostServed (s : State) : Prop := s.hub.l0 = true ∧ s.hub.ready = true

/-- At most the log, the MSI-X state and the hub differ from one state to the other: every memory, tally, engine and register elsewhere is
as it was. -/
def OnlyHub (s t : State) : Prop := t = { s with log := t.log, msix := t.msix, hub := t.hub }

end Sys2Proof.Machine
end

