-- ==== Sys2Proof/Certificates/Slice0/Obligations.lean ====
section
/-! DEFINITION. The statements about the device, for the provers: by chapter of the spec, from the steps of the machine to the management path. -/

open Sys2Proof Sys2Proof.Machine

/-- With a command at the front of the queue, a step is that command's meaning on the state with the queue's rest. -/
def Obligations.StepRunsFrontCommand : Prop :=
  ∀ (c : Instr) (rest : List Instr) (s : State), s.pending = c :: rest → step s = exec c { s with pending := rest }

/-- On an empty queue a step is one tick of the timebase: 6.4 ns (R427), whatever slew remains less at most 50 ppm (R438). That the device
ticks where no command waits is the model's choice (log entry 4). -/
def Obligations.EmptyQueueTicksHallTime : Prop :=
  ∀ s : State, s.pending = [] → 20 ≤ fine s.time.hall →
    ∃ t, step s = .next t ∧
      5 * (fine t.time.hall : Int) + t.time.fifths = 5 * fine s.time.hall + (2097152 + s.time.fifths) - 5 * slewStep s.time.slew ∧
      t.time.slew = s.time.slew - slewStep s.time.slew ∧
      t = { s with time := { s.time with hall := t.time.hall, fifths := t.time.fifths, slew := t.time.slew } }

/-- What the device is right after reset, by the registers of the spec: READY low and the host link not in L0, queues disabled, no plan, a
power cap in force of 2,600 W, the event log empty with a threshold of 64, HUB.VECTORS at 8, 9 and 10, hall time zero and ACQUIRING, every
tally unallocated with no engine (R402, R427, R467, R521, R524, R539), and every engine unbound with its registers and pc zero. That every
byte of memory reads zero (log entry 2), that no command waits (log entry 1), and that the state is canonical are the model's own. -/
def Obligations.ResetState : Prop :=
  State.reset.pending = [] ∧ State.reset.hub.ready = false ∧ State.reset.hub.l0 = false ∧ capInForce State.reset = 2600 ∧
  (∀ q, queueOf State.reset q = {} ∧ (queueOf State.reset q).enable = false ∧ (queueOf State.reset q).phase = true ∧ queueVector State.reset q = q) ∧
  (∀ i, tallyOf State.reset i = {} ∧ (tallyOf State.reset i).count = 0 ∧ (tallyOf State.reset i).errEngine = 0xFFFF) ∧
  (∀ e, (seqOf State.reset e).st = .unbound ∧ (seqOf State.reset e).pc = 0 ∧ ∀ r, xreg State.reset e r = 0) ∧
  (∀ st a, (storeOf State.reset st).read a = 0) ∧
  State.reset.run.st = .none ∧ State.reset.run.plan = none ∧
  State.reset.log.next = 0 ∧ State.reset.log.threshold = 64 ∧
  (State.reset.hub.vThermal, State.reset.hub.vLog, State.reset.hub.vLink) = (8, 9, 10) ∧
  State.reset.time.st = .acquiring ∧ fine State.reset.time.hall = 0 ∧ Canonical State.reset

/-- Every step keeps the state canonical: each byte memory lists its addresses in rising order and no byte that is zero (log entry 2), and the
device has its seven adaptive rails (R443). -/
def Obligations.EveryStepKeepsCanonical : Prop :=
  ∀ s t : State, Canonical s → step s = .next t → Canonical t

/-- No command changes the queue of commands that wait: they come from outside, first in, first out (log entry 1). -/
def Obligations.EveryCommandLeavesTheQueue : Prop :=
  ∀ (c : Instr) (s t : State), exec c s = .next t → t.pending = s.pending

/-- A store into SP, HBM or CS (R557): the bytes read back as written, every other byte of that store and every byte of the others reads as
before, a line written whole with clean bytes loses its poison, and every line a poisoned write touches is poisoned. -/
def Obligations.StoresReadBack : Prop :=
  ∀ (s : State) (st : Store) (a : Nat) (d : List Byte) (bad : Bool), (storeOf s st).wf = true →
    let t := storeWrite st a d bad s
    readStore t st a d.length = d ∧
    (∀ x, (x < a ∨ a + d.length ≤ x) → (storeOf t st).read x = (storeOf s st).read x) ∧
    (∀ st', st' ≠ st → storeOf t st' = storeOf s st' ∧ poisonOf t st' = poisonOf s st') ∧
    (storeOf t st).wf = true ∧ t.mem.host = s.mem.host ∧ t.tallies = s.tallies ∧
    (bad = true → ∀ l ∈ linesOf a d.length, l ∈ poisonOf t st) ∧
    (bad = false → ∀ l, a ≤ 64 * l → 64 * l + 64 ≤ a + d.length → l ∉ poisonOf t st) ∧
    (∀ l, l ∉ linesOf a d.length → (l ∈ poisonOf t st ↔ l ∈ poisonOf s st))

/-- The event log (R537 to R539): an event of at most 16 bytes of data takes the entry its sequence number names modulo 8,192, with its code, its
source and the hall time; the next number goes up by one modulo 2^32; every other entry stays; nothing but the log, the MSI-X state and the
messages sent changes; and with the vector disarmed nothing is sent. -/
def Obligations.EventLogEntries : Prop :=
  ∀ (s : State) (code src : Nat) (fs : List (Nat × Nat)), (packFields fs).length ≤ 16 → code ≠ 0 →
    let t := logEvent code src fs s
    let e := SMap.get {} t.log.entries (s.log.next % 8192)
    t.log.next = (s.log.next + 1) % 2 ^ 32 ∧
    e.sequence = s.log.next ∧ e.code = code ∧ e.source = src ∧ e.seconds = s.time.hall.sec % 2 ^ 32 ∧
    (∀ i, i ≠ s.log.next % 8192 → SMap.get {} t.log.entries i = SMap.get {} s.log.entries i) ∧
    t = { s with log := t.log, msix := t.msix, hub := { s.hub with out := t.hub.out } } ∧
    (s.log.armed = false → t = { s with log := t.log })

/-- COMMIT_GO (R37, R39): with no set pending, the staged set is latched, later writes go to a fresh one, and pending reads 1; with one
pending, overrun is set, 0xbF11 is recorded and the staged set stays staged. Nothing else changes but the count of posted writes.

COMMIT_APPLY at PWR (R38, R39, R467): a latched set that fails a check of PWR leaves every active field as it was, sets rejected and
clears pending; one that passes and needs no voltage change is applied whole, and generation goes up by one modulo 65,536.

COMMIT_APPLY at FAB (R38, R325): the set waits while a phase runs; with no plan in RUN it is rejected whole at the first roster entry
that breaks R325, and a set that passes replaces the active one. -/
def Obligations.CommitBlocks : Prop :=
  (∀ (b : CommitBlock) (s : State), HostServed s → blockDown s b = false →
     exec (.commitGo b) s = .next (
       if (blockCommit s b).pending then
         logEvent (commitDigit b * 0x1000 + 0x0F11) srcDevice [] (modCommit b (fun c => { c with overrun := true }) (hostPosted s))
       else modCommit b (fun c => { c with latched := c.staged, staged := [], pending := true }) (hostPosted s))) ∧
  (∀ s : State, s.power.commit.pending = true →
     let n := s.power.commit.latched.foldl PwrCtl.write s.power.ctl
     ((∃ off, n.bad = some off) → Yields (.commitApply .pwr) s (fun t =>
       t.power = { s.power with commit := { s.power.commit with pending := false, latched := [], rejected := true } } ∧
       t.pending = s.pending ∧ t.mem = s.mem ∧ t.tallies = s.tallies ∧ t.eng = s.eng ∧ t.units = s.units ∧ t.run = s.run)) ∧
     (n.bad = none → railsOutside s n = [] →
       exec (.commitApply .pwr) s = .next { s with power := { s.power with
         ctl := n
         commit := { s.power.commit with pending := false, latched := [], generation := (s.power.commit.generation + 1) % 65536 } } })) ∧
  (∀ s : State, s.fab.commit.pending = true → waitsUnload s = false →
     let n := s.fab.commit.latched.foldl FabCtl.write s.fab.ctl
     (s.run.st = .run ∧ s.run.between = false → exec (.commitApply .fab) s = .next s) ∧
     (s.run.st ≠ .run → ∀ p, rosterBad n.roster [] = some p → Yields (.commitApply .fab) s (fun t =>
       t.fab = { s.fab with commit := { s.fab.commit with pending := false, latched := [], rejected := true } } ∧ t.run = s.run ∧ t.mem = s.mem)) ∧
     (s.run.st ≠ .run → rosterBad n.roster [] = none → n.treeRoot = s.fab.ctl.treeRoot → Yields (.commitApply .fab) s (fun t =>
       t.fab = { s.fab with ctl := n, commit := { s.fab.commit with pending := false, latched := [], generation := (s.fab.commit.generation + 1) % 65536 } } ∧
       t.run = s.run ∧ t.mem = s.mem)))

/-- REGISTER_WRITE by the type of what it names (R19, R37, R518): an RW field takes the value at once; a write of an RWS field joins the
staged set and leaves the active fields; a reserved offset takes nothing; an access of a size other than 4 or 8 bytes is answered with
Unsupported Request. Each counts as a posted write only where it is taken.

The doorbells and Q_CFG (R524, R525): a tail or head inside the queue is taken; one beyond it faults the queue and records 0x1101; an
enable starts the indices again with phase 1; a disable stops fetching. A 4-byte doorbell write is an Unsupported Request (R518). -/
def Obligations.HostRegisterWrites : Prop :=
  (∀ (s : State) (v : Nat), HostServed s →
     exec (.registerWrite 0x80 8 v) s = .next (let t := hostPosted s; { t with log := { t.log with threshold := v % 2 ^ 13 } }) ∧
     Yields (.registerWrite 0x00100008 8 v) s (fun t =>
       t.power = { s.power with commit := { s.power.commit with staged := s.power.commit.staged ++ [regWriteOf 0x00100008 8 v] } } ∧ OnlyHub { s with power := t.power } t) ∧
     (∀ off, 0x00400000 ≤ off → off < 0x01000000 → off % 8 = 0 → dcsDark s off = false → exec (.registerWrite off 8 v) s = .next (hostPosted s)) ∧
     (∀ off len, len ≠ 4 → len ≠ 8 → exec (.registerWrite off len v) s = .next (replyHost .ur s))) ∧
  (∀ (s : State) (q v : Nat), HostServed s → q < 8 →
     (v % 4096 ≤ (queueOf s q).sqSize →
       exec (.sqTail q v 8) s = .next (modQueue q (fun k => { k with sqTail := v % 4096 }) (hostPosted s))) ∧
     ((queueOf s q).sqSize < v % 4096 → exec (.sqTail q v 8) s = .next (queueFault q 1 (hostPosted s))) ∧
     (v % 4096 ≤ (queueOf s q).cqSize → (queueOf s q).held = none → (queueOf s q).enable = true →
       exec (.cqHead q v 8) s = .next (modQueue q (fun k => { k with cqHead := v % 4096 }) (hostPosted s))) ∧
     ((queueOf s q).cqSize < v % 4096 → exec (.cqHead q v 8) s = .next (queueFault q 1 (hostPosted s))) ∧
     (exec (.sqTail q v 4) s = .next (replyHost .ur s) ∧ exec (.cqHead q v 4) s = .next (replyHost .ur s)) ∧
     ((queueOf s q).enable = false → Yields (.queueEnable q v) s (fun t => OnlyHub s t ∧
       queueOf t q = { queueOf s q with
         sqSize := bits v 0 12, cqSize := bits v 16 12, vector := some (bits v 32 11), enable := true
         sqHead := 0, cqTail := 0, sqTail := 0, cqHead := 0, phase := true, fault := false })) ∧
     Yields (.queueDisable q v) s (fun t => OnlyHub s t ∧ queueOf t q = { queueOf s q with
       sqSize := if (queueOf s q).enable then (queueOf s q).sqSize else bits v 0 12
       cqSize := if (queueOf s q).enable then (queueOf s q).cqSize else bits v 16 12
       vector := some (bits v 32 11), enable := false
       busy := if (queueOf s q).held.isSome then none else (queueOf s q).busy, held := none }))

/-- The direct tally window (R403, R404): on an open tally a store to 0x00 adds, one to 0x10 replaces the count and clears the error state,
and a 1 stored to 0x08 sets the error bit with code 0x9051; each releases waiters as every change of a tally does. On a tally that is not
open each is refused with 0x9003, and a 4-byte store to the set field is an Unsupported Request (R518).

A signal or add to a tally (R403, R405): the count takes n and one more signal is counted; past 2^64 - 1 the count stays there and the
error bit is set. No other tally, and no byte of a store, changes. -/
def Obligations.TallyStoresAndAdds : Prop :=
  (∀ (s : State) (i v : Nat), HostServed s → i < 65536 → v < 2 ^ 64 →
     (tallyOpen s i = true →
       exec (.tallyWindowSignal i v 8) s = .next (tallyAdd i v srcHost (hostPosted s)) ∧
       exec (.tallySet i v 8) s = .next (tallySet i v (hostPosted s)) ∧
       exec (.tallyMarkError i 1 8) s = .next (tallyError i 0x9051 srcHost (hostPosted s))) ∧
     (tallyOpen s i = false →
       exec (.tallyWindowSignal i v 8) s = .next (hostRefuse 0x9003 3 (32 * i) (hostPosted s)) ∧
       exec (.tallySet i v 8) s = .next (hostRefuse 0x9003 3 (32 * i + 16) (hostPosted s))) ∧
     exec (.tallySet i v 4) s = .next (replyHost .ur s)) ∧
  (∀ (s : State) (i n e : Nat),
     ((tallyOf s i).count + n < 2 ^ 64 → (tallyOf s i).allocated = true →
       (tallyOf (tallyAdd i n e s) i).count = (tallyOf s i).count + n ∧ (tallyOf (tallyAdd i n e s) i).error = (tallyOf s i).error) ∧
     (2 ^ 64 ≤ (tallyOf s i).count + n →
       (tallyOf (tallyAdd i n e s) i).count = 2 ^ 64 - 1 ∧ (tallyOf (tallyAdd i n e s) i).error = true) ∧
     (∀ j, j ≠ i → tallyOf (tallyAdd i n e s) j = tallyOf s j) ∧
     (tallyAdd i n e s).mem = s.mem ∧ (tallyAdd i n e s).pending = s.pending)

/-- Host reads and writes of the stores (R36, R517, R519, R557): a permitted write puts its bytes into the store of its BAR, so that a byte
read there is the byte written and every other byte of every store reads as before; a refused write changes no byte.

Host reads and AtomicOps of the stores (R230, R517, R519): a read returns the bytes of its store, marked poisoned where the line is; an
access past the BAR is an Unsupported Request; an AtomicOp returns the old value and leaves the new one. -/
def Obligations.HostMemoryAccesses : Prop :=
  (∀ (s : State) (bar off a : Nat) (st : Store) (d : List Byte), HostServed s → barTarget s bar off d.length = some (st, a) →
     (hostCheck (hostPosted s) st a d.length true = none → domDark s (domainOf st a) = false → Canonical s →
       Yields (.hostBarWrite bar off d) s (fun t =>
         (∀ i, (h : i < d.length) → (storeOf t st).read (a + i) = d[i]) ∧
         (∀ x, x < a ∨ a + d.length ≤ x → (storeOf t st).read x = (storeOf s st).read x) ∧
         (∀ st', st' ≠ st → storeOf t st' = storeOf s st') ∧ t.mem.host = s.mem.host ∧
         t.tallies = s.tallies ∧ t.eng = s.eng ∧ t.run = s.run ∧ t.fab = s.fab)) ∧
     (∀ c, hostCheck (hostPosted s) st a d.length true = some c →
       exec (.hostBarWrite bar off d) s = .next (hostRefuse c (storeSpace st) a (hostPosted s)))) ∧
  (∀ (s : State) (bar off len : Nat) (x : Ecc), HostServed s → bar = 2 ∨ bar = 4 →
     (∀ st a, barTarget s bar off len = some (st, a) → hostCheck s st a len false = none → domDark s (domainOf st a) = false →
       exec (.hostBarRead bar off len x) s = .next (
         let t := served st false a len (eccNote st a srcHost x s)
         replyHost (.data (readStore t st a len) (poisoned t st a len)) t)) ∧
     (∀ st a c, barTarget s bar off len = some (st, a) → hostCheck s st a len false = some c →
       exec (.hostBarRead bar off len x) s =
         .next (replyHost (.data (badPattern a len) false) (hostRefuse c (storeSpace st) a s))) ∧
     (barTarget s bar off len = none → exec (.hostBarRead bar off len x) s = .next (replyHost .ur s)) ∧
     (∀ st a op v cmp o, barTarget s bar off len = some (st, a) → atomicOp op len = some o → o.1 ≠ 11 → off % len = 0 →
       hostCheck s st a len true = none → domDark s (domainOf st a) = false →
       exec (.hostAtomic bar off op len v cmp x) s = .next (
         let t := served st false a len (eccNote st a srcHost x s)
         let r := atomAt st a o.1 o.2 v.toNat 0 t
         replyHost (.data (leBytes len r.1) r.2.1) r.2.2)))

/-- DEV_SYNC, LOG_ACK and the link (R224, R535, R539, R540): a read of HUB.DEV_SYNC returns the posted writes counted and counts none; a
write of LOG_ACK arms the vector and tests it; the link going down counts and records 0x1200, after which host writes and vectors wait; the
link coming back records 0x1201 and sends them in order.

Requests that wait on the host or configure the link (R208, R516, R517, R525, R527): a completion timeout ends a load with HOST_ERROR,
stops a copy at its failing chunk, and faults a queue whose fetch it was; a configuration request before READY is retried, and afterwards
sets a BAR size the device supports. -/
def Obligations.HostLinkCommands : Prop :=
  (∀ (s : State) (v cause : Nat),
     (HostServed s → exec .devSync s = .next (replyHost (.data (leBytes 8 s.hub.hostWrites) false) s)) ∧
     (HostServed s → exec (.logAck v) s = .next (
       let t := hostPosted s
       logVector { t with log := { t.log with acked := v % 2 ^ 32, armed := true } })) ∧
     (s.hub.l0 = true →
       let u := logEvent 0x1200 srcDevice [(4, cause)] { s with hub := { s.hub with l0 := false, downs := satAdd 16 s.hub.downs 1 } }
       exec (.hostlinkDown cause) s = .next (forEach (s.units.hare.map (·.1)) failHostCopies u) ∧
       ((∀ e, (hareOf s e).copies = []) → exec (.hostlinkDown cause) s = .next u) ∧ OnlyHub s u) ∧
     (s.hub.l0 = false → (∀ vec, msixSend vec s = { s with hub := { s.hub with out := s.hub.out ++ [.msix vec] } }) ∧
       (∀ a d, hostWrite a d s = { s with hub := { s.hub with out := s.hub.out ++ [.write a d] } })) ∧
     (s.hub.l0 = false → exec .hostlinkUp s =
       .next (forEach s.hub.out sendOut (logEvent 0x1201 srcDevice [] { s with hub := { s.hub with l0 := true, out := [] } })))) ∧
  (∀ (s : State) (q id : Nat),
     ((queueOf s q).busy = some id → s.load.stage = .reading → s.load.queue = q →
       exec (.hostCompletionTimeout (.command q)) s = .next (endCmd q id 6 { s with
         load := { s.load with stage := .idle, image := [], plan := none }, run := { s.run with st := .none } })) ∧
     (∀ e i c, copyOf s e i = some c → c.stopped = false →
       exec (.hostCompletionTimeout (.copy e i)) s = .next (hostErrorCopy e c (hostFailAddr c) 0 s)) ∧
     (∀ e i, copyOf s e i = none → exec (.hostCompletionTimeout (.copy e i)) s = .next (foxReadbackDone e i s)) ∧
     ((queueOf s q).busy = none → cmdDue s q = true → exec (.hostCompletionTimeout (.command q)) s = .next (queueFault q 2 s)) ∧
     (s.hub.l0 = true → s.hub.ready = false → s.power.st ≠ .watch → ∀ c, exec (.configurationRequest c) s = .next (replyHost .crs s)) ∧
     (HostServed s → ∀ g, g ∈ [1, 2, 4, 8, 16, 32] → exec (.configurationRequest (.bar2 g)) s =
       .next { s with hub := { s.hub with reply := .none, bar2 := g } }) ∧
     (HostServed s → Yields (.configurationRequest (.read 0)) s (fun t =>
       t.hub.reply = .data (leBytes 4 0x0E021F4C) false ∧ t.mem = s.mem ∧ t.eng = s.eng)) ∧
     (HostServed s → ∀ d, exec (.configurationRequest (.power d)) s = .next { s with hub := { s.hub with reply := .none, d3hot := d } }))

/-- Every command of a queue with a reserved field that is not zero is taken and completes with INVALID (R528).

TALLY_NOTIFY and PLAN_STATUS (R528, R531, R533): an arm on an allocated tally of the loaded plan joins the armed notifications and sends
at once where the tally is at its target; a disarm removes the tally's; with no plan both complete with NO_PLAN; PLAN_STATUS writes one
64-byte record to host memory. -/
def Obligations.QueueCommands : Prop :=
  (∀ (s : State) (q id a b c d e : Nat) (w : Word64) (l : List Byte) (f g : Bool), cmdDue s q = true → hbmReady s = true →
     ∀ i ∈ [Instr.planLoad q id true a b c d, .planStart q id true a, .planStop q id true, .planStopAtBoundary q id true,
       .planUnload q id true, .planSuspend q id true w, .planResume q id true w l f, .planStatus q id true a b,
       .hoardLeaseGrant q id true w a b, .hoardLeaseRevoke q id true w a b, .domainPowerOff q id true a f, .domainPowerOn q id true a,
       .watch q id true, .reset q id true, .licenceInstall q id true a l f, .patchInstall q id true a b e l f g, .patchClear q id true a,
       .tallyNotifyArm q id true a b c, .tallyNotifyDisarm q id true a],
       exec i s = .next (postCompletion q id 3 0 (takeCmd q id s))) ∧
  (∀ (s : State) (q id tally target vector addr : Nat), cmdDue s q = true →
     let t := takeCmd q id s
     (planLoaded s = true → tally < 65536 → vector < 2048 → s.hub.notifies.length < 256 → (tallyOf s tally).allocated = true →
       exec (.tallyNotifyArm q id false tally target vector) s = .next (endCmd q id 0 (notifyTally tally (tallyOf s tally)
         { t with hub := { t.hub with notifies := t.hub.notifies ++ [{ tally := tally, target := target, vector := vector }] } })) ∧
       exec (.tallyNotifyDisarm q id false tally) s = .next (endCmd q id 0
         { t with hub := { t.hub with notifies := t.hub.notifies.filter (fun n => n.tally != tally) } })) ∧
     (planLoaded s = false →
       exec (.tallyNotifyArm q id false tally target vector) s = .next (endCmd q id 5 t) ∧
       exec (.tallyNotifyDisarm q id false tally) s = .next (endCmd q id 5 t)) ∧
     (addr < 2 ^ 44 → addr % 64 = 0 → (statusRecord t t.hub.statusSeq).length = 64 ∧
       exec (.planStatus q id false addr 0) s = .next (endCmd q id 0 (hostWrite addr (statusRecord t t.hub.statusSeq) t))))

/-- PLAN_LOAD and LOAD_CHECKS (R73 to R80, R528): a load with its words in range and no plan in the way enters loading and the image read; a
second one meets BUSY and disturbs nothing; an image that passes the checks goes on to JOIN, one that fails ends refused with the code of
its failing check; a failed image read completes with HOST_ERROR.

The verdict at a joining device (R77, R78, R530): GO from the steward's position brings the plan into HOLD, sets up what R78 lists, and
completes the load with plan_id once no projection engine recalibrates; REFUSE completes it refused. A device that has refused, or a verdict from another position, changes nothing
but the packet taken.

After GO (R78) the device is in HOLD with the plan loaded, its own logical number, no pass counted, every tally and context at the
plan's initial values, every line of the directory I and every L1 empty (R378), and no notification armed (R533). -/
def Obligations.PlanLoadAndVerdict : Prop :=
  (∀ (s : State) (q id addr len ring vector : Nat),
     (cmdDue s q = true → hbmReady s = true → addr < 2 ^ 44 → addr % 8 = 0 → len < 2 ^ 32 → ring < 2 ^ 44 → ring % 64 = 0 → vector < 2048 →
       (s.run.st = .none → exec (.planLoad q id false addr len ring vector) s = .next (
         let t := takeCmd q id s
         { t with
           load := { stage := .reading, length := len, queue := q, cmdId := id % 65536, ring := BitVec.ofNat 64 ring, vector := vector }
           run := { st := .loading, lastId := s.run.lastId } })) ∧
       (s.run.st ≠ .none → s.run.st ≠ .ended →
         exec (.planLoad q id false addr len ring vector) s = .next (endCmd q id 2 (takeCmd q id s)))) ∧
     (∀ image, s.load.stage = .reading → image.length = s.load.length →
       (∀ p, checkImage s image s.load.length = .passed p → exec (.loadChecks image true) s = .next (startJoin p s)) ∧
       (∀ e, checkImage s image s.load.length = .refused e →
         exec (.loadChecks image true) s = .next (refuseLoad (leAt image 0x18 8) e 0 0 s)) ∧
       exec (.loadChecks image false) s = .next (endCmd s.load.queue s.load.cmdId 6 { s with
         load := { s.load with stage := .idle, image := [], plan := none }, run := { s.run with st := .none } }))) ∧
  (∀ (s : State) (p : Packet) (pl : Plan) (go : Bool) (code dev devCode : Nat),
     msgOf p = some (.verdict go code dev devCode) → s.load.plan = some pl →
     let t := takeIngress p s
     ((s.load.stage = .joining ∨ s.load.stage = .withdrawn) → spanPos pl pl.steward = some p.source →
       (go = true → exec (.verdict p) s = .next (goPlan pl t)) ∧
       (go = false → stewardHere pl s = false →
         exec (.verdict p) s = .next (refuseLoad pl.planId.toNat { code := code } dev devCode t))) ∧
     ((s.load.stage = .idle ∨ spanPos pl pl.steward ≠ some p.source) → exec (.verdict p) s = .next t)) ∧
  (∀ (s : State) (p : Plan),
     (goPlan p s).run.st = .hold ∧ (goPlan p s).run.plan = some p ∧
     (goPlan p s).run.me = (spanEntry p s.fab.position).bind (·.logical) ∧
     (goPlan p s).run.passes = [] ∧ (goPlan p s).tallies = planTallies (mySections (takePlan p s)) ∧
     (goPlan p s).sett.dir = [] ∧ (goPlan p s).sett.l1 = [] ∧ (goPlan p s).hub.notifies = [] ∧ (goPlan p s).pending = s.pending ∧
     ((recalling (goPlan p s) = true ∧ (goPlan p s).load.goDue = true) ∨ ∃ v, recalling v = false ∧ goPlan p s = goDone p v) ∧
     goDone p s = (let u := postStatus (logEvent 0x1400 srcDevice [(8, p.planId.toNat)] { s with load := { s.load with goDue := false } });
       postCompletion u.load.queue u.load.cmdId 0 p.planId.toNat u))

/-- The steward's side of the join (R77): before the verdict, a JOIN of a non-spare with another plan gives REFUSE with PR_SPAN_MISMATCH to
every device that has joined, a WITHDRAW gives REFUSE with PR_SPAN_TIMEOUT, and so does the steward's own timeout; a JOIN after the verdict is
answered with it; one from a position outside the roster only leaves the ingress; a refusing steward answers with its own code until
join_timeout_ms has passed.

A joining device's timeouts and its hoard lease (R60, R77): without a verdict it withdraws, without an answer to that it refuses with
PR_SPAN_TIMEOUT; LEASE_OK makes it join again as confirmed, a refusal or no answer makes it refuse with PR_HOARD_PARTNER; the holder of a
lease of that plan_id that is large enough answers LEASE_OK and serves the asker's position from then on, any other device refuses. -/
def Obligations.JoinAndLeases : Prop :=
  (∀ (s : State) (p : Packet) (pl : Plan), joinPlan s = some pl → joinServed s = true →
     let t := takeIngress p s
     let u := fun (j : Joined) => { t with load := { t.load with joined := SMap.set none t.load.joined p.source (some j) } }
     ((spanEntry pl p.source).isNone = true → exec (.join p) s = .next t ∧ exec (.withdraw p) s = .next t) ∧
     ((spanEntry pl p.source).isSome = true → s.load.refusing = true →
       exec (.join p) s = .next (sendMsgPos (refusingVerdict pl t) p.source t) ∧
       exec (.withdraw p) s = .next (sendMsgPos (refusingVerdict pl t) p.source t)) ∧
     (∀ m j, (spanEntry pl p.source).isSome = true → s.load.refusing = false → s.load.verdict = none → msgOf p = some m →
       joinRecord pl m = some j → j.spare = false → j.matching = false → exec (.join p) s = .next (giveVerdict (refusal 0x26) (u j))) ∧
     (∀ m j v, (spanEntry pl p.source).isSome = true → s.load.refusing = false → s.load.verdict = some v → msgOf p = some m →
       joinRecord pl m = some j → j.spare = false → exec (.join p) s = .next (sendMsgPos v.msg p.source (u j))) ∧
     (∀ v, (spanEntry pl p.source).isSome = true → s.load.refusing = false → s.load.verdict = some v →
       exec (.withdraw p) s = .next (sendMsgPos v.msg p.source t)) ∧
     (s.load.stage = .joining → s.load.verdict = none → exec .stewardJoinTimeout s = .next (giveVerdict (refusal 0x28) s)) ∧
     (s.load.refusing = true → exec .refusingStewardEnd s = .next { s with load := { s.load with refusing := false, plan := none } })) ∧
  (∀ (s : State) (p : Packet) (pl : Plan) (id : Word64) (size pos : Nat),
     (s.load.plan = some pl → s.load.stage = .joining → stewardHere pl s = false → ∀ sp, spanPos pl pl.steward = some sp →
       exec .joinTimeout s = .next (sendMsgPos .withdraw sp { s with load := { s.load with stage := .withdrawn } })) ∧
     (s.load.plan = some pl → s.load.stage = .withdrawn →
       exec .withdrawTimeout s = .next (refuseLoad pl.planId.toNat { code := 0x28 } 0 0 s)) ∧
     (s.load.plan = some pl → s.run.plan = none → s.load.stage = .joining → s.load.lease = .pending →
       (msgOf p = some (.leaseOk pl.planId true) → exec (.leaseOk p) s =
         .next (sendJoin pl 0 .confirmed { takeIngress p s with load := { s.load with lease := .confirmed } })) ∧
       (msgOf p = some (.leaseOk pl.planId false) → exec (.leaseOk p) s = .next (leaseRefused pl (takeIngress p s))) ∧
       exec .leaseCheckTimeout s = .next (leaseRefused pl s)) ∧
     (msgOf p = some (.leaseCheck id size pos) →
       (∀ l, s.hub.lease = some l → l.planId = id → size ≤ l.size → exec (.leaseCheck p) s =
         .next (sendMsgPos (.leaseOk id true) pos (refreshPartnerLanes
           (let t := takeIngress p s; { t with hub := { t.hub with lease := some { l with served := some pos, need := size } } })))) ∧
       (s.hub.lease = none → exec (.leaseCheck p) s = .next (sendMsgPos (.leaseOk id false) pos (takeIngress p s)))))

/-- PLAN_START, PLAN_STOP, PLAN_UNLOAD and PLAN_SUSPEND on a held or running plan (R79, R410, R528, R534): the steward of a held plan without
epochs sends START with hall time now plus the delay and completes; a stop sends STOP_REQ to the coordinator and waits; an unload discards
the plan; a suspend names the save area and waits, and on the steward asks the span.

Suspension and resumption (R534): a device with a save area accepts the steward's request and, on its decision, suspends at the end of
the phase; the steward whose answers do not all come completes its command with BUSY; a device that can save writes its area, enters
suspended and completes its command; a resume from an intact area restores the plan into HOLD, and one that is not intact is REFUSED with
reason 1. -/
def Obligations.PlanCommandsAndSuspension : Prop :=
  (∀ (s : State) (q id delay : Nat) (area : Word64), cmdDue s q = true →
     let t := takeCmd q id s
     let w : Waiter := { queue := q, cmdId := id % 65536 }
     (s.run.st = .hold → s.run.me = some (stewardOf s) → s.hub.starter = none → s.run.startAt = none → epochRec s = none →
       100 ≤ delay → delay ≤ 10000000 → exec (.planStart q id false delay) s = .next (sendStart w delay t)) ∧
     (s.run.st = .hold → s.run.me ≠ some (stewardOf s) → exec (.planStart q id false 0) s = .next (endCmd q id 4 t)) ∧
     (s.run.st = .run →
       exec (.planStop q id false) s =
         .next (sendMsg (.stopReq false) (coordinatorOf t) { t with hub := { t.hub with stoppers := t.hub.stoppers ++ [w] } }) ∧
       exec (.planStopAtBoundary q id false) s =
         .next (sendMsg (.stopReq true) (coordinatorOf t) { t with hub := { t.hub with stoppers := t.hub.stoppers ++ [w] } }) ∧
       exec (.planUnload q id false) s = .next (endCmd q id 2 t)) ∧
     (s.run.st = .hold ∨ s.run.st = .suspended ∨ s.run.st = .ended → exec (.planUnload q id false) s = .next (endCmd q id 0 (discardPlan t))) ∧
     (s.run.st = .run → areaOk t area = true → s.hub.suspender = none → s.run.me ≠ some (stewardOf s) →
       exec (.planSuspend q id false area) s = .next { t with hub := { t.hub with saveArea := some area, suspender := some w } }) ∧
     (s.run.st = .run → areaOk t area = true → s.hub.suspender = none → s.run.me = some (stewardOf s) → s.hub.suspending = false →
       exec (.planSuspend q id false area) s = .next (askSuspend { t with hub := { t.hub with saveArea := some area, suspender := some w } }))) ∧
  (∀ (s : State) (p : Packet) (q id : Nat) (area : Word64) (host : List Byte),
     let r := relayMsg p (takeIngress p s)
     (msgOf p = some (.suspend true false) → r.run.me ≠ none → ours p r = true →
       exec (.suspendRequest p) s = .next (sendMsg (.suspend false r.hub.saveArea.isSome) (stewardOf r) r)) ∧
     (msgOf p = some (.suspend true true) → r.run.me ≠ none → ours p r = true → r.hub.saveArea.isSome = true →
       exec (.suspendRequest p) s = .next { r with hub := { r.hub with suspending := true } }) ∧
     (∀ w, s.hub.suspendAsked = true → s.hub.suspender = some w → exec .suspendAnswerTimeout s =
       .next (finishWaiter w 2 0 { s with hub := { s.hub with suspendAsked := false, suspendAwait := [], suspender := none } })) ∧
     (∀ a, s.hub.saveArea = some a → canSave s a = true → Yields .saveAreaWritten s (fun t =>
       t.run.st = .suspended ∧ t.power.st = .hold ∧ t.hub.saveArea = none ∧ t.hub.suspender = none ∧ t.hub.suspending = false)) ∧
     (cmdDue s q = true → areaOk (takeCmd q id s) area = true → s.run.st = .hold → s.run.me ≠ none → s.hub.starter = none →
       s.run.startAt = none → (hallAddr area).space = 6 →
       let m := Memory.writeBytes [] 0 (host.take saveSize)
       (saveOk m (takeCmd q id s) = true →
         exec (.planResume q id false area host true) s = .next (endCmd q id 0 (resumePlan m (takeCmd q id s)))) ∧
       (saveOk m (takeCmd q id s) = false →
         exec (.planResume q id false area host true) s = .next (postCompletion q id 1 1 (takeCmd q id s)))))

/-- Hoard leases, licences, patches and RESET (R482, R510, R511, R528, R532, R536): a lease in range is granted where none stands and it
overlaps nothing of the loaded plan, else the command meets BUSY; a revoke completes at once and ends the lease; a licence whose check fails
is refused with its reason; a patch whose checks pass is written to its slot and one cleared is gone; RESET completes, and 100 us after its
completion has been performed the device begins a warm reset.

Licences (R510, R511): a valid licence whose serial no valid licence has goes into the lowest flash sector that holds no valid one, is
recorded and completes OK; a duplicate is refused with reason 6, and one for which no sector is left with reason 5. The validity is that of the
fused keys (Config). -/
def Obligations.LeaseLicencePatchAndReset : Prop :=
  (∀ (s : State) (q id base size addr len slot : Nat) (plan : Word64) (d : List Byte), cmdDue s q = true →
     let t := takeCmd q id s
     (leaseOkWords base size = true → s.hub.lease = none → (planRanges t).any (overlaps (base, size + size / 2)) = false →
       exec (.hoardLeaseGrant q id false plan base size) s = .next (endCmd q id 0
         (withMapping (fun s => { s with hub := { s.hub with lease := some { planId := plan, base := base, size := size } } }) t))) ∧
     (leaseOkWords base size = true → s.hub.lease.isSome = true →
       exec (.hoardLeaseGrant q id false plan base size) s = .next (endCmd q id 2 t)) ∧
     (∀ l, s.hub.lease = some l → l.planId = plan →
       exec (.hoardLeaseRevoke q id false plan base size) s = .next (endCmd q id 0 (revokeLease l t))) ∧
     (addr < 2 ^ 44 → licReason (slice d 0 160) ≠ 0 →
       exec (.licenceInstall q id false addr d true) s = .next (licRefuse q id (licReason (slice d 0 160)) t)) ∧
     (slot < 16 → len ≤ 65536 → addr < 2 ^ 44 → patchReason (slice d 0 len) slot = 0 →
       exec (.patchInstall q id false addr len slot d true true) s = .next (endCmd q id 0 (logEvent 0x5071 srcDevice [(4, slot)]
         (let x : Patch := { valid := true, serial := leAt (slice d 0 len) 0x10 4, body := slice d 0 len }
          { t with hub := { t.hub with patches := SMap.set {} t.hub.patches slot x } })))) ∧
     (slot < 16 → exec (.patchClear q id false slot) s =
       .next (endCmd q id 0 { t with hub := { t.hub with patches := SMap.erase slot t.hub.patches } })) ∧
     (Yields (.reset q id false) s (fun u => u.hub.resetDue = true ∧ u.hub.resetQueue = q))) ∧
  (∀ s : State, (s.hub.resetDue = true → resetPerformed s = true → exec .warmResetDelay s = .next (startWarm s)) ∧
     (s.hub.resetDue = false ∨ resetPerformed s = false → exec .warmResetDelay s = .next s)) ∧
  (∀ (s : State) (q id addr : Nat) (l : List Byte), cmdDue s q = true → addr < 2 ^ 44 →
     let t := takeCmd q id s
     let d := slice l 0 160
     let dup := (List.range 9).any (fun i => decide (licReason (licBytes t i) = 0) && decide (leAt (licBytes t i) 0x1C 4 = leAt d 0x1C 4))
     let free := (List.range 8).find? (fun i => decide (licReason (SMap.get [] t.boot.flash i) ≠ 0))
     exec (.licenceInstall q id false addr l false) s = .next (endCmd q id 6 t) ∧
     (licReason d ≠ 0 → exec (.licenceInstall q id false addr l true) s = .next (licRefuse q id (licReason d) t)) ∧
     (licReason d = 0 → dup = true → exec (.licenceInstall q id false addr l true) s = .next (licRefuse q id 6 t)) ∧
     (licReason d = 0 → dup = false → free = none → exec (.licenceInstall q id false addr l true) s = .next (licRefuse q id 5 t)) ∧
     (∀ i, licReason d = 0 → dup = false → free = some i → exec (.licenceInstall q id false addr l true) s =
       .next (endCmd q id 0 (logEvent 0x5023 srcDevice [(8, leAt d 0x1C 4), (4, leAt d 0x18 1), (4, leAt d 0x19 1)]
         (modBoot (fun b => { b with flash := SMap.set [] b.flash i d }) t)))))

/-- START and the phases (R27, R49, R79): a held device notes START's hall time; at that time each non-spare begins; a phase starts once its
rings are locked, with every bound engine at its program's entry and the once-a-phase events open again; a phase that is not over stays; one
that is over passes to the next by its pass counter, and entering a halt phase ends the plan. -/
def Obligations.PhasesRunInOrder : Prop :=
  ∀ (s : State) (p : Packet) (h : HallTime),
    let r := relayMsg p (takeIngress p s)
    (msgOf p = some (.start h) → r.run.st = .hold → ours p r = true →
      exec (.start p) s = .next { r with run := { r.run with startAt := some h } }) ∧
    (s.run.startAt = some h → s.run.st = .hold → s.epoch.stage = .none ∨ s.epoch.stage = .running → recalling s = false →
      exec .planStartTime s = .next (beginPlan (reachTime h s))) ∧
    (s.run.st = .run → s.run.between = true → s.run.halted = false → epochIdle s = true → s.hub.suspending = false → ringsLocked s = true →
      exec .phaseStart s = .next (if (phaseOf s s.run.phase).kind = 2 then endPlan 1 s else startPhase s)) ∧
    (phaseDone s = false → exec .phaseEnd s = .next s) ∧
    (phaseDone s = true → (phaseOf s s.run.phase).epoch = false → s.hub.suspending = false → exec .phaseEnd s = .next (endPhase s)) ∧
    (nextPhase s s.run.phase =
      let ph := phaseOf s s.run.phase
      let n := SMap.get 0 s.run.passes s.run.phase
      if n < ph.altCount then (ph.alt, n + 1) else (ph.next, 0))

/-- An index register of an engine after a write (R91): it holds the value modulo 2^32, and the engine's other index registers, its pc and
every other engine are as they were. -/
def Obligations.IndexRegisterHoldsWhatWasWritten : Prop :=
  ∀ (s : State) (e r v : Nat), r < 16 → (seqOf s e).st = .running → SMap.wf 0 (seqOf s e).xs = true →
    xreg (setXreg e r v s) e r = v % 2 ^ 32 ∧
    (∀ r', r' < 16 → r' ≠ r → xreg (setXreg e r v s) e r' = xreg s e r') ∧
    (seqOf (setXreg e r v s) e).pc = (seqOf s e).pc ∧ (∀ e', e' ≠ e → seqOf (setXreg e r v s) e' = seqOf s e')

/-- The control instructions at issue (R90, R91, R93): NOP only goes on; SETX, ADDX modulo 2^32 and ERRT set what they name; SIGNAL issues
its add and goes on; each with the sequencer of its own engine changed and nothing else.

LOOP, WAIT and END (R90, R91, R404): LOOP counts down and goes back while its register is not zero and falls through at zero; WAIT goes on
at a target that is met or an error bit that is set, ending the program where err_end asks for it, and otherwise waits at its place; END ends
a program that has nothing outstanding and otherwise waits for it.

SIGNAL_APPLY (R91, R220, R403): the engine's oldest add waits for every earlier instruction; once they are complete it is added to its
tally, or refused under R36 where the tally is not open to the plan. -/
def Obligations.ControlInstructions : Prop :=
  (∀ (s : State) (e : Nat) (w : Word64),
     (issueOf s e [0x00] = some w → exec (.nop e) s = .next (modSeq e (fun q => { q with pc := q.pc + 1 }) s)) ∧
     (issueOf s e [0x04] = some w →
       exec (.errt e) s = .next (modSeq e (fun q => { q with pc := q.pc + 1, errTally := fld w 16 16 }) s)) ∧
     (issueOf s e [0x08] = some w →
       exec (.setx e) s = .next (nextPc e (setXreg e (fld w 8 4) (fld w 32 32) s))) ∧
     (issueOf s e [0x09] = some w →
       exec (.addx e) s = .next (nextPc e (setXreg e (fld w 8 4) (xreg s e (fld w 8 4) + fld w 32 32) s))) ∧
     (issueOf s e [0x03] = some w → exec (.signal e) s = .next (modSeq e (fun q => { q with
       pc := q.pc + 1, signals := q.signals ++ [{ issue := q.issued, tally := fld w 16 16, n := fld w 32 32 }] }) s))) ∧
  (∀ (s : State) (e : Nat) (w : Word64),
     (issueOf s e [0x0A] = some w → xreg s e (fld w 8 4) ≠ 0 → exec (.loopX e) s =
       .next (modSeq e (fun q => { q with pc := fld w 32 32 / 8 }) (setXreg e (fld w 8 4) (xreg s e (fld w 8 4) - 1) s))) ∧
     (issueOf s e [0x0A] = some w → xreg s e (fld w 8 4) = 0 → exec (.loopX e) s = .next (nextPc e s)) ∧
     (issueOf s e [0x02] = some w → fld w 32 32 ≤ (tallyOf s (fld w 16 16)).count → (tallyOf s (fld w 16 16)).error = false →
       exec (.waitT e) s = .next (nextPc e s)) ∧
     (issueOf s e [0x02] = some w → (tallyOf s (fld w 16 16)).error = true → bit w.toNat 8 = true → exec (.waitT e) s =
       .next (settle e (modSeq e (fun q => { q with pc := q.pc + 1, ending := true }) s))) ∧
     (issueOf s e [0x02] = some w → (tallyOf s (fld w 16 16)).count < fld w 32 32 → (tallyOf s (fld w 16 16)).error = false →
       exec (.waitT e) s = .next (modSeq e (fun q => { q with
         st := .waiting, wait := some { tally := fld w 16 16, target := fld w 32 32, errEnd := bit w.toNat 8 } }) s)) ∧
     (issueOf s e [0x01] = some w → engClass e ≠ 3 → (seqOf s e).opens = [] → (seqOf s e).signals = [] →
       Yields (.endProg e) s (fun t => (seqOf t e).st = .ended ∧ t = { s with eng := t.eng })) ∧
     (issueOf s e [0x01] = some w → (seqOf s e).opens ≠ [] →
       exec (.endProg e) s = .next (modSeq e (fun q => { q with ending := true }) s))) ∧
  (∀ (s : State) (e : Nat) (g : PendSignal) (rest : List PendSignal), (seqOf s e).signals = g :: rest →
     ((seqOf s e).opens.any (fun i => decide (i < g.issue)) = true → exec (.signalApply e) s = .next s) ∧
     ((seqOf s e).opens.any (fun i => decide (i < g.issue)) = false → g.addr = none → tallyOpen s g.tally = true →
       exec (.signalApply e) s = .next (settle e (modSeq e (fun q => { q with signals := rest }) (tallyAdd g.tally g.n e s)))) ∧
     ((seqOf s e).opens.any (fun i => decide (i < g.issue)) = false → g.addr = none → tallyOpen s g.tally = false →
       exec (.signalApply e) s = .next (settle e (modSeq e (fun q => { q with signals := rest })
         (addrFault 0x9003 e (mkHall (myLogical s) 3 (g.tally * 32)) s)))))

/-- What an engine's control instruction leaves alone (R91): every byte of every memory, every tally, the log, and every engine but its own.
For NOP, ERRT, SETX, ADDX, LOOP, SIGNAL and KEEP; WAIT and END may also cancel a hare's staging slots. -/
def Obligations.ControlInstructionsFrame : Prop :=
  ∀ (s t : State) (e : Nat) (c : Instr),
    (c ∈ [Instr.nop e, .errt e, .setx e, .addx e, .loopX e, .signal e] → exec c s = .next t →
      t = { s with eng := t.eng } ∧ ∀ e', e' ≠ e → seqOf t e' = seqOf s e') ∧
    (c ∈ [Instr.endProg e, .waitT e, .keep e] → exec c s = .next t →
      t = { s with eng := t.eng, units := t.units, free := t.free } ∧ ∀ e', e' ≠ e → seqOf t e' = seqOf s e')

/-- Current keeping (R107, R108, R162): KEEP up ramps up and holds, KEEP down ramps down; a ramp's tick moves the density one eighth; the gap
threshold of free steps starts the ramp down; force_off stops dummies of every bear of the die at once and is recorded while a plan runs. -/
def Obligations.CurrentKeeping : Prop :=
  ∀ (s : State) (e die : Nat) (w : Word64),
    (issueOf s e [0x0C] = some w → keepOn s e = true → bit w.toNat 8 = true → (keepOf s e).density < 8 →
      exec (.keep e) s = .next (nextPc e (rowEnters e
        (modKeep e (fun k => { k with ramp := if k.density = 8 then .none else .up, hold := true }) (countGap e s))))) ∧
    (issueOf s e [0x0C] = some w → keepOn s e = true → bit w.toNat 8 = false →
      exec (.keep e) s = .next (nextPc e (rowEnters e
        (modKeep e (fun k => { k with ramp := if k.density = 0 then .none else .down, hold := false }) (countGap e s))))) ∧
    (keeps e = true → (keepOf s e).ramp = .up → keepOn s e = true → (keepOf s e).density + 1 < 8 → exec (.keepRampTick e) s =
      .next (rowEnters e (modKeep e (fun k => { k with density := (keepOf s e).density + 1 })
        (countDummies e (64 * (keepOf s e).density) s)))) ∧
    (keeps e = true → (keepOf s e).ramp = .down → keepOn s e = true → (keepOf s e).density = 1 → exec (.keepRampTick e) s =
      .next (rowEnters e (modKeep e (fun k => { k with density := 0, ramp := .none }) (countDummies e 64 s)))) ∧
    (keeps e = true → (keepOf s e).hold = false → (keepOf s e).ramp = .none → 0 < (keepOf s e).density → keepOn s e = true →
      s.run.between = false →
      let g := keepGap (powerClass s)
      exec (.keepGapExpire e) s = .next (modKeep e (fun k => { k with ramp := .down })
        (countDummies e (g / 8 * (keepOf s e).density + min (keepOf s e).density (g % 8)) s))) ∧
    (die < 8 → ∀ ve on, exec (.meKeepAdminOff die ve on) s = .next (setForceOff die ve on s)) ∧
    (die < 8 → SMap.wf ({} : Bear) s.units.bear = true → ∀ u, u < 16 → Yields (.meKeepAdminOff die false true) s (fun t =>
      (keepOf t (engId 0 die u)).density = 0 ∧ keepForced t (engId 0 die u) = true))

/-- MMA at issue (R81, R88, R93, R111): once every earlier MMA has swapped, and with nothing wrong in its operands, it takes its tile, an issue
number and the next instruction; behind an MMA that has not swapped it stays at issue; and a refused operand makes it fault, with one record
and the error bit, while the program goes on.

An MMA's life after its issue (R96, R97, R112, R113): the swap puts the shadow into the array; the first parity error of a fill starts
one refill and is recorded, after which the swap follows, or a second error stops the bear as a parity error of the active tile does; at
completion the sums of the oldest operation reach its rows and the counters take it.

Compatibility mode (R99 to R104): CMODE clears both banks and takes its mode once every earlier instruction has completed, and waits
before that; an OMMA issues with each instance's operands; the accumulator's scrub corrects a single-bit error, counts it and records it. -/
def Obligations.MatrixEngineInstructions : Prop :=
  (∀ (s : State) (e : Nat) (w : Word64), issueOf s e [0x10] = some w →
     let rs := mmaRows s e w
     let bad := firstRefused (rs.flatMap (fun r => r.1.checks s e r.2))
     let op := fun (f : Bool) (ts : List MmaTile) => ({
       issue := (seqOf s e).issued, index := (seqOf s e).pc, word := w, fault := f
       fmtA := descFmt s e (fld w 12 10), fmtB := descFmt s e (fld w 22 10), tiles := ts } : MmaOp)
     ((bearOf s e).mmas.any (fun o => !o.swapped) = true → exec (.mma e .ok .ok) s = .next s) ∧
     ((bearOf s e).mmas.any (fun o => !o.swapped) = false → bad = none → rs.any (fun r => r.1.poison s) = false →
       exec (.mma e .ok .ok) s = .next (issueOpen e (nextPc e
         (modBear e (fun b => { b with mmas := b.mmas ++ [op false [mmaTile s e w rs]] }) s)))) ∧
     (∀ x, (bearOf s e).mmas.any (fun o => !o.swapped) = false → bad = some x →
       exec (.mma e .ok .ok) s = .next (issueOpen e (nextPc e
         (modBear e (fun b => { b with mmas := b.mmas ++ [op true []] }) (operandFault e (some x) s)))))) ∧
  (∀ (s : State) (e dummy : Nat) (o : MmaOp) (rest : List MmaOp),
     ((bearOf s e).mmas.find? (fun o => !o.swapped) = some o → o.refilling = false →
       exec (.mmaSwap e false dummy) s = .next (swapIn e dummy s) ∧
       exec (.mmaSwap e true dummy) s = .next (logEvent 0x6101 e [(2, e), (4, o.index)] (modBear e (fun b => { b with
         mmas := b.mmas.map (fun o => if o.swapped then o else { o with refilling := true }) })
         (if keepOn s e then countDummies e dummy s else s)))) ∧
     ((bearOf s e).mmas.any (·.refilling) = true →
       exec (.tileRefillDone e false) s = .next (swapIn e 0 (modBear e (fun b => { b with tileRetry := true }) (countGap e s))) ∧
       exec (.tileRefillDone e true) s = .next (tileFault e (countGap e s))) ∧
     ((bearOf s e).mmas.any (·.swapped) = true → exec (.meTileFault e) s = .next (tileFault e s)) ∧
     ((bearOf s e).mmas = o :: rest → o.swapped = true → exec (.mmaComplete e) s = .next (completeOp e o.issue (modBear e (fun b =>
       let b := if fld o.word 0 8 = 0x10 then applyMma o b else applyOmma o b
       { b with mmas := rest, mmaCount := satAdd 64 b.mmaCount 1, rows := satAdd 64 b.rows o.streamed }) (rowEnters e s))))) ∧
  (∀ (s : State) (e bank row k : Nat) (w : Word64),
     (issueOf s e [0x31] = some w → allDone s e = false → exec (.cmode e) s = .next s) ∧
     (issueOf s e [0x31] = some w → allDone s e = true → bit w.toNat 9 = false → exec (.cmode e) s =
       .next (nextPc e (modBear e (fun b => { b with
         acc := [], compat := false, cub16 := false, instances := fld w 16 6 + 1, window := 0, aStride := 0, bStride := 0, cStride := 0 }) s))) ∧
     (issueOf s e [0x40] = some w → exec (.omma32 e .ok .ok) s = .next (issueOmma e .ok .ok w s)) ∧
     (issueOf s e [0x41] = some w → exec (.omma16 e .ok .ok) s = .next (issueOmma e .ok .ok w s)) ∧
     (∀ b, b = bearOf s e → b.mmas.any (fun o => !o.swapped) = false → runs s e = true →
       let all := (cubRows b w true).flatten ++ (cubRows b w false).flatten
       let n := rowLen (ommaFmt w) b.cub
       firstRefused (all.map (fun o => (o, spStage s e o n false))) = none →
       all.any (fun o => (spStage s e o n false).isNone && poisoned s .sp o.toNat n) = false →
       ∃ o : MmaOp, issueOmma e .ok .ok w s = issueOpen e (nextPc e (modBear e (fun b => { b with mmas := b.mmas ++ [o] }) s)) ∧
         o.word = w ∧ o.fault = false ∧ o.tiles.length = (List.zip (cubRows b w true) (cubRows b w false)).length) ∧
     (engClass e = 0 → engValid e = true → bank < 2 → row < 512 → (bearOf s e).mmas.all (fun o => o.bank != bank) = true →
       exec (.accScrub e bank row .ok) s = .next s ∧
       exec (.accScrub e bank row (.corrected k)) s = .next (logOncePhase 0x6120 e e [(2, e), (4, bank), (4, row + k)]
         (modBear e (fun b => { b with accCorr := satAdd 32 b.accCorr 1 }) s))))

/-- DZERO makes its rows zero and no others (R128): every element of the named rows of the named bank reads zero afterwards, and every
element of the other bank and of the other rows reads as before. -/
def Obligations.DzeroZeroesItsRowsOnly : Prop :=
  ∀ (s : State) (e : Nat) (w : Word64), issueOf s e [0x21] = some w →
    rowsBusy (bearOf s e) (fld w 8 1) (fld w 36 9) (fld w 45 9 + 1) = false → SMap.wf ({} : Bear) s.units.bear = true →
    Yields (.dzero e) s (fun t =>
      (∀ d j, d < fld w 45 9 + 1 → j < 128 → accAt (bearOf t e) (fld w 8 1) (fld w 36 9 + d) j = 0) ∧
      (∀ bank row j, bank < 2 → row < 512 → j < 128 → bank ≠ fld w 8 1 →
        fld w 36 9 + fld w 45 9 < 512 → accAt (bearOf t e) bank row j = accAt (bearOf s e) bank row j) ∧
      (∀ row j, row < fld w 36 9 ∨ fld w 36 9 + fld w 45 9 < row → j < 128 →
        accAt (bearOf t e) (fld w 8 1) row j = accAt (bearOf s e) (fld w 8 1) row j) ∧
      ∀ e', e' ≠ e → bearOf t e' = bearOf s e')

/-- The drain group at issue (R102, R120, R128, R129, R135): behind an MMA or OMMA that still adds into its rows a DRN, DZERO or ODRN stays
at issue; else DZERO and ODRN write their rows and go on, and a DRN whose accesses pass the checks and meet no poison drains its rows in
order and stays open until DRN_COMPLETE; ALOAD waits for every earlier instruction of the engine.

The vector instructions (R142, R146, R151, R157, R159, R166): CHAIN, ARGX and HSEL run over their rows, results or queries in order, on
the state as each has left it, and end by counting themselves and going on; a double-bit lane error of a badger that runs is its engine's
fatal error. -/
def Obligations.DrainsAndVectorInstructions : Prop :=
  (∀ (s : State) (e : Nat) (w : Word64),
     let r := drnOf s e w
     let busy := fun (b : Nat) => rowsBusy (bearOf s e) b (fld w 36 9) (fld w 45 9 + 1)
     (issueOf s e [0x20] = some w → rowsBusy (bearOf s e) r.bank r.first r.count = true → exec (.drn e .ok .ok) s = .next s) ∧
     (issueOf s e [0x20] = some w → rowsBusy (bearOf s e) r.bank r.first r.count = false →
       firstRefused (drnChecks s e r) = none → drnPoison s e r = false →
       let t := forEach (List.range r.count) (drainRow s e r) s
       exec (.drn e .ok .ok) s = .next (issueOpen e (nextPc e
         (modBear e (fun b => { b with drains := b.drains ++ [(seqOf t e).issued] }) t)))) ∧
     (∀ i rest, (bearOf s e).drains = i :: rest → exec (.drnComplete e) s = .next (completeOp e i
       (modBear e (fun b => { b with drains := rest, drainCount := satAdd 64 b.drainCount 1 }) s))) ∧
     (issueOf s e [0x21] = some w → busy (fld w 8 1) = true → exec (.dzero e) s = .next s) ∧
     (issueOf s e [0x21] = some w → busy (fld w 8 1) = false → exec (.dzero e) s = .next (nextPc e (modBear e (fun b => { b with
       acc := b.acc.filter (fun x => !(decide (accKey (fld w 8 1) (fld w 36 9) 0 ≤ x.1) &&
         decide (x.1 < accKey (fld w 8 1) (fld w 36 9 + (fld w 45 9 + 1)) 0))) }) s))) ∧
     (issueOf s e [0x23] = some w → allDone s e = false → exec (.aload e .ok) s = .next s) ∧
     (issueOf s e [0x23] = some w → allDone s e = true →
       let base := descBase s e (fld w 16 10)
       let rows : Rows := { base := base, stride := descStride s e (fld w 16 10), count := fld w 45 9 + 1, len := 768 }
       firstRefused (rows.checks s e true) = none →
       ((List.range rows.count).any fun i =>
         (spStage s e (rows.at i) 768 false).isNone && poisoned s .sp (rows.at i).toNat 768) = false →
       exec (.aload e .ok) s = .next (nextPc e
         (forEach (List.range rows.count) (aloadRow e base rows.stride (fld w 8 1) (fld w 36 9)) s))) ∧
     (issueOf s e [0x42] = some w → rowsBusy (bearOf s e) (fld w 13 1) (fld w 32 7) (fld w 40 7 + 1) = false →
       let all := (List.range (bearOf s e).instances).flatMap (fun q => (List.range (fld w 40 7 + 1)).map (fun i => (q, i)))
       firstRefused (all.map (fun x => (odrnAt (bearOf s e) w x.1 x.2,
         spStage s e (odrnAt (bearOf s e) w x.1 x.2) ((bearOf s e).cub * odrnBytes (fld w 8 4)) true))) = none →
       exec (.odrn e .ok) s = .next (nextPc e (forEach all
         (fun x => spWrite e false (odrnAt (bearOf s e) w x.1 x.2) (odrnRow (bearOf s e) w x.1 x.2)) s)))) ∧
  (∀ (s : State) (e dummy : Nat) (w : Word64),
     (issueOf s e [0x50] = some w →
       let c := chainOf s e w
       let u := keepReal e dummy s
       exec (.chain e .ok false dummy) s =
         .next (veEnd e (VeRun.each (List.range c.rows) (runRow u e c ((List.range c.stages).map (c.stage u e))) { s := u }))) ∧
     (issueOf s e [0x51] = some w → bit w.toNat 9 = true → exec (.argx e .ok false) s =
       .next (veEnd e (VeRun.each (List.range (fld w 48 16 + 1))
         (fun j v => argxOne e w j ((List.range (fld w 32 16 + 1)).map (fun r => (r, j))) s v) { s := s }))) ∧
     (issueOf s e [0x51] = some w → bit w.toNat 9 = false → exec (.argx e .ok false) s =
       .next (veEnd e (VeRun.each (List.range (fld w 32 16 + 1))
         (fun r v => argxOne e w r ((List.range (fld w 48 16 + 1)).map (fun j => (r, j))) v.s v) { s := s }))) ∧
     (issueOf s e [0x52] = some w →
       let n := fld (descWord s e (fld w 12 10) 2) 0 16 + 1
       let data := VeRun.gather (fun i v => sketchRead s e (fld w 12 10) i v) (List.range n) { s := s }
       let excl := if bit w.toNat 57 then VeRun.gather (fun i v => bitRead s e (fld w 12 10 + 1) 0 i v) (List.range n) data.2
         else ([], data.2)
       let qs := VeRun.gather (fun q v => sketchRead s e (fld w 22 10) q v) (List.range (fld w 8 3 + 1)) excl.2
       let list := (List.range n).map (fun i => (i, data.1.getD i 0, excl.1.getD i false))
       exec (.hsel e .ok false) s = .next (veEnd e (VeRun.each (List.zip (List.range (fld w 8 3 + 1)) qs.1) (fun x v =>
         let recs := hselRecords (fld w 42 8 + 1) (fld w 50 7) list x.2
         VeRun.each (List.zip (List.range recs.length) recs) (fun ir v => slotWrite e (fld w 32 10) x.1 ir.1 ir.2 v) v) qs.2))) ∧
     (engClass e = 1 → engValid e = true → ((seqOf s e).st = .running ∨ (seqOf s e).st = .waiting) → exec (.veEccFatal e) s =
       .next (engineFatal 0x6202 e [] (modBadger e (fun b => { b with eccFatal := true }) s))))

/-- The records of an HSEL query (R160): exactly k of them, in ascending distance; each record of a found sketch names an accepted sketch
within the bound by its Hamming distance to the query, and a sketch within the bound is left out only where k records are. -/
def Obligations.HselRecordsAreTheNearest : Prop :=
  ∀ (k maxDist q : Nat) (sk : List (Nat × Nat × Bool)),
    let recs := hselRecords k maxDist sk q
    recs.length = k ∧ recs.Pairwise (fun a b => a / 2 ^ 16 % 256 ≤ b / 2 ^ 16 % 256) ∧
    (∀ r, r ∈ recs → r ≠ selInvalid → ∃ x, x ∈ sk ∧ x.2.2 = false ∧ popcount (x.2.1 ^^^ q) ≤ maxDist ∧
      r = selRecord x.1 (popcount (x.2.1 ^^^ q))) ∧
    (∀ x, x ∈ sk → x.2.2 = false → popcount (x.2.1 ^^^ q) ≤ maxDist →
      selRecord x.1 (popcount (x.2.1 ^^^ q)) ∈ recs ∨ selInvalid ∉ recs)

/-- Scalar memory instructions of a fox core on its own scratchpad (R171, R172, R230): with the access passing R560's checks, a load writes
the loaded value to rd, a store and SDF write the bytes, an AMO and FADDA perform their operation and return the old value; each retires and
goes on, and x0 discards what it is given. The instruction encodings are those of log entry 12.

Load-reserved and store-conditional (R174): LR reads a line the L1 holds and reserves it; SC to the reserved line that the L1 holds
exclusively stores, returns 0 and gives the reservation up; an SC without that reservation stores nothing and returns 1; outside the cached
lines both trap. With aq an atomic, an LR or an SC acts as a FENCE r,rw after it.

Fences and CSRs (R170, R175, R220): FENCE with a predecessor waits for every earlier access of the core and issues the read-back its host stores
need, FENCE.I has no effect; a CSR
instruction returns the old value and changes only a CSR that can be written, and a write of the read-only ones is an illegal instruction. -/
def Obligations.FoxMemoryInstructions : Prop :=
  (∀ (s : State) (e : Nat) (i : FoxIns) (a : Word64),
     let c := foxOf s e
     let h := hallAddr a
     let n := memBytes (f3 i.w)
     let next := (seqOf s e).pc + i.len
     let aq := fun s => if bit i.w 26 then foxReadback e (modFox e (fun c => { c with acquired := true }) s) else s
     h.space = 0 → isRemote s h = false → (∀ n, behindTsig s e h n = false) →
     (foxIns s e .load = some i → i.w % 128 = 0x03 → f3 i.w ≠ 7 → a = c.rx (fRs1 i.w) + i64 (immI i.w) →
       foxCheck s e a n false true = none → poisoned s .sp h.off n = false →
       exec (.fcLoad e .ok []) s = .next (foxRetire e next (modFox e
         (fun c => c.wx (fRd i.w) (loadValue (f3 i.w) (readStore s .sp h.off n))) s))) ∧
     (foxIns s e .store = some i → i.w % 128 = 0x23 → f3 i.w ≤ 3 → a = c.rx (fRs1 i.w) + i64 (immS i.w) →
       foxCheck s e a n true true = none →
       exec (.fcStore e) s = .next (foxRetire e next (modFox e (fun c => c)
         (writeStore .sp h.off (leBytes n (c.rx (fRs2 i.w)).toNat) s)))) ∧
     (foxIns s e .sdf = some i → f7 i.w = 0 → a = c.rx (fRs1 i.w) → foxCheck s e a 8 true true = none → h.off % 8 = 0 →
       exec (.sdf e) s = .next (foxRetire e next (modFox e (fun c => c)
         (writeStore .sp h.off (leBytes 8 (c.rx (fRs2 i.w)).toNat) s)))) ∧
     (∀ op, foxIns s e .amo = some i → amoOp (bits i.w 27 5) = some op → op ≠ 11 → f3 i.w = 2 ∨ f3 i.w = 3 → bit i.w 25 = false →
       a = c.rx (fRs1 i.w) → accessStage s e a n 1 true (amoMay s h op (f3 i.w - 2)) = none → h.off % n = 0 → poisoned s .sp h.off n = false →
       let old := leVal (readStore s .sp h.off n)
       exec (.fcAmo e) s = .next (aq (foxRetire e next (modFox e (fun c => c.wx (fRd i.w) (if f3 i.w = 2 then sx32 old else w64 old))
         (setStore .sp ((storeOf s .sp).writeBytes h.off (leBytes n
           (atomResult op (f3 i.w - 2) old (c.rx (fRs2 i.w)).toNat (c.rx (fRs2 i.w)).toNat))) s))))) ∧
     (foxIns s e .fadda = some i → f7 i.w ≤ 1 → a = c.rx (fRs1 i.w) →
       let m := elemBytes (2 + f7 i.w)
       accessStage s e a m 1 true (amoMay s h 7 (2 + f7 i.w)) = none → h.off % m = 0 → poisoned s .sp h.off m = false →
       exec (.fadda e) s = .next (foxRetire e next (modFox e
         (fun c => c.wx (fRd i.w) (w64 (leVal (readStore s .sp h.off m))))
         (setStore .sp ((storeOf s .sp).writeBytes h.off (leBytes m
           (atomResult 7 (2 + f7 i.w) (leVal (readStore s .sp h.off m)) (c.rx (fRs2 i.w)).toNat 0))) s))))) ∧
  (∀ (s : State) (e : Nat) (i : FoxIns),
     let c := foxOf s e
     let a := c.rx (fRs1 i.w)
     let h := hallAddr a
     let n := memBytes (f3 i.w)
     let k := l1Key (addrDev s h) (h.off / 64)
     let l := l1Of s e k
     let next := (seqOf s e).pc + i.len
     let aq := fun s => if bit i.w 26 then foxReadback e (modFox e (fun c => { c with acquired := true }) s) else s
     f3 i.w = 2 ∨ f3 i.w = 3 → bit i.w 25 = false → behindTsig s e h n = false →
     (foxIns s e .lr = some i → fRs2 i.w = 0 → accessStage s e a n 1 false (accMay s h n false 0) = none → cachedAt s h = true → h.off % n = 0 →
       l.state = .shared ∨ l.state = .excl ∨ l.state = .modif → l.poison = false →
       exec (.fcLr ⟨e, .ok⟩) s = .next (aq (foxRetire e next (modFox e
         (fun c => c.wx (fRd i.w) (loadValue (f3 i.w) (slice l.data (h.off % 64) n)))
         (modFox e (fun c => { c with reservation := some k }) s))))) ∧
     (foxIns s e .sc = some i → accessStage s e a n 1 true (accMay s h n true 0) = none → cachedAt s h = true → h.off % n = 0 →
       c.reservation = some k → l.state = .excl ∨ l.state = .modif →
       exec (.fcSc e) s = .next (aq (foxRetire e next (modFox e (fun c => c.wx (fRd i.w) 0) (modFox e (fun c => { c with reservation := none })
         (setL1 e k { l with state := .modif, data := lineWrite l.data (h.off % 64) (leBytes n (c.rx (fRs2 i.w)).toNat) } s)))))) ∧
     (foxIns s e .sc = some i → accessStage s e a n 1 true (accMay s h n true 0) = none → cachedAt s h = true → h.off % n = 0 →
       c.reservation ≠ some k →
       exec (.fcSc e) s = .next (aq (foxRetire e next (modFox e (fun c => c.wx (fRd i.w) 1)
         (modFox e (fun c => { c with reservation := none }) s))))) ∧
     (foxIns s e .lr = some i → fRs2 i.w = 0 → cachedAt s h = false → exec (.fcLr ⟨e, .ok⟩) s = .next (foxTrap e 5 a.toNat s)) ∧
     (foxIns s e .sc = some i → cachedAt s h = false → exec (.fcSc e) s = .next (foxTrap e 7 a.toNat s))) ∧
  (∀ (s : State) (e : Nat) (i : FoxIns),
     let c := foxOf s e
     let n := bits i.w 20 12
     let next := (seqOf s e).pc + i.len
     (foxIns s e .fence = some i → f3 i.w = 1 → exec (.fcFence e) s = .next (foxRetire e next s)) ∧
     (foxIns s e .fence = some i → f3 i.w = 0 → bits i.w 24 4 ≠ 0 → foxDrained s e = false →
       exec (.fcFence e) s = .next (foxReadback e s)) ∧
     (foxIns s e .fence = some i → f3 i.w = 0 → bits i.w 24 4 ≠ 0 → foxDrained s e = true →
       exec (.fcFence e) s = .next (foxRetire e next s)) ∧
     (∀ old, foxIns s e .csr = some i → csrRead s e n = some old → f3 i.w = 1 → n < 0xC00 → exec (.fcCsr e) s =
       .next (foxRetire e next (modFox e (fun d => (csrWrite d n (c.rx (fRs1 i.w)).toNat).wx (fRd i.w) old) s))) ∧
     (∀ old, foxIns s e .csr = some i → csrRead s e n = some old → f3 i.w = 2 → fRs1 i.w = 0 → n ≠ 0xC00 → exec (.fcCsr e) s =
       .next (foxRetire e next (modFox e (fun c => c.wx (fRd i.w) old) s))) ∧
     (∀ old, foxIns s e .csr = some i → csrRead s e n = some old → f3 i.w = 1 → 0xC00 ≤ n →
       exec (.fcCsr e) s = .next (foxTrap e 2 i.raw s)) ∧
     csrRead s e 0xCC0 = some (w64 e) ∧ csrRead s e 0xCC1 = some (w64 s.run.phase) ∧ csrRead s e 0xC02 = some (w64 c.instret) ∧
     csrRead s e 0xCC2 = some (w64 (SMap.get 0 s.run.passes s.run.phase)))

/-- Computing instructions and traps (R167, R179): an integer, float or vector instruction changes only its core and retires; an illegal
instruction, leaving the code, EBREAK and an unknown service end the program as faulted, set FC_FAULT.trap and change no memory. What each
RISC-V instruction computes is that of log entry 12.

The integer arithmetic of a fox core (R167; log entry 12): x0 reads zero and discards writes, ADD and SUB wrap, SLL takes the shift
modulo 64, division by zero answers all ones and the dividend, and a taken branch goes to pc plus its offset. -/
def Obligations.FoxArithmeticAndTraps : Prop :=
  (∀ (s : State) (e : Nat) (i : FoxIns) (c' : Fox) (next : Nat),
     let c := foxOf s e
     let pc := (seqOf s e).pc
     (foxIns s e .compute = some i → i.w % 128 ∈ [0x33, 0x13, 0x3B, 0x1B, 0x37, 0x17, 0x6F, 0x67, 0x63] →
       rvInt c pc (pc + i.len) i.w = some (c', next) →
       exec (.fcCompute e) s = .next (foxRetire e next (modFox e (fun _ => c') s))) ∧
     (foxIns s e .compute = some i → i.w % 128 ∈ [0x43, 0x47, 0x4B, 0x4F, 0x53] → rvFloat c (pc + i.len) i.w = some (c', next) →
       exec (.fcCompute e) s = .next (foxRetire e next (modFox e (fun _ => c') s))) ∧
     (foxIns s e .compute = some i → i.w % 128 = 0x57 → rvVec c (pc + i.len) i.w = some (c', next) →
       exec (.fcCompute e) s = .next (foxRetire e next (modFox e (fun _ => c') s))) ∧
     (foxRuns s e = true → foxFetch s e = .fault → exec (.fcCompute e) s = .next (foxTrap e 1 pc s)) ∧
     (foxIns s e .compute = some i → i.w = 0x00100073 → exec (.fcCompute e) s = .next (foxTrap e 3 pc s)) ∧
     (∀ r, foxRuns s e = true → foxFetch s e = .illegal r → exec (.fcCompute e) s = .next (foxTrap e 2 r s)) ∧
     (∀ cause tval, (foxTrap e cause tval s).mem = s.mem ∧ (seqOf (foxTrap e cause tval s) e).st = .faulted ∧
       (foxOf (foxTrap e cause tval s) e).trap = true)) ∧
  (∀ (c : Fox) (pc next w : Nat) (a b : Word64), a = c.rx (fRs1 w) → b = c.rx (fRs2 w) →
     c.rx 0 = 0 ∧ (∀ v, c.wx 0 v = c) ∧
     (∀ r v, r ≠ 0 → SMap.wf 0 c.x = true → (c.wx r v).rx r = v ∧ ∀ r', r' ≠ r → (c.wx r v).rx r' = c.rx r') ∧
     (w % 128 = 0x33 → f7 w = 0 → f3 w = 0 → rvInt c pc next w = some (c.wx (fRd w) (a + b), next)) ∧
     (w % 128 = 0x33 → f7 w = 32 → f3 w = 0 → rvInt c pc next w = some (c.wx (fRd w) (a - b), next)) ∧
     (w % 128 = 0x33 → f7 w = 0 → f3 w = 1 → rvInt c pc next w = some (c.wx (fRd w) (a <<< (b.toNat % 64)), next)) ∧
     (w % 128 = 0x33 → f7 w = 1 → f3 w = 4 → b = 0 → rvInt c pc next w = some (c.wx (fRd w) (BitVec.allOnes 64), next)) ∧
     (w % 128 = 0x33 → f7 w = 1 → f3 w = 6 → b = 0 → rvInt c pc next w = some (c.wx (fRd w) a, next)) ∧
     (w % 128 = 0x33 → f7 w = 1 → f3 w = 0 → rvInt c pc next w = some (c.wx (fRd w) (a * b), next)) ∧
     (w % 128 = 0x63 → f3 w = 0 → rvInt c pc next w = some (c, if a = b then (i64 ((pc : Int) + immB w)).toNat else next)) ∧
     (w % 128 = 0x6F → rvInt c pc next w = some (c.wx (fRd w) (w64 next), (i64 ((pc : Int) + immJ w)).toNat)) ∧
     (f3 w = 7 → w % 128 = 0x03 → rvInt c pc next w = none))

/-- The device instructions of a fox core (R171, R178, R180, R181): FEND ends a program whose accesses are done; TSIG queues its add; TWAIT
writes 0 at a target that is met, 1 at an error bit, and else waits; TERRT names the error tally; PRM reads a PARAM word and answers zero
with FC_PARAM_RANGE beyond them; the services log at most 16 entries a phase and yield. -/
def Obligations.FoxDeviceInstructions : Prop :=
  ∀ (s : State) (e : Nat) (i : FoxIns),
    let c := foxOf s e
    let a := c.rx (fRs1 i.w)
    let t := (hallAddr a).off / 32
    let next := (seqOf s e).pc + i.len
    let n := (c.rx (fRs2 i.w)).toNat
    let faulted := fun (code : Nat) => modFox e (fun c => { c with operandFault := true }) (addrFault code e a s)
    (foxIns s e .fend = some i → i.w = 0x0B → exec (.fend e) s = .next (settle e (modSeq e
      (fun q => { q with ending := true }) (foxReadback e (modFox e (fun c => { c with instret := c.instret + 1 }) s))))) ∧
    (foxIns s e .tsig = some i → f7 i.w = 0 → tallyCheck s e a false = none → exec (.tsig e) s = .next (foxRetire e next
      (modSeq e (fun q => { q with signals := q.signals ++
        [{ issue := q.issued, tally := t, n := n, addr := if isRemote s (hallAddr a) then some a else none }] }) (foxReadback e s)))) ∧
    (foxIns s e .twait = some i → f7 i.w = 0 → tallyCheck s e a true = none → (tallyOf s t).error = true ∨ n ≤ (tallyOf s t).count →
      exec (.twait e) s = .next (foxRetire e next (setX e (fRd i.w) (if (tallyOf s t).error then 1 else 0)
        (modFox e (fun c => { c with lastTally := some t }) s)))) ∧
    (foxIns s e .twait = some i → f7 i.w = 0 → tallyCheck s e a true = none → (tallyOf s t).error = false → (tallyOf s t).count < n →
      exec (.twait e) s = .next (modFox e (fun c => { c with instret := c.instret + 1 }) (modSeq e (fun q => { q with
        st := .waiting, wait := some { tally := t, target := n, rd := some (fRd i.w) } })
        (modFox e (fun c => { c with lastTally := some t }) s)))) ∧
    (∀ code, foxIns s e .twait = some i → f7 i.w = 0 → tallyCheck s e a true = some code →
      exec (.twait e) s = .next (let u := faulted code; foxRetire e ((seqOf u e).pc + i.len) (setX e (fRd i.w) 1 u))) ∧
    (foxIns s e .terrt = some i → f7 i.w = 0 → tallyCheck s e a true = none → exec (.terrt e) s =
      .next (foxRetire e next (modSeq e (fun q => { q with errTally := t }) s))) ∧
    (∀ p, foxIns s e .prm = some i → f7 i.w = 0 → progOf s e = some p → a.toNat < p.paramWords →
      exec (.prm e) s = .next (foxRetire e next (setX e (fRd i.w) (paramAt s e a.toNat) s))) ∧
    (foxIns s e .ecallLog = some i → c.userLogged < 16 → exec (.ecallLog e) s = .next (modSeq e (fun q => { q with pc := q.pc + 4 })
      (logEvent 0x6320 e [(2, e), (8, (c.rx 10).toNat)] (modFox e (fun c => { c with userLogged := c.userLogged + 1 }) s)))) ∧
    (foxIns s e .ecallLog = some i → 16 ≤ c.userLogged → exec (.ecallLog e) s = .next (modSeq e (fun q => { q with pc := q.pc + 4 })
      (modFox e (fun c => { c with userDrops := satAdd 64 c.userDrops 1 }) s))) ∧
    (foxIns s e .ecallYield = some i → exec (.ecallYield e) s =
      .next (modFox e (fun c => { c with yielding := true }) (modSeq e (fun q => { q with pc := q.pc + 4 }) s))) ∧
    exec (.yieldEnd e) s = .next (modFox e (fun c => { c with yielding := false }) s) ∧
    (engClass e = 2 → engValid e = true → (seqOf s e).st = .running ∨ (seqOf s e).st = .waiting → exec (.fcEccFatal e) s =
      .next (engineFatal 0x6311 e [] (modFox e (fun c => { c with eccFatal := true, busy := false, pos := 0 }) s)))

/-- COPY, GATHER and FILL at issue (R199, R200, R203, R207, R250): a hare with four copies in progress, or whose last copy still reads, holds
the instruction; else it resolves its addresses with the index register, goes on and starts the copy, or refuses it where its domain is down;
a staged COPY goes to its slot.

A copy's progress (R202, R203, R205, R207, R208): the next chunk of a scratchpad copy within the device is read, performed and posted; a
copy that has stopped or sent everything does nothing more; a read-back posts what it covers; and a copy whose domain drains too long stops
with its record and both error bits. -/
def Obligations.HareCopies : Prop :=
  (∀ (s : State) (e : Nat) (w : Word64),
     let c := resolveCopy s e w
     let start := startCopy e c (nextPc e s)
     (issueOf s e [0x60] = some w → bit w.toNat 9 = false → hareFree s e = false → exec (.copy e .ok) s = .next s) ∧
     (issueOf s e [0x60] = some w → bit w.toNat 9 = false → hareFree s e = true → copyDown s c = none → c.mcast = none →
       exec (.copy e .ok) s = .next start) ∧
     (∀ d, issueOf s e [0x60] = some w → bit w.toNat 9 = false → hareFree s e = true → copyDown s c = some d →
       exec (.copy e .ok) s = .next (refuseDown e c d (nextPc e s))) ∧
     (issueOf s e [0x60] = some w → bit w.toNat 9 = true → exec (.copy e .ok) s = .next (issueStaged e w s)) ∧
     (issueOf s e [0x61] = some w → hareFree s e = true → copyDown s c = none → c.mcast = none → exec (.gather e) s = .next start) ∧
     (issueOf s e [0x62] = some w → hareFree s e = true → copyDown s c = none → c.mcast = none → exec (.fill e) s = .next start) ∧
     (∀ i, engClass e = 5 → domDown s (16 + engDie e) = true → (SMap.get {} s.units.ppe (engDie e)).load.map (·.1) = some i →
       exec (.ceDrainCut e i) s = .next (cutMload (engDie e) s)) ∧
     c.dst = addrPlus (hareSlot s e (fld w 10 10) 1)
       ((xreg s e (fld (hareSlot s e (fld w 10 10) 7) 0 4) : Int) * sext 32 (fld (hareSlot s e (fld w 10 10) 6) 32 32))) ∧
  (∀ (s : State) (e i : Nat) (c : CopyRec), copyOf s e i = some c →
     let pos := c.sent
     let n := c.chunkEnd pos - pos
     let a := hallAddr (c.srcAt pos)
     (c.stopped = true ∨ c.total ≤ c.sent → exec (.chunkPerformed e i (.ok, .ok) (.data [])) s = .next s) ∧
     (c.stopped = false → c.sent < c.total → behindCopy s e c = false → c.kind = .copy → srcRemoteOf s c = false → dstRemoteOf s c = false →
       hostSourced c = false → a.space = 0 → (hallAddr (c.dstAt pos)).space = 0 → copyStage s e c pos n = none →
       exec (.chunkPerformed e i (.ok, .ok) (.data [])) s = .next (copySettle e i (landed e i pos n
         (modCopy e i (fun c => { c with sent := c.sent + n })
           (localWrite e c (c.dstAt pos) (readStore s .sp a.off n) (poisoned s .sp a.off n) s))))) ∧
     (c.stopped = false → c.sent < c.total → behindCopy s e c = false → c.kind = .fill → dstRemoteOf s c = false →
       (hallAddr (c.dstAt pos)).space = 0 → copyStage s e c pos n = none →
       exec (.chunkPerformed e i (.ok, .ok) (.data [])) s = .next (copySettle e i (landed e i pos n
         (modCopy e i (fun c => { c with sent := c.sent + n })
           (localWrite e c (c.dstAt pos) ((List.replicate (n / 8 + 1) (leBytes 8 c.src.toNat)).flatten.take n) false s))))) ∧
     (∀ upto rest, c.readbacks = upto :: rest →
       let u := modHare e (fun h => { h with outstanding := h.outstanding - 1 }) s
       exec (.hostReadbackDone e i 0) s =
         .next (copySettle e i (postUpto e i upto (modCopy e i (fun c => { c with readbacks := rest }) u))) ∧
       ∀ st, st ≠ 0 → exec (.hostReadbackDone e i st) s = .next (hostErrorCopy e c (c.dstAt (upto - 1) &&& ~~~3#64) st u)) ∧
     (∀ d, engClass e ≠ 5 → copyDown s c = some d → exec (.ceDrainCut e i) s = .next (stopCopy e i (copyErrors e c 0x9021
       (modHare e (fun h => { h with domainDown := true }) (logEvent 0x9021 e [(2, e), (4, c.index), (4, d)] s))))))

/-- Staging (R245, R249, R251, R252): SOPEN, SPUB and SRES take their slots or candidates in ascending order from where they stand; SCAN
cancels its slots and goes on; a cancelled slot is free with a new generation, so later staged data is dropped; a run-ahead copy ends as done
with its data staged, or fails silently.

The scrubs (R210, R211, R214, R215): a line that is right changes nothing; a single-bit error is corrected in place, counted and recorded
once a phase; the last line of a die's SP pass counts a pass; a patrol runs only on a trained stack with its patrol enabled, and its last line
ends the pass. The data of no store changes. -/
def Obligations.StagingAndScrub : Prop :=
  (∀ (s : State) (e : Nat) (w : Word64),
     (issueOf s e [0x64] = some w → exec (.sopen e) s = .next (sopenLoop e w 1026 s)) ∧
     (issueOf s e [0x65] = some w → exec (.spub e) s = .next (spubLoop e w 1026 s)) ∧
     (issueOf s e [0x67] = some w → exec (.scan e) s =
       .next (nextPc e (forEach (List.range (fld w 30 10 + 1)) (fun i s =>
         if fld w 20 10 + i < 1024 ∧ stgMine s e (stgKey (engDie e) (fld w 20 10 + i)) = true
         then cancelStg (engDie e) (stgKey (engDie e) (fld w 20 10 + i)) s else stagingFault e 0x6501 (fld w 20 10 + i) s) s))) ∧
     (issueOf s e [0x66] = some w → (hareOf s e).sres = none → sresWaits s e w = true → exec (.sres e) s = .next s) ∧
     (issueOf s e [0x66] = some w → (hareOf s e).sres = none → sresWaits s e w = false → exec (.sres e) s = .next (sresStart e w s)) ∧
     (issueOf s e [0x66] = some w → (hareOf s e).sres ≠ none → exec (.sres e) s = .next (sresLoop e w (sresArgs s e w) 258 s)) ∧
     (∀ die k, (stgOf (cancelStg die k s) k).opened = false ∧ (stgOf (cancelStg die k s) k).gen = (stgOf s k).gen + 1 ∧
       (cancelStg die k s).mem = s.mem ∧ ∀ k', k' ≠ k → stgOf (cancelStg die k s) k' = stgOf s k') ∧
     (∀ die n host u, (stgOf s (stgKey die n)).run = .flight → (stgOf s (stgKey die n)).flight = 0 →
       (∀ p, p ∈ (stgOf s (stgKey die n)).parts →
         isRemote s (hallAddr p.src) = false ∧ downAt s p.src = none ∧ localReady s p.src p.len false = true) →
       exec (.runaheadCopyDone die n false host) s = .next (failRun die (stgKey die n) s) ∧
       (runLocal (stgKey die n) host s (stgOf s (stgKey die n)).parts 0 = some u →
         exec (.runaheadCopyDone die n true host) s = .next (modStg (stgKey die n) (fun g => { g with run := .done }) u)))) ∧
  (∀ (s : State) (a k : Nat),
     (a < 2 ^ 35 → domDark s (domainOf .sp a) = false →
       exec (.spScrubStep a .ok false) s = .next s ∧
       exec (.spScrubStep a .ok true) s = .next (modEcc .sp a (fun r => { r with passes := satAdd 32 r.passes 1 }) s) ∧
       Yields (.spScrubStep a (.corrected k) false) s (fun t => t.mem.sp = s.mem.sp ∧ t.mem.hbm = s.mem.hbm ∧ t.mem.cs = s.mem.cs ∧
         t = { s with mem := t.mem, log := t.log, msix := t.msix, hub := t.hub } ∧
         t.mem.ecc = (modEcc .sp ((a + k) / 64 * 64) (fun r => { r with corrected := satAdd 32 r.corrected 1 }) s).mem.ecc)) ∧
     (a < 2 ^ 29 → exec (.csScrubStep a .ok false) s = .next s ∧ exec (.csScrubStep a .ok true) s = .next s) ∧
     (a < 2 ^ 40 → (SMap.get {} s.mem.hbmc (a / 2 ^ 36)).trained = true → (SMap.get {} s.mem.hbmc (a / 2 ^ 36)).patrol = true →
       ∀ last, exec (.hbmPatrol a .ok last) s = .next { s with mem := { s.mem with
         hbmc := SMap.modify {} s.mem.hbmc (a / 2 ^ 36) (fun h => { h with patrolBusy := !last }) } }) ∧
     ((SMap.get {} s.mem.hbmc (a / 2 ^ 36)).trained = false → ∀ x last, exec (.hbmPatrol a x last) s = .next s))

/-- The commands of a context's control word (R235, R238, R240): APPEND accepts n positions of an open context within its limit and queues
them; a bad count or state is 0x6401 and beyond the limit is 0x6403, each faulting the context; OPEN opens a valid closed context once the bytes
of its exclusion row that change are written, and faults where they are refused; CLOSE closes once nothing is queued, and commands behind a
pending CLOSE wait for it; RESET empties; and a context that is not allocated refuses every store.

Stores to a context (R70, R235, R236, R238): one wholly within the fields a program sets writes them, and one that touches a field only
the stream unit writes, or any byte but the projection table's address while the context is open, is refused and changes no context.

Serving appends (R240, R242, R244, R254, R256, R258): the oldest append of an analog context is sketched position by position and posted
once performed; while a calibration window is open, or the mesh cannot sketch, it is held; a context whose domain is down faults; a digital
context's jobs sketch up to 16 keys. -/
def Obligations.StreamsAndContexts : Prop :=
  (∀ (s : State) (e c n : Nat),
     let x := ctxOf s c
     n < 512 →
     (x.alloc = true → x.closing = true → exec (.streamAppend e c n) s =
       .next (modCtx c (fun x => { x with later := x.later ++ [1 + n * 2 ^ 16] }) s)) ∧
     (x.alloc = true → x.closing = false → x.state = 1 → 0 < n → n ≤ 256 → x.length + n ≤ x.limit → exec (.streamAppend e c n) s = .next
       (modStr (ctxDie c) (fun d => { d with appends := satAdd 64 d.appends 1 })
         (modCtx c (fun x => { (x.put 0x00 3 (x.length + n)) with queue := x.queue ++ [(x.length, n)] }) s))) ∧
     (x.alloc = true → x.closing = false → x.state ≠ 1 ∨ n = 0 ∨ 256 < n → exec (.streamAppend e c n) s = .next (ctxFault c 0x6401 x.length true s)) ∧
     (x.alloc = true → x.closing = false → x.state = 1 → 0 < n → n ≤ 256 → x.limit < x.length + n →
       exec (.streamAppend e c n) s = .next (ctxFault c 0x6403 x.length true s)) ∧
     (∀ u, x.alloc = true → x.closing = false → x.state = 0 → ctxValid s c = true →
       rowWrite c (x.fld 0x30 8) (rowChanges s x) s = .ok u →
       exec (.streamOpen e c) s = .next (modCtx c (fun x => x.put 0x08 1 1) u)) ∧
     (∀ g, x.alloc = true → x.closing = false → x.state = 0 → ctxValid s c = true →
       rowWrite c (x.fld 0x30 8) (rowChanges s x) s = .error g →
       exec (.streamOpen e c) s = .next (keyFault c x.length g.1 (spAddr (g.2 : Nat)) s)) ∧
     (x.alloc = true → x.closing = false → x.state ≠ 0 → exec (.streamOpen e c) s = .next (ctxFault c 0x6401 x.length false s)) ∧
     (x.alloc = true → x.closing = false → x.state = 0 → ctxValid s c = false → exec (.streamOpen e c) s = .next (ctxFault c 0x6402 x.length false s)) ∧
     (x.alloc = true → x.closing = false → x.state = 1 ∨ x.state = 2 → x.queue = [] →
       exec (.streamClose e c) s = .next (modCtx c (fun x => x.put 0x08 1 0) s)) ∧
     (x.alloc = true → x.closing = false → x.state = 1 ∨ x.state = 2 → x.queue ≠ [] →
       exec (.streamClose e c) s = .next (modCtx c (fun x => { x with closing := true }) s)) ∧
     (x.closing = true → x.queue = [] →
       exec (.closeComplete c) s = .next (ctxLater c x.later
         (modCtx c (fun x => { (x.put 0x08 1 0) with closing := false, later := [] }) s))) ∧
     (x.alloc = true → x.closing = false → x.state = 0 ∨ x.state = 2 → exec (.streamReset e c) s = .next (modCtx c (fun x =>
       { (((((x.put 0x00 4 0).put 0x04 4 0).put 0x80 64 0).put 0xC0 8 0).put 0x08 1 0) with queue := [] }) s)) ∧
     (x.alloc = false → exec (.streamAppend e c n) s = .next (ctxRefuse e c 0xF8 s) ∧
       exec (.streamReset e c) s = .next (ctxRefuse e c 0xF8 s))) ∧
  (∀ (s : State) (e c off : Nat) (d : List Byte),
     let x := ctxOf s c
     let own := ((List.range d.length).map (· + off)).any ctxOwned
     (x.alloc = true → x.state ≠ 1 → 0 < d.length → 0x0A ≤ off → off + d.length ≤ 0x80 →
       exec (.contextStore e c off d) s = .next (modCtx c (fun x => ctxBytes x off d) s)) ∧
     (x.alloc = true → off + d.length ≤ 0xF8 → own = true → exec (.contextStore e c off d) s = .next (ctxRefuse e c off s)) ∧
     (x.alloc = true → x.state = 1 → 0 < d.length → 0x0A ≤ off → off + d.length ≤ 0x60 →
       exec (.contextStore e c off d) s = .next (ctxRefuse e c off s)) ∧
     (x.alloc = true → off = 0xF8 → d.length = 8 → exec (.contextStore e c off d) s = .next (ctxReach c (leVal d) s)) ∧
     (∀ c', ctxOf (ctxRefuse e c off s) c' = ctxOf s c') ∧ (ctxRefuse e c off s).mem = s.mem) ∧
  (∀ (s : State) (c p n : Nat) (rest : List (Nat × Nat)),
     let x := ctxOf s c
     x.queue = (p, n) :: rest →
     (ctxDown s c = true → exec (.appendServe c .ok) s = .next (ctxFault c 0x6405 x.sketched false s)) ∧
     (ctxDown s c = false → x.digital = false → appendsHeld s c = true → x.sketched < p + n →
       exec (.appendServe c .ok) s = .next s) ∧
     (ctxDown s c = false → x.digital = false → appendsHeld s c = false →
       exec (.appendServe c .ok) s = .next (postAppend c (serveTo c (p + n) .ok n s))) ∧
     (ctxDown s c = false → x.digital = true → p + n ≤ x.sketched → x.flight = 0 → exec (.appendServe c .ok) s =
       .next (tallyAdd (x.fld 0x0E 2) n (ctxEngine c) (modCtx c (fun x => { x with queue := rest }) s))) ∧
     (ctxDown s c = false → x.digital = true → exec (.digitalSketchJob c .ok) s = .next (serveTo c (p + n) .ok 16 s)) ∧
     (x.digital = false → exec (.digitalSketchJob c .ok) s = .next s))

/-- A projection engine's instructions (R265 to R268, R271, R280): MLOAD of a good matrix begins its placing and its completion puts the mesh
in service; a refused one leaves the mesh EMPTY; with the mesh in the right state SKETCH and MVM take their vectors in order, and in another
state they write zeros, set mesh_fault and record; while the mesh loads or recalibrates an instruction waits.

Calibration of a projection engine (R274 to R276, R281): each channel measured gives the spare role to it and moves on; the first that
fails takes the spare for good and a second is fatal; a full recalibration that reaches its bounds puts the record back, and one that does
not is fatal; an overdue one is recorded once. -/
def Obligations.ProjectionEngine : Prop :=
  (∀ (s : State) (e : Nat) (w : Word64),
     let m := (ppeOf s (engDie e)).mesh
     let d := fld w 8 10
     let o := fld w 18 10
     let n := if bit w.toNat 28 then 128 else 64
     let vec := fun (len : Nat) => ({ base := descBase s e d, stride := descStride s e d, count := fld w 32 24 + 1, len := len } : Rows)
     let key := vec (rowLen (descFmt s e d) n)
     domDown s (16 + engDie e) = false →
     (issueOf s e [0x70] = some w → m ≠ .loading → m ≠ .recal → s.frozen = true →
       let rows : Rows := { base := descBase s e d, stride := descStride s e d, count := 64, len := 256 }
       let mat := (List.range 64).map (fun i => unpack 0x12 64 (rows.bytes s i))
       let mode := ((progOf s e).map (·.mode)).getD 0
       firstRefused (rows.checks s e true) = none → rows.poison s = false →
       (badMatrix mat = false → exec (.mload e .ok) s = .next (nextPc e (issueOpen e (modPpe (engDie e) (fun p => { p with
         mesh := .loading, record := none
         load := some ((seqOf s e).issued, { w := mat, fold := if mode = 0 then descWord s e d 2 else 0, mode := mode }) }) s)))) ∧
       (badMatrix mat = true → exec (.mload e .ok) s =
         .next (mloadRefused e 0x7A01 (logEvent 0x7A01 e [(2, e), (4, (seqOf s e).pc)] s)))) ∧
     (issueOf s e [0x70] = some w → m ≠ .loading → m ≠ .recal → s.frozen = false → ((progOf s e).map (·.mode)).getD 0 = 1 →
       exec (.mload e .ok) s = .next (mloadRefused e 0x7A03 (logEvent 0x7A03 e [(2, e), (4, (seqOf s e).pc)] s))) ∧
     (∀ i r, engClass e = 5 → (ppeOf s (engDie e)).load = some (i, r) → exec (.mloadComplete e) s = .next (completeOp e i
       (modPpe (engDie e) (fun p => { p with mesh := meshOf (some r), record := some r, load := none }) s))) ∧
     (issueOf s e [0x71] = some w → m = .loading ∨ m = .recal → exec (.sketch e .ok) s = .next s) ∧
     (issueOf s e [0x71] = some w → m = .sketch → exec (.sketch e .ok) s = .next (ppeEnd e none
       ((List.range key.count).foldl (sketchOne e (descFmt s e d) key (descBase s e o) n false) { s := s }))) ∧
     (issueOf s e [0x71] = some w → m = .empty ∨ m = .frozen → exec (.sketch e .ok) s = .next (ppeEnd e (some m)
       ((List.range key.count).foldl (sketchOne e (descFmt s e d) key (descBase s e o) n true) { s := s }))) ∧
     (issueOf s e [0x72] = some w → m = .frozen → exec (.mvm e .ok) s = .next (ppeEnd e none
       ((List.range (vec 64).count).foldl (mvmOne e (fld w 29 3) (vec 64) (descBase s e o) (descStride s e o) false) { s := s }))) ∧
     (issueOf s e [0x72] = some w → m = .empty ∨ m = .sketch → exec (.mvm e .ok) s = .next (ppeEnd e (some m)
       ((List.range (vec 64).count).foldl (mvmOne e (fld w 29 3) (vec 64) (descBase s e o) (descStride s e o) true) { s := s })))) ∧
  (∀ (s : State) (k us c : Nat), k < 8 →
     let p := ppeOf s k
     let next := modPpe k (fun p => { p with turn := (p.turn + 1) % 130, chanCals := satAdd 32 p.chanCals 1 }) s
     let done := modPpe k (fun q => { q with
       mesh := meshOf q.record, overdue := false, lastRecal := s.time.hall.sec % 2 ^ 32
       recals := satAdd 16 q.recals 1, recalTemp := (sensorOf s (98 + 3 * k)).reading }) s
     let e := engId 5 k 0
     ((domOf s (16 + k)).st = .on ∨ (domOf s (16 + k)).st = .draining → p.spareUsed = false →
       exec (.ppeChannelCal k true) s = .next (modPpe k (fun q => { q with
         inSpare := if p.turn < 65 then p.turn else q.inSpare, outSpare := if p.turn < 65 then q.outSpare else p.turn - 65 }) next) ∧
       exec (.ppeChannelCal k false) s = .next (channelBad k p.turn next)) ∧
     (p.mesh = .recal →
       exec (.ppeRecalDone k true none us) s = .next (afterRecal (logEvent 0x7A10 e [(4, k), (4, p.cause), (8, us)] (calResults done))) ∧
       exec (.ppeRecalDone k false none us) s = .next (afterRecal (ppeFatal k 0x7A12 [(4, k)] done))) ∧
     (p.spareUsed = true → channelBad k c s = ppeFatal k 0x7A16 [(4, c)] s) ∧
     (p.overdue = false → domDown s (16 + k) = false → calPassed s k = true → Yields (.ppeCalOverdue k) s (fun t =>
       (ppeOf t k).overdue = true ∧ t.mem = s.mem ∧ t.eng = s.eng ∧ ∀ k', k' ≠ k → ppeOf t k' = ppeOf s k')))

/-- Laser feeds (R283 to R285): a failed tone check is recorded once and takes the feed out; a feed that is lost or low is recorded and, where
it was the active one, its healthy standby takes over with the switch counted and the tile in fail-over until its rings relock; the notice then
runs until its window ends; a restored feed is the standby, or the active feed where there was none.

Rings (R286 to R289, R291): a found sweep locks and a lock with its drive check passed is verified, after which a lane whose two rings are
verified acquires; a first wrong line sweeps the ring and a second marks it faulty; a ring not checked in time sweeps; a good tone check changes
nothing; and a verified spare on the right line takes the lane, the old ring becoming the spare where its loop-back passes. -/
def Obligations.LaserFeedsAndRings : Prop :=
  (∀ (s : State) (k line : Nat) (b : Bool) (avg low : Int),
     let f := feedOf s k b
     let lost := setFeed k b { f with ok := false, avg := avg, minLine := low } s
     (f.tones = true → exec (.toneCheck k b false line) s =
       .next (feedGone k b false (logEvent 0x7004 srcDevice [(4, k), (4, b2n b), (4, line)]
         (setFeed k b { f with tones := false, ok := false } s)))) ∧
     (f.tones = true → f.ok = feedHealthy f → f.ok = true → exec (.toneCheck k b true line) s = .next (setFeed k b f s)) ∧
     (f.ok = false → feedHealthy { f with tones := true } = true → exec (.toneCheck k b true line) s =
       .next (feedBack k b (logEvent 0x7006 srcDevice [] (setFeed k b { f with tones := true, ok := true } s)))) ∧
     exec (.laserFeedLost k b avg low) s = .next (feedGone k b true (logEvent 0x7001 srcDevice
       [(4, k), (8, powerBits (feedOf lost k false).avg), (8, powerBits (feedOf lost k true).avg)] lost)) ∧
     exec (.laserPowerLow k b avg low line) s =
       .next (feedGone k b false (logEvent 0x7005 srcDevice [(4, k), (4, b2n b), (4, line)] lost)) ∧
     (k < 8 → activeFeed s k = b2n b → feedUsable s k (!b) = true → Yields (.laserFeedLost k b avg low) s (fun t =>
       (tileOf t k).active = b2n (!b) ∧ (tileOf t k).failover = true ∧
       (tileOf t k).switches = satAdd 32 (tileOf s k).switches 1 ∧ t.mem = s.mem ∧ t.eng = s.eng)) ∧
     ((tileOf s k).failover = true → exec (.feedRelockDone k) s =
       .next (modTile k (fun t => { t with failover := false, notice := true }) s)) ∧
     exec (.noticeWindowEnd k) s = .next (modTile k (fun t => { t with notice := false }) s) ∧
     exec (.laserFeedRestored k b avg low) s =
       .next (feedBack k b (logEvent 0x7006 srcDevice [] (setFeed k b { ok := true, tones := true, avg := avg, minLine := low } s))) ∧
     (feedUsable s k b = false → feedBack k b s = s) ∧
     (feedUsable s k b = true → activeFeed s k = 2 → feedBack k b s = startFeed k b s) ∧
     (feedUsable s k b = true → activeFeed s k = b2n (!b) → feedUsable s k (!b) = true → feedBack k b s = s) ∧
     (feedUsable s k b = true → activeFeed s k = b2n (!b) → feedUsable s k (!b) = false → feedBack k b s = switchFeed k b s)) ∧
  (∀ (s : State) (port r k : Nat) (rx : Bool),
     let g := ringOf s port rx r
     (g.state = .sweeping → exec (.ringSweepDone port rx r true) s = .next (modRing port rx r (fun g => { g with state := .locked }) s) ∧
       exec (.ringSweepDone port rx r false) s = .next (ringWrong port rx r 3 s)) ∧
     (g.state = .tuning ∨ g.state = .locked →
       let u := modRing port rx r (fun g => { g with state := .verified }) s
       exec (.ringLock port rx r false) s = .next (ringWrong port rx r 0 s) ∧
       (laneOfRing u port rx r = none → exec (.ringLock port rx r true) s = .next u) ∧
       (laneOfRing u port rx r = some k → exec (.ringLock port rx r true) s = .next (laneAcquire k u))) ∧
     (g.state = .tuning → exec (.retuneTimeout port rx r) s = .next (modRing port rx r (fun g => { g with state := .sweeping }) s)) ∧
     (g.state = .verified → exec (.ringToneCheckDone port rx r true) s = .next s ∧
       (let t := tileOfPort port
         let b := activeFeed s t == 1
         let inUse := (laneOfRing s port rx r).any (fun k => laneLive (laneOf s k) 0 && decide ((laneOf s k).wrongIdent = 0))
         (inUse = false → exec (.ringToneCheckDone port rx r false) s = .next (ringWrong port rx r 1 s)) ∧
         (inUse = true → exec (.ringToneCheckDone port rx r false) s = .next (feedGone t b false
           (let v := logEvent 0x7004 srcDevice [(4, t), (4, activeFeed s t), (4, g.line)] s;
             setFeed t b { feedOf v t b with tones := false, ok := false } v))))) ∧
     (∀ check, g.fails = 0 → check ≠ 3 → (ringOf (ringWrong port rx r check s) port rx r).state = .sweeping ∧
       (ringOf (ringWrong port rx r check s) port rx r).fails = 1) ∧
     (let p := portOf s (lanePort k)
       let sp := if rx then p.rxSpare else p.txSpare
       let old := laneRing (laneOf s k) rx
       sp < 9 → old < 9 → (ringOf s (lanePort k) rx sp).state = .verified →
       (ringOf s (lanePort k) rx sp).line = (if rx then rxLine k else laneLine k) →
       let u := modPort (lanePort k) (fun p => if rx then { p with rxSpare := 15 } else { p with txSpare := 15 })
         (logEvent 0x7105 srcDevice [] (modLane k (fun l =>
           if rx then { l with rxRing := sp, repair := l.repair.map (fun x => { x with tried := x.tried ++ [sp] }) }
           else { l with txRing := sp, swapWanted := false }) s))
       exec (.spareMove k rx true) s = .next (modPort (lanePort k) (fun p => if rx then { p with rxSpare := old } else { p with txSpare := old })
         (parkRing (lanePort k) rx old u)) ∧
       exec (.spareMove k rx false) s = .next (ringFaulty (lanePort k) rx old u)))

/-- Frames (R296, R297, R299, R300, R301, R304): a frame boundary sends one frame by the lane's state; a lane that does not listen takes none;
a frame with an uncorrectable codeword or a bad CRC is discarded with a nak due once; one of another identity is discarded and counted; the next
DATA frame in sequence advances the sequence, is delivered packet by packet and acknowledges; one out of sequence is discarded.

The closes and timers of lanes (R298, R300, R302, R305, R306, R313): what each timer does to a lane in the state it belongs to; the oldest
frame is sent again at most 16 times; a lane is closed once, with a flap counted where the reason is a failure; a close record releases the
frames the far end had and gives the later ones back to the fabric.

Errors and repairs of lanes (R308, R309, R311, R320, R323): uncorrectable codewords are classed as a burst or counted against the lane, which
at the threshold is marked; an observation without a crossing returns the lane to UP, and one with a crossing goes to the next step; a lane state
that disagrees is counted and recorded; and a port cabled to another sender takes no lane. -/
def Obligations.LanesAndFrames : Prop :=
  (∀ (s : State) (k rtt : Nat) (f : Frame),
     let l := laneOf s k
     exec (.frameSend k) s = .next (frameSend k s) ∧
     (∀ places values read, let errs := places.zip values
       let u := countCorrected k (correctedSymbols errs) s
       (laneListens l = false → exec (.frameReceive k f places values read rtt) s = .next s) ∧
       (laneListens l = true → 0 < badWords errs → exec (.frameReceive k f places values read rtt) s =
         .next (discardFrame k (modLane k (fun l => { l with unclassed := l.unclassed + badWords errs }) u))) ∧
       (laneListens l = true → badWords errs = 0 → readFrame f errs read = none →
         exec (.frameReceive k f places values read rtt) s = .next (discardFrame k u)) ∧
       (∀ g, laneListens l = true → badWords errs = 0 → readFrame f errs read = some g →
         exec (.frameReceive k f places values read rtt) s = .next (takeFrame k g rtt u)) ∧
       (messageResidue errs = 0 → readFrame f errs read = some f)) ∧
     (∀ read, laneListens l = true → f.sender ≠ l.far ∨ f.port ≠ lanePort k ∨ f.line ≠ rxLine k →
       exec (.frameReceive k f [] [] read rtt) s = .next (wrongIdentity k f s)) ∧
     (∀ read, laneListens l = true → f.sender = l.far → f.port = lanePort k → f.line = rxLine k →
       (l.state ≠ .acquiring → f.kind = .data → f.seq = l.nextRx → exec (.frameReceive k f [] [] read rtt) s =
         .next (takeFlags k f (forEach f.packets (deliver k) (modLane k (fun q => { q with
           nextRx := (q.nextRx + 1) % 256, nakSent := false, closing := q.closing.map (fun c => { c with sent := false }) })
           (takeHeader k f s))))) ∧
       (l.state ≠ .acquiring → f.kind = .data → f.seq ≠ l.nextRx → exec (.frameReceive k f [] [] read rtt) s = .next (discardFrame k s)) ∧
       (l.state ≠ .acquiring → f.kind = .idle → exec (.frameReceive k f [] [] read rtt) s =
         .next (finishPlanned k (takeFlags k f (takeHeader k f s)))) ∧
       (l.state ≠ .acquiring → f.kind = .train → exec (.frameReceive k f [] [] read rtt) s = .next s) ∧
       (l.state = .acquiring → f.kind ≠ .train → exec (.frameReceive k f [] [] read rtt) s = .next s) ∧
       (l.state = .acquiring → f.kind = .train → exec (.frameReceive k f [] [] read rtt) s = .next (laneUp k (modLane k (fun q => { q with
         rxTrain := q.rxTrain + 1, farTrain := true, trainRtt := rtt, wrongIdent := 0, txOne := q.txOne || decide (8 ≤ q.rxTrain + 1)
         rxTrain1 := if f.trainByte = 1 then q.rxTrain1 + 1 else 0 }) s)))) ∧
     (l.state = .unused ∨ l.state = .down ∨ l.state = .held ∨ l.state = .admin → laneListens l = false)) ∧
  (∀ (s : State) (k : Nat),
     let l := laneOf s k
     (∀ f rest, l.unacked = f :: rest → f.resent < 16 → exec (.retryTimeout k) s =
       .next (modLane k (fun l => { l with unacked := l.unacked.map (fun f => { f with again := true }) }) s)) ∧
     (∀ f rest, l.unacked = f :: rest → 16 ≤ f.resent → exec (.retryTimeout k) s = .next (unplannedClose k 2 true false s)) ∧
     (∀ burst, l.state = .up ∨ l.state = .marked → exec (.lossOfFrame ⟨k, burst⟩) s = .next (unplannedClose k 1 true burst s)) ∧
     (l.state = .acquiring → l.farTrain = true → exec (.acquireTimeout k) s = .next (modLane k (fun l => { l.fresh with state := .down }) s)) ∧
     (l.state = .down → l.named = true → exec (.downRetry k) s = .next (tuneLane k s)) ∧
     (let u := if l.holdDue then modLane k (fun l => { l with holdDue := false }) s else s;
       ((laneOf u k).state = .held → (laneOf u k).named = true → exec (.laneHoldEnd k) s = .next (tuneLane k u)) ∧
       ((laneOf u k).state = .held → (laneOf u k).named = false → exec (.laneHoldEnd k) s = .next (unuseLane k u)) ∧
       ((laneOf u k).state ≠ .held → exec (.laneHoldEnd k) s = .next u)) ∧
     (∀ c, l.closing = some c → c.planned = true → exec (.plannedCloseTimeout k) s = .next (unplannedClose k 1 true false s)) ∧
     (∀ c, l.closing = some c → c.planned = false → l.state = .closing → exec (.laneCloseTimeout k) s =
       .next (afterClose k (modLane k (fun l => { l with unacked := [] })
         (let u := logEvent 0x7204 srcDevice [] s;
           forEach ((l.unacked.map (·.packets)).flatten.flatMap (unsent u l.far)) (fun p s => dropPacket p 0x7204 2 s) u)))) ∧
     (((l.lastFlap.toList ++ l.flapTimes).all fun t => decide (t + 1200000000000 ≤ nowNs s)) = true → exec (.holdTimeReset k) s =
       .next (modLane k (fun l => { l with holdTime := 10, holdLevel := 0, flapTimes := [] }) s)) ∧
     (∀ p port line seq reason, p.body = .msg (.close port line seq reason) →
       let j := laneKey port ((32 - line) % 32)
       let u := if (laneOf (takeIngress p s) j).far = p.source then unplannedClose j reason false false (takeIngress p s) else takeIngress p s
       let c := laneOf u j
       c.state = .closing → c.far = p.source → c.closing.map (·.planned) = some false →
       exec (.close p) s = .next (afterClose j (modLane j (fun l => { l with
         unacked := [], queue := ((c.unacked.filter (fun f =>
           decide (0 < (f.seq + 256 - seq) % 256) && decide ((f.seq + 256 - seq) % 256 ≤ 128))).map (·.packets)).flatten ++ l.queue }) u)))) ∧
  (∀ (s : State) (k n lanes port : Nat),
     let l := laneOf s k
     (n ≤ l.unclassed → 0 < n → exec (.ucwClassify k n lanes 1 [] true) s = .next (modLane k (fun l => { l with burst := satAdd 32 l.burst n })
       (modLane k (fun l => { l with unclassed := l.unclassed - n }) s))) ∧
     (n ≤ l.unclassed → 0 < n → 8 ≤ lanes → exec (.ucwClassify k n lanes 2 [] false) s =
       .next (logEvery 0x7301 0 10000000 srcDevice [(4, lanes)] (modLane k (fun l => { l with burst := satAdd 32 l.burst n })
         (modLane k (fun l => { l with unclassed := l.unclassed - n }) s)))) ∧
     (∀ r, l.repair = some r → l.state = .marked → r.crossed = false → exec (.repairObservationEnd k) s = .next (modLane k (fun l =>
       { l with state := .up, repair := none, markedFlag := false, swapReq := false }) s)) ∧
     (∀ r, l.repair = some r → l.state = .marked → r.crossed = true → exec (.repairObservationEnd k) s =
       .next (repairStep k (r.step + 1) r.rule (modLane k (fun l => { l with swapReq := false }) s))) ∧
     exec (.laneDisagreeTimer k l.state.code) s = .next s ∧
     (∀ reported, reported ≠ l.state.code → exec (.laneDisagreeTimer k reported) s =
       .next (logEvent 0x7209 srcDevice [] (let u := modPort (lanePort k) (fun p => { p with disagree := satAdd 32 p.disagree 1 }) s;
         { u with hub := { u.hub with sensor600 := true, mgmtDiffer := insertNat (4096 + k) u.hub.mgmtDiffer } }))) ∧
     ((portOf s port).cabling = false →
       let u := modPort port (fun p => { p with cabled := true, cablingTried := true, cabling := false, train0 := none }) s
       exec (.planeCablingCheck port (some (s.fab.position, port))) s =
         .next (forEach (((portLanes u port).filter (fun e => decide (e.2.state = .tuning))).map (·.1)) laneAcquire
           (forEach (((portLanes u port).filter (fun e =>
             decide (e.2.state = .down) && decide (e.2.downReason = 4) && e.2.named)).map (·.1)) tuneLane u))) ∧
     Yields (.planeCablingCheck port (some (s.fab.position, port))) s (fun t =>
       (portOf t port).cabled = true ∧ (portOf t port).cabling = false ∧ (portOf t port).train0 = none) ∧
     (∀ seen, seen ≠ some (s.fab.position, port) → Yields (.planeCablingCheck port seen) s (fun t =>
       (portOf t port).cabled = false ∧ (portOf t port).cablingTried = true)))

/-- Packets on their way (R303, R333, R334, R340, R346, R347): a packet in transit frees its credit, is counted and goes on, or is dropped after
its last hop; a packet that waits too long for credit leaves for VC4; a held one takes the detour there is, or is dropped at its hold time, each
drop counted, recorded and answered to its issuer.

Flagged ordering (R341 to R343): a lost count is recorded, marks the next flagged packet of its source and counts as applied, after which the
packets whose order has come go to the ingress; a refused flagged packet waits and is sent again on the same terms. -/
def Obligations.PacketsAndFlaggedOrder : Prop :=
  (∀ (s : State) (k i : Nat) (p : Packet) (h : HeldPacket),
     let f := s.fab
     (f.transit.find? (fun e => e.2 == p) = some (k, p) →
       let u := freeCreditOf k p { s with fab := { f with transit := f.transit.erase (k, p), forwarded := satAdd 64 f.forwarded 1 } }
       exec (.packetForward p) s = .next (if p.hops < 7 then routePacket p u else deadDrop 0x8032 p u)) ∧
     (f.transit.find? (fun e => e.2 == p) = none → exec (.packetForward p) s = .next s) ∧
     ((laneOf s k).queue.contains p = true → p.vc < 3 → p.source ≠ myLogical s →
       let u := modLane k (fun l => { l with queue := l.queue.erase p }) s
       exec (.escapeCreditTimeout k p) s = .next (routePacket { escapePacket p with hops := p.hops - 1 }
         { u with fab := { u.fab with escaped := satAdd 64 u.fab.escaped 1 } })) ∧
     (p.source = myLogical s → exec (.escapeCreditTimeout k p) s = .next s) ∧
     (f.held.find? (fun h => h.p == p) = some h → ∀ dst j q, destPos s p = some dst → detourHop s p dst = some (j, q) →
       exec (.detourWaitTimeout p) s = .next (enqueue j p q { s with fab := { f with held := f.held.erase h } })) ∧
     (f.held.find? (fun h => h.p == p) = some h → exec (.packetHoldTimeout p) s =
       .next (deadDrop 0x8031 p { s with fab := { f with held := f.held.erase h } })) ∧
     (p.vc = 3 ∨ p.cls = 1 → (deadDrop 0x8031 p s).fab.deadDrops = satAdd 64 f.deadDrops 1) ∧
     (routePacket p s = { s with fab := (routePacket p s).fab }) ∧
     (destPos s p = some s.fab.position → (routePacket p s).fab.ingress = f.ingress ++ [p]) ∧
     (destPos s p ≠ some s.fab.position → ∀ q, chooseHop s p = .ok (i, q) →
       (routePacket p s).fab.lanes = (modLane i (fun l => { l with queue := l.queue ++ [{ q with hops := q.hops + 1 }] }) s).fab.lanes)) ∧
  (∀ (s : State) (p q : Packet) (n : Nat),
     let u := takeIngress p s
     (p.body = .msg (.orderSkip n) →
       let v := logEvent 0x8033 srcDevice [(2, p.source), (4, n)] u
       exec (.orderSkip p) s = .next (orderApplied p.source n
         { v with fab := { v.fab with skipMarked := SMap.set 0 v.fab.skipMarked p.source 0x8033 } })) ∧
     (p.body = .msg (.orderRetry n) → u.fab.flaggedSent.find? (fun q => q.tag == p.tag && q.dest == p.source && q.order == n) = some q →
       exec (.orderRetry p) s = .next { u with fab := { u.fab with orderResend := u.fab.orderResend ++ [q] } }) ∧
     (s.fab.orderResend.contains p = true → exec (.orderRetryResend p) s =
       .next (routePacket p { s with fab := { s.fab with orderResend := s.fab.orderResend.erase p } })) ∧
     (SMap.wf 0 s.fab.applied = true → ∀ src, let a := (SMap.get 0 s.fab.applied src + n) % 65536
       SMap.get 0 (orderApplied src n s).fab.applied src = a ∧
       (orderApplied src n s).fab.ingress = s.fab.ingress ++ s.fab.flaggedHeld.filter (fun p => p.source == src && p.order == a) ∧
       ∀ x, x ∈ (orderApplied src n s).fab.flaggedHeld ↔ x ∈ s.fab.flaggedHeld ∧ ¬(x.source = src ∧ x.order = a)))

/-- The hop limit (R334): a packet on its way through this device whose hops field holds 7 is dropped with record 0x8032; one with fewer hops is
routed on, and one for this device reaches its ingress whatever its hops. -/
def Obligations.HopLimitDropsPackets : Prop :=
  ∀ (s : State) (k : Nat) (p : Packet),
    let u := freeCreditOf k p { s with fab := { s.fab with
      transit := s.fab.transit.erase (k, p), forwarded := satAdd 64 s.fab.forwarded 1 } }
    (s.fab.transit.find? (fun e => e.2 == p) = some (k, p) → p.hops = 7 → exec (.packetForward p) s = .next (deadDrop 0x8032 p u)) ∧
    (s.fab.transit.find? (fun e => e.2 == p) = some (k, p) → p.hops < 7 → exec (.packetForward p) s = .next (routePacket p u)) ∧
    (destPos s p = some s.fab.position → (routePacket p s).fab.ingress = s.fab.ingress ++ [p] ∧
      (routePacket p s).fab.deadDrops = s.fab.deadDrops)

/-- Multicast writes and the tree (R344, R345, R349, R352, R367): a relay passes on the copies of the next stage and a destination of the mask
applies its own; an orphan in tree mode is recorded and asks its root for a lane on its uplink plane, then on the next; a root names the lane
unless its port has eight; the tree changes make-before-break and drops its old lanes when their time is over. -/
def Obligations.MulticastAndTree : Prop :=
  ∀ (s : State) (p : Packet) (t : Nat),
    (let u := takeIngress p s
      let m := memOf p
      let set := (maskSet u (BitVec.ofNat 64 m.extra.toNat) (BitVec.ofNat 64 (m.extra.toNat / 2 ^ 64))).filter (fun d => d != p.source)
      let v := if p.mcast && decide (p.mstage < 2) then sendStage p p.mstage (multicastSet u p) u else u
      (set.contains (myLogical v) = true → exec (.wrMc p) s = .next (serveRemote .ok { p with ptype := 0x02 } v)) ∧
      (set.contains (myLogical v) = false → exec (.wrMc p) s = .next v)) ∧
    (t ≤ 2 → s.fab.mode = 1 → tierCoord t s.fab.position ≠ tierCoord t s.fab.root →
      let me := s.fab.position
      let i := (tierCoord t me + 32 - tierCoord t s.fab.root) % 32
      let parent := withCoord t me ((treeParent (tierPlanes t) i + tierCoord t s.fab.root) % 32)
      let lane := laneOf s (laneKey (tierBase t + uplinkPlane s t) (lineTo t me parent))
      (lane.state ≠ .up → lane.state ≠ .marked → exec (.orphanTimeout t) s =
        .next (askAdopt t (uplinkPlane s t) (logEvery 0x8040 t 10000000000 srcDevice [(4, t), (2, parent)] s))) ∧
      (lane.state = .up ∨ lane.state = .marked → exec (.orphanTimeout t) s = .next s) ∧
      (SMap.get 0 s.fab.orphan t ≠ 0 → exec (.adoptRetry t) s =
        .next (askAdopt t (SMap.get 0 s.fab.orphan t % tierPlanes t)
          (logEvery 0x8040 t 10000000000 srcDevice [(4, t), (2, parent)] s)))) ∧
    (s.fab.mode ≠ 1 → exec (.orphanTimeout t) s = .next s ∧ exec (.adoptRetry t) s = .next s) ∧
    (∀ orphan plane, p.body = .msg (.adopt orphan t plane) → t ≤ 2 → plane < tierPlanes t →
      let u := takeIngress p s
      let n := ((portLanes u (tierBase t + plane)).filter (fun e => e.2.named)).length
      (n < 8 → exec (.adopt p) s = .next (nameLane (tierBase t + plane) orphan
        { u with fab := { u.fab with adoptees := insertNat (laneKey (tierBase t + plane) (lineTo t u.fab.position orphan)) u.fab.adoptees } })) ∧ (8 ≤ n → exec (.adopt p) s = .next u)) ∧
    exec .treeRootChange s = .next (changeTree (treeRoot s) s) ∧
    exec .treeOldLaneTimeout s = .next (forEach s.fab.oldTree dropLane { s with fab := { s.fab with oldTree := [] } })

/-- Requests served at their home (R357 to R361, R365): a remote read answers with the bytes and their poison, a write stores and is
acknowledged, an atomic answers the old value, a reducing write combines element by element, a signal adds to its tally; each ordered request
counts as applied; and a request refused by the checks changes no store and is answered with its code.

A signal of another device (R357): an open tally of this device takes its addend, the request is acknowledged and counts as applied. -/
def Obligations.RemoteRequestsServed : Prop :=
  (∀ (s : State) (p : Packet),
     let u := takeIngress p s
     let m := memOf p
     let h := hallAddr m.addr
     let served := fun (ty : Nat) (t : State) => if isOrdered ty then orderApplied p.source 1 t else t
     let passes := fun (ty n al : Nat) => accessStage u srcRemote (localForm u m.addr) n al (decide (ty ≠ 0))
       (remoteMay ty m.op m.elem h n) = none ∧ downAt u (localForm u m.addr) = none
     h.space = 0 → p.flagged = false →
     (passes 0x00 m.len 1 → exec (.rd p .ok) s =
       .next (respondData { p with ptype := 0x00 } (readStore u .sp h.off m.len) (poisoned u .sp h.off m.len) u)) ∧
     (passes 0x01 m.data.length 1 → exec (.wr p) s =
       .next (served 0x01 (respondAck { p with ptype := 0x01 } 0 false false (storeWrite .sp h.off m.data m.poison u)))) ∧
     (passes 0x03 (elemBytes m.elem) (elemBytes m.elem) → exec (.atom ⟨p, .ok⟩) s =
       .next (served 0x03 (let r := atomAt .sp h.off m.op m.elem m.operand.toNat m.extra.toNat u
         respondAck { p with ptype := 0x03 } r.1 r.2.1 false r.2.2))) ∧
     (passes 0x04 m.data.length (elemBytes m.elem) → m.data.length % elemBytes m.elem = 0 → exec (.red ⟨p, .ok⟩) s =
       .next (served 0x04 (respondAck { p with ptype := 0x04 } 0 false false
         (reduceWrite .sp m.op m.elem m.data h.off m.poison (m.data.length + 1) u)))) ∧
     (∀ g, downAt u (localForm u m.addr) = none →
       accessStage u srcRemote (localForm u m.addr) m.data.length 1 true (remoteMay 0x01 m.op m.elem h m.data.length) = some g →
       exec (.wr p) s = .next (refuseRemote { p with ptype := 0x01 } (stageCode g) true u) ∧
       (refuseRemote { p with ptype := 0x01 } (stageCode g) true u).mem = s.mem)) ∧
  (∀ (s : State) (p : Packet),
     let u := takeIngress p s
     let m := memOf p
     let h := hallAddr m.addr
     h.space = 3 → downAt u (localForm u m.addr) = none →
     accessStage u srcRemote (localForm u m.addr) 8 32 true true = none → tallyOpen u (h.off / 32) = true → m.err = false →
     SMap.get 0 u.fab.skipMarked p.source = 0 → SMap.wf 0 u.fab.skipMarked = true →
     exec (.sig p) s = .next (orderApplied p.source 1 (respondAck { p with ptype := 0x05 } 0 false false
       (tallyAdd (h.off / 32) (m.operand.toNat % 2 ^ 64) srcRemote u))))

/-- Responses (R359, R361 to R364, R372, R395): a response that does not match its slot's generation is discarded and counted; an
acknowledgement frees the slot and completes what waited for it; an error is counted and completes the request as refused; a slot that times out
completes as a dead target for every destination; and RETRY keeps the slot until the request is sent again. -/
def Obligations.ResponsesAndSlots : Prop :=
  ∀ (s : State) (p : Packet) (i : Nat),
    let u := takeIngress p s
    let late := { u with remote := { u.remote with late := satAdd 64 u.remote.late 1 } }
    let k := slotOf u p.tag
    (freshAnswer s p = false → exec (.rdData p) s = .next late ∧ exec (.ack p) s = .next late) ∧
    (freshAnswer s p = false → p.tag ≠ 0xFFFF → exec (.err p) s = .next late ∧ exec (.retry p) s = .next late) ∧
    (freshAnswer s p = true → (∀ e j n l, k.use ≠ .hare e j n l) → exec (.rdData p) s = .next (takeData p u)) ∧
    (∀ e j n l, freshAnswer s p = true → k.use = .hare e j n l → hareCanTake s e j n l = true →
      exec (.rdData p) s = .next (takeData p u)) ∧
    (freshAnswer s p = true → exec (.ack p) s = .next (takeAck p u)) ∧
    (∀ core issue, freshAnswer s p = true → k.use = .fox core issue → k.waiting = [p.source] → (memOf p).err = false →
      exec (.ack p) s = .next (completeOp core issue (closeSlot p.tag u))) ∧
    (freshAnswer s p = true → p.tag ≠ 0xFFFF → exec (.err p) s = .next (takeErr p u)) ∧
    (freshAnswer s p = true → p.tag ≠ 0xFFFF → (∀ e, k.use ≠ .pack e) → exec (.retry p) s =
      .next { u with remote := { u.remote with slots := SMap.set {} u.remote.slots p.tag { k with retry := k.retry ++ [p.source] } } }) ∧
    (∀ e, freshAnswer s p = true → p.tag ≠ 0xFFFF → k.use = .pack e → exec (.retry p) s = .next (
      let v := modPack e (fun q => { q with retries := satAdd 64 q.retries 1 }) u
      { v with remote := { v.remote with slots := SMap.set {} v.remote.slots p.tag { k with retry := k.retry ++ [p.source] } } })) ∧
    (p.tag = 0xFFFF → let c := (memOf p).core
      exec (.err p) s = .next (l1Failed c (grantKey u p) ((memOf p).operand.toNat % 65536) true u) ∧
      exec (.retry p) s = .next (modL1 c (grantKey u p) (fun l => { l with retry := true }) u)) ∧
    (∀ core key, let l := l1Of s core key
      (l.retry = false → exec (.retryResend 0xFFFF core key) s = .next s) ∧
      (l.retry = true → exec (.retryResend 0xFFFF core key) s =
        .next (sendCoh (l1Request l) (keyHome key) (keyHome key) (keyLine key) core 0xFFFF 0 false l.poison []
          (modL1 core key (fun l => { l with retry := false }) s)))) ∧
    ((slotOf s i).busy = true → exec (.requestSlotTimeout i) s =
      .next (forEach (slotOf s i).waiting (fun d s => slotDead i d 0 s) s)) ∧
    ((slotOf s i).busy = false → exec (.requestSlotTimeout i) s = .next s) ∧
    (i ≠ 0xFFFF → (slotOf s i).busy = true → ∀ core key, exec (.retryResend i core key) s =
      .next (forEach (slotOf s i).retry (fun d s => routePacket
        { (slotOf s i).packet with dest := d, phys := false, mcast := false, hops := 0 } s)
        { s with remote := { s.remote with slots := SMap.set {} s.remote.slots i { slotOf s i with retry := [] } } }))

/-- Contributions in any order (R231): integer add, and, or, xor, and every min and max leave the same final word whatever order the operands
come in; float add, swap and compare-and-swap do not, for some words and operands. -/
def Obligations.CombiningOrderOfAtomics : Prop :=
  (∀ (op elem old swap : Nat) (l l' : List Nat), op ∈ [1, 2, 3, 4, 5, 6, 8, 9] → atomOk op elem = true → l.Perm l' →
    l.foldl (fun w x => atomResult op elem w x swap) old = l'.foldl (fun w x => atomResult op elem w x swap) old) ∧
  (∃ old a b, atomResult 7 2 (atomResult 7 2 old a 0) b 0 ≠ atomResult 7 2 (atomResult 7 2 old b 0) a 0) ∧
  (∃ old a b, atomResult 10 0 (atomResult 10 0 old a 0) b 0 ≠ atomResult 10 0 (atomResult 10 0 old b 0) a 0) ∧
  (∃ old a b x y, atomResult 11 0 (atomResult 11 0 old a x) b y ≠ atomResult 11 0 (atomResult 11 0 old b y) a x)

/-- Coherence requests at the home (R371, R372): a stable line with nothing waiting begins the request's transaction; a line at work holds the
request, or answers RETRY where the slice's wait buffer is full; a GETS of an uncached line answers it exclusively and names its owner, one of a
shared line adds a sharer, and one of an owned line snoops the owner.

Evictions and answers at the home (R371, R374, R375, R377): the owner's PUTM writes its data back and leaves the line uncached, PUTE leaves it
uncached; a notice of another is stray; the snooped owner's data and the last INV_ACK complete the transaction that waited for them; a line whose
owner never answers is recorded as lost, poisoned and given up. -/
def Obligations.HomeDirectory : Prop :=
  (∀ (s : State) (p : Packet),
     let u := takeIngress p s
     let line := packetLine p
     let d := dirOf u line
     let counted := fun (f : SettCounts → SettCounts) => modCounts line f u
     cohHomed p = true → domDown u (lineDie line) = false →
     (dirStable d = true → d.wait = [] → exec (.gets p) s = .next (dirStart line (.gets p) u) ∧
       exec (.getm p) s = .next (dirStart line (.getm p false) u) ∧ exec (.upg p) s = .next (dirStart line (.getm p true) u)) ∧
     (dirStable d = false → sliceWait u line < 64 → exec (.gets p) s =
       .next (modDir line (fun d => { d with wait := d.wait ++ [.gets p] }) u)) ∧
     (dirStable d = false → 64 ≤ sliceWait u line → exec (.gets p) s =
       .next (sendCoh 0x58 p.source (myLogical u) line (memOf p).core p.tag (memOf p).slotGen false false []
         (counted (fun c => { c with retries := satAdd 64 c.retries 1 })))) ∧
     (d.state = .inv → d.wait = [] → exec (.gets p) s = .next (dirDone .em 0 (senderCode p) line
       (answerCoh 0x51 line p (counted (fun c => { c with gets := satAdd 64 c.gets 1 }))))) ∧
     (d.state = .shared → d.wait = [] → exec (.gets p) s = .next (dirDone .shared (d.sharers ||| 2 ^ settIndex p.source) 0 line
       (answerCoh 0x50 line p (counted (fun c => { c with gets := satAdd 64 c.gets 1 }))))) ∧
     (d.state = .em → d.wait = [] → exec (.gets p) s = .next (snoopOwner line false (.gets p) false
       (counted (fun c => { c with gets := satAdd 64 c.gets 1 })))) ∧
     (d.state = .inv → d.wait = [] → exec (.getm p) s = .next (grantM line p false
       (counted (fun c => { c with getm := satAdd 64 c.getm 1 }))))) ∧
  (∀ (s : State) (p : Packet) (line : Nat),
     let u := takeIngress p s
     let l := packetLine p
     let d := dirOf u l
     (d.owner = senderCode p → d.state = .em →
       exec (.putm p) s = .next (homeNext l (wbAck p (dirDone .inv 0 0 l (ownerData l (memOf p) u)))) ∧
       exec (.pute p) s = .next (homeNext l (wbAck p (dirDone .inv 0 0 l u)))) ∧
     (d.owner ≠ senderCode p → exec (.putm p) s = .next (wbAck p (strayNote l u)) ∧ exec (.pute p) s = .next (wbAck p (strayNote l u))) ∧
     (d.state = .bSnp → d.owner = senderCode p → (memOf p).err = false → (memOf p).poison = false →
       exec (.snpData p) s = .next (homeNext l (dirAnswered l u))) ∧
     (d.state = .bSnp → d.owner = senderCode p → (memOf p).err = true →
       exec (.snpData p) s = .next (homeNext l (dirAnswered l (ownerData l (memOf p) u)))) ∧
     (d.state = .bInv → d.acks = [p.source] →
       exec (.invAck p) s = .next (homeNext l (dirAcked l (modDir l (fun d => { d with acks := [] }) u)))) ∧
     (d.state ≠ .bInv → exec (.invAck p) s = .next u) ∧
     (∀ q, d.put = some q → exec (.dataInFlight p) s = .next (wbAck q (modDir l (fun d => { d with put := none }) u))) ∧
     (d.put = none → d.state = .bSnp → d.owner = senderCode p →
       exec (.dataInFlight p) s = .next (modDir l (fun d => { d with state := .bXwb }) u)) ∧
     ((dirOf s line).state = .inv ∨ (dirOf s line).state = .shared ∨ (dirOf s line).state = .em → exec (.homeWaitTimeout line) s = .next s) ∧
     ((dirOf s line).state = .bInv → ∃ v, OnlyHub s v ∧ exec (.homeWaitTimeout line) s =
       .next (homeNext line (dirAcked line (modCounts line (fun c => { c with snoopTimeout := true }) v)))))

/-- Snoops, invalidations and grants at an L1 (R370, R371, R373 to R375): a snooped owner answers its line's data and keeps it shared, or gives
it up; a snooped line that is not held is answered as in flight, and one whose grant is on its way waits; INV takes the line from every L1 and
is answered once; a fresh grant installs its line and lets the waiting access go on, a late one is counted and returned; WB_ACK ends an
eviction. -/
def Obligations.L1Coherence : Prop :=
  ∀ (s : State) (p : Packet),
    let u := takeIngress p s
    let e := (memOf p).core
    let k := grantKey s p
    let l := l1Of s e k
    let fresh := fun (st : L1State) (ty : Nat) =>
      let q := { p with ptype := ty }
      let v := takeIngress q s
      let w := l1CloseSlot v q k
      grantFresh v q = true → l.state ≠ .isDI →
        (takeGrant st q s = foxResume e none (modL1 e k (granted st q) (if st = .modif then l1InvalOthers e k w else w)))
    (l.state = .excl ∨ l.state = .modif →
      exec (.snpShare p) s = .next (modL1 e k (fun l => { l with state := .shared }) (snoopData e k l u)) ∧
      exec (.snpInv p) s = .next (setL1 e k {} (dropReservation e k (snoopData e k l u)))) ∧
    (l.state = .inv → exec (.snpShare p) s = .next (sendCoh 0x56 (keyHome k) (keyHome k) (keyLine k) e 0 0 false false [] u)) ∧
    (l.state = .isD ∨ l.state = .imD ∨ l.state = .smG → exec (.snpInv p) s = .next s) ∧
    exec (.inv p) s = .next (sendCoh 0x55 (keyHome k) (keyHome k) (keyLine k) 0 0 0 false false []
      (forEach (s.sett.l1.map (·.1)) (fun e s => l1Inval e k s) u)) ∧
    exec (.dataS p) s = .next (takeGrant .shared { p with ptype := 0x50 } s) ∧
    exec (.dataE p) s = .next (takeGrant .excl { p with ptype := 0x51 } s) ∧
    exec (.dataM p) s = .next (takeGrant .modif { p with ptype := 0x52 } s) ∧
    exec (.grant p) s = .next (takeGrant .modif { p with ptype := 0x59 } s) ∧
    fresh .shared 0x50 ∧ fresh .excl 0x51 ∧ fresh .modif 0x52 ∧ fresh .modif 0x59 ∧
    (∀ st, grantFresh u p = false → takeGrant st p s = lateGrant p u) ∧
    (grantFresh u p = false → l1Leaving l = true → exec (.wbAck p) s = .next (setL1 e k {} u)) ∧
    (grantFresh u p = true → l1Leaving (l1Of (l1CloseSlot u p k) e k) = true →
      exec (.wbAck p) s = .next (setL1 e k {} (l1CloseSlot u p k)))

/-- Collectives (R382, R390, R393 to R400): a COLL waits for the previous one, is refused where its work area is too short, and else opens and
starts; a packet is taken and acknowledged by the collective it belongs to, sent back where it is ahead, and a mismatch where its digest differs;
a chunk whose operands are present is summed once, its first residue failure is counted and tried again and a second is fatal; the complete
collective posts 1 and closes.

The order of a sum (R387): one operand is itself, neighbours are added first and an odd last operand is carried, so that the result depends
on the operands' order alone. -/
def Obligations.Collectives : Prop :=
  (∀ (s : State) (e k : Nat) (w : Word64) (p : Packet) (b : CollBody) (c : Coll) (ecc work : Ecc),
     let r := resolveColl s e w
     let v := modPack e (fun k => { k with next := (k.next + 1) % 2 ^ 32, last := r.1.seq }) (nextPc e s)
     (issueOf s e [0x80] = some w → (packOf s e).coll.isSome = true → exec (.coll ⟨e, ecc⟩) s = .next s) ∧
     (issueOf s e [0x80] = some w → (packOf s e).coll = none → r.1.need ≤ r.2 →
       exec (.coll ⟨e, ecc⟩) s = .next (startColl e r.1 ecc (modPack e (fun k => { k with coll := some r.1 }) (issueOpen e v)))) ∧
     (issueOf s e [0x80] = some w → (packOf s e).coll = none → r.2 < r.1.need →
       exec (.coll ⟨e, ecc⟩) s = .next (engineError e 0x6611 (tallyError r.1.tally 0x6611 e
         (modPack e (fun k => { k with workShort := true }) (logEvent 0x6611 e [(2, e), (8, r.1.need)] v))))) ∧
     (p.body = .coll b → p.mcast = false → exec (.collData p) s = .next (collServe p b (takeIngress p s))) ∧
     ((packOf s (engId 4 b.die 0)).coll = some c →
       (b.seq = c.seq → b.digest = c.digest → b.stage ≤ c.stage ∨ 3 ≤ b.stage →
         collServe p b s = collAnswer 0x11 p 0 (collTake (engId 4 b.die 0) c b s)) ∧
       (c.seq < b.seq → collServe p b s = collAnswer 0x58 p 0 s) ∧
       (b.seq = c.seq → b.digest ≠ c.digest → collServe p b s = collMismatch (engId 4 b.die 0) p b s)) ∧
     ((packOf s e).coll = some c →
       (c.kind < 2 → c.stage < 3 → k < c.chunks (myLogical s) → c.summed.contains k = false →
         (∀ j, j < c.m c.stage → j ≠ c.idx c.stage (myLogical s) →
           let lo := (c.span (myLogical s) c.stage).1 + 2048 * k
           c.present c.stage j lo (min 2048 ((c.span (myLogical s) c.stage).1 + (c.span (myLogical s) c.stage).2 - lo)) = true) →
         exec (.collChunkSum e k (ecc, work) .held) s = .next (afterSums e (sumChunk e c k ecc work s))) ∧
       (c.summed.contains k = true → exec (.collChunkSum e k (ecc, work) .held) s = .next s) ∧
       (c.complete (myLogical s) = true → exec (.collComplete e) s = .next (completeOp e c.issue (tallyAdd c.tally 1 e
         (modPack e (fun k => { k with coll := none, colls := satAdd 64 k.colls 1 }) s)))) ∧
       (c.complete (myLogical s) = false → exec (.collComplete e) s = .next s))) ∧
  (∀ (a b c d : Nat) (l : List Nat) (f : Nat),
     treeSum f [a] = a ∧ treeSum (f + 1) [a, b] = add32 a b ∧ treeSum (f + 2) [a, b, c] = add32 (add32 a b) c ∧
     treeSum (f + 2) [a, b, c, d] = add32 (add32 a b) (add32 c d) ∧
     (treePairs l).length = (l.length + 1) / 2 ∧
     ∀ i, 2 * i + 1 < l.length → (treePairs l).getD i 0 = add32 (l.getD (2 * i) 0) (l.getD (2 * i + 1) 0))

/-- The pieces of a split (R385): they follow one another from the start to the end of the range, none is longer than the piece size, and
every piece but those at the end is a multiple of 16 elements. -/
def Obligations.CollectivePiecesPartition : Prop :=
  ∀ (a n m : Nat), 0 < m →
    (splitPiece a n m 0).1 = a ∧
    (∀ i, (splitPiece a n m i).1 + (splitPiece a n m i).2 = (splitPiece a n m (i + 1)).1) ∧
    (splitPiece a n m (m - 1)).1 + (splitPiece a n m (m - 1)).2 = a + n ∧
    (∀ i, (splitPiece a n m i).2 ≤ 16 * ((n + 16 * m - 1) / (16 * m))) ∧
    (∀ i, (splitPiece a n m (i + 1)).2 ≠ 0 → (splitPiece a n m i).2 % 16 = 0)

/-- A packet of a collective that does not match (R399): one whose digest differs from that of the pack unit's own COLL of the same number, and
one whose number lies below its current one, are answered with ERR and code 0x6610, as a function of the state and the packet alone. -/
def Obligations.CollMismatchAnswersErr : Prop :=
  ∀ (s : State) (p : Packet) (b : CollBody), p.body = .coll b → p.mcast = false →
    let u := takeIngress p s
    let e := engId 4 b.die 0
    let refused := exec (.collData p) s = .next (collMismatch e p b u)
    (∀ c, (packOf u e).coll = some c → b.seq = c.seq → b.digest ≠ c.digest → refused) ∧
    (∀ c, (packOf u e).coll = some c → b.seq < c.seq → refused) ∧
    ((packOf u e).coll = none → b.seq < (packOf u e).next → refused) ∧
    ∃ v, collMismatch e p b u = collAnswer 0x12 p 0x6610 v

/-- Arrivals at a boundary (R411, R412): an ARRIVE of a later commit stays in ingress; one of another commit is dropped; one of the next
commit is gathered, and once a gatherer's own devices have all arrived it sends one combined ARRIVE up, or, at the coordinator, makes the swap
list and sends MIRROR.

The mirror (R412, R414, R415): MIRROR of the next commit at an arrived member starts its copy to its partner, and a device without shards
is ready at once; mirror data of the partner lands in the half of the hoard being written, is counted and acknowledged, and data from elsewhere
is refused with 0x9003; SEALED ends the mirror and reports READY; a READY of the next commit is gathered. -/
def Obligations.EpochMirrorAndArrivals : Prop :=
  (∀ (s : State) (p : Packet) (c : Nat) (ts : List (Nat × HallTime)), msgOf p = some (.arrive c ts) →
     let u := takeIngress p s
     let new := mergeTimes u.epoch.arrivals ts
     let v := { u with epoch := { u.epoch with arrivals := new } }
     let g := gatherFor v
     (nextCommit s < c → exec (.arrive p) s = .next s) ∧
     (c ≤ nextCommit s → (c ≠ nextCommit u ∨ ours p u = false) → exec (.arrive p) s = .next u) ∧
     (c ≤ nextCommit s → c = nextCommit u → ours p u = true →
       (allIn g.1 (new.map (·.1)) = false → exec (.arrive p) s = .next v) ∧
       (allIn g.1 (new.map (·.1)) = true → allIn g.1 (u.epoch.arrivals.map (·.1)) = false →
         (g.2 = none → exec (.arrive p) s = .next (arrivalsDone c v)) ∧
         (∀ pos, g.2 = some pos → rowGatherer v (posRow v.fab.position) ≠ some v.fab.position → exec (.arrive p) s =
           .next (sendMsgPos (.arrive c (new.filter (fun x => g.1.contains x.1))) pos v))))) ∧
  (∀ (s : State) (p : Packet) (c : Nat),
     let u := takeIngress p s
     (msgOf p = some (.mirror c) →
       (nextCommit s < c → exec (.mirror p) s = .next s) ∧
       (c ≤ nextCommit s → epochMember (relayMsg p u) = true → ours p (relayMsg p u) = true → c = nextCommit (relayMsg p u) →
         (relayMsg p u).epoch.stage = .arrived → exec (.mirror p) s = .next (startMirror c (relayMsg p u)))) ∧
     (∀ t : State, (mySections t).shards = [] → t.run.st ≠ .hold →
       startMirror c t = sendReady c { t with epoch := { t.epoch with stage := .mirroring } }) ∧
     ((memOf p).op = 0 → hoardOf u p.phys = none → exec (.hoardData p) s = .next (refuseRemote p 0x9003 true u)) ∧
     (∀ h, (memOf p).op = 0 → hoardOf u p.phys = some h → fromPartner p u = false →
       exec (.hoardData p) s = .next (refuseRemote p 0x9003 true u)) ∧
     (∀ h, let m := memOf p
       let off := (hallAddr m.addr).off
       m.op = 0 → hoardOf u p.phys = some h → fromPartner p u = true → off + m.data.length ≤ h.2 →
       hoardHalfOk p (off / max 1 (h.2 / 2)) u = true → exec (.hoardData p) s =
         .next (respondAck p 0 false false (sealCopy p (h.1 + off / max 1 (h.2 / 2) * (h.2 / 2))
           (tallyAdd 65284 m.data.length srcDevice (hoardWrite h.1 p u))))) ∧
     ((memOf p).op ≠ 0 → awaitsCopy u = true → exec (.hoardData p) s = .next (takeCopyData p u)) ∧
     ((memOf p).op ≠ 0 → awaitsCopy u = false → exec (.hoardData p) s = .next (refuseRemote p 0x9003 true u)) ∧
     (∀ n, msgOf p = some (.sealed c n) →
       (u.epoch.stage = .mirroring → c = nextCommit u → exec (.sealed p) s = .next (sendReady c
         { u with epoch := { u.epoch with lost := false, xfers := u.epoch.xfers.filter (fun x => decide (x.kind ≠ .mirror)) } })) ∧
       (u.epoch.stage ≠ .mirroring → exec (.sealed p) s = .next u)) ∧
     (∀ ds, msgOf p = some (.ready c ds) →
       let new := ds.foldl (fun acc d => insertNat d acc) u.epoch.readies
       let v := { u with epoch := { u.epoch with readies := new } }
       (nextCommit s < c → exec (.ready p) s = .next s) ∧
       (c ≤ nextCommit s → c = nextCommit u → ours p u = true → allIn (gatherFor v).1 new = false → exec (.ready p) s = .next v) ∧
       (c ≤ nextCommit s → c = nextCommit u → ours p u = true → allIn (gatherFor v).1 new = true →
         allIn (gatherFor v).1 u.epoch.readies = false → ∀ pos, (gatherFor v).2 = some pos → exec (.ready p) s =
           .next (sendMsgPos (.ready c (new.filter (gatherFor v).1.contains)) pos v))))

/-- The commit (R412, R413): the deputy notes the coordinator's COMMIT and acknowledges it; a broadcast COMMIT at a ready member makes it its
last commit and its keep is written next; and COMMIT_ACK makes the commit effective at the coordinator, which broadcasts it and then sends a
START that waited for it (R415).

The end of a boundary (R412, R422): with the keep written the boundary ends, or, where devices are swapped, the straggler sends its copy;
and a spare whose copy is whole and intact takes up the straggler's identity and its keep and tells the coordinator. -/
def Obligations.EpochCommitAndKeep : Prop :=
  (∀ (s : State) (p : Packet) (c : Nat) (t : HallTime) (sw : List Swap),
     let u := takeIngress p s
     (msgOf p = some (.commit c t sw) → p.phys = false →
       (epochMember u = true → c = nextCommit u → exec (.commit p) s = .next (sendMsg (.commitAck c) p.source (setCommit c t u))) ∧
       (c ≠ nextCommit u → exec (.commit p) s = .next u)) ∧
     (msgOf p = some (.commit c t sw) → p.phys = true → ours p (relayMsg p u) = true → epochMember (relayMsg p u) = true →
       c = nextCommit (relayMsg p u) → (relayMsg p u).epoch.stage = .ready → exec (.commit p) s =
         .next (let v := setCommit c t (relayMsg p u)
           { v with epoch := { v.epoch with
             stage := .keep, keepValid := false, swaps := sw, arrivals := [], readies := [], restoreds := [] } })) ∧
     (∀ v : State, (setCommit c t v).epoch.has = true ∧ (setCommit c t v).epoch.commit = c ∧
       (setCommit c t v).epoch.next = v.run.phase ∧ (setCommit c t v).epoch.keepValid = false ∧ (setCommit c t v).run = v.run) ∧
     (msgOf p = some (.commitAck c) →
       (u.epoch.commitSent = true → c = nextCommit u → (commitEffective c u).hub.starter = none →
         exec (.commitAck p) s = .next (commitEffective c u)) ∧
       (u.epoch.commitSent = true → c = nextCommit u → ∀ w, (commitEffective c u).hub.starter = some w →
         exec (.commitAck p) s = .next (sendStart w (commitEffective c u).hub.startDelay (commitEffective c u))) ∧
       (u.epoch.commitSent = false → exec (.commitAck p) s = .next u))) ∧
  (∀ (s : State),
     let kept := fun (s : State) =>
       let v := writeKeep s
       { v with epoch := { v.epoch with boundaryUs := min ((durationNs v v.epoch.boundaryAt (nowNs v)).toNat / 1000) (2 ^ 32 - 1) } }
     (s.epoch.stage ≠ .keep → exec .keepWriteDone s = .next s) ∧
     (s.epoch.stage = .keep → s.epoch.keepValid = false → (kept s).epoch.swaps = [] →
       exec .keepWriteDone s = .next (finishBoundary (kept s))) ∧
     (s.epoch.stage = .keep → s.epoch.keepValid = false → (kept s).epoch.swaps ≠ [] →
       exec .keepWriteDone s = .next (sendSwap (kept s))) ∧
     (writeKeep s).epoch.keepValid = true ∧
     (∀ w, s.epoch.swaps.find? (fun w => w.spare == s.fab.position) = some w → s.run.me = none → s.epoch.got ≠ 0 →
       s.epoch.got = copyField s.epoch.incoming 0 0x18 8 →
       let v := placePlan { s with run := { s.run with me := some w.logical } }
       let n := copyField s.epoch.incoming 0 0x08 8
       (headerOk s.epoch.incoming 0 n v = false → exec .swapCopyDone s = .next { v with run := { v.run with me := none } }) ∧
       (headerOk s.epoch.incoming 0 n v = true → v.epoch.incomingBad = [] → exec .swapCopyDone s = .next (
         let x := applyShards s.epoch.incoming [] 0 (applyRecord s.epoch.incoming 0
           (putRange s.epoch.incoming [] 0 .hbm (keepBase v) (copySize v) v))
         let y := { x with epoch := { x.epoch with
           stage := .keep, has := true, commit := n, passes := x.run.passes, next := x.run.phase, keepValid := true, incoming := [], got := 0 } }
         sendMsgPos (.restored y.epoch.serial [w.logical]) (coordPos y) y))))

/-- Faults and stops at a running member (R410, R417, R419, R424, R528): a fault without an intact copy, or in a plan without epochs, stops the
span as unrecoverable; one of a device that counts itself lost declares the loss; any other starts a rollback; STOP ends the plan with its status;
and STOP_REQ at the coordinator stops the span, or marks the next boundary.

Liveness (R416): a suspect that is not under confirmation is probed; PROBE is answered with its number; PROBE_ACK of an active position
ends its misses and its confirmation; and each tick probes every target, or advances every confirmation. -/
def Obligations.FaultsStopsAndLiveness : Prop :=
  (∀ (s : State) (p : Packet),
     let u := takeIngress p s
     (∀ cause src self, msgOf p = some (.fault cause src self) → planRuns u = true → fromMember p u = true →
       (cause = 0xA00A → exec (.fault p) s = .next (unrecoverable [p.source] u)) ∧
       (epochRec u = none → exec (.fault p) s = .next (unrecoverable [p.source] u)) ∧
       (∀ r, cause ≠ 0xA00A → epochRec u = some r → self = true → exec (.fault p) s = .next (declareLost p.source 2 u)) ∧
       (∀ r, cause ≠ 0xA00A → epochRec u = some r → self = false → exec (.fault p) s = .next (startRollback [] u))) ∧
     (∀ st, msgOf p = some (.stop st) → ours p (relayMsg p u) = true →
       ((relayMsg p u).run.st = .run ∨ (relayMsg p u).run.st = .hold ∨ (relayMsg p u).run.st = .waiting) →
       exec (.stop p) s = .next (endPlan st (relayMsg p u))) ∧
     (∀ later, msgOf p = some (.stopReq later) →
       (isCoordinator u = false → exec (.stopReq p) s = .next u) ∧
       (fromMember p u = true → isCoordinator u = true →
         ((later = false ∨ u.run.st = .waiting) → exec (.stopReq p) s = .next (broadcastMsg (.stop 2) u)) ∧
         (later = true → u.run.st ≠ .waiting → exec (.stopReq p) s = .next { u with run := { u.run with stopAtBoundary := true } })))) ∧
  (∀ (s : State) (p : Packet) (d n : Nat),
     let u := takeIngress p s
     (∀ pos, msgOf p = some (.suspect d) → physOf u d = some pos → planRuns u = true → fromMember p u = true →
       u.epoch.confirming.any (fun e => e.1 == d) = false → exec (.suspect p) s = .next (sendProbe pos { u with epoch := { u.epoch with
         confirming := SMap.set 0 u.epoch.confirming d 1
         causes := SMap.set 0 u.epoch.causes d
           (if (if p.phys then some p.source else physOf u p.source) = probedBy u pos then 0 else 1) } })) ∧
     (msgOf p = some (.suspect d) → physOf u d = none → exec (.suspect p) s = .next u) ∧
     (msgOf p = some (.probe n) → exec (.probe p) s =
       .next (if p.phys then sendMsgPos (.probeAck n) p.source u else sendMsg (.probeAck n) p.source u)) ∧
     (msgOf p = some (.probeAck n) → posActive u p.source = true → exec (.probeAck p) s = .next { u with epoch := { u.epoch with
       awaiting := u.epoch.awaiting.filter (· ≠ p.source), missed := SMap.erase p.source u.epoch.missed
       confirming := SMap.erase (SMap.get {} (roster u) p.source).logical u.epoch.confirming } }) ∧
     (spanRuns s = false → exec .probeTick s = .next s) ∧
     (spanRuns s = true → s.epoch.confirming = [] → exec .probeTick s = .next (forEach (probeTargets s) probeOne
       { s with epoch := { s.epoch with awaiting := s.epoch.awaiting.filter (probeTargets s).contains } })) ∧
     (spanRuns s = true → s.epoch.confirming ≠ [] → exec .probeTick s = .next (forEach (s.epoch.confirming.map (·.1)) confirmOne s)) ∧
     (SMap.get 0 s.epoch.confirming d ≠ 0 → ∀ pos, physOf s d = some pos →
       (SMap.get 0 s.epoch.confirming d < 3 → confirmOne d s = sendProbe pos
         { s with epoch := { s.epoch with confirming := SMap.set 0 s.epoch.confirming d (SMap.get 0 s.epoch.confirming d + 1) } }) ∧
       (3 ≤ SMap.get 0 s.epoch.confirming d → confirmOne d s = declareLost d (SMap.get 0 s.epoch.causes d)
         { s with epoch := { s.epoch with confirming := SMap.erase d s.epoch.confirming } })))

/-- Rollback and restore (R418 to R421): ROLLBACK with a higher serial is taken by a running, holding or waiting member and by no other; a
device of another span serves its lease; and with all transfers complete a device restores from its image, its copy or its keep, reports an
unrecoverable fault where no intact copy is left, or fetches poisoned lines of its keep first. Poisoned lines are tested and repaired before the
copy is placed, and a device without a spare left for one is lost; a projection engine due for it recalibrates before the device reports.

The restart (R411, R419, R422, R423): RESTORED of the present rollback is gathered, and the coordinator names a restart 100 us ahead;
RESTART notes the hall time; at that time the device runs again, by its restore or by its swap; and a span that waits for a spare records so and
rolls back once a spare is free. -/
def Obligations.RollbackAndRestart : Prop :=
  (∀ (s : State) (p : Packet) (target serial : Nat) (lost : List Lost) (next : Nat) (passes : List (Nat × Nat)) (failed : List LineTest),
     let u := relayMsg p (takeIngress p s)
     let spare := s.epoch.lostList.any (fun l => l.spare == some s.fab.position)
     let open' := s.epoch.stage = .rollback ∧ s.epoch.restored = false ∧ s.epoch.placed = false ∧ s.run.me.isSome = true ∧
       s.epoch.xfers.any (fun x => !x.phys && decide (x.acked < x.size)) = false
     (msgOf p = some (.rollback target serial lost next passes) →
       (ours p u = false → exec (.rollback p) s = .next (rollbackForeign target lost u)) ∧
       (ours p u = true → serial ≤ u.epoch.serial → exec (.rollback p) s = .next u) ∧
       (ours p u = true → u.epoch.serial < serial → (u.run.st = .run ∨ u.run.st = .hold ∨ u.run.st = .waiting) →
         exec (.rollback p) s = .next (rollbackHere target serial lost next passes u))) ∧
     (s.epoch.stage ≠ .rollback → exec .restoreDone s = .next s) ∧
     (open' → s.epoch.noCopy = true → exec .restoreDone s = .next (noIntactCopy s)) ∧
     (open' → s.epoch.noCopy = false →
       (spare = true → (mySections s).shards = [] → exec .restoreDone s = .next (restoreHere restoreImage s)) ∧
       (spare = true → (mySections s).shards ≠ [] → copySize s ≤ s.epoch.got →
         (headerOk s.epoch.incoming 0 s.epoch.target s = false → exec .restoreDone s = .next (noIntactCopy s)) ∧
         (headerOk s.epoch.incoming 0 s.epoch.target s = true → s.epoch.incomingBad = [] →
           exec .restoreDone s = .next (restoreHere restoreIncoming s))) ∧
       (spare = false → keepBad s = [] → headerOk s.mem.hbm (keepBase s) s.epoch.target s = true →
         exec .restoreDone s = .next (restoreHere restoreKeep s)) ∧
       (spare = false → keepBad s = [] → headerOk s.mem.hbm (keepBase s) s.epoch.target s = false →
         exec .restoreDone s = .next (noIntactCopy s)) ∧
       (spare = false → keepBad s ≠ [] → fetching s = false →
         (partnerHolds s = true → exec .restoreDone s = .next (fetchLines s)) ∧
         (partnerHolds s = false → exec .restoreDone s = .next (noIntactCopy s)))) ∧
     (∀ restore, restoreHere restore s = restoreTested (Config.lineTests s.free) restore (useFree s) ∧
       ((testLines failed s).2 = none → restoreTested failed restore s = placedHere (restore (zeroAllPoisoned (testLines failed s).1))) ∧
       (∀ st, (testLines failed s).2 = some st → restoreTested failed restore s = epochFault (fatalCode st) srcDevice true
         { (testLines failed s).1 with epoch := { (testLines failed s).1.epoch with restored := true } })) ∧
     (recalling (restartRecal s) = false → placedHere s = restoredHere (restartRecal s)) ∧
     (recalling (restartRecal s) = true →
       placedHere s = { restartRecal s with epoch := { (restartRecal s).epoch with placed := true } })) ∧
  (∀ (s : State) (p : Packet) (n : Nat),
     let u := takeIngress p s
     let v := relayMsg p u
     (∀ ds, msgOf p = some (.restored n ds) →
       let new := ds.foldl (fun acc d => insertNat d acc) u.epoch.restoreds
       let w := { u with epoch := { u.epoch with restoreds := new } }
       (s.epoch.serial < n → exec (.restored p) s = .next s) ∧
       (n < s.epoch.serial → n ≠ u.epoch.serial → exec (.restored p) s = .next u) ∧
       (n = s.epoch.serial → n = u.epoch.serial → ours p u = true → u.epoch.swaps = [] → allIn (gatherFor w).1 new = false →
         exec (.restored p) s = .next w) ∧
       (n = s.epoch.serial → n = u.epoch.serial → ours p u = true → u.epoch.swaps = [] → allIn (gatherFor w).1 new = true →
         allIn (gatherFor w).1 u.epoch.restoreds = false → (gatherFor w).2 = none →
         u.epoch.lostSent.any (fun l => l.spare.isNone) = false → exec (.restored p) s =
           .next (broadcastMsg (.restart (hallPlus w.time.hall 100000)) w))) ∧
     (∀ t, msgOf p = some (.restart t) → ours p v = true → v.epoch.stage = .rollback →
       exec (.restart p) s = .next { v with epoch := { v.epoch with restartAt := some t } }) ∧
     (s.epoch.restartAt = none → exec .restartTime s = .next s) ∧
     (∀ t, s.epoch.restartAt = some t → s.epoch.swaps = [] → (s.run.me = none ∨ s.epoch.restored = true) →
       exec .restartTime s = .next (restartHere t (reachTime t s))) ∧
     (∀ t, s.epoch.restartAt = some t → s.epoch.swaps ≠ [] → (s.run.me = none ∨ s.epoch.keepValid = true) →
       exec .restartTime s = .next (resumeSwap t (reachTime t s))) ∧
     (s.run.st ≠ .waiting → exec .noSpare s = .next s) ∧
     (s.run.st = .waiting → let l := logEvent 0xA009 srcDevice [] s
       (isCoordinator l = false → exec .noSpare s = .next l) ∧
       (isCoordinator l = true → l.epoch.lostSent.any (fun l' => l'.spare.isNone && (freeSpare l [] l'.physical).isSome) = true →
         exec .noSpare s = .next (startRollback [] l))))

/-- Exchanges (R432, R433, R436, R438): a parent sends SYNC and FOLLOW to a time child and answers DELAY_REQ with the arrival stamp; a child
stamps the arrival of its parent's SYNC, answers its FOLLOW with DELAY_REQ, and with DELAY_RESP has its delay (half the sum of the two
differences of the stamps) and offset (half their difference), of which a valid exchange is used and any other ends the run of good ones.

Discipline lost and taken over (R430, R431, R436, R441): the backup announces itself after 1 s without the primary, and MASTER_TAKE makes it
the active master; a LOCKED device without exchanges holds over, one in ACQUIRING or a HOLDOVER that lasts too long runs free, and a LOCKED device
records an offset that stays high.

The second boundary and the master's inputs (R431, R437 to R440): a boundary brings hall time to its next whole second, applies a step
that is due, then TIME's commit, and gives the pulse of the label reached, 100 us wide while LOCKED and 200 us while holding over or running free;
an edge of TIME_PPS_IN counts as a good second; and the loss of an input is recorded and holds over a LOCKED master that uses it. -/
def Obligations.HallTimeRules : Prop :=
  (∀ (s : State) (p : Packet) (child q st fl : Nat) (t1 t2 t3 t4 : HallTime) (resent : Bool),
     let u := refreshParent (takeIngress p s)
     (parentOfPos s child = some s.fab.position → child < 32768 →
       (let v := modTime (fun t => { t with syncSeq := (s.time.syncSeq + 1) % 65536 }) s
        let a := Msg.sync s.time.syncSeq s.time.st.code (timeFlags v resent)
        let w := sendMsgPos a child v
        exec (.syncTick child t1 resent) s =
         .next (sendMsgPos (.follow t1 s.time.syncSeq s.time.st.code (timeFlags v resent)) child w)) ∧
       exec (.announceTick child) s = .next (sendMsgPos (.announce s.time.hops s.time.st.code (timeFlags s false)) child s)) ∧
     (parentOfPos s child ≠ some s.fab.position → exec (.syncTick child t1 resent) s = .next s ∧ exec (.announceTick child) s = .next s) ∧
     (p.body = .msg (.sync q st fl) →
       (fromParent u p = true → exec (.sync p t2) s = .next { u with time := { u.time with ex := { seq := q, bad := bit fl 0, t2 := some t2 } } }) ∧
       (fromParent u p = false → exec (.sync p t2) s = .next u)) ∧
     (p.body = .msg (.follow t1 q st fl) → fromParent u p = true → u.time.ex.seq = q → u.time.ex.t2 = some t2 →
       (let v : State := { u with time := { u.time with
         reqSeq := (u.time.reqSeq + 1) % 65536
         ex := { u.time.ex with t1 := some t1, t3 := some t3, reqSeq := u.time.reqSeq, bad := u.time.ex.bad || bit fl 0 || resent } } }
        exec (.follow p t3 resent) s =
         .next (sendMsgPos (.delayReq u.time.reqSeq u.time.st.code (timeFlags v resent)) p.source v))) ∧
     (p.body = .msg (.delayReq q st fl) → let v := takeIngress p s
       exec (.delayReq p t4) s = .next (sendMsgPos (.delayResp t4 q v.time.st.code (timeFlags v (bit fl 0))) p.source v)) ∧
     (p.body = .msg (.delayResp t4 q st fl) → u.time.ex.t1 = some t1 → u.time.ex.t2 = some t2 → u.time.ex.t3 = some t3 →
       fromParent u p = true → u.time.ex.reqSeq = q →
       let a : Int := (fine t2 : Int) - fine t1
       let b : Int := (fine t4 : Int) - fine t3
       let v := modTime (fun t => { t with ex := {}, hold := bit fl 1, selfRef := bit fl 2 }) u
       ((u.time.ex.bad = true ∨ bit fl 0 = true ∨ 2500 * 65536 < (a + b) / 2 ∨ (st ≠ 1 ∧ st ≠ 2)) →
         exec (.delayResp p) s = .next (modTime (fun t => { t with goodRun := 0 }) v)) ∧
       (u.time.ex.bad = false → bit fl 0 = false → (st = 1 ∨ st = 2) → (a + b) / 2 ≤ 2500 * 65536 →
         exec (.delayResp p) s = .next (validExchange ((a - b) / 2) (useFree (modTime (fun t => { t with
           offsetPs := sext 32 (freeWord v).toNat, delayPs := (finePs ((a + b) / 2)).toNat }) v))))) ∧
     (∀ h, p.body = .msg (.announce h st fl) →
       (fromParent u p = true → exec (.announce p) s =
         .next { u with time := { u.time with hops := min 7 (h + 1), hold := bit fl 1, selfRef := bit fl 2 } }) ∧
       (fromParent u p = false → exec (.announce p) s = .next u))) ∧
  (∀ (s : State) (p : Packet) (h : HallTime) (st fl : Nat) (lane : Bool),
     let u := relayMsg p (takeIngress p s)
     (p.body = .msg (.masterTake h st fl) →
       (u.time.backupActive = true → exec (.masterTake p) s = .next u) ∧
       (u.time.backupActive = false → exec (.masterTake p) s =
         .next (masterLock (refreshParent (modTime (fun t => { t with backupActive := true }) (logEvent 0x4008 srcDevice [] u)))))) ∧
     (s.time.ctl.backupEnable = true → s.time.backupActive = false → s.fab.position = s.time.ctl.backup →
       exec .backupTakeoverTimer s = .next (broadcastMsg (.masterTake s.time.hall s.time.st.code (timeFlags s false)) s)) ∧
     (s.time.ctl.backupEnable = false → exec .backupTakeoverTimer s = .next s) ∧
     (s.time.st = .locked →
       (isMaster s = false → Yields (.timeExchangeTimeout lane) s (fun t => t.time.st = .holdover ∧ t.time.corrected = false ∧ t.time.slew = 0)) ∧
       (isMaster s = true → exec (.timeExchangeTimeout lane) s = .next s) ∧
       (offsetBoundPs s < s.time.offsetPs.natAbs → exec .timeOffsetHigh s = .next (logEvery 0x400A 0 3600000000000 srcDevice [] s)) ∧
       (s.time.offsetPs.natAbs ≤ offsetBoundPs s → exec .timeOffsetHigh s = .next s)) ∧
     (s.time.st ≠ .locked → exec (.timeExchangeTimeout lane) s = .next s ∧ exec .timeOffsetHigh s = .next s) ∧
     (s.time.st = .acquiring → Yields .acquireFreerunTimeout s (fun t => t.time.st = .freerun)) ∧
     (s.time.st = .holdover → s.time.ctl.limitMin ≠ 0 → Yields .holdoverLimit s (fun t => t.time.st = .freerun)) ∧
     (s.time.ctl.limitMin = 0 → exec .holdoverLimit s = .next s)) ∧
  (∀ (s : State) (ok : Bool),
     (∃ t, exec (.secondBoundary ok) s = .next t) ∧
     (s.time.stepDue = none → (s.time.hall.ns ≠ 0 ∨ s.time.hall.frac ≠ 0) →
       exec (.secondBoundary ok) s = .next (emitPulse (masterLock (commitTime
         (let v := reachTime { sec := s.time.hall.sec + 1 } s
          if ok then refGood v else modTime (fun t => { t with refRun := 0 }) v))))) ∧
     (∀ p, s.time.pulsed = some p → p < s.time.hall.sec → s.time.st = .locked → s.time.hold = false →
       emitPulse s = { s with time := { s.time with pulsed := some s.time.hall.sec, pulses := s.time.pulses + 1, pulseUs := 100 } }) ∧
     (∀ p, s.time.pulsed = some p → p < s.time.hall.sec → (s.time.st = .holdover ∨ s.time.st = .freerun) →
       emitPulse s = { s with time := { s.time with pulsed := some s.time.hall.sec, pulses := s.time.pulses + 1, pulseUs := 200 } }) ∧
     (∀ p, s.time.pulsed = some p → s.time.hall.sec ≤ p → emitPulse s = s) ∧
     (isMaster (ppsGood s) = false → exec .ppsInEdge s = .next (ppsGood s)) ∧
     (isMaster (ppsGood s) = true → (ppsGood s).time.ctl.usePps = true → (ppsGood s).time.ppsOk = true → (ppsGood s).time.st = .locked →
       exec .ppsInEdge s = .next (masterLock (modTime (fun t => { t with slew := ppsOffset (ppsGood s) }) (ppsGood s)))) ∧
     (s.time.ppsRun = 2 → s.time.ppsLost = false → (ppsGood s).time.ppsOk = true) ∧
     (s.time.refOk = false → exec (.timeRefLost true) s = .next s) ∧
     (s.time.refOk = true → Yields (.timeRefLost true) s (fun t => t.time.refOk = false ∧ t.time.refLost = true)) ∧
     (s.time.ppsOk = true → Yields (.timeRefLost false) s (fun t => t.time.ppsOk = false ∧ t.time.ppsLost = true)))

/-- The regulators (R446, R447): an acknowledged change is read back, a read within 10 mV confirms it, a failed one is counted, recorded and
issued again, and the third failure in a row that brings the rail no nearer holds it at its confirmed voltage until the host clears the fault. -/
def Obligations.RailChanges : Prop :=
  ∀ (s : State) (r mv st frame t : Nat), r < s.power.rails.length →
    let x := railOf s r
    exec (.avsResponse r (.current t)) s = .next (modRail r (fun x => { x with current := min t 65535 }) s) ∧
    (x.change = some .written → exec (.avsResponse r .ack) s = .next (modRail r (fun x => { x with change := some .reading }) s)) ∧
    (x.change ≠ some .written → exec (.avsResponse r .ack) s = .next s) ∧
    (x.change = some .reading → farMv mv x.request ≤ 10 → exec (.avsResponse r (.volts mv)) s = .next (confirmRail r s)) ∧
    (10 < farMv mv x.request → exec (.avsResponse r (.volts mv)) s = .next s) ∧
    (x.change = some .written → exec (.avsResponse r (.notDone st)) s = .next (railFail r x.gap .retry
      (logEvery 0x2021 r 1000000000 srcDevice [(2, st)] (modRail r (fun x => { x with notDone := satAdd 16 x.notDone 1 }) s)))) ∧
    (let v := logEvery 0x2020 r 1000000000 srcDevice [(4, r), (8, frame)] (modRail r (fun x => { x with crc := satAdd 16 x.crc 1 }) s)
     (x.change = some .written → 10 < farMv mv x.request →
        exec (.avsResponse r (.bad frame mv)) s = .next (railFail r (farMv mv x.request) .written v)) ∧
     (x.change = some .written → farMv mv x.request ≤ 10 →
        exec (.avsResponse r (.bad frame mv)) s = .next (modRail r (fun x => { x with change := some .reading }) v)) ∧
     (x.change = none → exec (.avsResponse r (.bad frame mv)) s = .next v)) ∧
    (x.change = some .reading → exec (.avsReadbackTimeout r mv) s = .next (railFail r (farMv mv x.request) .written
      (logEvery 0x2022 r 1000000000 srcDevice [(8, x.request), (8, mv)] (modRail r (fun x => { x with readback := satAdd 16 x.readback 1 }) s)))) ∧
    (x.change = some .retry → exec (.avsRetryDelay r) s = .next (modRail r (fun x => { x with change := some .written }) s)) ∧
    (x.change ≠ some .retry → exec (.avsRetryDelay r) s = .next s) ∧
    (HostServed s → exec (.railFaultClear r) s = .next (modRail r (fun x => { x with faulted := false, fails := 0 }) (hostPosted s))) ∧
    (∀ gap next, x.gap ≤ gap → x.fails = 2 → (railOf (railFail r gap next s) r).faulted = true ∧
      (railOf (railFail r gap next s) r).change = none ∧ (railOf (railFail r gap next s) r).confirmed = x.confirmed) ∧
    (∀ gap next, x.gap ≤ gap → x.fails < 2 → railFail r gap next s =
      modRail r (fun y => { y with fails := x.fails + 1, gap := min gap y.gap, change := some next }) s)

/-- The rate-keeper (R448 to R453): it does not run in WATCH; in HOLD an interval notes the rates and leaves the rails; the largest of the dies'
asks moves a rail's request, 25 mV up where the canary is below 0.97 times the target, 10 mV up where it is below the target and 5 mV down after
ten fast intervals, never beyond the rail's range, whose low end never stands above its high end.

Package power, droop and undervoltage (R452, R454, R455): nine measurements are gathered and the tenth gives the average the cap is held
to; above it the cap rate falls by one part in a hundred, never below 500; a droop of more than 40 mV for at least 50 ns counts and is recorded;
and an undervoltage of more than 5 us is a fault of the device, which is lost by the third within an hour. -/
def Obligations.PowerRules : Prop :=
  (∀ (s : State) (rates : List Nat) (j k : Nat),
     (s.power.st = .watch → exec (.controlInterval rates) s = .next s) ∧
     (s.power.st = .hold → s.hub.ready = true → ∃ t, exec (.controlInterval rates) s = .next t ∧
       (∀ i, (railOf t i).request = (railOf s i).request ∧ (railOf t i).confirmed = (railOf s i).confirmed)) ∧
     (s.power.st ≠ .watch → s.hub.ready = true → ∃ t, exec (.controlInterval rates) s = .next t) ∧
     (100 * (rateOf s k).canary < 97 * dieTarget s k → dieAsk s k = 25) ∧
     (97 * dieTarget s k ≤ 100 * (rateOf s k).canary → (rateOf s k).canary < dieTarget s k → dieAsk s k = 10) ∧
     (dieTarget s k ≤ (rateOf s k).canary → 10 ≤ (rateOf s k).fast → dieAsk s k = -5) ∧
     (dieTarget s k ≤ (rateOf s k).canary → (rateOf s k).fast < 10 → dieAsk s k = 0) ∧
     (railRange s j).1 ≤ (railRange s j).2.1 ∧ (railRange s j).2.1 ≤ 900 ∧
     ((railOf s j).change.isSome = true → keepRail j s = s) ∧ ((railOf s j).faulted = true → keepRail j s = s)) ∧
  (∀ (s : State) (w die depth mv ns : Nat),
     (s.power.samples.length < 9 → exec (.powerMeasure w) s = .next { s with power := { s.power with samples := s.power.samples ++ [w] } }) ∧
     (9 ≤ s.power.samples.length → exec (.powerMeasure w) s = .next (adjustCap { s with power := { s.power with
       samples := [], avgW := min 65535 ((s.power.samples ++ [w]).foldl (· + ·) 0 / 10) } })) ∧
     (capInForce s < s.power.avgW → 500 ≤ (adjustCap s).power.rateCap ∧ (adjustCap s).power.capActive = true) ∧
     ((depth ≤ 40 ∨ ns < 50) → exec (.droop die depth ns) s = .next s) ∧
     (40 < depth → 50 ≤ ns → die < 8 → exec (.droop die depth ns) s =
       .next (logEvery 0x2010 (die / 2) 10000000 srcDevice [(4, die), (8, depth), (8, ns)]
         (modDroop (die / 2) (fun d => { d with count := satAdd 32 d.count 1, deepest := max d.deepest (min depth 65535) }) s))) ∧
     ((500 ≤ mv ∨ ns ≤ 5000) → exec (.vcoreUndervolt die mv ns) s = .next s) ∧
     (mv < 500 → 5000 < ns → die < 8 →
       let v := logEvent 0x2011 srcDevice [(4, die), (8, mv), (8, ns)] (modDroop (die / 2) (fun d => { d with under := satAdd 16 d.under 1 }) s)
       let recent := v.power.underAt.filter (fun t => decide (durationNs v t (nowNs s) < 3600000000000))
       exec (.vcoreUndervolt die mv ns) s = .next (epochFault 0x2011 srcDevice (decide (2 ≤ recent.length))
         { v with power := { v.power with underAt := nowNs s :: recent } })))

/-- Power domains (R462 to R466): DOMAIN_POWER_OFF drains a domain no plan uses, is refused with BUSY where one does and FORCE is not set, and
is done at once for one that is off; DOMAIN_POWER_ON waits for the domain, and is refused where it is disabled; a drained domain goes off once what
depends on it is down, and a waking one comes on, or fails, and the commands that waited complete. -/
def Obligations.PowerDomains : Prop :=
  ∀ (s : State) (q id d : Nat) (force ok : Bool), d < 24 →
    let t := takeCmd q id s
    let waits := fun (t : State) => { t with hub := { t.hub with domWaiters := t.hub.domWaiters ++ [(d, { queue := q, cmdId := id % 65536 })] } }
    (cmdDue s q = true →
      ((domOf t d).st = .off → exec (.domainPowerOff q id false d force) s = .next (endCmd q id 0 t)) ∧
      ((domOf t d).st = .failed → exec (.domainPowerOff q id false d force) s =
        .next (endCmd q id 0 (modDom d (fun x => { x with st := .off }) t))) ∧
      ((domOf t d).st = .draining → exec (.domainPowerOff q id false d force) s = .next (waits t)) ∧
      ((domOf t d).st = .on → (domTree d).any (domUsed t) = false →
        exec (.domainPowerOff q id false d force) s = .next (waits (drainDom 0 d t))) ∧
      ((domOf t d).st = .on → (domTree d).any (domUsed t) = true → force = false →
        exec (.domainPowerOff q id false d force) s = .next (endCmd q id 2 t)) ∧
      ((domOf t d).st = .on → (domTree d).any (domUsed t) = true → force = true → planRuns t = true ∨ t.run.st = .hold →
        exec (.domainPowerOff q id false d force) s = .next (waits
          (sendMsg (.stopReq true) (coordinatorOf t) (modDom d (fun x => { x with forced := true }) t)))) ∧
      ((domOf t d).st = .on → (domTree d).any (domUsed t) = true → force = true → planRuns t = false → t.run.st ≠ .hold →
        exec (.domainPowerOff q id false d force) s = .next (waits (drainDom 1 d t))) ∧
      ((domOf t d).adminOff = true → exec (.domainPowerOn q id false d) s = .next (endCmd q id 2 t)) ∧
      ((domOf t d).adminOff = false → (domOf t (d % 8)).adminOff = false →
        ((domOf t d).st = .on → exec (.domainPowerOn q id false d) s = .next (endCmd q id 0 t)) ∧
        ((domOf t d).st ≠ .on → exec (.domainPowerOn q id false d) s = .next (raiseDom d (waits t))))) ∧
    ((domOf s d).st ≠ .draining → exec (.domainOffComplete d) s = .next s) ∧
    ((domOf s d).st = .draining → ((domTree d).filter (· ≠ d)).any (fun i => decide ((domOf s i).st = .draining)) = false →
      (domOf s d).upPending = false → exec (.domainOffComplete d) s = .next (answerDom d 0 (modDom d (fun x => { x with upPending := false })
        (logEvent 0x2031 srcDevice [(4, d), (4, (domOf s d).cause)] (openSwitch d s))))) ∧
    ((domOf s d).st ≠ .waking → exec (.domainOnComplete d ok) s = .next s) ∧
    ((domOf s d).st = .waking → (d < 8 ∨ (domOf s (d % 8)).st ≠ .waking) →
      (ok = true → canRise s d = true → exec (.domainOnComplete d ok) s = .next (answerDom d 0 (logEvent 0x2032 srcDevice [] (domOn d s)))) ∧
      ((ok = false ∨ canRise s d = false) → exec (.domainOnComplete d ok) s =
        .next (answerDom d 7 (logEvent 0x2031 srcDevice [(4, d), (4, 3)] (modDom d (fun x => { x with st := .failed }) s)))))

/-- The memory a compute die loses with its power (R462): every byte of its SP and CS reads as nothing written, and every byte of the other
dies, of HBM and of host memory reads as before. -/
def Obligations.PowerOffForgetsTheDie : Prop :=
  ∀ (s : State) (k a : Nat), s.mem.sp.wf = true → s.mem.cs.wf = true →
    (2 ^ 32 * k ≤ a → a < 2 ^ 32 * k + 2 ^ 32 → (loseDie k s).mem.sp.read a = 0) ∧
    ((a < 2 ^ 32 * k ∨ 2 ^ 32 * k + 2 ^ 32 ≤ a) → (loseDie k s).mem.sp.read a = s.mem.sp.read a) ∧
    (2 ^ 26 * k ≤ a → a < 2 ^ 26 * k + 2 ^ 26 → (loseDie k s).mem.cs.read a = 0) ∧
    ((a < 2 ^ 26 * k ∨ 2 ^ 26 * k + 2 ^ 26 ≤ a) → (loseDie k s).mem.cs.read a = s.mem.cs.read a) ∧
    (loseDie k s).mem.hbm = s.mem.hbm ∧ (loseDie k s).mem.host = s.mem.host ∧ (loseDie k s).tallies = s.tallies

/-- WATCH (R457, R458, R460, R479): refused with BUSY while a plan, a load, a lease, a drain or a calibration write stands; entered otherwise,
after which the device is not READY; a wake of cause 1 to 3 starts the wake path; and a round in WATCH wakes for the first sensor that reads hot.

Temperature (R469 to R478): a round applies THM's commit, classifies its sensors and, unless it trips, applies request and enforcement;
the grace of a die expires; a trip stops the device, and a second one changes nothing; and the next thermal rate falls by
fifteen or five parts in a hundred above the limit or the threshold, never below 500. -/
def Obligations.WatchAndTemperature : Prop :=
  (∀ (s : State) (q id cause : Nat) (rs : List SensorRead) (railC : List Nat),
     let t := takeCmd q id s
     (cmdDue s q = true →
       (watchBusy t = true → exec (.watch q id false) s = .next (endCmd q id 2 t)) ∧
       (watchBusy t = false → exec (.watch q id false) s = .next (enterWatch (endCmd q id 0 t)))) ∧
     (enterWatch s).power.st = .watch ∧ (enterWatch s).hub.ready = false ∧
     (1 ≤ cause → cause ≤ 3 → exec (.watchWake cause) s = .next (startWake cause s)) ∧
     ((cause = 0 ∨ 3 < cause) → exec (.watchWake cause) s = .next s) ∧
     (s.power.st ≠ .watch → exec (.watchRound rs railC) s = .next s) ∧
     (s.power.st = .watch → s.power.waking = false →
       (∀ r, rs.find? (fun r => (watchSensors s).contains r.n && watchHot s r) = some r →
         exec (.watchRound rs railC) s = .next (startWake 3 (logEvent 0x3008 srcDevice [(4, r.n)] s))) ∧
       (rs = [] → railC = [] → exec (.watchRound rs railC) s = .next s))) ∧
  (∀ (s : State) (rs : List SensorRead) (k n : Nat) (reading g : Int) (r c : Nat),
     let read := forEach (List.range 8) noteGoverning
       (forEach (rs.filter (fun r => decide (r.n < 144))) noteSensor (commitThermal s))
     let round := owlTrip (modThm (fun t => { t with hottest := hottestSensor read }) read)
     (s.power.st = .watch → exec (.thermalRound rs) s = .next s) ∧
     (s.power.pwrOk = true → s.power.st ≠ .watch → s.power.tripped = false → s.boot.clkLost = false →
       (round.power.tripped = false → exec (.thermalRound rs) s = .next (forEach (List.range 8) enforceDie (noteRequest round))) ∧
       (round.power.tripped = true → exec (.thermalRound rs) s = .next round)) ∧
     ((dieTherm s k).grace.isSome = true →
       exec (.graceExpire k) s = .next (modDieTherm k (fun d => { d with expired := true }) s)) ∧
     ((dieTherm s k).grace = none → exec (.graceExpire k) s = .next s) ∧
     (s.power.pwrOk = true → exec (.thermTrip n reading) s = .next (trip n reading s)) ∧
     (s.thermal.tripPin = false → (trip n reading s).hub.ready = false ∧ (trip n reading s).hub.l0 = false) ∧
     (s.thermal.tripPin = true → trip n reading s = s) ∧
     500 ≤ nextRate g r c ∧
     (80 < g → 500 ≤ 85 * min r c / 100 → nextRate g r c = 85 * min r c / 100) ∧
     (0 < g → g ≤ 80 → 500 ≤ 95 * min r c / 100 → nextRate g r c = 95 * min r c / 100) ∧
     (-48 ≤ g → g ≤ 0 → 500 ≤ r → nextRate g r c = r) ∧ (g < -48 → 500 ≤ 102 * r / 100 → nextRate g r c = 102 * r / 100))

/-- Resets (R461, R482 to R484, R550): the loss of PWR_OK loses everything but what flash, fuses and the patch store hold and host memory; a
cold start begins the cold path at its first step; a pulse of WARM_RST_N of at least 1 us warm resets, one below 0.9 us is ignored, and one between
is forbidden and faults; a warm reset takes the fast path once READY was reached and no trip is latched, and keeps hall time and host memory.

Boot and wake (R460, R485, R487 to R490, R549): the next step of the path under way completes with what it found; a tripped device
powers nothing after its second step, and one on which a test instruction ran or whose reference clock is lost completes none; the last step of the cold path makes the device READY;
a stack is trained anew; and the fabric's training is recorded once. -/
def Obligations.ResetsAndBoot : Prop :=
  (∀ (s : State) (ns : Nat),
     (s.power.pwrOk = true → ∃ t, exec .pwrOkFall s = .next t ∧ t.mem.host = s.mem.host ∧ t.boot.flash = s.boot.flash ∧
       t.hub.patches = s.hub.patches ∧ t.mem.sp = [] ∧ t.mem.hbm = [] ∧ t.mem.cs = [] ∧ t.tallies = [] ∧ t.run.plan = none ∧ t.power.pwrOk = false) ∧
     (s.power.pwrOk = false → exec .pwrOkFall s = .next s ∧ exec (.warmRstN ns) s = .next s ∧
       ∃ t, exec .coldStart s = .next t ∧ t.power.pwrOk = true ∧ t.boot.path = .cold ∧ t.boot.step = 0 ∧ t.hub.ready = false) ∧
     (s.power.pwrOk = true → exec .coldStart s = .next s ∧
       (1000 ≤ ns → exec (.warmRstN ns) s = .next (startWarm s)) ∧
       (ns < 900 → exec (.warmRstN ns) s = .next s) ∧
       (900 ≤ ns → ns < 1000 → exec (.warmRstN ns) s = .fault .warmResetForbidden) ∧
       exec .mgmtWarmReset s = .next (startWarm (mgmtAdmin 1200 1 s)) ∧
       exec .mgmtWake s = .next (startWake 2 (mgmtAdmin 1201 1 s))) ∧
     (s.boot.everReady = true → s.power.tripped = false → (startWarm s).boot.path = .warm ∧ (startWarm s).boot.step = 0 ∧
       (startWarm s).time = s.time ∧ (startWarm s).mem.host = s.mem.host ∧ (startWarm s).run.plan = none ∧ (startWarm s).hub.ready = false) ∧
     ((s.boot.everReady = false ∨ s.power.tripped = true) → (startWarm s).boot.path = .cold ∧ (startWarm s).boot.step = 1)) ∧
  (∀ (s : State) (r : BootResult) (stack : Nat),
     let next := modBoot (fun b => { b with step := s.boot.step + 1 }) s
     (s.boot.path = .none → exec (.bootStepComplete r) s = .next s) ∧
     (s.power.tripped = true → 3 ≤ s.boot.step → exec (.bootStepComplete r) s = .next s) ∧
     (s.boot.testRun = true → exec (.bootStepComplete r) s = .next s) ∧
     (s.boot.clkLost = true → exec (.bootStepComplete r) s = .next s) ∧
     (s.power.pwrOk = true → s.boot.testRun = false → s.boot.clkLost = false → s.power.tripped = false →
       (s.boot.path = .cold → exec (.bootStepComplete r) s = .next (coldStep (s.boot.step + 1) r next)) ∧
       (s.boot.path = .warm → exec (.bootStepComplete r) s = .next (warmStep (s.boot.step + 1) r next)) ∧
       (s.boot.path = .wake → exec (.bootStepComplete r) s = .next (wakeStep (s.boot.wakeStep + 1) r
         (modBoot (fun b => { b with wakeStep := s.boot.wakeStep + 1 }) s)))) ∧
     (coldStep 1 r s = if r.coreFail then bootFail 1 2 s else { s with fab := { s.fab with position := r.position % 32768 } }) ∧
     (∀ n, 8 ≤ n → (coldStep n r s).hub.ready = true ∧ (coldStep n r s).boot.everReady = true ∧ (coldStep n r s).boot.path = .none) ∧
     (stack < 16 → (SMap.get {} s.mem.hbmc stack).trained = false → s.boot.absentStacks.contains stack = false →
       (domOf s (8 + stack / 2)).st = .on → exec (.hbmStoredBad stack) s = .next (logEvent 0x5051 srcDevice []
         { s with mem := { s.mem with hbmc := SMap.modify {} s.mem.hbmc stack (fun h => { h with trained := true }) } })) ∧
     (s.hub.ready = true → s.boot.trained = false → fabricTried s = true → exec .fabricTrained s =
       .next (logEvent 0x5007 srcDevice [] (modBoot (fun b => { b with trained := true }) s))) ∧
     ((s.hub.ready = false ∨ s.boot.trained = true ∨ fabricTried s = false) → exec .fabricTrained s = .next s))

/-- Links inside the package, straps, the reference clock and the test port (R491, R500, R505 to R507, R549, R556): a module's retraining and a
spared hub link are counted and recorded; a second spare in one direction leaves the die unreachable; a strap that changes and a test instruction
after READY are recorded once; the loss of the reference clock takes READY away; and a calibration write completes, is tried again or fails.

The management path (R320, R463, R541 to R544): a sensor read answers the sensor's value from the first boot step on; an administrative
disable of a domain drains it, with a fault of the device where a plan uses it, and its removal lets it rise again; a port's disable is applied to
its lanes; two paths that disagree are counted and raise sensor 600, which clears again. -/
def Obligations.PackageAndManagement : Prop :=
  (∀ (s : State) (k m n pos : Nat) (up : Bool) (ins : TapIns),
     (k < 8 → m < 8 → domDown s (16 + k) = false → exec (.ucieRetrain k m) s = .next (logEvent 0x5034 srcDevice []
       (modBoot (fun b => { b with links := SMap.modify {} b.links k (fun l => { l with retrains := satAdd 16 l.retrains 1 }) }) s))) ∧
     (k < 8 → (SMap.get {} s.boot.hubLinks k).failed = false → domDown s k = false →
       (SMap.get {} s.boot.hubLinks k).up = false → 16 < n → exec (.hubLinkSpare k n true) s = .next (logEvent 0x5032 srcDevice []
         (modBoot (fun b => { b with hubLinks := SMap.modify {} b.hubLinks k (fun h => { h with up := true }) })
           (modBoot (fun b => { b with hubLinks := SMap.modify {} b.hubLinks k (fun h => { h with errors := satAdd 32 h.errors n }) }) s)))) ∧
     (k < 8 → (SMap.get {} s.boot.hubLinks k).failed = false → domDown s k = false →
       (SMap.get {} s.boot.hubLinks k).up = true → 16 < n → Yields (.hubLinkSpare k n true) s (fun t => t.boot.absentDies.contains k = true)) ∧
     (k < 8 → (SMap.get {} s.boot.hubLinks k).failed = false → domDown s k = false → n ≤ 16 → exec (.hubLinkSpare k n up) s =
       .next (modBoot (fun b => { b with hubLinks := SMap.modify {} b.hubLinks k (fun h => { h with errors := satAdd 32 h.errors n }) }) s)) ∧
     (s.power.pwrOk = true → pos ≠ s.fab.position → s.boot.strapLogged = false → exec (.posStrapChanged pos) s =
       .next (logEvent 0x5080 srcDevice [(2, s.fab.position), (2, pos)] (modBoot (fun b => { b with strapLogged := true }) s))) ∧
     ((pos = s.fab.position ∨ s.boot.strapLogged = true) → exec (.posStrapChanged pos) s = .next s) ∧
     (let load := fun (i : TapIns) => modBoot (fun b => { b with tap := i }) s;
       (tapOpen ins = true → exec (.tapInstruction ins) s = .next (load ins)) ∧
       (tapOpen ins = false → s.hub.ready = true → s.boot.testLogged = false → exec (.tapInstruction ins) s =
         .next (logEvent 0x5060 srcDevice [] (modBoot (fun b => { b with testLogged := true }) (load .bypass)))) ∧
       (tapOpen ins = false → s.hub.ready = true → s.boot.testLogged = true → exec (.tapInstruction ins) s = .next (load .bypass)) ∧
       (tapOpen ins = false → s.hub.ready = false → s.power.st ≠ .watch →
         exec (.tapInstruction ins) s = .next (modBoot (fun b => { b with testRun := true }) (load ins)))) ∧
     (s.hub.ready = true → Yields .refClkLost s (fun t => t.hub.ready = false ∧ t.boot.clkLost = true)) ∧
     (s.hub.ready = true → (s.boot.writeDue = true ∨ recalWriteDue s = true) → s.boot.writeBusy = false → Yields .calWriteStart s (fun t =>
       t.boot.writeBusy = true ∧ t.boot.writeDue = false ∧ t.boot.recalDue = false ∧ t.boot.otherValid = false ∧ t.mem = s.mem)) ∧
     (s.boot.writeDue = false → recalWriteDue s = false → exec .calWriteStart s = .next s) ∧ (s.boot.writeBusy = false → exec (.calWritten up) s = .next s) ∧
     (s.boot.writeBusy = true → Yields (.calWritten true) s (fun t => t.boot.writeBusy = false ∧ t.boot.slot = 1 - s.boot.slot ∧
       t.boot.slotValid = true ∧ t.boot.seq = (s.boot.seq + 1) % 2 ^ 32 ∧ t.boot.written = satAdd 32 s.boot.written 1)) ∧
     (s.boot.writeBusy = true → s.boot.retried = false →
       exec (.calWritten false) s = .next (modBoot (fun b => { b with retried := true }) s)) ∧
     (s.boot.writeBusy = true → s.boot.retried = true → Yields (.calWritten false) s (fun t => t.boot.writeBusy = false ∧
       t.boot.slot = s.boot.slot ∧ t.boot.failed = satAdd 32 s.boot.failed 1))) ∧
  (∀ (s : State) (n d unit mgmt data : Nat) (off : Bool),
     (s.power.pwrOk = true → s.boot.clkLost = false → (s.hub.ready = true ∨ 1 ≤ s.boot.step ∨ s.power.st = .watch) →
       exec (.pldmGetSensor n) s = .next { s with hub := { s.hub with pldm := pldmSensor s n } }) ∧
     (s.power.pwrOk = false → exec (.pldmGetSensor n) s = .next s) ∧
     (1 ≤ n → n ≤ 144 → pldmSensor s n = some (sensorOf s (n - 1)).reading) ∧
     (200 ≤ n → n ≤ 206 → pldmSensor s n = some ((railOf s (n - 200)).confirmed : Int)) ∧
     (d < 24 → let v := logEvent 0x1301 srcDevice [(4, 1000 + d), (8, b2n off)] s
       (off = false → exec (.mgmtDomainDisable d off) s = .next (modDom d (fun x => { x with adminOff := false }) v)) ∧
       (off = true → (domTree d).any (domUsed v) = false → exec (.mgmtDomainDisable d off) s =
         .next (drainDom 2 d (logEvent 0x2033 srcDevice [] (modDom d (fun x => { x with adminOff := true }) v)))) ∧
       (off = true → (domTree d).any (domUsed v) = true → exec (.mgmtDomainDisable d off) s =
         .next (epochFault 0x2033 srcDevice ((domTree d).any (identityNeeds v))
           (drainDom 2 d (logEvent 0x2033 srcDevice [] (modDom d (fun x => { x with adminOff := true }) v)))))) ∧
     (24 ≤ d → exec (.mgmtDomainDisable d off) s = .next s) ∧
     (n < 32 → exec (.mgmtPortDisable n off) s =
       .next (applyPortAdmin n (modPort n (fun p => { p with mgmtDis := off }) (mgmtAdmin (1100 + n) (b2n off) s)))) ∧
     (32 ≤ n → exec (.mgmtPortDisable n off) s = .next s) ∧
     exec (.mgmtDisagree unit mgmt data true) s = .next { s with hub := { s.hub with sensor600 := false, mgmtDiffer := [] } } ∧
     exec (.mgmtDisagree unit mgmt mgmt false) s = .next s ∧
     (mgmt ≠ data → Yields (.mgmtDisagree unit mgmt data false) s (fun t => t.hub.sensor600 = true ∧
       t.hub.mgmtDisagree = satAdd 32 s.hub.mgmtDisagree 1 ∧ t.mem = s.mem)))

/-- The effective capability (R8): boot makes it the union of all valid licences present, the highest tier any of them grants and frozen weights
where any does; and the factory licence is one of those present in every state, so that no command removes it. -/
def Obligations.CapabilityIsTheUnionOfLicences : Prop :=
  ∀ s : State, let t := verifyLicences s
    let lic := fun i => licEntry (licBytes s i)
    (∀ i, i < 9 → (lic i).valid = true → (lic i).tier ≤ t.tier ∧ ((lic i).frozen = true → t.frozen = true)) ∧
    (t.tier = 0 ∨ ∃ i, i < 9 ∧ (lic i).valid = true ∧ (lic i).tier = t.tier) ∧
    (t.frozen = true → ∃ i, i < 9 ∧ (lic i).valid = true ∧ (lic i).frozen = true) ∧
    ∀ u : State, licBytes u 0 = Config.factoryLicence
end

