-- ==== Sys2Proof/Laws/Engines.lean ====
section
/-! SUPPORT. What the shared operations of the engines do, said once: an instruction at issue, and the accesses of a
fox core to the scratchpad of this device. -/

namespace Sys2Proof.Machine

open Sys2Proof

/-- A command whose instruction stands at issue has its effect. -/
theorem onIssue_some {s : State} {e : Nat} {ops : List Nat} {w : Word64} (f : Word64 → State → State)
    (h : issueOf s e ops = some w) : onIssue e ops s f = .next (f w s) := by simp [onIssue, h]

/-- A command whose instruction does not stand at issue has none. -/
theorem onIssue_none {s : State} {e : Nat} {ops : List Nat} (f : Word64 → State → State)
    (h : issueOf s e ops = none) : onIssue e ops s f = .next s := by simp [onIssue, h]

/-- An engine with an instruction at issue runs and has not reached END. -/
theorem running_of_issue {s : State} {e : Nat} {ops : List Nat} {w : Word64} (h : issueOf s e ops = some w) :
    (seqOf s e).st = .running ∧ (seqOf s e).ending = false := by
  unfold issueOf at h
  cases h2 : instrAt s e with
  | none => simp [h2] at h
  | some x =>
    unfold instrAt at h2
    dsimp only at h2
    split at h2
    · rename_i h3; exact ⟨h3.1, h3.2.1⟩
    · cases h2

/-- The instruction at issue has the opcode asked for. -/
theorem op_of_issue {s : State} {e o : Nat} {w : Word64} (h : issueOf s e [o] = some w) : fld w 0 8 = o := by
  unfold issueOf at h
  split at h
  · split at h
    · rename_i h2; cases h; simpa using h2
    · cases h
  · cases h

/-- A running sequencer is not the one at reset. -/
theorem seq_running_ne {q : Seq} (h : q.st = .running) : q ≠ {} := by
  intro hc
  rw [hc] at h
  cases h

/-- A fox core's command whose instruction stands at issue has its effect. -/
theorem onFox_some {s : State} {e : Nat} {k : FoxCls} {i : FoxIns} (f : FoxIns → State → State)
    (h : foxIns s e k = some i) : onFox e k s f = .next (f i s) := by simp [onFox, h]

/-- What it takes for an instruction of a class to stand at issue of a fox core. -/
theorem foxIns_spec {s : State} {e : Nat} {k : FoxCls} {i : FoxIns} (h : foxIns s e k = some i) :
    foxRuns s e = true ∧ foxFetch s e = .ins i ∧ foxClass s e i.w = k := by
  unfold foxIns at h
  split at h
  · rename_i hr
    split at h
    · rename_i j hj
      split at h
      · rename_i hk; cases h; exact ⟨hr, hj, hk⟩
      · cases h
    · cases h
  · cases h

/-- A load of a fox core from the scratchpad of this device that passes its checks. -/
theorem foxLoad_sp {s : State} {e : Nat} {a : Word64} {n : Nat} (hsp : (hallAddr a).space = 0) (hr : isRemote s (hallAddr a) = false)
    (hk : foxCheck s e a n false true = none) (ht : behindTsig s e (hallAddr a) n = false)
    (hp : poisoned s .sp (hallAddr a).off n = false) :
    foxLoad e a n .ok [] none s = .done (readStore s .sp (hallAddr a).off n) s := by
  have hc : cachedAt s (hallAddr a) = false := by simp [cachedAt, hsp]
  have hm : accMay s (hallAddr a) n false 0 = true := by simp [accMay, hsp]
  unfold foxLoad
  simp only [hm, hk, ht, hc, hr, eccNote]
  rw [hsp]; simp [spaceStore, served, hp]

/-- A store of a fox core to the scratchpad of this device that passes its checks. -/
theorem foxStore_sp {s : State} {e : Nat} {a : Word64} {d : List Byte} {fl : Bool} (hsp : (hallAddr a).space = 0)
    (hr : isRemote s (hallAddr a) = false) (hk : foxCheck s e a d.length true true = none)
    (ht : behindTsig s e (hallAddr a) d.length = false) (hf : fl = false ∨ (hallAddr a).off % 8 = 0) :
    foxStore e a d fl none s = .done [] (writeStore .sp (hallAddr a).off d s) := by
  have hc : cachedAt s (hallAddr a) = false := by simp [cachedAt, hsp]
  have hm : accMay s (hallAddr a) d.length true (leVal d) = true := by simp [accMay, hsp]
  unfold foxStore
  simp only [hm, hk, ht]
  have h8 : fl = true → (hallAddr a).off % 8 = 0 := by rcases hf with h | h <;> simp [h]
  simp [foxStoreGo, hc, hr]
  rw [hsp]; simp [spaceStore, served]
  exact h8

/-- The bytes of a number are as many as asked for. -/
theorem leBytes_length (n v : Nat) : (leBytes n v).length = n := by
  induction n generalizing v with
  | zero => rfl
  | succ n ih => simp [leBytes, ih]

end Sys2Proof.Machine
end

