-- ==== Sys2Proof/Laws/Maps.lean ====
section
/-! SUPPORT. The laws of sparse maps and byte memories: reads after writes, and the canonical form is kept. -/

namespace Sys2Proof.Machine

variable {α : Type}

/-! ### Reads -/

@[simp] theorem SMap.get_nil (d : α) (i : Nat) : SMap.get d [] i = d := rfl

theorem SMap.get_insert_self (d : α) (i : Nat) (v : α) (m : SMap α) : SMap.get d (SMap.insert i v m) i = v := by
  induction m with
  | nil => simp [SMap.insert, SMap.get]
  | cons e m ih =>
    obtain ⟨k, w⟩ := e
    unfold SMap.insert
    split
    · simp [SMap.get]
    · split
      · simp [SMap.get]
      · rename_i h1 h2
        simp [SMap.get, h2, ih]

theorem SMap.get_insert_ne (d : α) (i j : Nat) (v : α) (m : SMap α) (h : j ≠ i) :
    SMap.get d (SMap.insert i v m) j = SMap.get d m j := by
  induction m with
  | nil => simp [SMap.insert, SMap.get, h]
  | cons e m ih =>
    obtain ⟨k, w⟩ := e
    unfold SMap.insert
    split
    · simp [SMap.get, h]
    · split
      · rename_i h1 h2
        subst h2
        simp [SMap.get, h]
      · simp [SMap.get, ih]

theorem SMap.get_erase_ne (d : α) (i j : Nat) (m : SMap α) (h : j ≠ i) :
    SMap.get d (SMap.erase i m) j = SMap.get d m j := by
  induction m with
  | nil => rfl
  | cons e m ih =>
    obtain ⟨k, w⟩ := e
    unfold SMap.erase
    split
    · rename_i h1
      subst h1
      simp [SMap.get, h]
    · split
      · rfl
      · simp [SMap.get, ih]

theorem SMap.get_of_wfFrom [DecidableEq α] (d : α) (lo i : Nat) (m : SMap α) (h : SMap.wfFrom d lo m = true) (hi : i < lo) :
    SMap.get d m i = d := by
  induction m generalizing lo with
  | nil => rfl
  | cons e m ih =>
    obtain ⟨k, w⟩ := e
    simp only [SMap.wfFrom, Bool.and_eq_true, decide_eq_true_eq] at h
    have : i ≠ k := by omega
    simp only [SMap.get, this, if_false]
    exact ih (k + 1) h.2 (by omega)

theorem SMap.get_erase_self [DecidableEq α] (d : α) (lo i : Nat) (m : SMap α) (h : SMap.wfFrom d lo m = true) :
    SMap.get d (SMap.erase i m) i = d := by
  induction m generalizing lo with
  | nil => rfl
  | cons e m ih =>
    obtain ⟨k, w⟩ := e
    simp only [SMap.wfFrom, Bool.and_eq_true, decide_eq_true_eq] at h
    unfold SMap.erase
    split
    · rename_i h1
      exact SMap.get_of_wfFrom d (k + 1) i m h.2 (by omega)
    · split
      · rename_i h1 h2
        have : SMap.get d m i = d := SMap.get_of_wfFrom d (k + 1) i m h.2 (by omega)
        simp [SMap.get, h1, this]
      · rename_i h1 h2
        simp only [SMap.get, h1, if_false]
        exact ih (k + 1) h.2

variable [DecidableEq α]

/-- A key reads what was written to it, where that is not the default. -/
theorem SMap.get_set_self (d : α) (m : SMap α) (i : Nat) (v : α) (h : v ≠ d) : SMap.get d (SMap.set d m i v) i = v := by
  simp [SMap.set, h, SMap.get_insert_self]

/-- A key reads what was written to it, in a canonical map. -/
theorem SMap.get_set (d : α) (m : SMap α) (i : Nat) (v : α) (h : SMap.wf d m = true) : SMap.get d (SMap.set d m i v) i = v := by
  unfold SMap.set
  split
  · rename_i hv
    rw [hv]
    exact SMap.get_erase_self d 0 i m h
  · exact SMap.get_insert_self d i v m

/-- Every other key reads as before. -/
theorem SMap.get_set_ne (d : α) (m : SMap α) (i j : Nat) (v : α) (h : j ≠ i) : SMap.get d (SMap.set d m i v) j = SMap.get d m j := by
  unfold SMap.set
  split
  · exact SMap.get_erase_ne d i j m h
  · exact SMap.get_insert_ne d i j v m h

theorem SMap.get_modify_ne (d : α) (m : SMap α) (i j : Nat) (f : α → α) (h : j ≠ i) :
    SMap.get d (SMap.modify d m i f) j = SMap.get d m j := SMap.get_set_ne d m i j _ h

theorem SMap.get_modify_self (d : α) (m : SMap α) (i : Nat) (f : α → α) (h : f (SMap.get d m i) ≠ d) :
    SMap.get d (SMap.modify d m i f) i = f (SMap.get d m i) := SMap.get_set_self d m i _ h

/-! ### The canonical form -/

theorem SMap.wfFrom_mono (d : α) (lo hi : Nat) (m : SMap α) (h : SMap.wfFrom d hi m = true) (hl : lo ≤ hi) : SMap.wfFrom d lo m = true := by
  cases m with
  | nil => rfl
  | cons e m =>
    obtain ⟨k, w⟩ := e
    simp only [SMap.wfFrom, Bool.and_eq_true, decide_eq_true_eq] at h ⊢
    exact ⟨⟨by omega, h.1.2⟩, h.2⟩

theorem SMap.wfFrom_insert (d : α) (lo i : Nat) (v : α) (m : SMap α) (h : SMap.wfFrom d lo m = true) (hv : v ≠ d) (hl : lo ≤ i) :
    SMap.wfFrom d lo (SMap.insert i v m) = true := by
  induction m generalizing lo with
  | nil => simp [SMap.insert, SMap.wfFrom, hv, hl]
  | cons e m ih =>
    obtain ⟨k, w⟩ := e
    simp only [SMap.wfFrom, Bool.and_eq_true, decide_eq_true_eq] at h
    unfold SMap.insert
    split
    · rename_i h1
      simp only [SMap.wfFrom, Bool.and_eq_true, decide_eq_true_eq]
      exact ⟨⟨hl, hv⟩, ⟨by omega, h.1.2⟩, h.2⟩
    · split
      · rename_i h1 h2
        subst h2
        simp only [SMap.wfFrom, Bool.and_eq_true, decide_eq_true_eq]
        exact ⟨⟨hl, hv⟩, h.2⟩
      · rename_i h1 h2
        simp only [SMap.wfFrom, Bool.and_eq_true, decide_eq_true_eq]
        exact ⟨h.1, ih (k + 1) h.2 (by omega)⟩

theorem SMap.wfFrom_erase (d : α) (lo i : Nat) (m : SMap α) (h : SMap.wfFrom d lo m = true) : SMap.wfFrom d lo (SMap.erase i m) = true := by
  induction m generalizing lo with
  | nil => rfl
  | cons e m ih =>
    obtain ⟨k, w⟩ := e
    have h' := h
    simp only [SMap.wfFrom, Bool.and_eq_true, decide_eq_true_eq] at h
    unfold SMap.erase
    split
    · exact SMap.wfFrom_mono d lo (k + 1) m h.2 (by omega)
    · split
      · exact h'
      · simp only [SMap.wfFrom, Bool.and_eq_true, decide_eq_true_eq]
        exact ⟨h.1, ih (k + 1) h.2⟩

/-- A write keeps the canonical form. -/
theorem SMap.wf_set (d : α) (m : SMap α) (i : Nat) (v : α) (h : SMap.wf d m = true) : SMap.wf d (SMap.set d m i v) = true := by
  unfold SMap.set
  split
  · exact SMap.wfFrom_erase d 0 i m h
  · rename_i hv
    exact SMap.wfFrom_insert d 0 i v m h hv (Nat.zero_le i)

theorem SMap.wf_modify (d : α) (m : SMap α) (i : Nat) (f : α → α) (h : SMap.wf d m = true) : SMap.wf d (SMap.modify d m i f) = true :=
  SMap.wf_set d m i _ h

/-! ### Byte memories -/

theorem Memory.wf_nil : Memory.wf [] = true := rfl

/-- A byte write keeps the canonical form. -/
theorem Memory.wf_write (m : Memory) (a : Nat) (b : Byte) (h : m.wf = true) : (m.write a b).wf = true := SMap.wf_set 0 m a b h

/-- Writing bytes keeps the canonical form. -/
theorem Memory.wf_writeBytes (m : Memory) (a : Nat) (d : List Byte) (h : m.wf = true) : (m.writeBytes a d).wf = true := by
  induction d generalizing m a with
  | nil => exact h
  | cons b d ih => exact ih _ _ (Memory.wf_write m a b h)

/-- A byte reads what was written to it. -/
theorem Memory.read_write (m : Memory) (a : Nat) (b : Byte) (h : m.wf = true) : (m.write a b).read a = b := SMap.get_set 0 m a b h

/-- Every other byte reads as before. -/
theorem Memory.read_write_ne (m : Memory) (a x : Nat) (b : Byte) (h : x ≠ a) : (m.write a b).read x = m.read x :=
  SMap.get_set_ne 0 m a x b h

/-- Bytes outside the range written read as before. -/
theorem Memory.read_writeBytes_outside (m : Memory) (a x : Nat) (d : List Byte) (h : x < a ∨ a + d.length ≤ x) :
    (m.writeBytes a d).read x = m.read x := by
  induction d generalizing m a with
  | nil => rfl
  | cons b d ih =>
    simp only [List.length_cons] at h
    unfold Memory.writeBytes
    rw [ih _ _ (by omega), Memory.read_write_ne m a x b (by omega)]

/-- A byte inside the range written reads what was written there. -/
theorem Memory.read_writeBytes_inside (m : Memory) (a i : Nat) (d : List Byte) (h : m.wf = true) (hi : i < d.length) :
    (m.writeBytes a d).read (a + i) = d[i] := by
  induction d generalizing m a i with
  | nil => simp at hi
  | cons b d ih =>
    unfold Memory.writeBytes
    cases i with
    | zero =>
      rw [Memory.read_writeBytes_outside _ _ _ _ (by omega), Nat.add_zero, Memory.read_write m a b h]
      rfl
    | succ i =>
      have := ih (m.write a b) (a + 1) i (Memory.wf_write m a b h) (by simpa using hi)
      rw [show a + (i + 1) = a + 1 + i by omega, this]
      rfl

end Sys2Proof.Machine
end

