-- ==== Sys2Proof/Laws/State.lean ====
section
/-! SUPPORT. What each single update of the state leaves alone: one lemma per update and field, true by definition. -/

namespace Sys2Proof.Machine

open Sys2Proof

/-! ### useFree -/

@[simp] theorem useFree_mem (s : State) : (useFree s).mem = s.mem := rfl
@[simp] theorem useFree_tallies (s : State) : (useFree s).tallies = s.tallies := rfl
@[simp] theorem useFree_eng (s : State) : (useFree s).eng = s.eng := rfl
@[simp] theorem useFree_units (s : State) : (useFree s).units = s.units := rfl
@[simp] theorem useFree_log (s : State) : (useFree s).log = s.log := rfl
@[simp] theorem useFree_msix (s : State) : (useFree s).msix = s.msix := rfl
@[simp] theorem useFree_hub (s : State) : (useFree s).hub = s.hub := rfl
@[simp] theorem useFree_time (s : State) : (useFree s).time = s.time := rfl
@[simp] theorem useFree_power (s : State) : (useFree s).power = s.power := rfl
@[simp] theorem useFree_thermal (s : State) : (useFree s).thermal = s.thermal := rfl
@[simp] theorem useFree_boot (s : State) : (useFree s).boot = s.boot := rfl
@[simp] theorem useFree_fab (s : State) : (useFree s).fab = s.fab := rfl
@[simp] theorem useFree_remote (s : State) : (useFree s).remote = s.remote := rfl
@[simp] theorem useFree_sett (s : State) : (useFree s).sett = s.sett := rfl
@[simp] theorem useFree_load (s : State) : (useFree s).load = s.load := rfl
@[simp] theorem useFree_run (s : State) : (useFree s).run = s.run := rfl
@[simp] theorem useFree_epoch (s : State) : (useFree s).epoch = s.epoch := rfl
@[simp] theorem useFree_tier (s : State) : (useFree s).tier = s.tier := rfl
@[simp] theorem useFree_frozen (s : State) : (useFree s).frozen = s.frozen := rfl
@[simp] theorem useFree_licences (s : State) : (useFree s).licences = s.licences := rfl
@[simp] theorem useFree_free (s : State) : (useFree s).free = s.free + 1 := rfl
@[simp] theorem useFree_pending (s : State) : (useFree s).pending = s.pending := rfl

/-! ### setSeq -/

@[simp] theorem setSeq_mem (e : Nat) (q : Seq) (s : State) : (setSeq e q s).mem = s.mem := rfl
@[simp] theorem setSeq_tallies (e : Nat) (q : Seq) (s : State) : (setSeq e q s).tallies = s.tallies := rfl
@[simp] theorem setSeq_eng (e : Nat) (q : Seq) (s : State) : (setSeq e q s).eng = SMap.set {} s.eng e q := rfl
@[simp] theorem setSeq_units (e : Nat) (q : Seq) (s : State) : (setSeq e q s).units = s.units := rfl
@[simp] theorem setSeq_log (e : Nat) (q : Seq) (s : State) : (setSeq e q s).log = s.log := rfl
@[simp] theorem setSeq_msix (e : Nat) (q : Seq) (s : State) : (setSeq e q s).msix = s.msix := rfl
@[simp] theorem setSeq_hub (e : Nat) (q : Seq) (s : State) : (setSeq e q s).hub = s.hub := rfl
@[simp] theorem setSeq_time (e : Nat) (q : Seq) (s : State) : (setSeq e q s).time = s.time := rfl
@[simp] theorem setSeq_power (e : Nat) (q : Seq) (s : State) : (setSeq e q s).power = s.power := rfl
@[simp] theorem setSeq_thermal (e : Nat) (q : Seq) (s : State) : (setSeq e q s).thermal = s.thermal := rfl
@[simp] theorem setSeq_boot (e : Nat) (q : Seq) (s : State) : (setSeq e q s).boot = s.boot := rfl
@[simp] theorem setSeq_fab (e : Nat) (q : Seq) (s : State) : (setSeq e q s).fab = s.fab := rfl
@[simp] theorem setSeq_remote (e : Nat) (q : Seq) (s : State) : (setSeq e q s).remote = s.remote := rfl
@[simp] theorem setSeq_sett (e : Nat) (q : Seq) (s : State) : (setSeq e q s).sett = s.sett := rfl
@[simp] theorem setSeq_load (e : Nat) (q : Seq) (s : State) : (setSeq e q s).load = s.load := rfl
@[simp] theorem setSeq_run (e : Nat) (q : Seq) (s : State) : (setSeq e q s).run = s.run := rfl
@[simp] theorem setSeq_epoch (e : Nat) (q : Seq) (s : State) : (setSeq e q s).epoch = s.epoch := rfl
@[simp] theorem setSeq_tier (e : Nat) (q : Seq) (s : State) : (setSeq e q s).tier = s.tier := rfl
@[simp] theorem setSeq_frozen (e : Nat) (q : Seq) (s : State) : (setSeq e q s).frozen = s.frozen := rfl
@[simp] theorem setSeq_licences (e : Nat) (q : Seq) (s : State) : (setSeq e q s).licences = s.licences := rfl
@[simp] theorem setSeq_free (e : Nat) (q : Seq) (s : State) : (setSeq e q s).free = s.free := rfl
@[simp] theorem setSeq_pending (e : Nat) (q : Seq) (s : State) : (setSeq e q s).pending = s.pending := rfl

/-! ### modSeq -/

@[simp] theorem modSeq_mem (e : Nat) (f : Seq → Seq) (s : State) : (modSeq e f s).mem = s.mem := rfl
@[simp] theorem modSeq_tallies (e : Nat) (f : Seq → Seq) (s : State) : (modSeq e f s).tallies = s.tallies := rfl
@[simp] theorem modSeq_eng (e : Nat) (f : Seq → Seq) (s : State) : (modSeq e f s).eng = SMap.set {} s.eng e (f (seqOf s e)) := rfl
@[simp] theorem modSeq_units (e : Nat) (f : Seq → Seq) (s : State) : (modSeq e f s).units = s.units := rfl
@[simp] theorem modSeq_log (e : Nat) (f : Seq → Seq) (s : State) : (modSeq e f s).log = s.log := rfl
@[simp] theorem modSeq_msix (e : Nat) (f : Seq → Seq) (s : State) : (modSeq e f s).msix = s.msix := rfl
@[simp] theorem modSeq_hub (e : Nat) (f : Seq → Seq) (s : State) : (modSeq e f s).hub = s.hub := rfl
@[simp] theorem modSeq_time (e : Nat) (f : Seq → Seq) (s : State) : (modSeq e f s).time = s.time := rfl
@[simp] theorem modSeq_power (e : Nat) (f : Seq → Seq) (s : State) : (modSeq e f s).power = s.power := rfl
@[simp] theorem modSeq_thermal (e : Nat) (f : Seq → Seq) (s : State) : (modSeq e f s).thermal = s.thermal := rfl
@[simp] theorem modSeq_boot (e : Nat) (f : Seq → Seq) (s : State) : (modSeq e f s).boot = s.boot := rfl
@[simp] theorem modSeq_fab (e : Nat) (f : Seq → Seq) (s : State) : (modSeq e f s).fab = s.fab := rfl
@[simp] theorem modSeq_remote (e : Nat) (f : Seq → Seq) (s : State) : (modSeq e f s).remote = s.remote := rfl
@[simp] theorem modSeq_sett (e : Nat) (f : Seq → Seq) (s : State) : (modSeq e f s).sett = s.sett := rfl
@[simp] theorem modSeq_load (e : Nat) (f : Seq → Seq) (s : State) : (modSeq e f s).load = s.load := rfl
@[simp] theorem modSeq_run (e : Nat) (f : Seq → Seq) (s : State) : (modSeq e f s).run = s.run := rfl
@[simp] theorem modSeq_epoch (e : Nat) (f : Seq → Seq) (s : State) : (modSeq e f s).epoch = s.epoch := rfl
@[simp] theorem modSeq_tier (e : Nat) (f : Seq → Seq) (s : State) : (modSeq e f s).tier = s.tier := rfl
@[simp] theorem modSeq_frozen (e : Nat) (f : Seq → Seq) (s : State) : (modSeq e f s).frozen = s.frozen := rfl
@[simp] theorem modSeq_licences (e : Nat) (f : Seq → Seq) (s : State) : (modSeq e f s).licences = s.licences := rfl
@[simp] theorem modSeq_free (e : Nat) (f : Seq → Seq) (s : State) : (modSeq e f s).free = s.free := rfl
@[simp] theorem modSeq_pending (e : Nat) (f : Seq → Seq) (s : State) : (modSeq e f s).pending = s.pending := rfl

/-! ### modFox -/

@[simp] theorem modFox_mem (e : Nat) (f : Fox → Fox) (s : State) : (modFox e f s).mem = s.mem := rfl
@[simp] theorem modFox_tallies (e : Nat) (f : Fox → Fox) (s : State) : (modFox e f s).tallies = s.tallies := rfl
@[simp] theorem modFox_eng (e : Nat) (f : Fox → Fox) (s : State) : (modFox e f s).eng = s.eng := rfl
@[simp] theorem modFox_log (e : Nat) (f : Fox → Fox) (s : State) : (modFox e f s).log = s.log := rfl
@[simp] theorem modFox_msix (e : Nat) (f : Fox → Fox) (s : State) : (modFox e f s).msix = s.msix := rfl
@[simp] theorem modFox_hub (e : Nat) (f : Fox → Fox) (s : State) : (modFox e f s).hub = s.hub := rfl
@[simp] theorem modFox_time (e : Nat) (f : Fox → Fox) (s : State) : (modFox e f s).time = s.time := rfl
@[simp] theorem modFox_power (e : Nat) (f : Fox → Fox) (s : State) : (modFox e f s).power = s.power := rfl
@[simp] theorem modFox_thermal (e : Nat) (f : Fox → Fox) (s : State) : (modFox e f s).thermal = s.thermal := rfl
@[simp] theorem modFox_boot (e : Nat) (f : Fox → Fox) (s : State) : (modFox e f s).boot = s.boot := rfl
@[simp] theorem modFox_fab (e : Nat) (f : Fox → Fox) (s : State) : (modFox e f s).fab = s.fab := rfl
@[simp] theorem modFox_remote (e : Nat) (f : Fox → Fox) (s : State) : (modFox e f s).remote = s.remote := rfl
@[simp] theorem modFox_sett (e : Nat) (f : Fox → Fox) (s : State) : (modFox e f s).sett = s.sett := rfl
@[simp] theorem modFox_load (e : Nat) (f : Fox → Fox) (s : State) : (modFox e f s).load = s.load := rfl
@[simp] theorem modFox_run (e : Nat) (f : Fox → Fox) (s : State) : (modFox e f s).run = s.run := rfl
@[simp] theorem modFox_epoch (e : Nat) (f : Fox → Fox) (s : State) : (modFox e f s).epoch = s.epoch := rfl
@[simp] theorem modFox_tier (e : Nat) (f : Fox → Fox) (s : State) : (modFox e f s).tier = s.tier := rfl
@[simp] theorem modFox_frozen (e : Nat) (f : Fox → Fox) (s : State) : (modFox e f s).frozen = s.frozen := rfl
@[simp] theorem modFox_licences (e : Nat) (f : Fox → Fox) (s : State) : (modFox e f s).licences = s.licences := rfl
@[simp] theorem modFox_free (e : Nat) (f : Fox → Fox) (s : State) : (modFox e f s).free = s.free := rfl
@[simp] theorem modFox_pending (e : Nat) (f : Fox → Fox) (s : State) : (modFox e f s).pending = s.pending := rfl

/-! ### setTally -/

@[simp] theorem setTally_mem (i : Nat) (t : Tally) (s : State) : (setTally i t s).mem = s.mem := rfl
@[simp] theorem setTally_tallies (i : Nat) (t : Tally) (s : State) : (setTally i t s).tallies = SMap.set {} s.tallies i t := rfl
@[simp] theorem setTally_eng (i : Nat) (t : Tally) (s : State) : (setTally i t s).eng = s.eng := rfl
@[simp] theorem setTally_units (i : Nat) (t : Tally) (s : State) : (setTally i t s).units = s.units := rfl
@[simp] theorem setTally_log (i : Nat) (t : Tally) (s : State) : (setTally i t s).log = s.log := rfl
@[simp] theorem setTally_msix (i : Nat) (t : Tally) (s : State) : (setTally i t s).msix = s.msix := rfl
@[simp] theorem setTally_hub (i : Nat) (t : Tally) (s : State) : (setTally i t s).hub = s.hub := rfl
@[simp] theorem setTally_time (i : Nat) (t : Tally) (s : State) : (setTally i t s).time = s.time := rfl
@[simp] theorem setTally_power (i : Nat) (t : Tally) (s : State) : (setTally i t s).power = s.power := rfl
@[simp] theorem setTally_thermal (i : Nat) (t : Tally) (s : State) : (setTally i t s).thermal = s.thermal := rfl
@[simp] theorem setTally_boot (i : Nat) (t : Tally) (s : State) : (setTally i t s).boot = s.boot := rfl
@[simp] theorem setTally_fab (i : Nat) (t : Tally) (s : State) : (setTally i t s).fab = s.fab := rfl
@[simp] theorem setTally_remote (i : Nat) (t : Tally) (s : State) : (setTally i t s).remote = s.remote := rfl
@[simp] theorem setTally_sett (i : Nat) (t : Tally) (s : State) : (setTally i t s).sett = s.sett := rfl
@[simp] theorem setTally_load (i : Nat) (t : Tally) (s : State) : (setTally i t s).load = s.load := rfl
@[simp] theorem setTally_run (i : Nat) (t : Tally) (s : State) : (setTally i t s).run = s.run := rfl
@[simp] theorem setTally_epoch (i : Nat) (t : Tally) (s : State) : (setTally i t s).epoch = s.epoch := rfl
@[simp] theorem setTally_tier (i : Nat) (t : Tally) (s : State) : (setTally i t s).tier = s.tier := rfl
@[simp] theorem setTally_frozen (i : Nat) (t : Tally) (s : State) : (setTally i t s).frozen = s.frozen := rfl
@[simp] theorem setTally_licences (i : Nat) (t : Tally) (s : State) : (setTally i t s).licences = s.licences := rfl
@[simp] theorem setTally_free (i : Nat) (t : Tally) (s : State) : (setTally i t s).free = s.free := rfl
@[simp] theorem setTally_pending (i : Nat) (t : Tally) (s : State) : (setTally i t s).pending = s.pending := rfl

/-! ### modQueue -/

@[simp] theorem modQueue_mem (q : Nat) (f : Queue → Queue) (s : State) : (modQueue q f s).mem = s.mem := rfl
@[simp] theorem modQueue_tallies (q : Nat) (f : Queue → Queue) (s : State) : (modQueue q f s).tallies = s.tallies := rfl
@[simp] theorem modQueue_eng (q : Nat) (f : Queue → Queue) (s : State) : (modQueue q f s).eng = s.eng := rfl
@[simp] theorem modQueue_units (q : Nat) (f : Queue → Queue) (s : State) : (modQueue q f s).units = s.units := rfl
@[simp] theorem modQueue_log (q : Nat) (f : Queue → Queue) (s : State) : (modQueue q f s).log = s.log := rfl
@[simp] theorem modQueue_msix (q : Nat) (f : Queue → Queue) (s : State) : (modQueue q f s).msix = s.msix := rfl
@[simp] theorem modQueue_time (q : Nat) (f : Queue → Queue) (s : State) : (modQueue q f s).time = s.time := rfl
@[simp] theorem modQueue_power (q : Nat) (f : Queue → Queue) (s : State) : (modQueue q f s).power = s.power := rfl
@[simp] theorem modQueue_thermal (q : Nat) (f : Queue → Queue) (s : State) : (modQueue q f s).thermal = s.thermal := rfl
@[simp] theorem modQueue_boot (q : Nat) (f : Queue → Queue) (s : State) : (modQueue q f s).boot = s.boot := rfl
@[simp] theorem modQueue_fab (q : Nat) (f : Queue → Queue) (s : State) : (modQueue q f s).fab = s.fab := rfl
@[simp] theorem modQueue_remote (q : Nat) (f : Queue → Queue) (s : State) : (modQueue q f s).remote = s.remote := rfl
@[simp] theorem modQueue_sett (q : Nat) (f : Queue → Queue) (s : State) : (modQueue q f s).sett = s.sett := rfl
@[simp] theorem modQueue_load (q : Nat) (f : Queue → Queue) (s : State) : (modQueue q f s).load = s.load := rfl
@[simp] theorem modQueue_run (q : Nat) (f : Queue → Queue) (s : State) : (modQueue q f s).run = s.run := rfl
@[simp] theorem modQueue_epoch (q : Nat) (f : Queue → Queue) (s : State) : (modQueue q f s).epoch = s.epoch := rfl
@[simp] theorem modQueue_tier (q : Nat) (f : Queue → Queue) (s : State) : (modQueue q f s).tier = s.tier := rfl
@[simp] theorem modQueue_frozen (q : Nat) (f : Queue → Queue) (s : State) : (modQueue q f s).frozen = s.frozen := rfl
@[simp] theorem modQueue_licences (q : Nat) (f : Queue → Queue) (s : State) : (modQueue q f s).licences = s.licences := rfl
@[simp] theorem modQueue_free (q : Nat) (f : Queue → Queue) (s : State) : (modQueue q f s).free = s.free := rfl
@[simp] theorem modQueue_pending (q : Nat) (f : Queue → Queue) (s : State) : (modQueue q f s).pending = s.pending := rfl

/-! ### modLane -/

@[simp] theorem modLane_mem (k : Nat) (f : Lane → Lane) (s : State) : (modLane k f s).mem = s.mem := rfl
@[simp] theorem modLane_tallies (k : Nat) (f : Lane → Lane) (s : State) : (modLane k f s).tallies = s.tallies := rfl
@[simp] theorem modLane_eng (k : Nat) (f : Lane → Lane) (s : State) : (modLane k f s).eng = s.eng := rfl
@[simp] theorem modLane_units (k : Nat) (f : Lane → Lane) (s : State) : (modLane k f s).units = s.units := rfl
@[simp] theorem modLane_log (k : Nat) (f : Lane → Lane) (s : State) : (modLane k f s).log = s.log := rfl
@[simp] theorem modLane_msix (k : Nat) (f : Lane → Lane) (s : State) : (modLane k f s).msix = s.msix := rfl
@[simp] theorem modLane_hub (k : Nat) (f : Lane → Lane) (s : State) : (modLane k f s).hub = s.hub := rfl
@[simp] theorem modLane_time (k : Nat) (f : Lane → Lane) (s : State) : (modLane k f s).time = s.time := rfl
@[simp] theorem modLane_power (k : Nat) (f : Lane → Lane) (s : State) : (modLane k f s).power = s.power := rfl
@[simp] theorem modLane_thermal (k : Nat) (f : Lane → Lane) (s : State) : (modLane k f s).thermal = s.thermal := rfl
@[simp] theorem modLane_boot (k : Nat) (f : Lane → Lane) (s : State) : (modLane k f s).boot = s.boot := rfl
@[simp] theorem modLane_remote (k : Nat) (f : Lane → Lane) (s : State) : (modLane k f s).remote = s.remote := rfl
@[simp] theorem modLane_sett (k : Nat) (f : Lane → Lane) (s : State) : (modLane k f s).sett = s.sett := rfl
@[simp] theorem modLane_load (k : Nat) (f : Lane → Lane) (s : State) : (modLane k f s).load = s.load := rfl
@[simp] theorem modLane_run (k : Nat) (f : Lane → Lane) (s : State) : (modLane k f s).run = s.run := rfl
@[simp] theorem modLane_epoch (k : Nat) (f : Lane → Lane) (s : State) : (modLane k f s).epoch = s.epoch := rfl
@[simp] theorem modLane_tier (k : Nat) (f : Lane → Lane) (s : State) : (modLane k f s).tier = s.tier := rfl
@[simp] theorem modLane_frozen (k : Nat) (f : Lane → Lane) (s : State) : (modLane k f s).frozen = s.frozen := rfl
@[simp] theorem modLane_licences (k : Nat) (f : Lane → Lane) (s : State) : (modLane k f s).licences = s.licences := rfl
@[simp] theorem modLane_free (k : Nat) (f : Lane → Lane) (s : State) : (modLane k f s).free = s.free := rfl
@[simp] theorem modLane_pending (k : Nat) (f : Lane → Lane) (s : State) : (modLane k f s).pending = s.pending := rfl

/-! ### modPort -/

@[simp] theorem modPort_mem (n : Nat) (f : Port → Port) (s : State) : (modPort n f s).mem = s.mem := rfl
@[simp] theorem modPort_tallies (n : Nat) (f : Port → Port) (s : State) : (modPort n f s).tallies = s.tallies := rfl
@[simp] theorem modPort_eng (n : Nat) (f : Port → Port) (s : State) : (modPort n f s).eng = s.eng := rfl
@[simp] theorem modPort_units (n : Nat) (f : Port → Port) (s : State) : (modPort n f s).units = s.units := rfl
@[simp] theorem modPort_log (n : Nat) (f : Port → Port) (s : State) : (modPort n f s).log = s.log := rfl
@[simp] theorem modPort_msix (n : Nat) (f : Port → Port) (s : State) : (modPort n f s).msix = s.msix := rfl
@[simp] theorem modPort_hub (n : Nat) (f : Port → Port) (s : State) : (modPort n f s).hub = s.hub := rfl
@[simp] theorem modPort_time (n : Nat) (f : Port → Port) (s : State) : (modPort n f s).time = s.time := rfl
@[simp] theorem modPort_power (n : Nat) (f : Port → Port) (s : State) : (modPort n f s).power = s.power := rfl
@[simp] theorem modPort_thermal (n : Nat) (f : Port → Port) (s : State) : (modPort n f s).thermal = s.thermal := rfl
@[simp] theorem modPort_boot (n : Nat) (f : Port → Port) (s : State) : (modPort n f s).boot = s.boot := rfl
@[simp] theorem modPort_remote (n : Nat) (f : Port → Port) (s : State) : (modPort n f s).remote = s.remote := rfl
@[simp] theorem modPort_sett (n : Nat) (f : Port → Port) (s : State) : (modPort n f s).sett = s.sett := rfl
@[simp] theorem modPort_load (n : Nat) (f : Port → Port) (s : State) : (modPort n f s).load = s.load := rfl
@[simp] theorem modPort_run (n : Nat) (f : Port → Port) (s : State) : (modPort n f s).run = s.run := rfl
@[simp] theorem modPort_epoch (n : Nat) (f : Port → Port) (s : State) : (modPort n f s).epoch = s.epoch := rfl
@[simp] theorem modPort_tier (n : Nat) (f : Port → Port) (s : State) : (modPort n f s).tier = s.tier := rfl
@[simp] theorem modPort_frozen (n : Nat) (f : Port → Port) (s : State) : (modPort n f s).frozen = s.frozen := rfl
@[simp] theorem modPort_licences (n : Nat) (f : Port → Port) (s : State) : (modPort n f s).licences = s.licences := rfl
@[simp] theorem modPort_free (n : Nat) (f : Port → Port) (s : State) : (modPort n f s).free = s.free := rfl
@[simp] theorem modPort_pending (n : Nat) (f : Port → Port) (s : State) : (modPort n f s).pending = s.pending := rfl

/-! ### takeIngress -/

@[simp] theorem takeIngress_mem (p : Packet) (s : State) : (takeIngress p s).mem = s.mem := rfl
@[simp] theorem takeIngress_tallies (p : Packet) (s : State) : (takeIngress p s).tallies = s.tallies := rfl
@[simp] theorem takeIngress_eng (p : Packet) (s : State) : (takeIngress p s).eng = s.eng := rfl
@[simp] theorem takeIngress_units (p : Packet) (s : State) : (takeIngress p s).units = s.units := rfl
@[simp] theorem takeIngress_log (p : Packet) (s : State) : (takeIngress p s).log = s.log := rfl
@[simp] theorem takeIngress_msix (p : Packet) (s : State) : (takeIngress p s).msix = s.msix := rfl
@[simp] theorem takeIngress_hub (p : Packet) (s : State) : (takeIngress p s).hub = s.hub := rfl
@[simp] theorem takeIngress_time (p : Packet) (s : State) : (takeIngress p s).time = s.time := rfl
@[simp] theorem takeIngress_power (p : Packet) (s : State) : (takeIngress p s).power = s.power := rfl
@[simp] theorem takeIngress_thermal (p : Packet) (s : State) : (takeIngress p s).thermal = s.thermal := rfl
@[simp] theorem takeIngress_boot (p : Packet) (s : State) : (takeIngress p s).boot = s.boot := rfl
@[simp] theorem takeIngress_remote (p : Packet) (s : State) : (takeIngress p s).remote = s.remote := rfl
@[simp] theorem takeIngress_sett (p : Packet) (s : State) : (takeIngress p s).sett = s.sett := rfl
@[simp] theorem takeIngress_load (p : Packet) (s : State) : (takeIngress p s).load = s.load := rfl
@[simp] theorem takeIngress_run (p : Packet) (s : State) : (takeIngress p s).run = s.run := rfl
@[simp] theorem takeIngress_epoch (p : Packet) (s : State) : (takeIngress p s).epoch = s.epoch := rfl
@[simp] theorem takeIngress_tier (p : Packet) (s : State) : (takeIngress p s).tier = s.tier := rfl
@[simp] theorem takeIngress_frozen (p : Packet) (s : State) : (takeIngress p s).frozen = s.frozen := rfl
@[simp] theorem takeIngress_licences (p : Packet) (s : State) : (takeIngress p s).licences = s.licences := rfl
@[simp] theorem takeIngress_free (p : Packet) (s : State) : (takeIngress p s).free = s.free := rfl
@[simp] theorem takeIngress_pending (p : Packet) (s : State) : (takeIngress p s).pending = s.pending := rfl

/-! ### modCtx -/

@[simp] theorem modCtx_mem (c : Nat) (f : Ctx → Ctx) (s : State) : (modCtx c f s).mem = s.mem := rfl
@[simp] theorem modCtx_tallies (c : Nat) (f : Ctx → Ctx) (s : State) : (modCtx c f s).tallies = s.tallies := rfl
@[simp] theorem modCtx_eng (c : Nat) (f : Ctx → Ctx) (s : State) : (modCtx c f s).eng = s.eng := rfl
@[simp] theorem modCtx_log (c : Nat) (f : Ctx → Ctx) (s : State) : (modCtx c f s).log = s.log := rfl
@[simp] theorem modCtx_msix (c : Nat) (f : Ctx → Ctx) (s : State) : (modCtx c f s).msix = s.msix := rfl
@[simp] theorem modCtx_hub (c : Nat) (f : Ctx → Ctx) (s : State) : (modCtx c f s).hub = s.hub := rfl
@[simp] theorem modCtx_time (c : Nat) (f : Ctx → Ctx) (s : State) : (modCtx c f s).time = s.time := rfl
@[simp] theorem modCtx_power (c : Nat) (f : Ctx → Ctx) (s : State) : (modCtx c f s).power = s.power := rfl
@[simp] theorem modCtx_thermal (c : Nat) (f : Ctx → Ctx) (s : State) : (modCtx c f s).thermal = s.thermal := rfl
@[simp] theorem modCtx_boot (c : Nat) (f : Ctx → Ctx) (s : State) : (modCtx c f s).boot = s.boot := rfl
@[simp] theorem modCtx_fab (c : Nat) (f : Ctx → Ctx) (s : State) : (modCtx c f s).fab = s.fab := rfl
@[simp] theorem modCtx_remote (c : Nat) (f : Ctx → Ctx) (s : State) : (modCtx c f s).remote = s.remote := rfl
@[simp] theorem modCtx_sett (c : Nat) (f : Ctx → Ctx) (s : State) : (modCtx c f s).sett = s.sett := rfl
@[simp] theorem modCtx_load (c : Nat) (f : Ctx → Ctx) (s : State) : (modCtx c f s).load = s.load := rfl
@[simp] theorem modCtx_run (c : Nat) (f : Ctx → Ctx) (s : State) : (modCtx c f s).run = s.run := rfl
@[simp] theorem modCtx_epoch (c : Nat) (f : Ctx → Ctx) (s : State) : (modCtx c f s).epoch = s.epoch := rfl
@[simp] theorem modCtx_tier (c : Nat) (f : Ctx → Ctx) (s : State) : (modCtx c f s).tier = s.tier := rfl
@[simp] theorem modCtx_frozen (c : Nat) (f : Ctx → Ctx) (s : State) : (modCtx c f s).frozen = s.frozen := rfl
@[simp] theorem modCtx_licences (c : Nat) (f : Ctx → Ctx) (s : State) : (modCtx c f s).licences = s.licences := rfl
@[simp] theorem modCtx_free (c : Nat) (f : Ctx → Ctx) (s : State) : (modCtx c f s).free = s.free := rfl
@[simp] theorem modCtx_pending (c : Nat) (f : Ctx → Ctx) (s : State) : (modCtx c f s).pending = s.pending := rfl

/-! ### modStr -/

@[simp] theorem modStr_mem (k : Nat) (f : StrDie → StrDie) (s : State) : (modStr k f s).mem = s.mem := rfl
@[simp] theorem modStr_tallies (k : Nat) (f : StrDie → StrDie) (s : State) : (modStr k f s).tallies = s.tallies := rfl
@[simp] theorem modStr_eng (k : Nat) (f : StrDie → StrDie) (s : State) : (modStr k f s).eng = s.eng := rfl
@[simp] theorem modStr_log (k : Nat) (f : StrDie → StrDie) (s : State) : (modStr k f s).log = s.log := rfl
@[simp] theorem modStr_msix (k : Nat) (f : StrDie → StrDie) (s : State) : (modStr k f s).msix = s.msix := rfl
@[simp] theorem modStr_hub (k : Nat) (f : StrDie → StrDie) (s : State) : (modStr k f s).hub = s.hub := rfl
@[simp] theorem modStr_time (k : Nat) (f : StrDie → StrDie) (s : State) : (modStr k f s).time = s.time := rfl
@[simp] theorem modStr_power (k : Nat) (f : StrDie → StrDie) (s : State) : (modStr k f s).power = s.power := rfl
@[simp] theorem modStr_thermal (k : Nat) (f : StrDie → StrDie) (s : State) : (modStr k f s).thermal = s.thermal := rfl
@[simp] theorem modStr_boot (k : Nat) (f : StrDie → StrDie) (s : State) : (modStr k f s).boot = s.boot := rfl
@[simp] theorem modStr_fab (k : Nat) (f : StrDie → StrDie) (s : State) : (modStr k f s).fab = s.fab := rfl
@[simp] theorem modStr_remote (k : Nat) (f : StrDie → StrDie) (s : State) : (modStr k f s).remote = s.remote := rfl
@[simp] theorem modStr_sett (k : Nat) (f : StrDie → StrDie) (s : State) : (modStr k f s).sett = s.sett := rfl
@[simp] theorem modStr_load (k : Nat) (f : StrDie → StrDie) (s : State) : (modStr k f s).load = s.load := rfl
@[simp] theorem modStr_run (k : Nat) (f : StrDie → StrDie) (s : State) : (modStr k f s).run = s.run := rfl
@[simp] theorem modStr_epoch (k : Nat) (f : StrDie → StrDie) (s : State) : (modStr k f s).epoch = s.epoch := rfl
@[simp] theorem modStr_tier (k : Nat) (f : StrDie → StrDie) (s : State) : (modStr k f s).tier = s.tier := rfl
@[simp] theorem modStr_frozen (k : Nat) (f : StrDie → StrDie) (s : State) : (modStr k f s).frozen = s.frozen := rfl
@[simp] theorem modStr_licences (k : Nat) (f : StrDie → StrDie) (s : State) : (modStr k f s).licences = s.licences := rfl
@[simp] theorem modStr_free (k : Nat) (f : StrDie → StrDie) (s : State) : (modStr k f s).free = s.free := rfl
@[simp] theorem modStr_pending (k : Nat) (f : StrDie → StrDie) (s : State) : (modStr k f s).pending = s.pending := rfl

/-! ### modDir -/

@[simp] theorem modDir_mem (line : Nat) (f : Dir → Dir) (s : State) : (modDir line f s).mem = s.mem := rfl
@[simp] theorem modDir_tallies (line : Nat) (f : Dir → Dir) (s : State) : (modDir line f s).tallies = s.tallies := rfl
@[simp] theorem modDir_eng (line : Nat) (f : Dir → Dir) (s : State) : (modDir line f s).eng = s.eng := rfl
@[simp] theorem modDir_units (line : Nat) (f : Dir → Dir) (s : State) : (modDir line f s).units = s.units := rfl
@[simp] theorem modDir_log (line : Nat) (f : Dir → Dir) (s : State) : (modDir line f s).log = s.log := rfl
@[simp] theorem modDir_msix (line : Nat) (f : Dir → Dir) (s : State) : (modDir line f s).msix = s.msix := rfl
@[simp] theorem modDir_hub (line : Nat) (f : Dir → Dir) (s : State) : (modDir line f s).hub = s.hub := rfl
@[simp] theorem modDir_time (line : Nat) (f : Dir → Dir) (s : State) : (modDir line f s).time = s.time := rfl
@[simp] theorem modDir_power (line : Nat) (f : Dir → Dir) (s : State) : (modDir line f s).power = s.power := rfl
@[simp] theorem modDir_thermal (line : Nat) (f : Dir → Dir) (s : State) : (modDir line f s).thermal = s.thermal := rfl
@[simp] theorem modDir_boot (line : Nat) (f : Dir → Dir) (s : State) : (modDir line f s).boot = s.boot := rfl
@[simp] theorem modDir_fab (line : Nat) (f : Dir → Dir) (s : State) : (modDir line f s).fab = s.fab := rfl
@[simp] theorem modDir_remote (line : Nat) (f : Dir → Dir) (s : State) : (modDir line f s).remote = s.remote := rfl
@[simp] theorem modDir_load (line : Nat) (f : Dir → Dir) (s : State) : (modDir line f s).load = s.load := rfl
@[simp] theorem modDir_run (line : Nat) (f : Dir → Dir) (s : State) : (modDir line f s).run = s.run := rfl
@[simp] theorem modDir_epoch (line : Nat) (f : Dir → Dir) (s : State) : (modDir line f s).epoch = s.epoch := rfl
@[simp] theorem modDir_tier (line : Nat) (f : Dir → Dir) (s : State) : (modDir line f s).tier = s.tier := rfl
@[simp] theorem modDir_frozen (line : Nat) (f : Dir → Dir) (s : State) : (modDir line f s).frozen = s.frozen := rfl
@[simp] theorem modDir_licences (line : Nat) (f : Dir → Dir) (s : State) : (modDir line f s).licences = s.licences := rfl
@[simp] theorem modDir_free (line : Nat) (f : Dir → Dir) (s : State) : (modDir line f s).free = s.free := rfl
@[simp] theorem modDir_pending (line : Nat) (f : Dir → Dir) (s : State) : (modDir line f s).pending = s.pending := rfl

/-! ### modCounts -/

@[simp] theorem modCounts_mem (line : Nat) (f : SettCounts → SettCounts) (s : State) : (modCounts line f s).mem = s.mem := rfl
@[simp] theorem modCounts_tallies (line : Nat) (f : SettCounts → SettCounts) (s : State) : (modCounts line f s).tallies = s.tallies := rfl
@[simp] theorem modCounts_eng (line : Nat) (f : SettCounts → SettCounts) (s : State) : (modCounts line f s).eng = s.eng := rfl
@[simp] theorem modCounts_units (line : Nat) (f : SettCounts → SettCounts) (s : State) : (modCounts line f s).units = s.units := rfl
@[simp] theorem modCounts_log (line : Nat) (f : SettCounts → SettCounts) (s : State) : (modCounts line f s).log = s.log := rfl
@[simp] theorem modCounts_msix (line : Nat) (f : SettCounts → SettCounts) (s : State) : (modCounts line f s).msix = s.msix := rfl
@[simp] theorem modCounts_hub (line : Nat) (f : SettCounts → SettCounts) (s : State) : (modCounts line f s).hub = s.hub := rfl
@[simp] theorem modCounts_time (line : Nat) (f : SettCounts → SettCounts) (s : State) : (modCounts line f s).time = s.time := rfl
@[simp] theorem modCounts_power (line : Nat) (f : SettCounts → SettCounts) (s : State) : (modCounts line f s).power = s.power := rfl
@[simp] theorem modCounts_thermal (line : Nat) (f : SettCounts → SettCounts) (s : State) : (modCounts line f s).thermal = s.thermal := rfl
@[simp] theorem modCounts_boot (line : Nat) (f : SettCounts → SettCounts) (s : State) : (modCounts line f s).boot = s.boot := rfl
@[simp] theorem modCounts_fab (line : Nat) (f : SettCounts → SettCounts) (s : State) : (modCounts line f s).fab = s.fab := rfl
@[simp] theorem modCounts_remote (line : Nat) (f : SettCounts → SettCounts) (s : State) : (modCounts line f s).remote = s.remote := rfl
@[simp] theorem modCounts_load (line : Nat) (f : SettCounts → SettCounts) (s : State) : (modCounts line f s).load = s.load := rfl
@[simp] theorem modCounts_run (line : Nat) (f : SettCounts → SettCounts) (s : State) : (modCounts line f s).run = s.run := rfl
@[simp] theorem modCounts_epoch (line : Nat) (f : SettCounts → SettCounts) (s : State) : (modCounts line f s).epoch = s.epoch := rfl
@[simp] theorem modCounts_tier (line : Nat) (f : SettCounts → SettCounts) (s : State) : (modCounts line f s).tier = s.tier := rfl
@[simp] theorem modCounts_frozen (line : Nat) (f : SettCounts → SettCounts) (s : State) : (modCounts line f s).frozen = s.frozen := rfl
@[simp] theorem modCounts_licences (line : Nat) (f : SettCounts → SettCounts) (s : State) : (modCounts line f s).licences = s.licences := rfl
@[simp] theorem modCounts_free (line : Nat) (f : SettCounts → SettCounts) (s : State) : (modCounts line f s).free = s.free := rfl
@[simp] theorem modCounts_pending (line : Nat) (f : SettCounts → SettCounts) (s : State) : (modCounts line f s).pending = s.pending := rfl

/-! ### modHare -/

@[simp] theorem modHare_mem (e : Nat) (f : Hare → Hare) (s : State) : (modHare e f s).mem = s.mem := rfl
@[simp] theorem modHare_tallies (e : Nat) (f : Hare → Hare) (s : State) : (modHare e f s).tallies = s.tallies := rfl
@[simp] theorem modHare_eng (e : Nat) (f : Hare → Hare) (s : State) : (modHare e f s).eng = s.eng := rfl
@[simp] theorem modHare_log (e : Nat) (f : Hare → Hare) (s : State) : (modHare e f s).log = s.log := rfl
@[simp] theorem modHare_msix (e : Nat) (f : Hare → Hare) (s : State) : (modHare e f s).msix = s.msix := rfl
@[simp] theorem modHare_hub (e : Nat) (f : Hare → Hare) (s : State) : (modHare e f s).hub = s.hub := rfl
@[simp] theorem modHare_time (e : Nat) (f : Hare → Hare) (s : State) : (modHare e f s).time = s.time := rfl
@[simp] theorem modHare_power (e : Nat) (f : Hare → Hare) (s : State) : (modHare e f s).power = s.power := rfl
@[simp] theorem modHare_thermal (e : Nat) (f : Hare → Hare) (s : State) : (modHare e f s).thermal = s.thermal := rfl
@[simp] theorem modHare_boot (e : Nat) (f : Hare → Hare) (s : State) : (modHare e f s).boot = s.boot := rfl
@[simp] theorem modHare_fab (e : Nat) (f : Hare → Hare) (s : State) : (modHare e f s).fab = s.fab := rfl
@[simp] theorem modHare_remote (e : Nat) (f : Hare → Hare) (s : State) : (modHare e f s).remote = s.remote := rfl
@[simp] theorem modHare_sett (e : Nat) (f : Hare → Hare) (s : State) : (modHare e f s).sett = s.sett := rfl
@[simp] theorem modHare_load (e : Nat) (f : Hare → Hare) (s : State) : (modHare e f s).load = s.load := rfl
@[simp] theorem modHare_run (e : Nat) (f : Hare → Hare) (s : State) : (modHare e f s).run = s.run := rfl
@[simp] theorem modHare_epoch (e : Nat) (f : Hare → Hare) (s : State) : (modHare e f s).epoch = s.epoch := rfl
@[simp] theorem modHare_tier (e : Nat) (f : Hare → Hare) (s : State) : (modHare e f s).tier = s.tier := rfl
@[simp] theorem modHare_frozen (e : Nat) (f : Hare → Hare) (s : State) : (modHare e f s).frozen = s.frozen := rfl
@[simp] theorem modHare_licences (e : Nat) (f : Hare → Hare) (s : State) : (modHare e f s).licences = s.licences := rfl
@[simp] theorem modHare_free (e : Nat) (f : Hare → Hare) (s : State) : (modHare e f s).free = s.free := rfl
@[simp] theorem modHare_pending (e : Nat) (f : Hare → Hare) (s : State) : (modHare e f s).pending = s.pending := rfl

/-! ### setL1 -/

@[simp] theorem setL1_mem (e k : Nat) (l : L1Line) (s : State) : (setL1 e k l s).mem = s.mem := rfl
@[simp] theorem setL1_tallies (e k : Nat) (l : L1Line) (s : State) : (setL1 e k l s).tallies = s.tallies := rfl
@[simp] theorem setL1_eng (e k : Nat) (l : L1Line) (s : State) : (setL1 e k l s).eng = s.eng := rfl
@[simp] theorem setL1_units (e k : Nat) (l : L1Line) (s : State) : (setL1 e k l s).units = s.units := rfl
@[simp] theorem setL1_log (e k : Nat) (l : L1Line) (s : State) : (setL1 e k l s).log = s.log := rfl
@[simp] theorem setL1_msix (e k : Nat) (l : L1Line) (s : State) : (setL1 e k l s).msix = s.msix := rfl
@[simp] theorem setL1_hub (e k : Nat) (l : L1Line) (s : State) : (setL1 e k l s).hub = s.hub := rfl
@[simp] theorem setL1_time (e k : Nat) (l : L1Line) (s : State) : (setL1 e k l s).time = s.time := rfl
@[simp] theorem setL1_power (e k : Nat) (l : L1Line) (s : State) : (setL1 e k l s).power = s.power := rfl
@[simp] theorem setL1_thermal (e k : Nat) (l : L1Line) (s : State) : (setL1 e k l s).thermal = s.thermal := rfl
@[simp] theorem setL1_boot (e k : Nat) (l : L1Line) (s : State) : (setL1 e k l s).boot = s.boot := rfl
@[simp] theorem setL1_fab (e k : Nat) (l : L1Line) (s : State) : (setL1 e k l s).fab = s.fab := rfl
@[simp] theorem setL1_remote (e k : Nat) (l : L1Line) (s : State) : (setL1 e k l s).remote = s.remote := rfl
@[simp] theorem setL1_load (e k : Nat) (l : L1Line) (s : State) : (setL1 e k l s).load = s.load := rfl
@[simp] theorem setL1_run (e k : Nat) (l : L1Line) (s : State) : (setL1 e k l s).run = s.run := rfl
@[simp] theorem setL1_epoch (e k : Nat) (l : L1Line) (s : State) : (setL1 e k l s).epoch = s.epoch := rfl
@[simp] theorem setL1_tier (e k : Nat) (l : L1Line) (s : State) : (setL1 e k l s).tier = s.tier := rfl
@[simp] theorem setL1_frozen (e k : Nat) (l : L1Line) (s : State) : (setL1 e k l s).frozen = s.frozen := rfl
@[simp] theorem setL1_licences (e k : Nat) (l : L1Line) (s : State) : (setL1 e k l s).licences = s.licences := rfl
@[simp] theorem setL1_free (e k : Nat) (l : L1Line) (s : State) : (setL1 e k l s).free = s.free := rfl
@[simp] theorem setL1_pending (e k : Nat) (l : L1Line) (s : State) : (setL1 e k l s).pending = s.pending := rfl

/-! ### setStg -/

@[simp] theorem setStg_mem (k : Nat) (g : StgSlot) (s : State) : (setStg k g s).mem = s.mem := rfl
@[simp] theorem setStg_tallies (k : Nat) (g : StgSlot) (s : State) : (setStg k g s).tallies = s.tallies := rfl
@[simp] theorem setStg_eng (k : Nat) (g : StgSlot) (s : State) : (setStg k g s).eng = s.eng := rfl
@[simp] theorem setStg_log (k : Nat) (g : StgSlot) (s : State) : (setStg k g s).log = s.log := rfl
@[simp] theorem setStg_msix (k : Nat) (g : StgSlot) (s : State) : (setStg k g s).msix = s.msix := rfl
@[simp] theorem setStg_hub (k : Nat) (g : StgSlot) (s : State) : (setStg k g s).hub = s.hub := rfl
@[simp] theorem setStg_time (k : Nat) (g : StgSlot) (s : State) : (setStg k g s).time = s.time := rfl
@[simp] theorem setStg_power (k : Nat) (g : StgSlot) (s : State) : (setStg k g s).power = s.power := rfl
@[simp] theorem setStg_thermal (k : Nat) (g : StgSlot) (s : State) : (setStg k g s).thermal = s.thermal := rfl
@[simp] theorem setStg_boot (k : Nat) (g : StgSlot) (s : State) : (setStg k g s).boot = s.boot := rfl
@[simp] theorem setStg_fab (k : Nat) (g : StgSlot) (s : State) : (setStg k g s).fab = s.fab := rfl
@[simp] theorem setStg_remote (k : Nat) (g : StgSlot) (s : State) : (setStg k g s).remote = s.remote := rfl
@[simp] theorem setStg_sett (k : Nat) (g : StgSlot) (s : State) : (setStg k g s).sett = s.sett := rfl
@[simp] theorem setStg_load (k : Nat) (g : StgSlot) (s : State) : (setStg k g s).load = s.load := rfl
@[simp] theorem setStg_run (k : Nat) (g : StgSlot) (s : State) : (setStg k g s).run = s.run := rfl
@[simp] theorem setStg_epoch (k : Nat) (g : StgSlot) (s : State) : (setStg k g s).epoch = s.epoch := rfl
@[simp] theorem setStg_tier (k : Nat) (g : StgSlot) (s : State) : (setStg k g s).tier = s.tier := rfl
@[simp] theorem setStg_frozen (k : Nat) (g : StgSlot) (s : State) : (setStg k g s).frozen = s.frozen := rfl
@[simp] theorem setStg_licences (k : Nat) (g : StgSlot) (s : State) : (setStg k g s).licences = s.licences := rfl
@[simp] theorem setStg_free (k : Nat) (g : StgSlot) (s : State) : (setStg k g s).free = s.free := rfl
@[simp] theorem setStg_pending (k : Nat) (g : StgSlot) (s : State) : (setStg k g s).pending = s.pending := rfl

/-! ### modPack -/

@[simp] theorem modPack_mem (e : Nat) (f : Pack → Pack) (s : State) : (modPack e f s).mem = s.mem := rfl
@[simp] theorem modPack_tallies (e : Nat) (f : Pack → Pack) (s : State) : (modPack e f s).tallies = s.tallies := rfl
@[simp] theorem modPack_eng (e : Nat) (f : Pack → Pack) (s : State) : (modPack e f s).eng = s.eng := rfl
@[simp] theorem modPack_log (e : Nat) (f : Pack → Pack) (s : State) : (modPack e f s).log = s.log := rfl
@[simp] theorem modPack_msix (e : Nat) (f : Pack → Pack) (s : State) : (modPack e f s).msix = s.msix := rfl
@[simp] theorem modPack_hub (e : Nat) (f : Pack → Pack) (s : State) : (modPack e f s).hub = s.hub := rfl
@[simp] theorem modPack_time (e : Nat) (f : Pack → Pack) (s : State) : (modPack e f s).time = s.time := rfl
@[simp] theorem modPack_power (e : Nat) (f : Pack → Pack) (s : State) : (modPack e f s).power = s.power := rfl
@[simp] theorem modPack_thermal (e : Nat) (f : Pack → Pack) (s : State) : (modPack e f s).thermal = s.thermal := rfl
@[simp] theorem modPack_boot (e : Nat) (f : Pack → Pack) (s : State) : (modPack e f s).boot = s.boot := rfl
@[simp] theorem modPack_fab (e : Nat) (f : Pack → Pack) (s : State) : (modPack e f s).fab = s.fab := rfl
@[simp] theorem modPack_remote (e : Nat) (f : Pack → Pack) (s : State) : (modPack e f s).remote = s.remote := rfl
@[simp] theorem modPack_sett (e : Nat) (f : Pack → Pack) (s : State) : (modPack e f s).sett = s.sett := rfl
@[simp] theorem modPack_load (e : Nat) (f : Pack → Pack) (s : State) : (modPack e f s).load = s.load := rfl
@[simp] theorem modPack_run (e : Nat) (f : Pack → Pack) (s : State) : (modPack e f s).run = s.run := rfl
@[simp] theorem modPack_epoch (e : Nat) (f : Pack → Pack) (s : State) : (modPack e f s).epoch = s.epoch := rfl
@[simp] theorem modPack_tier (e : Nat) (f : Pack → Pack) (s : State) : (modPack e f s).tier = s.tier := rfl
@[simp] theorem modPack_frozen (e : Nat) (f : Pack → Pack) (s : State) : (modPack e f s).frozen = s.frozen := rfl
@[simp] theorem modPack_licences (e : Nat) (f : Pack → Pack) (s : State) : (modPack e f s).licences = s.licences := rfl
@[simp] theorem modPack_free (e : Nat) (f : Pack → Pack) (s : State) : (modPack e f s).free = s.free := rfl
@[simp] theorem modPack_pending (e : Nat) (f : Pack → Pack) (s : State) : (modPack e f s).pending = s.pending := rfl

/-! ### modBear -/

@[simp] theorem modBear_mem (e : Nat) (f : Bear → Bear) (s : State) : (modBear e f s).mem = s.mem := rfl
@[simp] theorem modBear_tallies (e : Nat) (f : Bear → Bear) (s : State) : (modBear e f s).tallies = s.tallies := rfl
@[simp] theorem modBear_eng (e : Nat) (f : Bear → Bear) (s : State) : (modBear e f s).eng = s.eng := rfl
@[simp] theorem modBear_log (e : Nat) (f : Bear → Bear) (s : State) : (modBear e f s).log = s.log := rfl
@[simp] theorem modBear_msix (e : Nat) (f : Bear → Bear) (s : State) : (modBear e f s).msix = s.msix := rfl
@[simp] theorem modBear_hub (e : Nat) (f : Bear → Bear) (s : State) : (modBear e f s).hub = s.hub := rfl
@[simp] theorem modBear_time (e : Nat) (f : Bear → Bear) (s : State) : (modBear e f s).time = s.time := rfl
@[simp] theorem modBear_power (e : Nat) (f : Bear → Bear) (s : State) : (modBear e f s).power = s.power := rfl
@[simp] theorem modBear_thermal (e : Nat) (f : Bear → Bear) (s : State) : (modBear e f s).thermal = s.thermal := rfl
@[simp] theorem modBear_boot (e : Nat) (f : Bear → Bear) (s : State) : (modBear e f s).boot = s.boot := rfl
@[simp] theorem modBear_fab (e : Nat) (f : Bear → Bear) (s : State) : (modBear e f s).fab = s.fab := rfl
@[simp] theorem modBear_remote (e : Nat) (f : Bear → Bear) (s : State) : (modBear e f s).remote = s.remote := rfl
@[simp] theorem modBear_sett (e : Nat) (f : Bear → Bear) (s : State) : (modBear e f s).sett = s.sett := rfl
@[simp] theorem modBear_load (e : Nat) (f : Bear → Bear) (s : State) : (modBear e f s).load = s.load := rfl
@[simp] theorem modBear_run (e : Nat) (f : Bear → Bear) (s : State) : (modBear e f s).run = s.run := rfl
@[simp] theorem modBear_epoch (e : Nat) (f : Bear → Bear) (s : State) : (modBear e f s).epoch = s.epoch := rfl
@[simp] theorem modBear_tier (e : Nat) (f : Bear → Bear) (s : State) : (modBear e f s).tier = s.tier := rfl
@[simp] theorem modBear_frozen (e : Nat) (f : Bear → Bear) (s : State) : (modBear e f s).frozen = s.frozen := rfl
@[simp] theorem modBear_licences (e : Nat) (f : Bear → Bear) (s : State) : (modBear e f s).licences = s.licences := rfl
@[simp] theorem modBear_free (e : Nat) (f : Bear → Bear) (s : State) : (modBear e f s).free = s.free := rfl
@[simp] theorem modBear_pending (e : Nat) (f : Bear → Bear) (s : State) : (modBear e f s).pending = s.pending := rfl

/-! ### modBadger -/

@[simp] theorem modBadger_mem (e : Nat) (f : Badger → Badger) (s : State) : (modBadger e f s).mem = s.mem := rfl
@[simp] theorem modBadger_tallies (e : Nat) (f : Badger → Badger) (s : State) : (modBadger e f s).tallies = s.tallies := rfl
@[simp] theorem modBadger_eng (e : Nat) (f : Badger → Badger) (s : State) : (modBadger e f s).eng = s.eng := rfl
@[simp] theorem modBadger_log (e : Nat) (f : Badger → Badger) (s : State) : (modBadger e f s).log = s.log := rfl
@[simp] theorem modBadger_msix (e : Nat) (f : Badger → Badger) (s : State) : (modBadger e f s).msix = s.msix := rfl
@[simp] theorem modBadger_hub (e : Nat) (f : Badger → Badger) (s : State) : (modBadger e f s).hub = s.hub := rfl
@[simp] theorem modBadger_time (e : Nat) (f : Badger → Badger) (s : State) : (modBadger e f s).time = s.time := rfl
@[simp] theorem modBadger_power (e : Nat) (f : Badger → Badger) (s : State) : (modBadger e f s).power = s.power := rfl
@[simp] theorem modBadger_thermal (e : Nat) (f : Badger → Badger) (s : State) : (modBadger e f s).thermal = s.thermal := rfl
@[simp] theorem modBadger_boot (e : Nat) (f : Badger → Badger) (s : State) : (modBadger e f s).boot = s.boot := rfl
@[simp] theorem modBadger_fab (e : Nat) (f : Badger → Badger) (s : State) : (modBadger e f s).fab = s.fab := rfl
@[simp] theorem modBadger_remote (e : Nat) (f : Badger → Badger) (s : State) : (modBadger e f s).remote = s.remote := rfl
@[simp] theorem modBadger_sett (e : Nat) (f : Badger → Badger) (s : State) : (modBadger e f s).sett = s.sett := rfl
@[simp] theorem modBadger_load (e : Nat) (f : Badger → Badger) (s : State) : (modBadger e f s).load = s.load := rfl
@[simp] theorem modBadger_run (e : Nat) (f : Badger → Badger) (s : State) : (modBadger e f s).run = s.run := rfl
@[simp] theorem modBadger_epoch (e : Nat) (f : Badger → Badger) (s : State) : (modBadger e f s).epoch = s.epoch := rfl
@[simp] theorem modBadger_tier (e : Nat) (f : Badger → Badger) (s : State) : (modBadger e f s).tier = s.tier := rfl
@[simp] theorem modBadger_frozen (e : Nat) (f : Badger → Badger) (s : State) : (modBadger e f s).frozen = s.frozen := rfl
@[simp] theorem modBadger_licences (e : Nat) (f : Badger → Badger) (s : State) : (modBadger e f s).licences = s.licences := rfl
@[simp] theorem modBadger_free (e : Nat) (f : Badger → Badger) (s : State) : (modBadger e f s).free = s.free := rfl
@[simp] theorem modBadger_pending (e : Nat) (f : Badger → Badger) (s : State) : (modBadger e f s).pending = s.pending := rfl

/-! ### modPpe -/

@[simp] theorem modPpe_mem (k : Nat) (f : Ppe → Ppe) (s : State) : (modPpe k f s).mem = s.mem := rfl
@[simp] theorem modPpe_tallies (k : Nat) (f : Ppe → Ppe) (s : State) : (modPpe k f s).tallies = s.tallies := rfl
@[simp] theorem modPpe_eng (k : Nat) (f : Ppe → Ppe) (s : State) : (modPpe k f s).eng = s.eng := rfl
@[simp] theorem modPpe_log (k : Nat) (f : Ppe → Ppe) (s : State) : (modPpe k f s).log = s.log := rfl
@[simp] theorem modPpe_msix (k : Nat) (f : Ppe → Ppe) (s : State) : (modPpe k f s).msix = s.msix := rfl
@[simp] theorem modPpe_hub (k : Nat) (f : Ppe → Ppe) (s : State) : (modPpe k f s).hub = s.hub := rfl
@[simp] theorem modPpe_time (k : Nat) (f : Ppe → Ppe) (s : State) : (modPpe k f s).time = s.time := rfl
@[simp] theorem modPpe_power (k : Nat) (f : Ppe → Ppe) (s : State) : (modPpe k f s).power = s.power := rfl
@[simp] theorem modPpe_thermal (k : Nat) (f : Ppe → Ppe) (s : State) : (modPpe k f s).thermal = s.thermal := rfl
@[simp] theorem modPpe_boot (k : Nat) (f : Ppe → Ppe) (s : State) : (modPpe k f s).boot = s.boot := rfl
@[simp] theorem modPpe_fab (k : Nat) (f : Ppe → Ppe) (s : State) : (modPpe k f s).fab = s.fab := rfl
@[simp] theorem modPpe_remote (k : Nat) (f : Ppe → Ppe) (s : State) : (modPpe k f s).remote = s.remote := rfl
@[simp] theorem modPpe_sett (k : Nat) (f : Ppe → Ppe) (s : State) : (modPpe k f s).sett = s.sett := rfl
@[simp] theorem modPpe_load (k : Nat) (f : Ppe → Ppe) (s : State) : (modPpe k f s).load = s.load := rfl
@[simp] theorem modPpe_run (k : Nat) (f : Ppe → Ppe) (s : State) : (modPpe k f s).run = s.run := rfl
@[simp] theorem modPpe_epoch (k : Nat) (f : Ppe → Ppe) (s : State) : (modPpe k f s).epoch = s.epoch := rfl
@[simp] theorem modPpe_tier (k : Nat) (f : Ppe → Ppe) (s : State) : (modPpe k f s).tier = s.tier := rfl
@[simp] theorem modPpe_frozen (k : Nat) (f : Ppe → Ppe) (s : State) : (modPpe k f s).frozen = s.frozen := rfl
@[simp] theorem modPpe_licences (k : Nat) (f : Ppe → Ppe) (s : State) : (modPpe k f s).licences = s.licences := rfl
@[simp] theorem modPpe_free (k : Nat) (f : Ppe → Ppe) (s : State) : (modPpe k f s).free = s.free := rfl
@[simp] theorem modPpe_pending (k : Nat) (f : Ppe → Ppe) (s : State) : (modPpe k f s).pending = s.pending := rfl

/-! ### modTile -/

@[simp] theorem modTile_mem (k : Nat) (f : Tile → Tile) (s : State) : (modTile k f s).mem = s.mem := rfl
@[simp] theorem modTile_tallies (k : Nat) (f : Tile → Tile) (s : State) : (modTile k f s).tallies = s.tallies := rfl
@[simp] theorem modTile_eng (k : Nat) (f : Tile → Tile) (s : State) : (modTile k f s).eng = s.eng := rfl
@[simp] theorem modTile_units (k : Nat) (f : Tile → Tile) (s : State) : (modTile k f s).units = s.units := rfl
@[simp] theorem modTile_log (k : Nat) (f : Tile → Tile) (s : State) : (modTile k f s).log = s.log := rfl
@[simp] theorem modTile_msix (k : Nat) (f : Tile → Tile) (s : State) : (modTile k f s).msix = s.msix := rfl
@[simp] theorem modTile_hub (k : Nat) (f : Tile → Tile) (s : State) : (modTile k f s).hub = s.hub := rfl
@[simp] theorem modTile_time (k : Nat) (f : Tile → Tile) (s : State) : (modTile k f s).time = s.time := rfl
@[simp] theorem modTile_power (k : Nat) (f : Tile → Tile) (s : State) : (modTile k f s).power = s.power := rfl
@[simp] theorem modTile_thermal (k : Nat) (f : Tile → Tile) (s : State) : (modTile k f s).thermal = s.thermal := rfl
@[simp] theorem modTile_boot (k : Nat) (f : Tile → Tile) (s : State) : (modTile k f s).boot = s.boot := rfl
@[simp] theorem modTile_remote (k : Nat) (f : Tile → Tile) (s : State) : (modTile k f s).remote = s.remote := rfl
@[simp] theorem modTile_sett (k : Nat) (f : Tile → Tile) (s : State) : (modTile k f s).sett = s.sett := rfl
@[simp] theorem modTile_load (k : Nat) (f : Tile → Tile) (s : State) : (modTile k f s).load = s.load := rfl
@[simp] theorem modTile_run (k : Nat) (f : Tile → Tile) (s : State) : (modTile k f s).run = s.run := rfl
@[simp] theorem modTile_epoch (k : Nat) (f : Tile → Tile) (s : State) : (modTile k f s).epoch = s.epoch := rfl
@[simp] theorem modTile_tier (k : Nat) (f : Tile → Tile) (s : State) : (modTile k f s).tier = s.tier := rfl
@[simp] theorem modTile_frozen (k : Nat) (f : Tile → Tile) (s : State) : (modTile k f s).frozen = s.frozen := rfl
@[simp] theorem modTile_licences (k : Nat) (f : Tile → Tile) (s : State) : (modTile k f s).licences = s.licences := rfl
@[simp] theorem modTile_free (k : Nat) (f : Tile → Tile) (s : State) : (modTile k f s).free = s.free := rfl
@[simp] theorem modTile_pending (k : Nat) (f : Tile → Tile) (s : State) : (modTile k f s).pending = s.pending := rfl

/-! ### modRing -/

@[simp] theorem modRing_mem (port : Nat) (rx : Bool) (r : Nat) (f : Ring → Ring) (s : State) : (modRing port rx r f s).mem = s.mem := rfl
@[simp] theorem modRing_tallies (port : Nat) (rx : Bool) (r : Nat) (f : Ring → Ring) (s : State) : (modRing port rx r f s).tallies = s.tallies := rfl
@[simp] theorem modRing_eng (port : Nat) (rx : Bool) (r : Nat) (f : Ring → Ring) (s : State) : (modRing port rx r f s).eng = s.eng := rfl
@[simp] theorem modRing_units (port : Nat) (rx : Bool) (r : Nat) (f : Ring → Ring) (s : State) : (modRing port rx r f s).units = s.units := rfl
@[simp] theorem modRing_log (port : Nat) (rx : Bool) (r : Nat) (f : Ring → Ring) (s : State) : (modRing port rx r f s).log = s.log := rfl
@[simp] theorem modRing_msix (port : Nat) (rx : Bool) (r : Nat) (f : Ring → Ring) (s : State) : (modRing port rx r f s).msix = s.msix := rfl
@[simp] theorem modRing_hub (port : Nat) (rx : Bool) (r : Nat) (f : Ring → Ring) (s : State) : (modRing port rx r f s).hub = s.hub := rfl
@[simp] theorem modRing_time (port : Nat) (rx : Bool) (r : Nat) (f : Ring → Ring) (s : State) : (modRing port rx r f s).time = s.time := rfl
@[simp] theorem modRing_power (port : Nat) (rx : Bool) (r : Nat) (f : Ring → Ring) (s : State) : (modRing port rx r f s).power = s.power := rfl
@[simp] theorem modRing_thermal (port : Nat) (rx : Bool) (r : Nat) (f : Ring → Ring) (s : State) : (modRing port rx r f s).thermal = s.thermal := rfl
@[simp] theorem modRing_boot (port : Nat) (rx : Bool) (r : Nat) (f : Ring → Ring) (s : State) : (modRing port rx r f s).boot = s.boot := rfl
@[simp] theorem modRing_remote (port : Nat) (rx : Bool) (r : Nat) (f : Ring → Ring) (s : State) : (modRing port rx r f s).remote = s.remote := rfl
@[simp] theorem modRing_sett (port : Nat) (rx : Bool) (r : Nat) (f : Ring → Ring) (s : State) : (modRing port rx r f s).sett = s.sett := rfl
@[simp] theorem modRing_load (port : Nat) (rx : Bool) (r : Nat) (f : Ring → Ring) (s : State) : (modRing port rx r f s).load = s.load := rfl
@[simp] theorem modRing_run (port : Nat) (rx : Bool) (r : Nat) (f : Ring → Ring) (s : State) : (modRing port rx r f s).run = s.run := rfl
@[simp] theorem modRing_epoch (port : Nat) (rx : Bool) (r : Nat) (f : Ring → Ring) (s : State) : (modRing port rx r f s).epoch = s.epoch := rfl
@[simp] theorem modRing_tier (port : Nat) (rx : Bool) (r : Nat) (f : Ring → Ring) (s : State) : (modRing port rx r f s).tier = s.tier := rfl
@[simp] theorem modRing_frozen (port : Nat) (rx : Bool) (r : Nat) (f : Ring → Ring) (s : State) : (modRing port rx r f s).frozen = s.frozen := rfl
@[simp] theorem modRing_licences (port : Nat) (rx : Bool) (r : Nat) (f : Ring → Ring) (s : State) : (modRing port rx r f s).licences = s.licences := rfl
@[simp] theorem modRing_free (port : Nat) (rx : Bool) (r : Nat) (f : Ring → Ring) (s : State) : (modRing port rx r f s).free = s.free := rfl
@[simp] theorem modRing_pending (port : Nat) (rx : Bool) (r : Nat) (f : Ring → Ring) (s : State) : (modRing port rx r f s).pending = s.pending := rfl

/-! ### replyHost -/

@[simp] theorem replyHost_mem (r : HostReply) (s : State) : (replyHost r s).mem = s.mem := rfl
@[simp] theorem replyHost_tallies (r : HostReply) (s : State) : (replyHost r s).tallies = s.tallies := rfl
@[simp] theorem replyHost_eng (r : HostReply) (s : State) : (replyHost r s).eng = s.eng := rfl
@[simp] theorem replyHost_units (r : HostReply) (s : State) : (replyHost r s).units = s.units := rfl
@[simp] theorem replyHost_log (r : HostReply) (s : State) : (replyHost r s).log = s.log := rfl
@[simp] theorem replyHost_msix (r : HostReply) (s : State) : (replyHost r s).msix = s.msix := rfl
@[simp] theorem replyHost_hub (r : HostReply) (s : State) : (replyHost r s).hub = { s.hub with reply := r } := rfl
@[simp] theorem replyHost_time (r : HostReply) (s : State) : (replyHost r s).time = s.time := rfl
@[simp] theorem replyHost_power (r : HostReply) (s : State) : (replyHost r s).power = s.power := rfl
@[simp] theorem replyHost_thermal (r : HostReply) (s : State) : (replyHost r s).thermal = s.thermal := rfl
@[simp] theorem replyHost_boot (r : HostReply) (s : State) : (replyHost r s).boot = s.boot := rfl
@[simp] theorem replyHost_fab (r : HostReply) (s : State) : (replyHost r s).fab = s.fab := rfl
@[simp] theorem replyHost_remote (r : HostReply) (s : State) : (replyHost r s).remote = s.remote := rfl
@[simp] theorem replyHost_sett (r : HostReply) (s : State) : (replyHost r s).sett = s.sett := rfl
@[simp] theorem replyHost_load (r : HostReply) (s : State) : (replyHost r s).load = s.load := rfl
@[simp] theorem replyHost_run (r : HostReply) (s : State) : (replyHost r s).run = s.run := rfl
@[simp] theorem replyHost_epoch (r : HostReply) (s : State) : (replyHost r s).epoch = s.epoch := rfl
@[simp] theorem replyHost_tier (r : HostReply) (s : State) : (replyHost r s).tier = s.tier := rfl
@[simp] theorem replyHost_frozen (r : HostReply) (s : State) : (replyHost r s).frozen = s.frozen := rfl
@[simp] theorem replyHost_licences (r : HostReply) (s : State) : (replyHost r s).licences = s.licences := rfl
@[simp] theorem replyHost_free (r : HostReply) (s : State) : (replyHost r s).free = s.free := rfl
@[simp] theorem replyHost_pending (r : HostReply) (s : State) : (replyHost r s).pending = s.pending := rfl

/-! ### modRail -/

@[simp] theorem modRail_mem (r : Nat) (f : Rail → Rail) (s : State) : (modRail r f s).mem = s.mem := rfl
@[simp] theorem modRail_tallies (r : Nat) (f : Rail → Rail) (s : State) : (modRail r f s).tallies = s.tallies := rfl
@[simp] theorem modRail_eng (r : Nat) (f : Rail → Rail) (s : State) : (modRail r f s).eng = s.eng := rfl
@[simp] theorem modRail_units (r : Nat) (f : Rail → Rail) (s : State) : (modRail r f s).units = s.units := rfl
@[simp] theorem modRail_log (r : Nat) (f : Rail → Rail) (s : State) : (modRail r f s).log = s.log := rfl
@[simp] theorem modRail_msix (r : Nat) (f : Rail → Rail) (s : State) : (modRail r f s).msix = s.msix := rfl
@[simp] theorem modRail_hub (r : Nat) (f : Rail → Rail) (s : State) : (modRail r f s).hub = s.hub := rfl
@[simp] theorem modRail_time (r : Nat) (f : Rail → Rail) (s : State) : (modRail r f s).time = s.time := rfl
@[simp] theorem modRail_thermal (r : Nat) (f : Rail → Rail) (s : State) : (modRail r f s).thermal = s.thermal := rfl
@[simp] theorem modRail_boot (r : Nat) (f : Rail → Rail) (s : State) : (modRail r f s).boot = s.boot := rfl
@[simp] theorem modRail_fab (r : Nat) (f : Rail → Rail) (s : State) : (modRail r f s).fab = s.fab := rfl
@[simp] theorem modRail_remote (r : Nat) (f : Rail → Rail) (s : State) : (modRail r f s).remote = s.remote := rfl
@[simp] theorem modRail_sett (r : Nat) (f : Rail → Rail) (s : State) : (modRail r f s).sett = s.sett := rfl
@[simp] theorem modRail_load (r : Nat) (f : Rail → Rail) (s : State) : (modRail r f s).load = s.load := rfl
@[simp] theorem modRail_run (r : Nat) (f : Rail → Rail) (s : State) : (modRail r f s).run = s.run := rfl
@[simp] theorem modRail_epoch (r : Nat) (f : Rail → Rail) (s : State) : (modRail r f s).epoch = s.epoch := rfl
@[simp] theorem modRail_tier (r : Nat) (f : Rail → Rail) (s : State) : (modRail r f s).tier = s.tier := rfl
@[simp] theorem modRail_frozen (r : Nat) (f : Rail → Rail) (s : State) : (modRail r f s).frozen = s.frozen := rfl
@[simp] theorem modRail_licences (r : Nat) (f : Rail → Rail) (s : State) : (modRail r f s).licences = s.licences := rfl
@[simp] theorem modRail_free (r : Nat) (f : Rail → Rail) (s : State) : (modRail r f s).free = s.free := rfl
@[simp] theorem modRail_pending (r : Nat) (f : Rail → Rail) (s : State) : (modRail r f s).pending = s.pending := rfl

/-! ### modRate -/

@[simp] theorem modRate_mem (k : Nat) (f : DieRate → DieRate) (s : State) : (modRate k f s).mem = s.mem := rfl
@[simp] theorem modRate_tallies (k : Nat) (f : DieRate → DieRate) (s : State) : (modRate k f s).tallies = s.tallies := rfl
@[simp] theorem modRate_eng (k : Nat) (f : DieRate → DieRate) (s : State) : (modRate k f s).eng = s.eng := rfl
@[simp] theorem modRate_units (k : Nat) (f : DieRate → DieRate) (s : State) : (modRate k f s).units = s.units := rfl
@[simp] theorem modRate_log (k : Nat) (f : DieRate → DieRate) (s : State) : (modRate k f s).log = s.log := rfl
@[simp] theorem modRate_msix (k : Nat) (f : DieRate → DieRate) (s : State) : (modRate k f s).msix = s.msix := rfl
@[simp] theorem modRate_hub (k : Nat) (f : DieRate → DieRate) (s : State) : (modRate k f s).hub = s.hub := rfl
@[simp] theorem modRate_time (k : Nat) (f : DieRate → DieRate) (s : State) : (modRate k f s).time = s.time := rfl
@[simp] theorem modRate_thermal (k : Nat) (f : DieRate → DieRate) (s : State) : (modRate k f s).thermal = s.thermal := rfl
@[simp] theorem modRate_boot (k : Nat) (f : DieRate → DieRate) (s : State) : (modRate k f s).boot = s.boot := rfl
@[simp] theorem modRate_fab (k : Nat) (f : DieRate → DieRate) (s : State) : (modRate k f s).fab = s.fab := rfl
@[simp] theorem modRate_remote (k : Nat) (f : DieRate → DieRate) (s : State) : (modRate k f s).remote = s.remote := rfl
@[simp] theorem modRate_sett (k : Nat) (f : DieRate → DieRate) (s : State) : (modRate k f s).sett = s.sett := rfl
@[simp] theorem modRate_load (k : Nat) (f : DieRate → DieRate) (s : State) : (modRate k f s).load = s.load := rfl
@[simp] theorem modRate_run (k : Nat) (f : DieRate → DieRate) (s : State) : (modRate k f s).run = s.run := rfl
@[simp] theorem modRate_epoch (k : Nat) (f : DieRate → DieRate) (s : State) : (modRate k f s).epoch = s.epoch := rfl
@[simp] theorem modRate_tier (k : Nat) (f : DieRate → DieRate) (s : State) : (modRate k f s).tier = s.tier := rfl
@[simp] theorem modRate_frozen (k : Nat) (f : DieRate → DieRate) (s : State) : (modRate k f s).frozen = s.frozen := rfl
@[simp] theorem modRate_licences (k : Nat) (f : DieRate → DieRate) (s : State) : (modRate k f s).licences = s.licences := rfl
@[simp] theorem modRate_free (k : Nat) (f : DieRate → DieRate) (s : State) : (modRate k f s).free = s.free := rfl
@[simp] theorem modRate_pending (k : Nat) (f : DieRate → DieRate) (s : State) : (modRate k f s).pending = s.pending := rfl

/-! ### modDroop -/

@[simp] theorem modDroop_mem (j : Nat) (f : Droop → Droop) (s : State) : (modDroop j f s).mem = s.mem := rfl
@[simp] theorem modDroop_tallies (j : Nat) (f : Droop → Droop) (s : State) : (modDroop j f s).tallies = s.tallies := rfl
@[simp] theorem modDroop_eng (j : Nat) (f : Droop → Droop) (s : State) : (modDroop j f s).eng = s.eng := rfl
@[simp] theorem modDroop_units (j : Nat) (f : Droop → Droop) (s : State) : (modDroop j f s).units = s.units := rfl
@[simp] theorem modDroop_log (j : Nat) (f : Droop → Droop) (s : State) : (modDroop j f s).log = s.log := rfl
@[simp] theorem modDroop_msix (j : Nat) (f : Droop → Droop) (s : State) : (modDroop j f s).msix = s.msix := rfl
@[simp] theorem modDroop_hub (j : Nat) (f : Droop → Droop) (s : State) : (modDroop j f s).hub = s.hub := rfl
@[simp] theorem modDroop_time (j : Nat) (f : Droop → Droop) (s : State) : (modDroop j f s).time = s.time := rfl
@[simp] theorem modDroop_thermal (j : Nat) (f : Droop → Droop) (s : State) : (modDroop j f s).thermal = s.thermal := rfl
@[simp] theorem modDroop_boot (j : Nat) (f : Droop → Droop) (s : State) : (modDroop j f s).boot = s.boot := rfl
@[simp] theorem modDroop_fab (j : Nat) (f : Droop → Droop) (s : State) : (modDroop j f s).fab = s.fab := rfl
@[simp] theorem modDroop_remote (j : Nat) (f : Droop → Droop) (s : State) : (modDroop j f s).remote = s.remote := rfl
@[simp] theorem modDroop_sett (j : Nat) (f : Droop → Droop) (s : State) : (modDroop j f s).sett = s.sett := rfl
@[simp] theorem modDroop_load (j : Nat) (f : Droop → Droop) (s : State) : (modDroop j f s).load = s.load := rfl
@[simp] theorem modDroop_run (j : Nat) (f : Droop → Droop) (s : State) : (modDroop j f s).run = s.run := rfl
@[simp] theorem modDroop_epoch (j : Nat) (f : Droop → Droop) (s : State) : (modDroop j f s).epoch = s.epoch := rfl
@[simp] theorem modDroop_tier (j : Nat) (f : Droop → Droop) (s : State) : (modDroop j f s).tier = s.tier := rfl
@[simp] theorem modDroop_frozen (j : Nat) (f : Droop → Droop) (s : State) : (modDroop j f s).frozen = s.frozen := rfl
@[simp] theorem modDroop_licences (j : Nat) (f : Droop → Droop) (s : State) : (modDroop j f s).licences = s.licences := rfl
@[simp] theorem modDroop_free (j : Nat) (f : Droop → Droop) (s : State) : (modDroop j f s).free = s.free := rfl
@[simp] theorem modDroop_pending (j : Nat) (f : Droop → Droop) (s : State) : (modDroop j f s).pending = s.pending := rfl

/-! ### modDom -/

@[simp] theorem modDom_mem (d : Nat) (f : Domain → Domain) (s : State) : (modDom d f s).mem = s.mem := rfl
@[simp] theorem modDom_tallies (d : Nat) (f : Domain → Domain) (s : State) : (modDom d f s).tallies = s.tallies := rfl
@[simp] theorem modDom_eng (d : Nat) (f : Domain → Domain) (s : State) : (modDom d f s).eng = s.eng := rfl
@[simp] theorem modDom_units (d : Nat) (f : Domain → Domain) (s : State) : (modDom d f s).units = s.units := rfl
@[simp] theorem modDom_log (d : Nat) (f : Domain → Domain) (s : State) : (modDom d f s).log = s.log := rfl
@[simp] theorem modDom_msix (d : Nat) (f : Domain → Domain) (s : State) : (modDom d f s).msix = s.msix := rfl
@[simp] theorem modDom_hub (d : Nat) (f : Domain → Domain) (s : State) : (modDom d f s).hub = s.hub := rfl
@[simp] theorem modDom_time (d : Nat) (f : Domain → Domain) (s : State) : (modDom d f s).time = s.time := rfl
@[simp] theorem modDom_thermal (d : Nat) (f : Domain → Domain) (s : State) : (modDom d f s).thermal = s.thermal := rfl
@[simp] theorem modDom_boot (d : Nat) (f : Domain → Domain) (s : State) : (modDom d f s).boot = s.boot := rfl
@[simp] theorem modDom_fab (d : Nat) (f : Domain → Domain) (s : State) : (modDom d f s).fab = s.fab := rfl
@[simp] theorem modDom_remote (d : Nat) (f : Domain → Domain) (s : State) : (modDom d f s).remote = s.remote := rfl
@[simp] theorem modDom_sett (d : Nat) (f : Domain → Domain) (s : State) : (modDom d f s).sett = s.sett := rfl
@[simp] theorem modDom_load (d : Nat) (f : Domain → Domain) (s : State) : (modDom d f s).load = s.load := rfl
@[simp] theorem modDom_run (d : Nat) (f : Domain → Domain) (s : State) : (modDom d f s).run = s.run := rfl
@[simp] theorem modDom_epoch (d : Nat) (f : Domain → Domain) (s : State) : (modDom d f s).epoch = s.epoch := rfl
@[simp] theorem modDom_tier (d : Nat) (f : Domain → Domain) (s : State) : (modDom d f s).tier = s.tier := rfl
@[simp] theorem modDom_frozen (d : Nat) (f : Domain → Domain) (s : State) : (modDom d f s).frozen = s.frozen := rfl
@[simp] theorem modDom_licences (d : Nat) (f : Domain → Domain) (s : State) : (modDom d f s).licences = s.licences := rfl
@[simp] theorem modDom_free (d : Nat) (f : Domain → Domain) (s : State) : (modDom d f s).free = s.free := rfl
@[simp] theorem modDom_pending (d : Nat) (f : Domain → Domain) (s : State) : (modDom d f s).pending = s.pending := rfl

/-! ### modTime -/

@[simp] theorem modTime_mem (f : TimeBase → TimeBase) (s : State) : (modTime f s).mem = s.mem := rfl
@[simp] theorem modTime_tallies (f : TimeBase → TimeBase) (s : State) : (modTime f s).tallies = s.tallies := rfl
@[simp] theorem modTime_eng (f : TimeBase → TimeBase) (s : State) : (modTime f s).eng = s.eng := rfl
@[simp] theorem modTime_units (f : TimeBase → TimeBase) (s : State) : (modTime f s).units = s.units := rfl
@[simp] theorem modTime_log (f : TimeBase → TimeBase) (s : State) : (modTime f s).log = s.log := rfl
@[simp] theorem modTime_msix (f : TimeBase → TimeBase) (s : State) : (modTime f s).msix = s.msix := rfl
@[simp] theorem modTime_hub (f : TimeBase → TimeBase) (s : State) : (modTime f s).hub = s.hub := rfl
@[simp] theorem modTime_time (f : TimeBase → TimeBase) (s : State) : (modTime f s).time = f s.time := rfl
@[simp] theorem modTime_power (f : TimeBase → TimeBase) (s : State) : (modTime f s).power = s.power := rfl
@[simp] theorem modTime_thermal (f : TimeBase → TimeBase) (s : State) : (modTime f s).thermal = s.thermal := rfl
@[simp] theorem modTime_boot (f : TimeBase → TimeBase) (s : State) : (modTime f s).boot = s.boot := rfl
@[simp] theorem modTime_fab (f : TimeBase → TimeBase) (s : State) : (modTime f s).fab = s.fab := rfl
@[simp] theorem modTime_remote (f : TimeBase → TimeBase) (s : State) : (modTime f s).remote = s.remote := rfl
@[simp] theorem modTime_sett (f : TimeBase → TimeBase) (s : State) : (modTime f s).sett = s.sett := rfl
@[simp] theorem modTime_load (f : TimeBase → TimeBase) (s : State) : (modTime f s).load = s.load := rfl
@[simp] theorem modTime_run (f : TimeBase → TimeBase) (s : State) : (modTime f s).run = s.run := rfl
@[simp] theorem modTime_epoch (f : TimeBase → TimeBase) (s : State) : (modTime f s).epoch = s.epoch := rfl
@[simp] theorem modTime_tier (f : TimeBase → TimeBase) (s : State) : (modTime f s).tier = s.tier := rfl
@[simp] theorem modTime_frozen (f : TimeBase → TimeBase) (s : State) : (modTime f s).frozen = s.frozen := rfl
@[simp] theorem modTime_licences (f : TimeBase → TimeBase) (s : State) : (modTime f s).licences = s.licences := rfl
@[simp] theorem modTime_free (f : TimeBase → TimeBase) (s : State) : (modTime f s).free = s.free := rfl
@[simp] theorem modTime_pending (f : TimeBase → TimeBase) (s : State) : (modTime f s).pending = s.pending := rfl

/-! ### modThm -/

@[simp] theorem modThm_mem (f : Thermal → Thermal) (s : State) : (modThm f s).mem = s.mem := rfl
@[simp] theorem modThm_tallies (f : Thermal → Thermal) (s : State) : (modThm f s).tallies = s.tallies := rfl
@[simp] theorem modThm_eng (f : Thermal → Thermal) (s : State) : (modThm f s).eng = s.eng := rfl
@[simp] theorem modThm_units (f : Thermal → Thermal) (s : State) : (modThm f s).units = s.units := rfl
@[simp] theorem modThm_log (f : Thermal → Thermal) (s : State) : (modThm f s).log = s.log := rfl
@[simp] theorem modThm_msix (f : Thermal → Thermal) (s : State) : (modThm f s).msix = s.msix := rfl
@[simp] theorem modThm_hub (f : Thermal → Thermal) (s : State) : (modThm f s).hub = s.hub := rfl
@[simp] theorem modThm_time (f : Thermal → Thermal) (s : State) : (modThm f s).time = s.time := rfl
@[simp] theorem modThm_power (f : Thermal → Thermal) (s : State) : (modThm f s).power = s.power := rfl
@[simp] theorem modThm_thermal (f : Thermal → Thermal) (s : State) : (modThm f s).thermal = f s.thermal := rfl
@[simp] theorem modThm_boot (f : Thermal → Thermal) (s : State) : (modThm f s).boot = s.boot := rfl
@[simp] theorem modThm_fab (f : Thermal → Thermal) (s : State) : (modThm f s).fab = s.fab := rfl
@[simp] theorem modThm_remote (f : Thermal → Thermal) (s : State) : (modThm f s).remote = s.remote := rfl
@[simp] theorem modThm_sett (f : Thermal → Thermal) (s : State) : (modThm f s).sett = s.sett := rfl
@[simp] theorem modThm_load (f : Thermal → Thermal) (s : State) : (modThm f s).load = s.load := rfl
@[simp] theorem modThm_run (f : Thermal → Thermal) (s : State) : (modThm f s).run = s.run := rfl
@[simp] theorem modThm_epoch (f : Thermal → Thermal) (s : State) : (modThm f s).epoch = s.epoch := rfl
@[simp] theorem modThm_tier (f : Thermal → Thermal) (s : State) : (modThm f s).tier = s.tier := rfl
@[simp] theorem modThm_frozen (f : Thermal → Thermal) (s : State) : (modThm f s).frozen = s.frozen := rfl
@[simp] theorem modThm_licences (f : Thermal → Thermal) (s : State) : (modThm f s).licences = s.licences := rfl
@[simp] theorem modThm_free (f : Thermal → Thermal) (s : State) : (modThm f s).free = s.free := rfl
@[simp] theorem modThm_pending (f : Thermal → Thermal) (s : State) : (modThm f s).pending = s.pending := rfl

/-! ### modBoot -/

@[simp] theorem modBoot_mem (f : Boot → Boot) (s : State) : (modBoot f s).mem = s.mem := rfl
@[simp] theorem modBoot_tallies (f : Boot → Boot) (s : State) : (modBoot f s).tallies = s.tallies := rfl
@[simp] theorem modBoot_eng (f : Boot → Boot) (s : State) : (modBoot f s).eng = s.eng := rfl
@[simp] theorem modBoot_units (f : Boot → Boot) (s : State) : (modBoot f s).units = s.units := rfl
@[simp] theorem modBoot_log (f : Boot → Boot) (s : State) : (modBoot f s).log = s.log := rfl
@[simp] theorem modBoot_msix (f : Boot → Boot) (s : State) : (modBoot f s).msix = s.msix := rfl
@[simp] theorem modBoot_hub (f : Boot → Boot) (s : State) : (modBoot f s).hub = s.hub := rfl
@[simp] theorem modBoot_time (f : Boot → Boot) (s : State) : (modBoot f s).time = s.time := rfl
@[simp] theorem modBoot_power (f : Boot → Boot) (s : State) : (modBoot f s).power = s.power := rfl
@[simp] theorem modBoot_thermal (f : Boot → Boot) (s : State) : (modBoot f s).thermal = s.thermal := rfl
@[simp] theorem modBoot_boot (f : Boot → Boot) (s : State) : (modBoot f s).boot = f s.boot := rfl
@[simp] theorem modBoot_fab (f : Boot → Boot) (s : State) : (modBoot f s).fab = s.fab := rfl
@[simp] theorem modBoot_remote (f : Boot → Boot) (s : State) : (modBoot f s).remote = s.remote := rfl
@[simp] theorem modBoot_sett (f : Boot → Boot) (s : State) : (modBoot f s).sett = s.sett := rfl
@[simp] theorem modBoot_load (f : Boot → Boot) (s : State) : (modBoot f s).load = s.load := rfl
@[simp] theorem modBoot_run (f : Boot → Boot) (s : State) : (modBoot f s).run = s.run := rfl
@[simp] theorem modBoot_epoch (f : Boot → Boot) (s : State) : (modBoot f s).epoch = s.epoch := rfl
@[simp] theorem modBoot_tier (f : Boot → Boot) (s : State) : (modBoot f s).tier = s.tier := rfl
@[simp] theorem modBoot_frozen (f : Boot → Boot) (s : State) : (modBoot f s).frozen = s.frozen := rfl
@[simp] theorem modBoot_licences (f : Boot → Boot) (s : State) : (modBoot f s).licences = s.licences := rfl
@[simp] theorem modBoot_free (f : Boot → Boot) (s : State) : (modBoot f s).free = s.free := rfl
@[simp] theorem modBoot_pending (f : Boot → Boot) (s : State) : (modBoot f s).pending = s.pending := rfl

/-! ### setStore -/

@[simp] theorem setStore_tallies (st : Store) (m : Memory) (s : State) : (setStore st m s).tallies = s.tallies := by cases st <;> rfl
@[simp] theorem setStore_eng (st : Store) (m : Memory) (s : State) : (setStore st m s).eng = s.eng := by cases st <;> rfl
@[simp] theorem setStore_units (st : Store) (m : Memory) (s : State) : (setStore st m s).units = s.units := by cases st <;> rfl
@[simp] theorem setStore_log (st : Store) (m : Memory) (s : State) : (setStore st m s).log = s.log := by cases st <;> rfl
@[simp] theorem setStore_msix (st : Store) (m : Memory) (s : State) : (setStore st m s).msix = s.msix := by cases st <;> rfl
@[simp] theorem setStore_hub (st : Store) (m : Memory) (s : State) : (setStore st m s).hub = s.hub := by cases st <;> rfl
@[simp] theorem setStore_time (st : Store) (m : Memory) (s : State) : (setStore st m s).time = s.time := by cases st <;> rfl
@[simp] theorem setStore_power (st : Store) (m : Memory) (s : State) : (setStore st m s).power = s.power := by cases st <;> rfl
@[simp] theorem setStore_thermal (st : Store) (m : Memory) (s : State) : (setStore st m s).thermal = s.thermal := by cases st <;> rfl
@[simp] theorem setStore_boot (st : Store) (m : Memory) (s : State) : (setStore st m s).boot = s.boot := by cases st <;> rfl
@[simp] theorem setStore_fab (st : Store) (m : Memory) (s : State) : (setStore st m s).fab = s.fab := by cases st <;> rfl
@[simp] theorem setStore_remote (st : Store) (m : Memory) (s : State) : (setStore st m s).remote = s.remote := by cases st <;> rfl
@[simp] theorem setStore_sett (st : Store) (m : Memory) (s : State) : (setStore st m s).sett = s.sett := by cases st <;> rfl
@[simp] theorem setStore_load (st : Store) (m : Memory) (s : State) : (setStore st m s).load = s.load := by cases st <;> rfl
@[simp] theorem setStore_run (st : Store) (m : Memory) (s : State) : (setStore st m s).run = s.run := by cases st <;> rfl
@[simp] theorem setStore_epoch (st : Store) (m : Memory) (s : State) : (setStore st m s).epoch = s.epoch := by cases st <;> rfl
@[simp] theorem setStore_tier (st : Store) (m : Memory) (s : State) : (setStore st m s).tier = s.tier := by cases st <;> rfl
@[simp] theorem setStore_frozen (st : Store) (m : Memory) (s : State) : (setStore st m s).frozen = s.frozen := by cases st <;> rfl
@[simp] theorem setStore_licences (st : Store) (m : Memory) (s : State) : (setStore st m s).licences = s.licences := by cases st <;> rfl
@[simp] theorem setStore_free (st : Store) (m : Memory) (s : State) : (setStore st m s).free = s.free := by cases st <;> rfl
@[simp] theorem setStore_pending (st : Store) (m : Memory) (s : State) : (setStore st m s).pending = s.pending := by cases st <;> rfl

/-! ### setPoison -/

@[simp] theorem setPoison_tallies (st : Store) (l : List Nat) (s : State) : (setPoison st l s).tallies = s.tallies := by cases st <;> rfl
@[simp] theorem setPoison_eng (st : Store) (l : List Nat) (s : State) : (setPoison st l s).eng = s.eng := by cases st <;> rfl
@[simp] theorem setPoison_units (st : Store) (l : List Nat) (s : State) : (setPoison st l s).units = s.units := by cases st <;> rfl
@[simp] theorem setPoison_log (st : Store) (l : List Nat) (s : State) : (setPoison st l s).log = s.log := by cases st <;> rfl
@[simp] theorem setPoison_msix (st : Store) (l : List Nat) (s : State) : (setPoison st l s).msix = s.msix := by cases st <;> rfl
@[simp] theorem setPoison_hub (st : Store) (l : List Nat) (s : State) : (setPoison st l s).hub = s.hub := by cases st <;> rfl
@[simp] theorem setPoison_time (st : Store) (l : List Nat) (s : State) : (setPoison st l s).time = s.time := by cases st <;> rfl
@[simp] theorem setPoison_power (st : Store) (l : List Nat) (s : State) : (setPoison st l s).power = s.power := by cases st <;> rfl
@[simp] theorem setPoison_thermal (st : Store) (l : List Nat) (s : State) : (setPoison st l s).thermal = s.thermal := by cases st <;> rfl
@[simp] theorem setPoison_boot (st : Store) (l : List Nat) (s : State) : (setPoison st l s).boot = s.boot := by cases st <;> rfl
@[simp] theorem setPoison_fab (st : Store) (l : List Nat) (s : State) : (setPoison st l s).fab = s.fab := by cases st <;> rfl
@[simp] theorem setPoison_remote (st : Store) (l : List Nat) (s : State) : (setPoison st l s).remote = s.remote := by cases st <;> rfl
@[simp] theorem setPoison_sett (st : Store) (l : List Nat) (s : State) : (setPoison st l s).sett = s.sett := by cases st <;> rfl
@[simp] theorem setPoison_load (st : Store) (l : List Nat) (s : State) : (setPoison st l s).load = s.load := by cases st <;> rfl
@[simp] theorem setPoison_run (st : Store) (l : List Nat) (s : State) : (setPoison st l s).run = s.run := by cases st <;> rfl
@[simp] theorem setPoison_epoch (st : Store) (l : List Nat) (s : State) : (setPoison st l s).epoch = s.epoch := by cases st <;> rfl
@[simp] theorem setPoison_tier (st : Store) (l : List Nat) (s : State) : (setPoison st l s).tier = s.tier := by cases st <;> rfl
@[simp] theorem setPoison_frozen (st : Store) (l : List Nat) (s : State) : (setPoison st l s).frozen = s.frozen := by cases st <;> rfl
@[simp] theorem setPoison_licences (st : Store) (l : List Nat) (s : State) : (setPoison st l s).licences = s.licences := by cases st <;> rfl
@[simp] theorem setPoison_free (st : Store) (l : List Nat) (s : State) : (setPoison st l s).free = s.free := by cases st <;> rfl
@[simp] theorem setPoison_pending (st : Store) (l : List Nat) (s : State) : (setPoison st l s).pending = s.pending := by cases st <;> rfl

/-! ### Reading what was written -/

/-- The sequencer written, where it is not a sequencer at reset. -/
theorem seqOf_modSeq_self (e : Nat) (f : Seq → Seq) (s : State) (h : f (seqOf s e) ≠ {}) : seqOf (modSeq e f s) e = f (seqOf s e) :=
  SMap.get_set_self _ _ _ _ h

/-- Every other sequencer is as it was. -/
theorem seqOf_modSeq_ne (e x : Nat) (f : Seq → Seq) (s : State) (h : x ≠ e) : seqOf (modSeq e f s) x = seqOf s x :=
  SMap.get_set_ne _ _ _ _ _ h

/-- The tally written, where it is not a tally at reset. -/
theorem tallyOf_setTally_self (i : Nat) (t : Tally) (s : State) (h : t ≠ {}) : tallyOf (setTally i t s) i = t :=
  SMap.get_set_self _ _ _ _ h

/-- Every other tally is as it was. -/
theorem tallyOf_setTally_ne (i x : Nat) (t : Tally) (s : State) (h : x ≠ i) : tallyOf (setTally i t s) x = tallyOf s x :=
  SMap.get_set_ne _ _ _ _ _ h

/-- The store written. -/
theorem storeOf_setStore_self (st : Store) (m : Memory) (s : State) : storeOf (setStore st m s) st = m := by cases st <;> rfl

/-- The other stores are as they were. -/
theorem storeOf_setStore_ne (st st' : Store) (m : Memory) (s : State) (h : st' ≠ st) : storeOf (setStore st m s) st' = storeOf s st' := by
  cases st <;> cases st' <;> first | rfl | exact absurd rfl h

end Sys2Proof.Machine
end

