-- ==== Sys2Proof/Laws/Ops.lean ====
section
/-! SUPPORT. What the shared operations can do: recording an event and raising a vector change the log, the MSI-X state and the host output
and nothing else; the fields they leave alone read as before. -/

namespace Sys2Proof.Machine

open Sys2Proof

/-- Two states that differ at most in the log, the MSI-X state and the messages that wait for the host link. -/
def SameButLog (s t : State) : Prop :=
  ∃ l m out, t = { s with log := l, msix := m, hub := { s.hub with out := out } }

theorem SameButLog.refl (s : State) : SameButLog s s := ⟨s.log, s.msix, s.hub.out, rfl⟩

theorem SameButLog.trans {s t u : State} (h : SameButLog s t) (k : SameButLog t u) : SameButLog s u := by
  obtain ⟨_, _, _, rfl⟩ := h
  obtain ⟨l, m, out, rfl⟩ := k
  exact ⟨l, m, out, rfl⟩

/-- Raising a vector changes MSI-X or the waiting messages (R522, R535). -/
theorem msixSend_same (v : Nat) (s : State) : SameButLog s (msixSend v s) := by
  unfold msixSend msixNow
  dsimp only
  split
  · split
    · exact SameButLog.refl s
    · split
      · exact ⟨s.log, _, s.hub.out, rfl⟩
      · exact ⟨s.log, _, s.hub.out, rfl⟩
  · exact ⟨s.log, s.msix, _, rfl⟩

/-- Recording one entry changes the log only (R538). -/
theorem logEntry_same (code src : Nat) (cont : Bool) (d : List Byte) (s : State) : SameButLog s (logEntry code src cont d s) :=
  ⟨_, s.msix, s.hub.out, rfl⟩

/-- The log vector (R539). -/
theorem logVector_same (s : State) : SameButLog s (logVector s) := by
  unfold logVector
  dsimp only
  split
  · exact SameButLog.trans ⟨_, s.msix, s.hub.out, rfl⟩ (msixSend_same _ _)
  · exact SameButLog.refl s

theorem logRest_same (code src n : Nat) (d : List Byte) (s : State) : SameButLog s (logRest code src n d s) := by
  induction n generalizing d s with
  | zero => exact SameButLog.refl s
  | succ n ih =>
    unfold logRest
    split
    · exact SameButLog.refl s
    · exact ((logEntry_same _ _ _ _ _).trans (logVector_same _)).trans (ih _ _)

/-- Recording an event changes the log, MSI-X and the waiting messages only (R537). -/
theorem logEvent_same (code src : Nat) (fs : List (Nat × Nat)) (s : State) : SameButLog s (logEvent code src fs s) :=
  ((logEntry_same _ _ _ _ _).trans (logVector_same _)).trans (logRest_same _ _ _ _ _)

theorem logOncePhase_same (code key src : Nat) (fs : List (Nat × Nat)) (s : State) : SameButLog s (logOncePhase code key src fs s) := by
  unfold logOncePhase
  split
  · exact SameButLog.refl s
  · exact SameButLog.trans ⟨_, s.msix, s.hub.out, rfl⟩ (logEvent_same _ _ _ _)

theorem logEvery_same (code key period src : Nat) (fs : List (Nat × Nat)) (s : State) :
    SameButLog s (logEvery code key period src fs s) := by
  unfold logEvery
  dsimp only
  split
  · exact SameButLog.refl s
  · exact SameButLog.trans ⟨_, s.msix, s.hub.out, rfl⟩ (logEvent_same _ _ _ _)

/-! ### The fields they leave alone -/

theorem SameButLog.mem {s t : State} (h : SameButLog s t) : t.mem = s.mem := by obtain ⟨_, _, _, rfl⟩ := h; rfl
theorem SameButLog.tallies {s t : State} (h : SameButLog s t) : t.tallies = s.tallies := by obtain ⟨_, _, _, rfl⟩ := h; rfl
theorem SameButLog.eng {s t : State} (h : SameButLog s t) : t.eng = s.eng := by obtain ⟨_, _, _, rfl⟩ := h; rfl
theorem SameButLog.units {s t : State} (h : SameButLog s t) : t.units = s.units := by obtain ⟨_, _, _, rfl⟩ := h; rfl
theorem SameButLog.time {s t : State} (h : SameButLog s t) : t.time = s.time := by obtain ⟨_, _, _, rfl⟩ := h; rfl
theorem SameButLog.power {s t : State} (h : SameButLog s t) : t.power = s.power := by obtain ⟨_, _, _, rfl⟩ := h; rfl
theorem SameButLog.thermal {s t : State} (h : SameButLog s t) : t.thermal = s.thermal := by obtain ⟨_, _, _, rfl⟩ := h; rfl
theorem SameButLog.boot {s t : State} (h : SameButLog s t) : t.boot = s.boot := by obtain ⟨_, _, _, rfl⟩ := h; rfl
theorem SameButLog.fab {s t : State} (h : SameButLog s t) : t.fab = s.fab := by obtain ⟨_, _, _, rfl⟩ := h; rfl
theorem SameButLog.remote {s t : State} (h : SameButLog s t) : t.remote = s.remote := by obtain ⟨_, _, _, rfl⟩ := h; rfl
theorem SameButLog.sett {s t : State} (h : SameButLog s t) : t.sett = s.sett := by obtain ⟨_, _, _, rfl⟩ := h; rfl
theorem SameButLog.load {s t : State} (h : SameButLog s t) : t.load = s.load := by obtain ⟨_, _, _, rfl⟩ := h; rfl
theorem SameButLog.run {s t : State} (h : SameButLog s t) : t.run = s.run := by obtain ⟨_, _, _, rfl⟩ := h; rfl
theorem SameButLog.epoch {s t : State} (h : SameButLog s t) : t.epoch = s.epoch := by obtain ⟨_, _, _, rfl⟩ := h; rfl
theorem SameButLog.tier {s t : State} (h : SameButLog s t) : t.tier = s.tier := by obtain ⟨_, _, _, rfl⟩ := h; rfl
theorem SameButLog.frozen {s t : State} (h : SameButLog s t) : t.frozen = s.frozen := by obtain ⟨_, _, _, rfl⟩ := h; rfl
theorem SameButLog.licences {s t : State} (h : SameButLog s t) : t.licences = s.licences := by obtain ⟨_, _, _, rfl⟩ := h; rfl
theorem SameButLog.free {s t : State} (h : SameButLog s t) : t.free = s.free := by obtain ⟨_, _, _, rfl⟩ := h; rfl
theorem SameButLog.pending {s t : State} (h : SameButLog s t) : t.pending = s.pending := by obtain ⟨_, _, _, rfl⟩ := h; rfl
theorem SameButLog.hub {s t : State} (h : SameButLog s t) : t.hub = { s.hub with out := t.hub.out } := by obtain ⟨_, _, _, rfl⟩ := h; rfl

/-! ### msixSend -/

@[simp] theorem msixSend_mem (v : Nat) (s : State) : (msixSend v s).mem = s.mem := (msixSend_same v s).mem
@[simp] theorem msixSend_tallies (v : Nat) (s : State) : (msixSend v s).tallies = s.tallies := (msixSend_same v s).tallies
@[simp] theorem msixSend_eng (v : Nat) (s : State) : (msixSend v s).eng = s.eng := (msixSend_same v s).eng
@[simp] theorem msixSend_units (v : Nat) (s : State) : (msixSend v s).units = s.units := (msixSend_same v s).units
@[simp] theorem msixSend_time (v : Nat) (s : State) : (msixSend v s).time = s.time := (msixSend_same v s).time
@[simp] theorem msixSend_power (v : Nat) (s : State) : (msixSend v s).power = s.power := (msixSend_same v s).power
@[simp] theorem msixSend_thermal (v : Nat) (s : State) : (msixSend v s).thermal = s.thermal := (msixSend_same v s).thermal
@[simp] theorem msixSend_boot (v : Nat) (s : State) : (msixSend v s).boot = s.boot := (msixSend_same v s).boot
@[simp] theorem msixSend_fab (v : Nat) (s : State) : (msixSend v s).fab = s.fab := (msixSend_same v s).fab
@[simp] theorem msixSend_remote (v : Nat) (s : State) : (msixSend v s).remote = s.remote := (msixSend_same v s).remote
@[simp] theorem msixSend_sett (v : Nat) (s : State) : (msixSend v s).sett = s.sett := (msixSend_same v s).sett
@[simp] theorem msixSend_load (v : Nat) (s : State) : (msixSend v s).load = s.load := (msixSend_same v s).load
@[simp] theorem msixSend_run (v : Nat) (s : State) : (msixSend v s).run = s.run := (msixSend_same v s).run
@[simp] theorem msixSend_epoch (v : Nat) (s : State) : (msixSend v s).epoch = s.epoch := (msixSend_same v s).epoch
@[simp] theorem msixSend_tier (v : Nat) (s : State) : (msixSend v s).tier = s.tier := (msixSend_same v s).tier
@[simp] theorem msixSend_frozen (v : Nat) (s : State) : (msixSend v s).frozen = s.frozen := (msixSend_same v s).frozen
@[simp] theorem msixSend_licences (v : Nat) (s : State) : (msixSend v s).licences = s.licences := (msixSend_same v s).licences
@[simp] theorem msixSend_free (v : Nat) (s : State) : (msixSend v s).free = s.free := (msixSend_same v s).free
@[simp] theorem msixSend_pending (v : Nat) (s : State) : (msixSend v s).pending = s.pending := (msixSend_same v s).pending

/-! ### logEvent -/

@[simp] theorem logEvent_mem (c r : Nat) (fs : List (Nat × Nat)) (s : State) : (logEvent c r fs s).mem = s.mem := (logEvent_same c r fs s).mem
@[simp] theorem logEvent_tallies (c r : Nat) (fs : List (Nat × Nat)) (s : State) : (logEvent c r fs s).tallies = s.tallies := (logEvent_same c r fs s).tallies
@[simp] theorem logEvent_eng (c r : Nat) (fs : List (Nat × Nat)) (s : State) : (logEvent c r fs s).eng = s.eng := (logEvent_same c r fs s).eng
@[simp] theorem logEvent_units (c r : Nat) (fs : List (Nat × Nat)) (s : State) : (logEvent c r fs s).units = s.units := (logEvent_same c r fs s).units
@[simp] theorem logEvent_time (c r : Nat) (fs : List (Nat × Nat)) (s : State) : (logEvent c r fs s).time = s.time := (logEvent_same c r fs s).time
@[simp] theorem logEvent_power (c r : Nat) (fs : List (Nat × Nat)) (s : State) : (logEvent c r fs s).power = s.power := (logEvent_same c r fs s).power
@[simp] theorem logEvent_thermal (c r : Nat) (fs : List (Nat × Nat)) (s : State) : (logEvent c r fs s).thermal = s.thermal := (logEvent_same c r fs s).thermal
@[simp] theorem logEvent_boot (c r : Nat) (fs : List (Nat × Nat)) (s : State) : (logEvent c r fs s).boot = s.boot := (logEvent_same c r fs s).boot
@[simp] theorem logEvent_fab (c r : Nat) (fs : List (Nat × Nat)) (s : State) : (logEvent c r fs s).fab = s.fab := (logEvent_same c r fs s).fab
@[simp] theorem logEvent_remote (c r : Nat) (fs : List (Nat × Nat)) (s : State) : (logEvent c r fs s).remote = s.remote := (logEvent_same c r fs s).remote
@[simp] theorem logEvent_sett (c r : Nat) (fs : List (Nat × Nat)) (s : State) : (logEvent c r fs s).sett = s.sett := (logEvent_same c r fs s).sett
@[simp] theorem logEvent_load (c r : Nat) (fs : List (Nat × Nat)) (s : State) : (logEvent c r fs s).load = s.load := (logEvent_same c r fs s).load
@[simp] theorem logEvent_run (c r : Nat) (fs : List (Nat × Nat)) (s : State) : (logEvent c r fs s).run = s.run := (logEvent_same c r fs s).run
@[simp] theorem logEvent_epoch (c r : Nat) (fs : List (Nat × Nat)) (s : State) : (logEvent c r fs s).epoch = s.epoch := (logEvent_same c r fs s).epoch
@[simp] theorem logEvent_tier (c r : Nat) (fs : List (Nat × Nat)) (s : State) : (logEvent c r fs s).tier = s.tier := (logEvent_same c r fs s).tier
@[simp] theorem logEvent_frozen (c r : Nat) (fs : List (Nat × Nat)) (s : State) : (logEvent c r fs s).frozen = s.frozen := (logEvent_same c r fs s).frozen
@[simp] theorem logEvent_licences (c r : Nat) (fs : List (Nat × Nat)) (s : State) : (logEvent c r fs s).licences = s.licences := (logEvent_same c r fs s).licences
@[simp] theorem logEvent_free (c r : Nat) (fs : List (Nat × Nat)) (s : State) : (logEvent c r fs s).free = s.free := (logEvent_same c r fs s).free
@[simp] theorem logEvent_pending (c r : Nat) (fs : List (Nat × Nat)) (s : State) : (logEvent c r fs s).pending = s.pending := (logEvent_same c r fs s).pending

/-! ### logOncePhase -/

@[simp] theorem logOncePhase_mem (c k r : Nat) (fs : List (Nat × Nat)) (s : State) : (logOncePhase c k r fs s).mem = s.mem := (logOncePhase_same c k r fs s).mem
@[simp] theorem logOncePhase_tallies (c k r : Nat) (fs : List (Nat × Nat)) (s : State) : (logOncePhase c k r fs s).tallies = s.tallies := (logOncePhase_same c k r fs s).tallies
@[simp] theorem logOncePhase_eng (c k r : Nat) (fs : List (Nat × Nat)) (s : State) : (logOncePhase c k r fs s).eng = s.eng := (logOncePhase_same c k r fs s).eng
@[simp] theorem logOncePhase_units (c k r : Nat) (fs : List (Nat × Nat)) (s : State) : (logOncePhase c k r fs s).units = s.units := (logOncePhase_same c k r fs s).units
@[simp] theorem logOncePhase_time (c k r : Nat) (fs : List (Nat × Nat)) (s : State) : (logOncePhase c k r fs s).time = s.time := (logOncePhase_same c k r fs s).time
@[simp] theorem logOncePhase_power (c k r : Nat) (fs : List (Nat × Nat)) (s : State) : (logOncePhase c k r fs s).power = s.power := (logOncePhase_same c k r fs s).power
@[simp] theorem logOncePhase_thermal (c k r : Nat) (fs : List (Nat × Nat)) (s : State) : (logOncePhase c k r fs s).thermal = s.thermal := (logOncePhase_same c k r fs s).thermal
@[simp] theorem logOncePhase_boot (c k r : Nat) (fs : List (Nat × Nat)) (s : State) : (logOncePhase c k r fs s).boot = s.boot := (logOncePhase_same c k r fs s).boot
@[simp] theorem logOncePhase_fab (c k r : Nat) (fs : List (Nat × Nat)) (s : State) : (logOncePhase c k r fs s).fab = s.fab := (logOncePhase_same c k r fs s).fab
@[simp] theorem logOncePhase_remote (c k r : Nat) (fs : List (Nat × Nat)) (s : State) : (logOncePhase c k r fs s).remote = s.remote := (logOncePhase_same c k r fs s).remote
@[simp] theorem logOncePhase_sett (c k r : Nat) (fs : List (Nat × Nat)) (s : State) : (logOncePhase c k r fs s).sett = s.sett := (logOncePhase_same c k r fs s).sett
@[simp] theorem logOncePhase_load (c k r : Nat) (fs : List (Nat × Nat)) (s : State) : (logOncePhase c k r fs s).load = s.load := (logOncePhase_same c k r fs s).load
@[simp] theorem logOncePhase_run (c k r : Nat) (fs : List (Nat × Nat)) (s : State) : (logOncePhase c k r fs s).run = s.run := (logOncePhase_same c k r fs s).run
@[simp] theorem logOncePhase_epoch (c k r : Nat) (fs : List (Nat × Nat)) (s : State) : (logOncePhase c k r fs s).epoch = s.epoch := (logOncePhase_same c k r fs s).epoch
@[simp] theorem logOncePhase_tier (c k r : Nat) (fs : List (Nat × Nat)) (s : State) : (logOncePhase c k r fs s).tier = s.tier := (logOncePhase_same c k r fs s).tier
@[simp] theorem logOncePhase_frozen (c k r : Nat) (fs : List (Nat × Nat)) (s : State) : (logOncePhase c k r fs s).frozen = s.frozen := (logOncePhase_same c k r fs s).frozen
@[simp] theorem logOncePhase_licences (c k r : Nat) (fs : List (Nat × Nat)) (s : State) : (logOncePhase c k r fs s).licences = s.licences := (logOncePhase_same c k r fs s).licences
@[simp] theorem logOncePhase_free (c k r : Nat) (fs : List (Nat × Nat)) (s : State) : (logOncePhase c k r fs s).free = s.free := (logOncePhase_same c k r fs s).free
@[simp] theorem logOncePhase_pending (c k r : Nat) (fs : List (Nat × Nat)) (s : State) : (logOncePhase c k r fs s).pending = s.pending := (logOncePhase_same c k r fs s).pending

/-! ### logEvery -/

@[simp] theorem logEvery_mem (c k p r : Nat) (fs : List (Nat × Nat)) (s : State) : (logEvery c k p r fs s).mem = s.mem := (logEvery_same c k p r fs s).mem
@[simp] theorem logEvery_tallies (c k p r : Nat) (fs : List (Nat × Nat)) (s : State) : (logEvery c k p r fs s).tallies = s.tallies := (logEvery_same c k p r fs s).tallies
@[simp] theorem logEvery_eng (c k p r : Nat) (fs : List (Nat × Nat)) (s : State) : (logEvery c k p r fs s).eng = s.eng := (logEvery_same c k p r fs s).eng
@[simp] theorem logEvery_units (c k p r : Nat) (fs : List (Nat × Nat)) (s : State) : (logEvery c k p r fs s).units = s.units := (logEvery_same c k p r fs s).units
@[simp] theorem logEvery_time (c k p r : Nat) (fs : List (Nat × Nat)) (s : State) : (logEvery c k p r fs s).time = s.time := (logEvery_same c k p r fs s).time
@[simp] theorem logEvery_power (c k p r : Nat) (fs : List (Nat × Nat)) (s : State) : (logEvery c k p r fs s).power = s.power := (logEvery_same c k p r fs s).power
@[simp] theorem logEvery_thermal (c k p r : Nat) (fs : List (Nat × Nat)) (s : State) : (logEvery c k p r fs s).thermal = s.thermal := (logEvery_same c k p r fs s).thermal
@[simp] theorem logEvery_boot (c k p r : Nat) (fs : List (Nat × Nat)) (s : State) : (logEvery c k p r fs s).boot = s.boot := (logEvery_same c k p r fs s).boot
@[simp] theorem logEvery_fab (c k p r : Nat) (fs : List (Nat × Nat)) (s : State) : (logEvery c k p r fs s).fab = s.fab := (logEvery_same c k p r fs s).fab
@[simp] theorem logEvery_remote (c k p r : Nat) (fs : List (Nat × Nat)) (s : State) : (logEvery c k p r fs s).remote = s.remote := (logEvery_same c k p r fs s).remote
@[simp] theorem logEvery_sett (c k p r : Nat) (fs : List (Nat × Nat)) (s : State) : (logEvery c k p r fs s).sett = s.sett := (logEvery_same c k p r fs s).sett
@[simp] theorem logEvery_load (c k p r : Nat) (fs : List (Nat × Nat)) (s : State) : (logEvery c k p r fs s).load = s.load := (logEvery_same c k p r fs s).load
@[simp] theorem logEvery_run (c k p r : Nat) (fs : List (Nat × Nat)) (s : State) : (logEvery c k p r fs s).run = s.run := (logEvery_same c k p r fs s).run
@[simp] theorem logEvery_epoch (c k p r : Nat) (fs : List (Nat × Nat)) (s : State) : (logEvery c k p r fs s).epoch = s.epoch := (logEvery_same c k p r fs s).epoch
@[simp] theorem logEvery_tier (c k p r : Nat) (fs : List (Nat × Nat)) (s : State) : (logEvery c k p r fs s).tier = s.tier := (logEvery_same c k p r fs s).tier
@[simp] theorem logEvery_frozen (c k p r : Nat) (fs : List (Nat × Nat)) (s : State) : (logEvery c k p r fs s).frozen = s.frozen := (logEvery_same c k p r fs s).frozen
@[simp] theorem logEvery_licences (c k p r : Nat) (fs : List (Nat × Nat)) (s : State) : (logEvery c k p r fs s).licences = s.licences := (logEvery_same c k p r fs s).licences
@[simp] theorem logEvery_free (c k p r : Nat) (fs : List (Nat × Nat)) (s : State) : (logEvery c k p r fs s).free = s.free := (logEvery_same c k p r fs s).free
@[simp] theorem logEvery_pending (c k p r : Nat) (fs : List (Nat × Nat)) (s : State) : (logEvery c k p r fs s).pending = s.pending := (logEvery_same c k p r fs s).pending

/-! ### Repeating an operation -/

/-- What each single application leaves alone, the whole leaves alone. -/
theorem forEach_keeps {α β : Type} (g : State → β) (f : α → State → State) (h : ∀ a s, g (f a s) = g s) (l : List α) (s : State) :
    g (forEach l f s) = g s := by
  unfold forEach
  induction l generalizing s with
  | nil => rfl
  | cons a l ih => rw [List.foldl_cons, ih, h]

/-- What one application keeps true, the whole keeps true. -/
theorem forEach_induct {α : Type} (P : State → Prop) (f : α → State → State) (h : ∀ a s, P s → P (f a s)) (l : List α) (s : State)
    (hs : P s) : P (forEach l f s) := by
  unfold forEach
  induction l generalizing s with
  | nil => exact hs
  | cons a l ih => exact ih _ (h a s hs)

/-! ### Changes of a tally (R404) -/

/-- Two states that differ at most in engines, units, the log, MSI-X and the hub. -/
def SameButEngines (s t : State) : Prop :=
  ∃ e u l m h, t = { s with eng := e, units := u, log := l, msix := m, hub := h }

theorem SameButEngines.refl (s : State) : SameButEngines s s := ⟨s.eng, s.units, s.log, s.msix, s.hub, rfl⟩

theorem SameButEngines.trans {s t u : State} (h : SameButEngines s t) (k : SameButEngines t u) : SameButEngines s u := by
  obtain ⟨_, _, _, _, _, rfl⟩ := h
  obtain ⟨a, b, c, d, e, rfl⟩ := k
  exact ⟨a, b, c, d, e, rfl⟩

theorem SameButLog.engines {s t : State} (h : SameButLog s t) : SameButEngines s t := by
  obtain ⟨l, m, o, rfl⟩ := h
  exact ⟨s.eng, s.units, l, m, _, rfl⟩

theorem setSeq_engines (e : Nat) (q : Seq) (s : State) : SameButEngines s (setSeq e q s) := ⟨_, s.units, s.log, s.msix, s.hub, rfl⟩

theorem setX_engines (e r : Nat) (v : Word64) (s : State) : SameButEngines s (setX e r v s) := by
  unfold setX
  split
  · exact SameButEngines.refl s
  · exact ⟨s.eng, _, s.log, s.msix, s.hub, rfl⟩

theorem dropSlots_engines (e : Nat) (s : State) : SameButEngines s (dropSlots e s) := ⟨s.eng, _, s.log, s.msix, s.hub, rfl⟩

theorem settle_engines (e : Nat) (s : State) : SameButEngines s (settle e s) := by
  unfold settle
  dsimp only
  split
  · split
    · exact (setSeq_engines _ _ _).trans (dropSlots_engines _ _)
    · exact setSeq_engines _ _ _
  · exact SameButEngines.refl s

theorem forEach_engines {α : Type} (f : α → State → State) (h : ∀ a s, SameButEngines s (f a s)) (l : List α) (s : State) :
    SameButEngines s (forEach l f s) := by
  unfold forEach
  induction l generalizing s with
  | nil => exact SameButEngines.refl s
  | cons a l ih => exact (h a s).trans (ih _)

theorem releaseOne_engines (i : Nat) (t : Tally) (e : Nat) (s : State) : SameButEngines s (releaseOne i t e s) := by
  have key : ∀ q, SameButEngines s (settle e (setSeq e q s)) := fun q => (setSeq_engines _ _ _).trans (settle_engines _ _)
  unfold releaseOne
  cases hw : (seqOf s e).wait with
  | none =>
    simp only [hw]
    exact SameButEngines.refl s
  | some w =>
    simp only [hw]
    by_cases h : w.tally = i ∧ (w.target ≤ t.count ∨ t.error = true)
    · rw [if_pos h]
      cases hr : w.rd with
      | none => exact key _
      | some r => exact (key _).trans (setX_engines _ _ _ _)
    · rw [if_neg h]
      exact SameButEngines.refl s

theorem hub_engines (s : State) (h : Hub) : SameButEngines s { s with hub := h } := ⟨s.eng, s.units, s.log, s.msix, h, rfl⟩
theorem units_engines (s : State) (u : Units) : SameButEngines s { s with units := u } := ⟨s.eng, u, s.log, s.msix, s.hub, rfl⟩

theorem notifyTally_engines (i : Nat) (t : Tally) (s : State) : SameButEngines s (notifyTally i t s) := by
  unfold notifyTally
  dsimp only
  refine SameButEngines.trans (hub_engines s _) (forEach_engines _ ?_ _ _)
  exact fun n s => (msixSend_same n.vector s).engines

/-- What follows a change of a tally touches engines, units and the host output only. -/
theorem tallyChanged_engines (i : Nat) (s : State) : SameButEngines s (tallyChanged i s) := by
  unfold tallyChanged
  dsimp only
  refine SameButEngines.trans ?_ (notifyTally_engines _ _ _)
  refine SameButEngines.trans (forEach_engines _ ?_ _ _) (units_engines _ _)
  exact fun e s => releaseOne_engines _ _ e s


theorem SameButEngines.mem {s t : State} (h : SameButEngines s t) : t.mem = s.mem := by obtain ⟨_, _, _, _, _, rfl⟩ := h; rfl
theorem SameButEngines.tallies {s t : State} (h : SameButEngines s t) : t.tallies = s.tallies := by obtain ⟨_, _, _, _, _, rfl⟩ := h; rfl
theorem SameButEngines.time {s t : State} (h : SameButEngines s t) : t.time = s.time := by obtain ⟨_, _, _, _, _, rfl⟩ := h; rfl
theorem SameButEngines.power {s t : State} (h : SameButEngines s t) : t.power = s.power := by obtain ⟨_, _, _, _, _, rfl⟩ := h; rfl
theorem SameButEngines.thermal {s t : State} (h : SameButEngines s t) : t.thermal = s.thermal := by obtain ⟨_, _, _, _, _, rfl⟩ := h; rfl
theorem SameButEngines.boot {s t : State} (h : SameButEngines s t) : t.boot = s.boot := by obtain ⟨_, _, _, _, _, rfl⟩ := h; rfl
theorem SameButEngines.fab {s t : State} (h : SameButEngines s t) : t.fab = s.fab := by obtain ⟨_, _, _, _, _, rfl⟩ := h; rfl
theorem SameButEngines.remote {s t : State} (h : SameButEngines s t) : t.remote = s.remote := by obtain ⟨_, _, _, _, _, rfl⟩ := h; rfl
theorem SameButEngines.sett {s t : State} (h : SameButEngines s t) : t.sett = s.sett := by obtain ⟨_, _, _, _, _, rfl⟩ := h; rfl
theorem SameButEngines.load {s t : State} (h : SameButEngines s t) : t.load = s.load := by obtain ⟨_, _, _, _, _, rfl⟩ := h; rfl
theorem SameButEngines.run {s t : State} (h : SameButEngines s t) : t.run = s.run := by obtain ⟨_, _, _, _, _, rfl⟩ := h; rfl
theorem SameButEngines.epoch {s t : State} (h : SameButEngines s t) : t.epoch = s.epoch := by obtain ⟨_, _, _, _, _, rfl⟩ := h; rfl
theorem SameButEngines.tier {s t : State} (h : SameButEngines s t) : t.tier = s.tier := by obtain ⟨_, _, _, _, _, rfl⟩ := h; rfl
theorem SameButEngines.frozen {s t : State} (h : SameButEngines s t) : t.frozen = s.frozen := by obtain ⟨_, _, _, _, _, rfl⟩ := h; rfl
theorem SameButEngines.licences {s t : State} (h : SameButEngines s t) : t.licences = s.licences := by obtain ⟨_, _, _, _, _, rfl⟩ := h; rfl
theorem SameButEngines.free {s t : State} (h : SameButEngines s t) : t.free = s.free := by obtain ⟨_, _, _, _, _, rfl⟩ := h; rfl
theorem SameButEngines.pending {s t : State} (h : SameButEngines s t) : t.pending = s.pending := by obtain ⟨_, _, _, _, _, rfl⟩ := h; rfl

@[simp] theorem settle_mem (e : Nat) (s : State) : (settle e s).mem = s.mem := (settle_engines e s).mem
@[simp] theorem settle_tallies (e : Nat) (s : State) : (settle e s).tallies = s.tallies := (settle_engines e s).tallies
@[simp] theorem settle_time (e : Nat) (s : State) : (settle e s).time = s.time := (settle_engines e s).time
@[simp] theorem settle_power (e : Nat) (s : State) : (settle e s).power = s.power := (settle_engines e s).power
@[simp] theorem settle_thermal (e : Nat) (s : State) : (settle e s).thermal = s.thermal := (settle_engines e s).thermal
@[simp] theorem settle_boot (e : Nat) (s : State) : (settle e s).boot = s.boot := (settle_engines e s).boot
@[simp] theorem settle_fab (e : Nat) (s : State) : (settle e s).fab = s.fab := (settle_engines e s).fab
@[simp] theorem settle_remote (e : Nat) (s : State) : (settle e s).remote = s.remote := (settle_engines e s).remote
@[simp] theorem settle_sett (e : Nat) (s : State) : (settle e s).sett = s.sett := (settle_engines e s).sett
@[simp] theorem settle_load (e : Nat) (s : State) : (settle e s).load = s.load := (settle_engines e s).load
@[simp] theorem settle_run (e : Nat) (s : State) : (settle e s).run = s.run := (settle_engines e s).run
@[simp] theorem settle_epoch (e : Nat) (s : State) : (settle e s).epoch = s.epoch := (settle_engines e s).epoch
@[simp] theorem settle_tier (e : Nat) (s : State) : (settle e s).tier = s.tier := (settle_engines e s).tier
@[simp] theorem settle_frozen (e : Nat) (s : State) : (settle e s).frozen = s.frozen := (settle_engines e s).frozen
@[simp] theorem settle_licences (e : Nat) (s : State) : (settle e s).licences = s.licences := (settle_engines e s).licences
@[simp] theorem settle_free (e : Nat) (s : State) : (settle e s).free = s.free := (settle_engines e s).free
@[simp] theorem settle_pending (e : Nat) (s : State) : (settle e s).pending = s.pending := (settle_engines e s).pending

@[simp] theorem notifyTally_mem (i : Nat) (t : Tally) (s : State) : (notifyTally i t s).mem = s.mem := (notifyTally_engines i t s).mem
@[simp] theorem notifyTally_tallies (i : Nat) (t : Tally) (s : State) : (notifyTally i t s).tallies = s.tallies := (notifyTally_engines i t s).tallies
@[simp] theorem notifyTally_time (i : Nat) (t : Tally) (s : State) : (notifyTally i t s).time = s.time := (notifyTally_engines i t s).time
@[simp] theorem notifyTally_power (i : Nat) (t : Tally) (s : State) : (notifyTally i t s).power = s.power := (notifyTally_engines i t s).power
@[simp] theorem notifyTally_thermal (i : Nat) (t : Tally) (s : State) : (notifyTally i t s).thermal = s.thermal := (notifyTally_engines i t s).thermal
@[simp] theorem notifyTally_boot (i : Nat) (t : Tally) (s : State) : (notifyTally i t s).boot = s.boot := (notifyTally_engines i t s).boot
@[simp] theorem notifyTally_fab (i : Nat) (t : Tally) (s : State) : (notifyTally i t s).fab = s.fab := (notifyTally_engines i t s).fab
@[simp] theorem notifyTally_remote (i : Nat) (t : Tally) (s : State) : (notifyTally i t s).remote = s.remote := (notifyTally_engines i t s).remote
@[simp] theorem notifyTally_sett (i : Nat) (t : Tally) (s : State) : (notifyTally i t s).sett = s.sett := (notifyTally_engines i t s).sett
@[simp] theorem notifyTally_load (i : Nat) (t : Tally) (s : State) : (notifyTally i t s).load = s.load := (notifyTally_engines i t s).load
@[simp] theorem notifyTally_run (i : Nat) (t : Tally) (s : State) : (notifyTally i t s).run = s.run := (notifyTally_engines i t s).run
@[simp] theorem notifyTally_epoch (i : Nat) (t : Tally) (s : State) : (notifyTally i t s).epoch = s.epoch := (notifyTally_engines i t s).epoch
@[simp] theorem notifyTally_tier (i : Nat) (t : Tally) (s : State) : (notifyTally i t s).tier = s.tier := (notifyTally_engines i t s).tier
@[simp] theorem notifyTally_frozen (i : Nat) (t : Tally) (s : State) : (notifyTally i t s).frozen = s.frozen := (notifyTally_engines i t s).frozen
@[simp] theorem notifyTally_licences (i : Nat) (t : Tally) (s : State) : (notifyTally i t s).licences = s.licences := (notifyTally_engines i t s).licences
@[simp] theorem notifyTally_free (i : Nat) (t : Tally) (s : State) : (notifyTally i t s).free = s.free := (notifyTally_engines i t s).free
@[simp] theorem notifyTally_pending (i : Nat) (t : Tally) (s : State) : (notifyTally i t s).pending = s.pending := (notifyTally_engines i t s).pending

@[simp] theorem tallyChanged_mem (i : Nat) (s : State) : (tallyChanged i s).mem = s.mem := (tallyChanged_engines i s).mem
@[simp] theorem tallyChanged_tallies (i : Nat) (s : State) : (tallyChanged i s).tallies = s.tallies := (tallyChanged_engines i s).tallies
@[simp] theorem tallyChanged_time (i : Nat) (s : State) : (tallyChanged i s).time = s.time := (tallyChanged_engines i s).time
@[simp] theorem tallyChanged_power (i : Nat) (s : State) : (tallyChanged i s).power = s.power := (tallyChanged_engines i s).power
@[simp] theorem tallyChanged_thermal (i : Nat) (s : State) : (tallyChanged i s).thermal = s.thermal := (tallyChanged_engines i s).thermal
@[simp] theorem tallyChanged_boot (i : Nat) (s : State) : (tallyChanged i s).boot = s.boot := (tallyChanged_engines i s).boot
@[simp] theorem tallyChanged_fab (i : Nat) (s : State) : (tallyChanged i s).fab = s.fab := (tallyChanged_engines i s).fab
@[simp] theorem tallyChanged_remote (i : Nat) (s : State) : (tallyChanged i s).remote = s.remote := (tallyChanged_engines i s).remote
@[simp] theorem tallyChanged_sett (i : Nat) (s : State) : (tallyChanged i s).sett = s.sett := (tallyChanged_engines i s).sett
@[simp] theorem tallyChanged_load (i : Nat) (s : State) : (tallyChanged i s).load = s.load := (tallyChanged_engines i s).load
@[simp] theorem tallyChanged_run (i : Nat) (s : State) : (tallyChanged i s).run = s.run := (tallyChanged_engines i s).run
@[simp] theorem tallyChanged_epoch (i : Nat) (s : State) : (tallyChanged i s).epoch = s.epoch := (tallyChanged_engines i s).epoch
@[simp] theorem tallyChanged_tier (i : Nat) (s : State) : (tallyChanged i s).tier = s.tier := (tallyChanged_engines i s).tier
@[simp] theorem tallyChanged_frozen (i : Nat) (s : State) : (tallyChanged i s).frozen = s.frozen := (tallyChanged_engines i s).frozen
@[simp] theorem tallyChanged_licences (i : Nat) (s : State) : (tallyChanged i s).licences = s.licences := (tallyChanged_engines i s).licences
@[simp] theorem tallyChanged_free (i : Nat) (s : State) : (tallyChanged i s).free = s.free := (tallyChanged_engines i s).free
@[simp] theorem tallyChanged_pending (i : Nat) (s : State) : (tallyChanged i s).pending = s.pending := (tallyChanged_engines i s).pending

@[simp] theorem tallyError_mem (i c e : Nat) (s : State) : (tallyError i c e s).mem = s.mem := by simp [tallyError]
@[simp] theorem tallyAdd_mem (i n e : Nat) (s : State) : (tallyAdd i n e s).mem = s.mem := by
  unfold tallyAdd
  dsimp only
  split <;> simp
@[simp] theorem tallyError_time (i c e : Nat) (s : State) : (tallyError i c e s).time = s.time := by simp [tallyError]
@[simp] theorem tallyAdd_time (i n e : Nat) (s : State) : (tallyAdd i n e s).time = s.time := by
  unfold tallyAdd
  dsimp only
  split <;> simp
@[simp] theorem tallyError_power (i c e : Nat) (s : State) : (tallyError i c e s).power = s.power := by simp [tallyError]
@[simp] theorem tallyAdd_power (i n e : Nat) (s : State) : (tallyAdd i n e s).power = s.power := by
  unfold tallyAdd
  dsimp only
  split <;> simp
@[simp] theorem tallyError_thermal (i c e : Nat) (s : State) : (tallyError i c e s).thermal = s.thermal := by simp [tallyError]
@[simp] theorem tallyAdd_thermal (i n e : Nat) (s : State) : (tallyAdd i n e s).thermal = s.thermal := by
  unfold tallyAdd
  dsimp only
  split <;> simp
@[simp] theorem tallyError_boot (i c e : Nat) (s : State) : (tallyError i c e s).boot = s.boot := by simp [tallyError]
@[simp] theorem tallyAdd_boot (i n e : Nat) (s : State) : (tallyAdd i n e s).boot = s.boot := by
  unfold tallyAdd
  dsimp only
  split <;> simp
@[simp] theorem tallyError_fab (i c e : Nat) (s : State) : (tallyError i c e s).fab = s.fab := by simp [tallyError]
@[simp] theorem tallyAdd_fab (i n e : Nat) (s : State) : (tallyAdd i n e s).fab = s.fab := by
  unfold tallyAdd
  dsimp only
  split <;> simp
@[simp] theorem tallyError_remote (i c e : Nat) (s : State) : (tallyError i c e s).remote = s.remote := by simp [tallyError]
@[simp] theorem tallyAdd_remote (i n e : Nat) (s : State) : (tallyAdd i n e s).remote = s.remote := by
  unfold tallyAdd
  dsimp only
  split <;> simp
@[simp] theorem tallyError_sett (i c e : Nat) (s : State) : (tallyError i c e s).sett = s.sett := by simp [tallyError]
@[simp] theorem tallyAdd_sett (i n e : Nat) (s : State) : (tallyAdd i n e s).sett = s.sett := by
  unfold tallyAdd
  dsimp only
  split <;> simp
@[simp] theorem tallyError_load (i c e : Nat) (s : State) : (tallyError i c e s).load = s.load := by simp [tallyError]
@[simp] theorem tallyAdd_load (i n e : Nat) (s : State) : (tallyAdd i n e s).load = s.load := by
  unfold tallyAdd
  dsimp only
  split <;> simp
@[simp] theorem tallyError_run (i c e : Nat) (s : State) : (tallyError i c e s).run = s.run := by simp [tallyError]
@[simp] theorem tallyAdd_run (i n e : Nat) (s : State) : (tallyAdd i n e s).run = s.run := by
  unfold tallyAdd
  dsimp only
  split <;> simp
@[simp] theorem tallyError_epoch (i c e : Nat) (s : State) : (tallyError i c e s).epoch = s.epoch := by simp [tallyError]
@[simp] theorem tallyAdd_epoch (i n e : Nat) (s : State) : (tallyAdd i n e s).epoch = s.epoch := by
  unfold tallyAdd
  dsimp only
  split <;> simp
@[simp] theorem tallyError_tier (i c e : Nat) (s : State) : (tallyError i c e s).tier = s.tier := by simp [tallyError]
@[simp] theorem tallyAdd_tier (i n e : Nat) (s : State) : (tallyAdd i n e s).tier = s.tier := by
  unfold tallyAdd
  dsimp only
  split <;> simp
@[simp] theorem tallyError_frozen (i c e : Nat) (s : State) : (tallyError i c e s).frozen = s.frozen := by simp [tallyError]
@[simp] theorem tallyAdd_frozen (i n e : Nat) (s : State) : (tallyAdd i n e s).frozen = s.frozen := by
  unfold tallyAdd
  dsimp only
  split <;> simp
@[simp] theorem tallyError_licences (i c e : Nat) (s : State) : (tallyError i c e s).licences = s.licences := by simp [tallyError]
@[simp] theorem tallyAdd_licences (i n e : Nat) (s : State) : (tallyAdd i n e s).licences = s.licences := by
  unfold tallyAdd
  dsimp only
  split <;> simp
@[simp] theorem tallyError_free (i c e : Nat) (s : State) : (tallyError i c e s).free = s.free := by simp [tallyError]
@[simp] theorem tallyAdd_free (i n e : Nat) (s : State) : (tallyAdd i n e s).free = s.free := by
  unfold tallyAdd
  dsimp only
  split <;> simp
@[simp] theorem tallyError_pending (i c e : Nat) (s : State) : (tallyError i c e s).pending = s.pending := by simp [tallyError]
@[simp] theorem tallyAdd_pending (i n e : Nat) (s : State) : (tallyAdd i n e s).pending = s.pending := by
  unfold tallyAdd
  dsimp only
  split <;> simp

end Sys2Proof.Machine
end

