-- ==== Sys2Proof/WellFormed.lean ====
section
/-! DEFINITION. Which commands are well formed: every operand lies in the range the spec gives it, and a packet is of its row's type. -/

namespace Sys2Proof

/-- Below a bound. -/
def below (n x : Nat) : Bool := decide (x < n)

/-- The engine classes of R63 and the units of each on a die (R22). -/
def engineIn (classes : List Nat) (e : Nat) : Bool :=
  let cls := e / 4096
  classes.contains cls && decide (e / 256 % 16 < 8) && decide (e % 256 < [16, 4, 32, 8, 1, 1].getD cls 0)

/-- A hall time whose parts are in range (R427). -/
def hallTimeOk (t : HallTime) : Bool := decide (t.sec < 2 ^ 48) && decide (t.ns < 1000000000) && decide (t.frac < 2 ^ 16)

/-- The type of an urgent message (R330, R410, R432). -/
def msgTypes : Msg → List Nat
  | .join .. => [0x80] | .withdraw => [0x81] | .verdict .. => [0x82] | .start .. => [0x83] | .arrive .. => [0x84]
  | .mirror .. => [0x85] | .sealed .. => [0x86] | .ready .. => [0x87] | .commit .. => [0x88] | .commitAck .. => [0x89]
  | .fault .. => [0x8A] | .suspect .. => [0x8B] | .probe .. => [0x8C] | .probeAck .. => [0x8D] | .rollback .. => [0x8E]
  | .restored .. => [0x8F] | .restart .. => [0x90] | .stop .. => [0x91] | .leaseCheck .. => [0x92] | .leaseOk .. => [0x93]
  | .stopReq .. => [0x94] | .suspend .. => [0x95] | .sync .. => [0xA0] | .follow .. => [0xA1] | .delayReq .. => [0xA2]
  | .delayResp .. => [0xA3] | .masterTake .. => [0xA4] | .announce .. => [0xA5] | .close .. => [0xB0] | .orderSkip .. => [0xB1]
  | .orderRetry .. => [0xB2] | .adopt .. => [0xB3]

/-- The types a body may have: memory and coherence, collective data, or its message's (R330). -/
def bodyTypes : Body → Nat → Bool
  | .mem _, t => decide (t < 0x60) || t == 0x70 || t == 0x71
  | .coll _, t => t == 0x60 || t == 0x61
  | .msg m, t => (msgTypes m).contains t

/-- A packet whose header fields are in range and whose body is of its type (R329, R330). -/
def packetIs (p : Packet) : Bool :=
  decide (p.vc < 5) && decide (p.ptype < 256) && decide (p.dest < 2 ^ 15) && decide (p.source < 2 ^ 15) && decide (p.hops < 8) &&
  decide (p.gen < 16) && bodyTypes p.body p.ptype

/-- A packet of one of the types its row takes. -/
def packetOf (types : List Nat) (p : Packet) : Bool := types.contains p.ptype && packetIs p

/-- A command whose operands are all in range. -/
def Instr.wf : Instr → Bool
  | .commitGo _ => true
  | .commitApply _ => true
  | .registerWrite _ len v => [4, 8].contains len && below (2 ^ 64) v
  | .phaseEnd => true
  | .phaseStart => true
  | .planLoad q id _ addr len ring vector => below 8 q && below (2 ^ 16) id && below (2 ^ 64) addr && below (2 ^ 32) len && below (2 ^ 64) ring && below 2048 vector
  | .loadChecks _ _ => true
  | .join p => packetOf [0x80] p
  | .withdraw p => packetOf [0x81] p
  | .verdict p => packetOf [0x82] p
  | .joinTimeout => true
  | .withdrawTimeout => true
  | .stewardJoinTimeout => true
  | .refusingStewardEnd => true
  | .leaseCheck p => packetOf [0x92] p
  | .leaseOk p => packetOf [0x93] p
  | .leaseCheckTimeout => true
  | .start p => packetOf [0x83] p
  | .planStartTime => true
  | .nop e => engineIn [0, 1, 3, 4, 5] e
  | .endProg e => engineIn [0, 1, 3, 4, 5] e
  | .waitT e => engineIn [0, 1, 3, 4, 5] e
  | .signal e => engineIn [0, 1, 3, 4, 5] e
  | .signalApply e => engineIn [0, 1, 2, 3, 4, 5] e
  | .errt e => engineIn [0, 1, 3, 4, 5] e
  | .setx e => engineIn [0, 1, 3, 4, 5] e
  | .addx e => engineIn [0, 1, 3, 4, 5] e
  | .loopX e => engineIn [0, 1, 3, 4, 5] e
  | .keep e => engineIn [0, 1] e
  | .keepRampTick e => engineIn [0, 1] e
  | .keepGapExpire e => engineIn [0, 1] e
  | .meKeepAdminOff die _ _ => below 8 die
  | .mma e _ _ => engineIn [0] e
  | .mmaSwap e _ _ => engineIn [0] e
  | .tileRefillDone e _ => engineIn [0] e
  | .mmaComplete e => engineIn [0] e
  | .meTileFault e => engineIn [0] e
  | .drn e _ _ => engineIn [0] e
  | .drnComplete e => engineIn [0] e
  | .dzero e => engineIn [0] e
  | .aload e _ => engineIn [0] e
  | .cmode e => engineIn [0] e
  | .omma32 e _ _ => engineIn [0] e
  | .omma16 e _ _ => engineIn [0] e
  | .odrn e _ => engineIn [0] e
  | .accScrub e bank row _ => engineIn [0] e && below 2 bank && below 512 row
  | .chain e _ _ _ => engineIn [1] e
  | .argx e _ _ => engineIn [1] e
  | .hsel e _ _ => engineIn [1] e
  | .veEccFatal e => engineIn [1] e
  | .fcLoad e _ _ => engineIn [2] e
  | .fcStore e => engineIn [2] e
  | .fcAmo e => engineIn [2] e
  | .fcLr x => engineIn [2] x.it
  | .fcSc e => engineIn [2] e
  | .fcFence e => engineIn [2] e
  | .fcCsr e => engineIn [2] e
  | .fcCompute e => engineIn [2] e
  | .fend e => engineIn [2] e
  | .tsig e => engineIn [2] e
  | .twait e => engineIn [2] e
  | .terrt e => engineIn [2] e
  | .sdf e => engineIn [2] e
  | .prm e => engineIn [2] e
  | .fadda e => engineIn [2] e
  | .ecallLog e => engineIn [2] e
  | .ecallYield e => engineIn [2] e
  | .yieldEnd e => engineIn [2] e
  | .fcEccFatal e => engineIn [2] e
  | .copy e _ => engineIn [3] e
  | .gather e => engineIn [3] e
  | .fill e => engineIn [3] e
  | .chunkPerformed e _ _ _ => engineIn [3] e
  | .hostReadbackDone e _ _ => engineIn [3] e
  | .ceDrainCut e _ => engineIn [3, 5] e
  | .sopen e => engineIn [3] e
  | .spub e => engineIn [3] e
  | .scan e => engineIn [3] e
  | .sres e => engineIn [3] e
  | .runaheadCopyDone die n _ _ => below 8 die && below 1024 n
  | .spScrubStep _ _ _ => true
  | .csScrubStep _ _ _ => true
  | .hbmPatrol _ _ _ => true
  | .devSync => true
  | .hostBarRead bar _ _ _ => [0, 2, 4].contains bar
  | .hostBarWrite bar _ _ => [0, 2, 4].contains bar
  | .hostAtomic bar _ _ size _ _ _ => [0, 2, 4].contains bar && [4, 8, 16].contains size
  | .tallyWindowSignal i v size => below (2 ^ 16) i && below (2 ^ 64) v && [1, 2, 4, 8].contains size
  | .tallySet i v size => below (2 ^ 16) i && below (2 ^ 64) v && [1, 2, 4, 8].contains size
  | .tallyMarkError i v size => below (2 ^ 16) i && below (2 ^ 64) v && [1, 2, 4, 8].contains size
  | .streamAppend e c _ => below (2 ^ 16) e && below (2 ^ 16) c
  | .streamOpen e c => below (2 ^ 16) e && below (2 ^ 16) c
  | .streamClose e c => below (2 ^ 16) e && below (2 ^ 16) c
  | .streamReset e c => below (2 ^ 16) e && below (2 ^ 16) c
  | .contextStore e c _ _ => below (2 ^ 16) e && below (2 ^ 16) c
  | .appendServe c _ => below (2 ^ 16) c
  | .digitalSketchJob c _ => below (2 ^ 16) c
  | .closeComplete c => below (2 ^ 16) c
  | .mload e _ => engineIn [5] e
  | .mloadComplete e => engineIn [5] e
  | .sketch e _ => engineIn [5] e
  | .mvm e _ => engineIn [5] e
  | .ppeChannelCal k _ => below 8 k
  | .ppeRecalDone k _ _ _ => below 8 k
  | .ppeCalOverdue k => below 8 k
  | .toneCheck k _ _ line => below 9 k && below 32 line
  | .laserFeedLost k _ _ _ => below 9 k
  | .feedRelockDone k => below 8 k
  | .laserFeedRestored k _ _ _ => below 9 k
  | .noticeWindowEnd k => below 8 k
  | .ringSweepDone port _ r _ => below 32 port && below 9 r
  | .ringLock port _ r _ => below 32 port && below 9 r
  | .retuneTimeout port _ r => below 32 port && below 9 r
  | .ringToneCheckDone port _ r _ => below 32 port && below 9 r
  | .spareMove k _ _ => below 1024 k
  | .frameSend k => below 1024 k
  | .frameReceive k _ places values _ _ => below 1024 k && places.all (below 1088) && values.all (below 1024)
  | .retryTimeout k => below 1024 k
  | .lossOfFrame x => below 1024 x.lane
  | .acquireTimeout k => below 1024 k
  | .downRetry k => below 1024 k
  | .ucwClassify k _ _ _ _ _ => below 1024 k
  | .repairObservationEnd k => below 1024 k
  | .plannedCloseTimeout k => below 1024 k
  | .close p => packetOf [0xB0] p
  | .laneCloseTimeout k => below 1024 k
  | .laneHoldEnd k => below 1024 k
  | .holdTimeReset k => below 1024 k
  | .laneDisagreeTimer k _ => below 1024 k
  | .planeCablingCheck port _ => below 32 port
  | .packetForward p => packetIs p
  | .escapeCreditTimeout k p => below 1024 k && packetIs p
  | .detourWaitTimeout p => packetIs p
  | .packetHoldTimeout p => packetIs p
  | .orderSkip p => packetOf [0xB1] p
  | .orderRetry p => packetOf [0xB2] p
  | .orderRetryResend p => packetIs p
  | .adopt p => packetOf [0xB3] p
  | .orphanTimeout t => below 3 t
  | .adoptRetry t => below 3 t
  | .treeRootChange => true
  | .treeOldLaneTimeout => true
  | .wrMc p => packetOf [0x02] p
  | .rd p _ => packetOf [0x00] p
  | .wr p => packetOf [0x01] p
  | .atom x => packetOf [0x03] x.it
  | .red x => packetOf [0x04] x.it
  | .sig p => packetOf [0x05] p
  | .rdData p => packetOf [0x10] p
  | .ack p => packetOf [0x11] p
  | .err p => packetOf [0x12] p
  | .requestSlotTimeout i => below 32768 i
  | .gets p => packetOf [0x40] p
  | .getm p => packetOf [0x41] p
  | .upg p => packetOf [0x42] p
  | .putm p => packetOf [0x43] p
  | .pute p => packetOf [0x44] p
  | .snpShare p => packetOf [0x48] p
  | .snpInv p => packetOf [0x49] p
  | .inv p => packetOf [0x4A] p
  | .dataS p => packetOf [0x50] p
  | .dataE p => packetOf [0x51] p
  | .dataM p => packetOf [0x52] p
  | .grant p => packetOf [0x59] p
  | .snpData p => packetOf [0x53] p
  | .invAck p => packetOf [0x55] p
  | .dataInFlight p => packetOf [0x56] p
  | .wbAck p => packetOf [0x57] p
  | .retry p => packetOf [0x58] p
  | .retryResend i _ _ => below 32768 i
  | .homeWaitTimeout _ => true
  | .coll x => engineIn [4] x.it
  | .collData p => packetOf [0x60, 0x61] p
  | .collChunkSum e _ _ _ => engineIn [4] e
  | .collComplete e => engineIn [4] e
  | .arrive p => packetOf [0x84] p
  | .mirror p => packetOf [0x85] p
  | .hoardData p => packetOf [0x70, 0x71] p
  | .sealed p => packetOf [0x86] p
  | .ready p => packetOf [0x87] p
  | .commit p => packetOf [0x88] p
  | .commitAck p => packetOf [0x89] p
  | .keepWriteDone => true
  | .fault p => packetOf [0x8A] p
  | .suspect p => packetOf [0x8B] p
  | .probe p => packetOf [0x8C] p
  | .probeAck p => packetOf [0x8D] p
  | .probeTick => true
  | .rollback p => packetOf [0x8E] p
  | .restoreDone => true
  | .restored p => packetOf [0x8F] p
  | .restart p => packetOf [0x90] p
  | .restartTime => true
  | .swapCopyDone => true
  | .noSpare => true
  | .stop p => packetOf [0x91] p
  | .stopReq p => packetOf [0x94] p
  | .syncTick child t1 _ => below (2 ^ 15) child && hallTimeOk t1
  | .sync p t2 => packetOf [0xA0] p && hallTimeOk t2
  | .follow p t3 _ => packetOf [0xA1] p && hallTimeOk t3
  | .delayReq p t4 => packetOf [0xA2] p && hallTimeOk t4
  | .delayResp p => packetOf [0xA3] p
  | .announce p => packetOf [0xA5] p
  | .announceTick child => below (2 ^ 15) child
  | .masterTake p => packetOf [0xA4] p
  | .backupTakeoverTimer => true
  | .timeExchangeTimeout _ => true
  | .acquireFreerunTimeout => true
  | .holdoverLimit => true
  | .secondBoundary _ => true
  | .ppsInEdge => true
  | .timeRefLost _ => true
  | .timeOffsetHigh => true
  | .controlInterval _ => true
  | .avsResponse r _ => below 7 r
  | .avsReadbackTimeout r _ => below 7 r
  | .avsRetryDelay r => below 7 r
  | .railFaultClear r => below 7 r
  | .powerMeasure _ => true
  | .droop die _ _ => below 8 die
  | .vcoreUndervolt die _ _ => below 8 die
  | .watch q id _ => below 8 q && below (2 ^ 16) id
  | .watchRound _ _ => true
  | .watchWake _ => true
  | .domainPowerOff q id _ d _ => below 8 q && below (2 ^ 16) id && below 24 d
  | .domainPowerOn q id _ d => below 8 q && below (2 ^ 16) id && below 24 d
  | .domainOffComplete d => below 24 d
  | .domainOnComplete d _ => below 24 d
  | .pwrOkFall => true
  | .thermalRound _ => true
  | .graceExpire k => below 8 k
  | .thermTrip n _ => below 144 n
  | .coldStart => true
  | .warmRstN _ => true
  | .bootStepComplete _ => true
  | .hbmStoredBad stack => below 16 stack
  | .fabricTrained => true
  | .ucieRetrain k _ => below 8 k
  | .hubLinkSpare k _ _ => below 8 k
  | .calWritten _ => true
  | .posStrapChanged pos => below (2 ^ 15) pos
  | .tapInstruction _ => true
  | .reset q id _ => below 8 q && below (2 ^ 16) id
  | .planStart q id _ delay => below 8 q && below (2 ^ 16) id && below (2 ^ 32) delay
  | .planStop q id _ => below 8 q && below (2 ^ 16) id
  | .planStopAtBoundary q id _ => below 8 q && below (2 ^ 16) id
  | .planUnload q id _ => below 8 q && below (2 ^ 16) id
  | .planSuspend q id _ _ => below 8 q && below (2 ^ 16) id
  | .suspendRequest p => packetOf [0x95] p
  | .suspendAnswerTimeout => true
  | .planResume q id _ _ _ _ => below 8 q && below (2 ^ 16) id
  | .planStatus q id _ addr _ => below 8 q && below (2 ^ 16) id && below (2 ^ 64) addr
  | .hoardLeaseGrant q id _ _ _ _ => below 8 q && below (2 ^ 16) id
  | .hoardLeaseRevoke q id _ _ _ _ => below 8 q && below (2 ^ 16) id
  | .licenceInstall q id _ addr _ _ => below 8 q && below (2 ^ 16) id && below (2 ^ 64) addr
  | .patchInstall q id _ addr len slot _ _ _ => below 8 q && below (2 ^ 16) id && below (2 ^ 64) addr && below (2 ^ 32) len && below 16 slot
  | .patchClear q id _ slot => below 8 q && below (2 ^ 16) id && below 16 slot
  | .tallyNotifyArm q id _ tally target vector => below 8 q && below (2 ^ 16) id && below (2 ^ 16) tally && below (2 ^ 64) target && below 2048 vector
  | .tallyNotifyDisarm q id _ tally => below 8 q && below (2 ^ 16) id && below (2 ^ 16) tally
  | .sqTail q v size => below 8 q && below (2 ^ 64) v && [1, 2, 4, 8].contains size
  | .cqHead q v size => below 8 q && below (2 ^ 64) v && [1, 2, 4, 8].contains size
  | .queueEnable q v => below 8 q && below (2 ^ 64) v
  | .queueDisable q v => below 8 q && below (2 ^ 64) v
  | .logAck v => below (2 ^ 64) v
  | .hostlinkDown _ => true
  | .hostlinkUp => true
  | .pldmGetSensor _ => true
  | .mgmtDomainDisable d _ => below 24 d
  | .mgmtPortDisable _ _ => true
  | .mgmtWarmReset => true
  | .mgmtWake => true
  | .mgmtDisagree _ _ _ _ => true
  | .laserPowerLow k _ _ _ line => below 9 k && below 32 line
  | .refClkLost => true
  | .saveAreaWritten => true
  | .hostCompletionTimeout _ => true
  | .warmResetDelay => true
  | .calWriteStart => true
  | .configurationRequest _ => true

end Sys2Proof
end

