-- ==== Sys2Proof/Tests/Slice0.lean ====
section
/-! SUPPORT. The model's own tests: ill-formed commands that WellFormed refuses, words that spell no command, states that meet the hypotheses
of each statement, clause by clause, and worked values of the spec. -/

namespace Sys2Proof.Tests

open Sys2Proof Sys2Proof.Machine

/-! ### Well-formed commands: an ill-formed term for each check, which the check refuses -/

/-- A packet of a type, with the body its type takes. -/
def pkt (ty : Nat) (b : Body) : Packet := { vc := 3, ptype := ty, dest := 1, source := 2, body := b }

theorem test_wf_engine_class : (Instr.mma 0x1000 .ok .ok).wf = false ∧ (Instr.mma 0x0700 .ok .ok).wf = true := by decide

theorem test_wf_engine_die : (Instr.nop 0x0800).wf = false := by decide

theorem test_wf_engine_unit : (Instr.nop 0x0010).wf = false ∧ (Instr.nop 0x000F).wf = true := by decide

theorem test_wf_engine_pack_unit : (Instr.coll ⟨0x4001, .ok⟩).wf = false ∧ (Instr.coll ⟨0x4700, .ok⟩).wf = true := by decide

theorem test_wf_queue : (Instr.planStop 8 0 false).wf = false ∧ (Instr.planStop 7 0 false).wf = true := by decide

theorem test_wf_command_id : (Instr.reset 0 65536 false).wf = false ∧ (Instr.reset 0 65535 false).wf = true := by decide

theorem test_wf_register_size : (Instr.registerWrite 0x80 2 0).wf = false ∧ (Instr.registerWrite 0x80 8 0).wf = true := by decide

theorem test_wf_register_value : (Instr.registerWrite 0x80 8 (2 ^ 64)).wf = false := by decide

theorem test_wf_plan_load : (Instr.planLoad 0 0 false 0 (2 ^ 32) 0 0).wf = false ∧ (Instr.planLoad 0 0 false 0 0 0 2048).wf = false := by decide

theorem test_wf_tally : (Instr.tallySet 65536 0 8).wf = false ∧ (Instr.tallySet 65535 0 3).wf = false ∧ (Instr.tallySet 0 0 8).wf = true := by
  decide

theorem test_wf_bar : (Instr.hostBarRead 1 0 8 .ok).wf = false ∧ (Instr.hostAtomic 2 0 0 2 0 0 .ok).wf = false := by decide

theorem test_wf_domain : (Instr.domainPowerOn 0 0 false 24).wf = false ∧ (Instr.domainOffComplete 24).wf = false := by decide

theorem test_wf_rail : (Instr.avsRetryDelay 7).wf = false ∧ (Instr.avsRetryDelay 6).wf = true := by decide

theorem test_wf_lane : (Instr.frameSend 1024).wf = false ∧ (Instr.frameSend 1023).wf = true := by decide

theorem test_wf_ring : (Instr.ringLock 32 true 0 true).wf = false ∧ (Instr.ringLock 31 true 9 true).wf = false := by decide

theorem test_wf_feed : (Instr.toneCheck 9 true true 0).wf = false ∧ (Instr.toneCheck 8 true true 32).wf = false := by decide

theorem test_wf_slot : (Instr.requestSlotTimeout 32768).wf = false ∧ (Instr.runaheadCopyDone 0 1024 true []).wf = false := by decide

theorem test_wf_acc_row : (Instr.accScrub 0 2 0 .ok).wf = false ∧ (Instr.accScrub 0 1 512 .ok).wf = false := by decide

theorem test_wf_tier : (Instr.orphanTimeout 3).wf = false ∧ (Instr.orphanTimeout 2).wf = true := by decide

theorem test_wf_sensor : (Instr.thermTrip 144 0).wf = false ∧ (Instr.graceExpire 8).wf = false := by decide

theorem test_wf_patch_slot : (Instr.patchClear 0 0 false 16).wf = false ∧ (Instr.patchInstall 0 0 false 0 (2 ^ 32) 0 [] true true).wf = false := by
  decide

theorem test_wf_hall_time : hallTimeOk { sec := 0, ns := 1000000000 } = false ∧ hallTimeOk { sec := 2 ^ 48 } = false ∧
    hallTimeOk { sec := 1, ns := 0, frac := 65536 } = false ∧ (Instr.syncTick 32768 {} false).wf = false := by decide

theorem test_wf_packet_header : packetIs { vc := 5 } = false ∧ packetIs { ptype := 256 } = false ∧ packetIs { dest := 32768 } = false ∧
    packetIs { source := 32768 } = false ∧ packetIs { hops := 8 } = false ∧ packetIs { gen := 16 } = false ∧ packetIs {} = true := by decide

theorem test_wf_packet_body : packetIs (pkt 0x80 (.mem {})) = false ∧ packetIs (pkt 0x60 (.mem {})) = false ∧
    packetIs (pkt 0x8C (.msg (.probe 0))) = true ∧ packetIs (pkt 0x8D (.msg (.probe 0))) = false := by decide

theorem test_wf_packet_type : (Instr.rd (pkt 1 (.mem {})) .ok).wf = false ∧ (Instr.probe (pkt 0x8C (.msg (.probe 0)))).wf = true := by decide

/-! ### Words: the table gives no row any bits -/

theorem test_decode_none : decodeTableWord 0 0 = none ∧ decodeTableWord 64 0x10 = none := by decide

theorem test_with_fetch_word : State.reset.withFetchWord 32 1 = State.reset := by decide

/-! ### States the witnesses start from -/

/-- The host link is up and the device READY. -/
def up : State := { hub := { l0 := true, ready := true } }

/-- A command waits in queue 0. -/
def queued : State := { hub := { l0 := true, ready := true, queues := [(0, { enable := true, sqSize := 15, cqSize := 15, sqTail := 1 })] } }

/-- A span of two devices, this one logical 0 at position 0 and steward, the other logical 512 at position 512, its deputy. -/
def span2 : Plan := { span := [{ logical := some 0, physical := 0 }, { logical := some 512, physical := 512 }], spanDevices := 2 }

/-- That plan's roster in force. -/
def fab2 : Fab := { ctl := { roster := [(0, { logical := 0, role := 1 }), (512, { logical := 512, role := 1 })] } }

/-- A device that runs that plan. -/
def running : State := { fab := fab2, run := { st := .run, me := some 0, plan := some span2 } }

/-- An engine whose program holds one instruction, at issue. -/
def atIssue (e : Nat) (w : Word64) : State := {
  eng := [(e, { st := .running })]
  run := { st := .run, me := some 0, plan := some { progs := [{ key := 0, cls := e / 4096, mode := 0, entry := 0, paramWords := 1, code := [w] }] } } }

/-! ### Witnesses: states and operands that meet the hypotheses of the statements -/

theorem witness_StepRunsFrontCommand : ({ State.reset with pending := [.devSync] } : State).pending = Instr.devSync :: [] := by decide

theorem witness_EmptyQueueTicksHallTime : ({ time := { hall := { ns := 1 } } } : State).pending = [] ∧
    20 ≤ fine ({ time := { hall := { ns := 1 } } } : State).time.hall := by decide

theorem witness_EveryStepKeepsCanonical : Canonical State.reset ∧ step State.reset = .next (tick State.reset) := ⟨by decide, rfl⟩

theorem witness_EveryCommandLeavesTheQueue : ∃ t, exec .devSync queued = .next t := ⟨_, rfl⟩

theorem witness_StoresReadBack : (storeOf State.reset .sp).wf = true ∧ (storeOf State.reset .hbm).wf = true := by decide

theorem witness_EventLogEntries : (packFields [(2, 1), (8, 3)]).length ≤ 16 ∧ (0x1101 : Nat) ≠ 0 := by decide

theorem witness_CommitBlocks :
    (HostServed up ∧ blockDown up .pwr = false) ∧
    (let s : State := { power := { commit := { pending := true, latched := [{ off := 0x00100008, mask := 0xFFFF, val := 100 }] } } }
     s.power.commit.pending = true ∧ (∃ off, (s.power.commit.latched.foldl PwrCtl.write s.power.ctl).bad = some off)) ∧
    (let s : State := { power := { commit := { pending := true } } }
     s.power.commit.pending = true ∧ (s.power.commit.latched.foldl PwrCtl.write s.power.ctl).bad = none ∧
     railsOutside s (s.power.commit.latched.foldl PwrCtl.write s.power.ctl) = []) ∧
    (let s : State := { fab := { commit := { pending := true } } }
     s.fab.commit.pending = true ∧ waitsUnload s = false ∧ s.run.st ≠ .run ∧
     rosterBad (s.fab.commit.latched.foldl FabCtl.write s.fab.ctl).roster [] = none ∧
     (s.fab.commit.latched.foldl FabCtl.write s.fab.ctl).treeRoot = s.fab.ctl.treeRoot) ∧
    (let s : State := { fab := { commit := { pending := true }, ctl := { roster := [(0, { logical := 32, role := 1 })] } } }
     waitsUnload s = false ∧ s.run.st ≠ .run ∧ rosterBad (s.fab.commit.latched.foldl FabCtl.write s.fab.ctl).roster [] = some 0) ∧
    (let s : State := { running with fab := { commit := { pending := true } } }
     waitsUnload s = false ∧ s.run.st = .run ∧ s.run.between = false) := by
  refine ⟨by decide, ⟨rfl, _, rfl⟩, by decide, by decide, by decide, by decide⟩

theorem witness_HostRegisterWrites : HostServed up ∧ dcsDark up 0x00FFFFF8 = false ∧ 0 < 8 ∧ 0 % 4096 ≤ (queueOf up 0).sqSize ∧
    (queueOf up 0).sqSize < 1 % 4096 ∧ (queueOf up 7).enable = false ∧
    0 % 4096 ≤ (queueOf queued 0).cqSize ∧ (queueOf queued 0).held = none ∧ (queueOf queued 0).enable = true := by decide

theorem witness_TallyStoresAndAdds :
    HostServed { up with tallies := [(65279, { allocated := true })] } ∧ tallyOpen { up with tallies := [(65279, { allocated := true })] } 65279 = true ∧
    tallyOpen up 65535 = false ∧ (tallyOf ({ tallies := [(0, { allocated := true })] } : State) 0).count + 1 < 2 ^ 64 ∧
    2 ^ 64 ≤ (tallyOf State.reset 0).count + 2 ^ 64 := by decide

/-- The host's holding is open where no plan holds banks; domain 0 and HBM pair 0 are on. -/
def upOn : State := { up with power := { domains := [(0, { st := .on }), (8, { st := .on })] } }

theorem witness_HostMemoryAccesses :
    HostServed upOn ∧ barTarget upOn 4 (2 ^ 30 - 8) 8 = some (.hbm, 2 ^ 30 - 8) ∧
    hostCheck (hostPosted upOn) .hbm (2 ^ 30 - 8) 8 true = none ∧ domDark upOn (domainOf .hbm (2 ^ 30 - 8)) = false ∧ Canonical upOn ∧
    hostCheck upOn .hbm 0 8 false = none ∧ barTarget upOn 2 0 8 = some (.sp, 0) ∧ (let s : State := { upOn with run := running.run }
    hostCheck (hostPosted s) .sp 0 8 true = some 0x9003 ∧ hostCheck s .sp 0 8 false = some 0x9003) ∧ barTarget upOn 2 (32 * 2 ^ 30) 8 = none ∧ atomicOp 0 8 = some (1, 1) := by decide

theorem witness_HostLinkCommands : (∀ e, (hareOf up e).copies = []) ∧ copyOf up 0x3000 5 = none ∧ HostServed up ∧ State.reset.hub.l0 = false ∧ State.reset.hub.ready = false ∧
    (let s : State := { up with hub := { up.hub with queues := [(0, { enable := true, busy := some 3 })] }, load := { stage := .reading } }
     (queueOf s 0).busy = some 3 ∧ s.load.stage = .reading ∧ s.load.queue = 0) ∧
    (let s : State := { units := { hare := [(0x3000, { copies := [{ issue := 5 }] })] } }
     copyOf s 0x3000 5 = some { issue := 5 }) ∧ cmdDue queued 0 = true ∧ (queueOf queued 0).busy = none ∧
    (let s : State := { hub := { l0 := true } }
     s.hub.l0 = true ∧ s.hub.ready = false ∧ s.power.st ≠ .watch) := ⟨fun _ => rfl, by decide⟩

theorem witness_QueueCommands : cmdDue queued 0 = true ∧ hbmReady queued = true ∧ planLoaded queued = false ∧
    (let s : State := { queued with run := running.run, tallies := [(65535, { allocated := true })] }
     cmdDue s 0 = true ∧ planLoaded s = true ∧ 65535 < 65536 ∧ 2047 < 2048 ∧ s.hub.notifies.length < 256 ∧ (tallyOf s 65535).allocated = true) := by
  decide

/-- A packet with a message, from a position. -/
def msgFrom (src : Nat) (m : Msg) : Packet := { vc := 3, phys := true, source := src, body := .msg m }

/-- The steward's device while span2 joins. -/
def joining : State := { load := { stage := .joining, plan := some span2 } }

theorem witness_PlanLoadAndVerdict :
    (cmdDue queued 0 = true ∧ hbmReady queued = true ∧ (2 ^ 44 - 8 : Nat) < 2 ^ 44 ∧ (2 ^ 44 - 8) % 8 = 0 ∧ queued.run.st = .none) ∧
    (let s : State := { queued with run := running.run }
     cmdDue s 0 = true ∧ hbmReady s = true ∧ s.run.st ≠ .none ∧ s.run.st ≠ .ended) ∧
    (let s : State := { load := { stage := .reading } }
     s.load.stage = .reading ∧ ([] : List Byte).length = s.load.length ∧
     (match checkImage s [] 0 with | .refused _ => true | _ => false) = true) ∧
    (msgOf (msgFrom 0 (.verdict true 0 0 0)) = some (.verdict true 0 0 0) ∧ joining.load.plan = some span2 ∧ joining.load.stage = .joining ∧
     spanPos span2 span2.steward = some 0) ∧
    (let s : State := { joining with fab := { position := 512 } }
     msgOf (msgFrom 0 (.verdict false 0x26 0 0)) = some (.verdict false 0x26 0 0) ∧ s.load.plan = some span2 ∧ stewardHere span2 s = false) := by
  decide

/-- A JOIN of device 512. -/
def join512 (digest : BitVec 384) : Packet := msgFrom 512 (.join false 512 0 digest 0 .notNeeded)

theorem witness_JoinAndLeases :
    (joinPlan joining = some span2 ∧ joinServed joining = true ∧ (spanEntry span2 3).isNone = true ∧ (spanEntry span2 512).isSome = true ∧
     joining.load.refusing = false ∧ joining.load.verdict = none ∧
     (match joinRecord span2 (.join false 512 0 1 0 .notNeeded) with | some j => !j.spare && !j.matching | none => false) = true) ∧
    (let s : State := { load := { joining.load with refusing := true } }
     joinPlan s = some span2 ∧ joinServed s = true ∧ s.load.refusing = true) ∧
    (let s : State := { load := { joining.load with verdict := some { go := true, code := 0, dev := 0, devCode := 0 } } }
     joinPlan s = some span2 ∧ joinServed s = true ∧ s.load.verdict.isSome = true) ∧
    (let s : State := { joining with fab := { position := 512 } }
     s.load.plan = some span2 ∧ s.load.stage = .joining ∧ stewardHere span2 s = false ∧ spanPos span2 span2.steward = some 0) ∧
    (let s : State := { load := { joining.load with stage := .withdrawn } }
     s.load.plan = some span2 ∧ s.load.stage = .withdrawn) ∧
    (let s : State := { load := { joining.load with lease := .pending } }
     s.load.plan = some span2 ∧ s.run.plan = none ∧ s.load.stage = .joining ∧ s.load.lease = .pending ∧
     msgOf (msgFrom 9 (.leaseOk 0 true)) = some (.leaseOk span2.planId true)) ∧
    (let s : State := { hub := { lease := some { planId := 7, base := 0, size := 2 ^ 30 } } }
     msgOf (msgFrom 9 (.leaseCheck 7 (2 ^ 30) 512)) = some (.leaseCheck 7 (2 ^ 30) 512) ∧ s.hub.lease.isSome = true ∧ State.reset.hub.lease = none) := by
  decide

/-- A held plan with a command in queue 0. -/
def heldQueued : State := { queued with fab := fab2, run := { running.run with st := .hold } }

theorem witness_PlanCommandsAndSuspension :
    (cmdDue heldQueued 0 = true ∧ heldQueued.run.st = .hold ∧ heldQueued.run.me = some (stewardOf heldQueued) ∧ heldQueued.hub.starter = none ∧
     heldQueued.run.startAt = none ∧ epochRec heldQueued = none ∧ (100 : Nat) ≤ 10000000) ∧
    (let s : State := { heldQueued with run := { heldQueued.run with me := some 512 } }
     cmdDue s 0 = true ∧ s.run.me ≠ some (stewardOf s)) ∧
    (let s : State := { queued with run := running.run }
     cmdDue s 0 = true ∧ s.run.st = .run ∧ areaOk (takeCmd 0 0 s) (BitVec.ofNat 64 (2 ^ 44)) = true ∧ s.hub.suspender = none ∧
     s.run.me = some (stewardOf s) ∧ s.hub.suspending = false) ∧
    (let p := msgFrom 0 (.suspend true true)
     let s : State := { running with hub := { saveArea := some 0 } }
     (relayMsg p (takeIngress p s)).run.me ≠ none ∧ ours p (relayMsg p (takeIngress p s)) = true ∧
     (relayMsg p (takeIngress p s)).hub.saveArea.isSome = true) ∧
    (let s : State := { hub := { suspendAsked := true, suspender := some { queue := 0, cmdId := 0 } } }
     s.hub.suspendAsked = true ∧ s.hub.suspender.isSome = true) ∧
    (let s : State := { running with run := { running.run with between := true }, hub := { saveArea := some (BitVec.ofNat 64 (2 ^ 44)), suspending := true } }
     s.hub.saveArea = some (BitVec.ofNat 64 (2 ^ 44)) ∧ canSave s (BitVec.ofNat 64 (2 ^ 44)) = true) ∧
    (areaOk (takeCmd 0 0 heldQueued) (BitVec.ofNat 64 (6 * 2 ^ 44)) = true ∧ heldQueued.run.me ≠ none ∧
     (hallAddr (BitVec.ofNat 64 (6 * 2 ^ 44))).space = 6) := by decide

set_option maxRecDepth 20000 in
theorem witness_LeaseLicencePatchAndReset :
    cmdDue queued 0 = true ∧ leaseOkWords 0 (2 ^ 30) = true ∧ queued.hub.lease = none ∧
    (planRanges (takeCmd 0 0 queued)).any (overlaps (0, 2 ^ 30 + 2 ^ 30 / 2)) = false ∧
    (let s : State := { queued with hub := { queued.hub with lease := some { planId := 7, base := 0, size := 2 ^ 30 } } }
     cmdDue s 0 = true ∧ s.hub.lease = some { planId := 7, base := 0, size := 2 ^ 30 }) ∧
    licReason (slice [] 0 160) = 4 ∧ (15 : Nat) < 16 ∧ (2 ^ 44 - 1 : Nat) < 2 ^ 44 ∧
    (let s : State := { hub := { resetDue := true } }
     s.hub.resetDue = true ∧ resetPerformed s = true ∧ State.reset.hub.resetDue = false ∧
     resetPerformed { hub := { resetDue := true, out := [.msix 0] } } = false) := by decide

theorem witness_PhasesRunInOrder :
    (let p := msgFrom 0 (.start {})
     msgOf p = some (.start {}) ∧ (relayMsg p (takeIngress p { running with run := { running.run with st := .hold } })).run.st = .hold ∧
     ours p (relayMsg p (takeIngress p { running with run := { running.run with st := .hold } })) = true) ∧
    (let s : State := { running with run := { running.run with st := .hold, startAt := some {} } }
     s.run.startAt = some {} ∧ s.run.st = .hold ∧ s.epoch.stage = .none ∧ recalling s = false ∧
     ({ s with epoch := { stage := .running } } : State).epoch.stage = .running) ∧
    (let s : State := { running with run := { running.run with between := true } }
     s.run.st = .run ∧ s.run.between = true ∧ s.run.halted = false ∧ epochIdle s = true ∧ s.hub.suspending = false ∧ ringsLocked s = true ∧
     phaseDone s = false) ∧
    (phaseDone running = true ∧ (phaseOf running running.run.phase).epoch = false ∧ running.hub.suspending = false) := by decide

/-! ### Engines -/

theorem witness_ControlInstructions :
    (issueOf (atIssue 0 0x00) 0 [0x00] = some 0x00 ∧ issueOf (atIssue 0 0x04) 0 [0x04] = some 0x04 ∧
     issueOf (atIssue 0x1000 0x08) 0x1000 [0x08] = some 0x08 ∧ issueOf (atIssue 0x3000 0x09) 0x3000 [0x09] = some 0x09 ∧
     issueOf (atIssue 0x4000 0x03) 0x4000 [0x03] = some 0x03) ∧
    (issueOf (atIssue 0 0x0A) 0 [0x0A] = some 0x0A ∧ xreg (atIssue 0 0x0A) 0 (fld 0x0A 8 4) = 0) ∧
    (let s : State := { atIssue 0 0x0A with eng := [(0, { st := .running, xs := [(0, 5)] })] }
     issueOf s 0 [0x0A] = some 0x0A ∧ xreg s 0 (fld 0x0A 8 4) ≠ 0) ∧
    (issueOf (atIssue 0 0x02) 0 [0x02] = some 0x02 ∧ fld 0x02 32 32 ≤ (tallyOf (atIssue 0 0x02) (fld 0x02 16 16)).count ∧
     (tallyOf (atIssue 0 0x02) (fld 0x02 16 16)).error = false) ∧
    (let w : Word64 := 0x100000102
     let s : State := { atIssue 0 w with tallies := [(0, { error := true, allocated := true })] }
     issueOf s 0 [0x02] = some w ∧ (tallyOf s (fld w 16 16)).error = true ∧ bit w.toNat 8 = true ∧
     issueOf (atIssue 0 w) 0 [0x02] = some w ∧ (tallyOf (atIssue 0 w) (fld w 16 16)).count < fld w 32 32) ∧
    (issueOf (atIssue 0 0x01) 0 [0x01] = some 0x01 ∧ engClass 0 ≠ 3 ∧ (seqOf (atIssue 0 0x01) 0).opens = [] ∧
     (seqOf (atIssue 0 0x01) 0).signals = []) ∧
    (let s : State := { atIssue 0 0x01 with eng := [(0, { st := .running, opens := [0] })] }
     issueOf s 0 [0x01] = some 0x01 ∧ (seqOf s 0).opens ≠ []) ∧
    (let g : PendSignal := { issue := 0, tally := 0, n := 1 }
     let s : State := { eng := [(0, { st := .running, signals := [g] })], tallies := [(0, { allocated := true })] }
     (seqOf s 0).signals = g :: [] ∧ (seqOf s 0).opens.any (fun i => decide (i < g.issue)) = false ∧ g.addr = none ∧ tallyOpen s g.tally = true) ∧
    (let g : PendSignal := { issue := 1, tally := 0, n := 1 }
     let s : State := { eng := [(0, { st := .running, opens := [0], signals := [g] })] }
     (seqOf s 0).signals = g :: [] ∧ (seqOf s 0).opens.any (fun i => decide (i < g.issue)) = true ∧ tallyOpen s g.tally = false) := by decide

theorem witness_IndexRegisterHoldsWhatWasWritten : (15 : Nat) < 16 ∧ (seqOf (atIssue 0 0) 0).st = .running ∧
    SMap.wf 0 (seqOf (atIssue 0 0) 0).xs = true := by decide

theorem witness_ControlInstructionsFrame : Instr.nop 0 ∈ [Instr.nop 0, .errt 0, .setx 0, .addx 0, .loopX 0, .signal 0] ∧
    (match exec (.nop 0) (atIssue 0 0) with | .next _ => true | _ => false) = true ∧
    (match exec (.waitT 0) (atIssue 0 2) with | .next _ => true | _ => false) = true := by decide

/-- A bear at an instruction whose plan keeps current. -/
def keeping (w : Word64) (k : KeepSt) : State :=
  let s := atIssue 0 w
  { s with
    run := { s.run with plan := s.run.plan.map (fun p => { p with powers := [{ keepEnable := true }], phases := [{}] }) }
    units := { bear := [(0, { keep := k })] } }

theorem witness_CurrentKeeping :
    (issueOf (keeping 0x10C { density := 7 }) 0 [0x0C] = some 0x10C ∧ keepOn (keeping 0x10C { density := 7 }) 0 = true ∧
     bit (0x10C : Word64).toNat 8 = true ∧ (keepOf (keeping 0x10C { density := 7 }) 0).density < 8) ∧
    (issueOf (keeping 0x0C {}) 0 [0x0C] = some 0x0C ∧ keepOn (keeping 0x0C {}) 0 = true ∧ bit (0x0C : Word64).toNat 8 = false) ∧
    (let s := keeping 0 { density := 6, ramp := .up }
     keeps 0 = true ∧ (keepOf s 0).ramp = .up ∧ keepOn s 0 = true ∧ (keepOf s 0).density + 1 < 8) ∧
    (let s := keeping 0 { density := 1, ramp := .down }
     (keepOf s 0).ramp = .down ∧ keepOn s 0 = true ∧ (keepOf s 0).density = 1) ∧
    (let s := keeping 0 { density := 8 }
     (keepOf s 0).hold = false ∧ (keepOf s 0).ramp = .none ∧ 0 < (keepOf s 0).density ∧ keepOn s 0 = true ∧ s.run.between = false) ∧
    SMap.wf ({} : Bear) (keeping 0 { density := 8 }).units.bear = true := by decide

/-- An engine at an instruction while the plan is held: every access to the scratchpad is within a holding (R36). -/
def heldAt (e : Nat) (w : Word64) : State := let s := atIssue e w; { s with run := { s.run with st := .hold } }

/-- The same with a bear's own state. -/
def bearAt (e : Nat) (w : Word64) (b : Bear) : State := let s := heldAt e w; { s with units := { s.units with bear := [(e, b)] } }

/-- A held plan with PARAM words. -/
def withParams (ws : List Word64) (s : State) : State :=
  { s with run := { s.run with plan := s.run.plan.map (fun p => { p with devs := [(0xFFFF, { params := ws })] }) } }

set_option maxRecDepth 20000 in
theorem witness_MatrixEngineInstructions :
    (let s := heldAt 0 0x10
     let rs := mmaRows s 0 0x10
     issueOf s 0 [0x10] = some 0x10 ∧ (bearOf s 0).mmas.any (fun o => !o.swapped) = false ∧
     firstRefused (rs.flatMap (fun r => r.1.checks s 0 r.2)) = none ∧ rs.any (fun r => r.1.poison s) = false) ∧
    (let s := bearAt 0 0x10 { mmas := [{ issue := 1 }] }
     issueOf s 0 [0x10] = some 0x10 ∧ (bearOf s 0).mmas.any (fun o => !o.swapped) = true ∧
     (bearOf s 0).mmas.find? (fun o => !o.swapped) = some { issue := 1 } ∧ (({ issue := 1 } : MmaOp).refilling = false)) ∧
    (let s := withParams [1] (heldAt 0 0x10)
     issueOf s 0 [0x10] = some 0x10 ∧ (bearOf s 0).mmas.any (fun o => !o.swapped) = false ∧
     (firstRefused ((mmaRows s 0 0x10).flatMap (fun r => r.1.checks s 0 r.2))).isSome = true) ∧
    (let s := bearAt 0 0x10 { mmas := [{ issue := 1, refilling := true }] }
     (bearOf s 0).mmas.any (·.refilling) = true) ∧
    (let s := bearAt 0 0x10 { mmas := [{ issue := 1, swapped := true }] }
     (bearOf s 0).mmas.any (·.swapped) = true ∧ (bearOf s 0).mmas = { issue := 1, swapped := true } :: []) ∧
    (let s := heldAt 0 0x31
     issueOf s 0 [0x31] = some 0x31 ∧ allDone s 0 = true ∧ bit (0x31 : Word64).toNat 9 = false) ∧
    (let s : State := { atIssue 0 0x31 with eng := [(0, { st := .running, opens := [0] })] }
     issueOf s 0 [0x31] = some 0x31 ∧ allDone s 0 = false) ∧
    (let s := heldAt 0 0x40
     issueOf s 0 [0x40] = some 0x40 ∧ runs s 0 = true ∧
     firstRefused (((cubRows (bearOf s 0) 0x40 true).flatten ++ (cubRows (bearOf s 0) 0x40 false).flatten).map
       (fun o => (o, spStage s 0 o (rowLen (ommaFmt 0x40) (bearOf s 0).cub) false))) = none ∧
     ((cubRows (bearOf s 0) 0x40 true).flatten ++ (cubRows (bearOf s 0) 0x40 false).flatten).any (fun o =>
       (spStage s 0 o (rowLen (ommaFmt 0x40) (bearOf s 0).cub) false).isNone && poisoned s .sp o.toNat (rowLen (ommaFmt 0x40) (bearOf s 0).cub)) = false) ∧
    issueOf (heldAt 0 0x41) 0 [0x41] = some 0x41 ∧
    (engClass 0 = 0 ∧ engValid 0 = true ∧ (1 : Nat) < 2 ∧ (511 : Nat) < 512 ∧ (bearOf (heldAt 0 0x31) 0).mmas.all (fun o => o.bank != 1) = true) := by
  decide

theorem witness_DzeroZeroesItsRowsOnly :
    let s := bearAt 0 0x21 { acc := [(0, 5)] }
    issueOf s 0 [0x21] = some 0x21 ∧ rowsBusy (bearOf s 0) (fld 0x21 8 1) (fld 0x21 36 9) (fld 0x21 45 9 + 1) = false ∧
      SMap.wf ({} : Bear) s.units.bear = true ∧ fld 0x21 36 9 + fld 0x21 45 9 < 512 ∧ (0 : Nat) < fld 0x21 45 9 + 1 := by decide

set_option maxRecDepth 20000 in
theorem witness_DrainsAndVectorInstructions :
    (let s := heldAt 0 0x20
     let r := drnOf s 0 0x20
     issueOf s 0 [0x20] = some 0x20 ∧ rowsBusy (bearOf s 0) r.bank r.first r.count = false ∧ firstRefused (drnChecks s 0 r) = none ∧
     drnPoison s 0 r = false) ∧
    (let s := bearAt 0 0x20 { mmas := [{ word := 0x10 }], drains := [4] }
     let r := drnOf s 0 0x20
     issueOf s 0 [0x20] = some 0x20 ∧ rowsBusy (bearOf s 0) r.bank r.first r.count = true ∧ (bearOf s 0).drains = 4 :: []) ∧
    (let s := bearAt 0 0x21 { mmas := [{ word := 0x10 }] }
     issueOf s 0 [0x21] = some 0x21 ∧ rowsBusy (bearOf s 0) (fld 0x21 8 1) (fld 0x21 36 9) (fld 0x21 45 9 + 1) = true) ∧
    (let s := heldAt 0 0x21
     issueOf s 0 [0x21] = some 0x21 ∧ rowsBusy (bearOf s 0) (fld 0x21 8 1) (fld 0x21 36 9) (fld 0x21 45 9 + 1) = false) ∧
    (let s := heldAt 0 0x23
     let rows : Rows := { base := descBase s 0 (fld 0x23 16 10), stride := descStride s 0 (fld 0x23 16 10), count := fld 0x23 45 9 + 1, len := 768 }
     issueOf s 0 [0x23] = some 0x23 ∧ allDone s 0 = true ∧ firstRefused (rows.checks s 0 true) = none ∧
     ((List.range rows.count).any fun i => (spStage s 0 (rows.at i) 768 false).isNone && poisoned s .sp (rows.at i).toNat 768) = false) ∧
    (let s : State := { atIssue 0 0x23 with eng := [(0, { st := .running, opens := [0] })] }
     issueOf s 0 [0x23] = some 0x23 ∧ allDone s 0 = false) ∧
    (let s := heldAt 0 0x42
     let all := (List.range (bearOf s 0).instances).flatMap (fun q => (List.range (fld 0x42 40 7 + 1)).map (fun i => (q, i)))
     issueOf s 0 [0x42] = some 0x42 ∧ rowsBusy (bearOf s 0) (fld 0x42 13 1) (fld 0x42 32 7) (fld 0x42 40 7 + 1) = false ∧
     firstRefused (all.map (fun x => (odrnAt (bearOf s 0) 0x42 x.1 x.2,
       spStage s 0 (odrnAt (bearOf s 0) 0x42 x.1 x.2) ((bearOf s 0).cub * odrnBytes (fld 0x42 8 4)) true))) = none) ∧
    issueOf (atIssue 0x1000 0x50) 0x1000 [0x50] = some 0x50 ∧
    issueOf (atIssue 0x1000 0x251) 0x1000 [0x51] = some 0x251 ∧ bit (0x251 : Word64).toNat 9 = true ∧
    issueOf (atIssue 0x1000 0x51) 0x1000 [0x51] = some 0x51 ∧ bit (0x51 : Word64).toNat 9 = false ∧
    issueOf (atIssue 0x1000 0x52) 0x1000 [0x52] = some 0x52 ∧
    engClass 0x1000 = 1 ∧ engValid 0x1000 = true ∧ (seqOf (atIssue 0x1000 0x52) 0x1000).st = .running := by decide

/-- A fox core at a 32-bit instruction, its program held, with its registers. -/
def foxAt (w : Nat) (c : Fox) : State :=
  let s := heldAt 0x2000 (BitVec.ofNat 64 w); { s with units := { s.units with fox := [(0x2000, c)] } }

/-- A 32-bit instruction as a fox core finds it. -/
def ins4 (w : Nat) : FoxIns := { w := w, len := 4, raw := w }

/-- A fox core whose x1 holds the address of the first line of the core store, that line in its L1 in a state. -/
def foxCs (w : Nat) (st : L1State) (r : Option Nat) : State :=
  let s := foxAt w { x := [(1, BitVec.ofNat 64 (2 * 2 ^ 44))], reservation := r }
  { s with sett := { l1 := [(0x2000, [(0, { state := st, data := List.replicate 64 0 })])] } }

set_option maxRecDepth 20000 in
theorem witness_FoxMemoryInstructions :
    (hallAddr 0).space = 0 ∧ isRemote (foxAt 0x3083 {}) (hallAddr 0) = false ∧ (∀ n, behindTsig (foxAt 0x3083 {}) 0x2000 (hallAddr 0) n = false) ∧
    (let s := foxAt 0x3083 {}
     foxIns s 0x2000 .load = some (ins4 0x3083) ∧ (foxOf s 0x2000).rx (fRs1 0x3083) + i64 (immI 0x3083) = 0 ∧
     foxCheck s 0x2000 0 8 false true = none ∧ poisoned s .sp 0 8 = false) ∧
    (let s := foxAt 0x3023 {}
     foxIns s 0x2000 .store = some (ins4 0x3023) ∧ f3 0x3023 ≤ 3 ∧ (foxOf s 0x2000).rx (fRs1 0x3023) + i64 (immS 0x3023) = 0 ∧
     foxCheck s 0x2000 0 8 true true = none) ∧
    (let s := foxAt 0x400B {}
     foxIns s 0x2000 .sdf = some (ins4 0x400B) ∧ f7 0x400B = 0 ∧ foxCheck s 0x2000 0 8 true true = none) ∧
    (let s := foxAt 0x30AF {}
     foxIns s 0x2000 .amo = some (ins4 0x30AF) ∧ amoOp (bits 0x30AF 27 5) = some 1 ∧ f3 0x30AF = 3 ∧ bit 0x30AF 25 = false ∧
     accessStage s 0x2000 0 8 1 true (amoMay s (hallAddr 0) 1 1) = none) ∧
    (let s := foxAt 0x600B {}
     foxIns s 0x2000 .fadda = some (ins4 0x600B) ∧ f7 0x600B ≤ 1 ∧
     accessStage s 0x2000 0 (elemBytes 2) 1 true (amoMay s (hallAddr 0) 7 2) = none) ∧
    (let s := foxCs 0x1000B0AF .shared none
     let a := (foxOf s 0x2000).rx (fRs1 0x1000B0AF)
     foxIns s 0x2000 .lr = some (ins4 0x1000B0AF) ∧ fRs2 0x1000B0AF = 0 ∧ accessStage s 0x2000 a 8 1 false (accMay s (hallAddr a) 8 false 0) = none ∧ behindTsig s 0x2000 (hallAddr a) 8 = false ∧
     cachedAt s (hallAddr a) = true ∧ (hallAddr a).off = 0 ∧ (l1Of s 0x2000 (l1Key (addrDev s (hallAddr a)) 0)).state = .shared) ∧
    (let s := foxCs 0x1800B0AF .excl (some 0)
     let a := (foxOf s 0x2000).rx (fRs1 0x1800B0AF)
     foxIns s 0x2000 .sc = some (ins4 0x1800B0AF) ∧ accessStage s 0x2000 a 8 1 true (accMay s (hallAddr a) 8 true 0) = none ∧
     cachedAt s (hallAddr a) = true ∧ (foxOf s 0x2000).reservation = some (l1Key (addrDev s (hallAddr a)) 0) ∧
     (l1Of s 0x2000 (l1Key (addrDev s (hallAddr a)) 0)).state = .excl) ∧
    (let s := foxCs 0x1800B0AF .excl none
     foxIns s 0x2000 .sc = some (ins4 0x1800B0AF) ∧ (foxOf s 0x2000).reservation = none) ∧
    (let s := foxAt 0x100030AF {}
     foxIns s 0x2000 .lr = some (ins4 0x100030AF) ∧ fRs2 0x100030AF = 0 ∧ cachedAt s (hallAddr 0) = false) ∧
    (let s := foxAt 0x180030AF {}
     foxIns s 0x2000 .sc = some (ins4 0x180030AF) ∧ cachedAt s (hallAddr 0) = false) ∧
    (foxIns (foxAt 0x100F {}) 0x2000 .fence = some (ins4 0x100F) ∧ f3 0x100F = 1) ∧
    (foxIns (foxAt 0x0FF0000F {}) 0x2000 .fence = some (ins4 0x0FF0000F) ∧ f3 0x0FF0000F = 0 ∧ bits 0x0FF0000F 24 4 ≠ 0 ∧
     foxDrained (foxAt 0x0FF0000F {}) 0x2000 = true) ∧
    (let s := { foxAt 0x0FF0000F {} with eng := [(0x2000, { st := .running, opens := [0] })] }
     foxIns s 0x2000 .fence = some (ins4 0x0FF0000F) ∧ foxDrained s 0x2000 = false) ∧
    (let s := foxAt 0x003010F3 {}
     foxIns s 0x2000 .csr = some (ins4 0x003010F3) ∧ csrRead s 0x2000 3 = some 0 ∧ f3 0x003010F3 = 1 ∧ bits 0x003010F3 20 12 = 3) ∧
    (let s := foxAt 0xCC0020F3 {}
     foxIns s 0x2000 .csr = some (ins4 0xCC0020F3) ∧ f3 0xCC0020F3 = 2 ∧ fRs1 0xCC0020F3 = 0 ∧ bits 0xCC0020F3 20 12 = 0xCC0) ∧
    (let s := foxAt 0xCC0010F3 {}
     foxIns s 0x2000 .csr = some (ins4 0xCC0010F3) ∧ f3 0xCC0010F3 = 1 ∧ csrRead s 0x2000 0xCC0 = some 0x2000) := by
  refine ⟨rfl, by decide, fun _ => rfl, ?_, ?_, ?_, ?_, ?_, ?_, ?_, ?_, ?_, ?_, ?_, ?_, ?_, ?_, ?_, ?_⟩ <;> decide

set_option maxRecDepth 20000 in
theorem witness_FoxArithmeticAndTraps :
    (foxIns (foxAt 0x002081B3 {}) 0x2000 .compute = some (ins4 0x002081B3) ∧ (0x002081B3 : Nat) % 128 = 0x33 ∧
      (rvInt (foxOf (foxAt 0x002081B3 {}) 0x2000) 0 4 0x002081B3).isSome = true) ∧
    (foxIns (foxAt 0x00007053 {}) 0x2000 .compute = some (ins4 0x00007053) ∧ (0x00007053 : Nat) % 128 = 0x53 ∧
      (rvFloat (foxOf (foxAt 0x00007053 {}) 0x2000) 4 0x00007053).isSome = true) ∧
    (foxIns (foxAt 0x0C0070D7 {}) 0x2000 .compute = some (ins4 0x0C0070D7) ∧ (0x0C0070D7 : Nat) % 128 = 0x57 ∧
      (rvVec (foxOf (foxAt 0x0C0070D7 {}) 0x2000) 4 0x0C0070D7).isSome = true) ∧
    (let s := { foxAt 0 {} with eng := [(0x2000, { st := .running, pc := 8 })] }
     foxRuns s 0x2000 = true ∧ foxFetch s 0x2000 = .fault) ∧
    foxIns (foxAt 0x00100073 {}) 0x2000 .compute = some (ins4 0x00100073) ∧
    (foxRuns (foxAt 0 {}) 0x2000 = true ∧ foxFetch (foxAt 0 {}) 0x2000 = .illegal 0) ∧
    ((0x33 : Nat) % 128 = 0x33 ∧ f7 0x33 = 0 ∧ f3 0x33 = 0 ∧ f7 0x40000033 = 32 ∧ f3 0x1033 = 1 ∧ f7 0x02004033 = 1 ∧ f3 0x02004033 = 4 ∧
      f3 0x02006033 = 6 ∧ (0x63 : Nat) % 128 = 0x63 ∧ f3 0x63 = 0 ∧ (0x6F : Nat) % 128 = 0x6F ∧ f3 0x7003 = 7 ∧ (0x7003 : Nat) % 128 = 3 ∧
      SMap.wf 0 ({} : Fox).x = true) := by decide

set_option maxRecDepth 20000 in
theorem witness_FoxDeviceInstructions :
    (foxIns (foxAt 0x0B {}) 0x2000 .fend = some (ins4 0x0B) ∧ (foxOf (foxAt 0x0B {}) 0x2000).hostWrote = none) ∧
    (let s := { foxAt 0x0000900B { x := [(1, BitVec.ofNat 64 (3 * 2 ^ 44))] } with tallies := [(0, { allocated := true })] }
     foxIns s 0x2000 .tsig = some (ins4 0x0000900B) ∧ f7 0x0000900B = 0 ∧
     tallyCheck s 0x2000 ((foxOf s 0x2000).rx (fRs1 0x0000900B)) false = none) ∧
    (let s := { foxAt 0x0000A00B { x := [(1, BitVec.ofNat 64 (3 * 2 ^ 44))] } with tallies := [(0, { allocated := true })] }
     foxIns s 0x2000 .twait = some (ins4 0x0000A00B) ∧ tallyCheck s 0x2000 ((foxOf s 0x2000).rx (fRs1 0x0000A00B)) true = none ∧
     ((foxOf s 0x2000).rx (fRs2 0x0000A00B)).toNat ≤ (tallyOf s 0).count) ∧
    (let s := { foxAt 0x0010A00B { x := [(1, BitVec.ofNat 64 (3 * 2 ^ 44))] } with tallies := [(0, { allocated := true })] }
     foxIns s 0x2000 .twait = some (ins4 0x0010A00B) ∧ tallyCheck s 0x2000 ((foxOf s 0x2000).rx (fRs1 0x0010A00B)) true = none ∧
     (tallyOf s 0).error = false ∧ (tallyOf s 0).count < ((foxOf s 0x2000).rx (fRs2 0x0010A00B)).toNat) ∧
    (let s := foxAt 0x0000200B {}
     foxIns s 0x2000 .twait = some (ins4 0x0000200B) ∧ (tallyCheck s 0x2000 0 true).isSome = true) ∧
    (let s := { foxAt 0x0000B00B { x := [(1, BitVec.ofNat 64 (3 * 2 ^ 44))] } with tallies := [(0, { allocated := true })] }
     foxIns s 0x2000 .terrt = some (ins4 0x0000B00B) ∧ tallyCheck s 0x2000 ((foxOf s 0x2000).rx (fRs1 0x0000B00B)) true = none) ∧
    (let s := foxAt 0x0000500B {}
     foxIns s 0x2000 .prm = some (ins4 0x0000500B) ∧ (progOf s 0x2000).map (·.paramWords) = some 1) ∧
    (foxIns (foxAt 0x73 {}) 0x2000 .ecallLog = some (ins4 0x73) ∧ (foxOf (foxAt 0x73 { userLogged := 15 }) 0x2000).userLogged < 16 ∧
     foxIns (foxAt 0x73 { userLogged := 16 }) 0x2000 .ecallLog = some (ins4 0x73)) ∧
    foxIns (foxAt 0x73 { x := [(17, 1)] }) 0x2000 .ecallYield = some (ins4 0x73) ∧
    (engClass 0x2000 = 2 ∧ engValid 0x2000 = true ∧ (seqOf (foxAt 0 {}) 0x2000).st = .running) := by decide

/-- A hare at an instruction, its program held. -/
def hareAt (w : Word64) (h : Hare) : State :=
  let s := withParams [0, 0, 0, 0, 0, 0xFFFF0000] (heldAt 0x3000 w)
  { s with units := { s.units with hare := [(0x3000, h)] } }

set_option maxRecDepth 20000 in
theorem witness_HareCopies :
    (issueOf (hareAt 0x60 {}) 0x3000 [0x60] = some 0x60 ∧ bit (0x60 : Word64).toNat 9 = false ∧ hareFree (hareAt 0x60 {}) 0x3000 = true ∧
     (resolveCopy (hareAt 0x60 {}) 0x3000 0x60).mcast = none) ∧
    issueOf (heldAt 0x3000 0x260) 0x3000 [0x60] = some 0x260 ∧ bit (0x260 : Word64).toNat 9 = true ∧
    (let c : CopyRec := {}
     issueOf (hareAt 0x60 { copies := [c, c, c, c] }) 0x3000 [0x60] = some 0x60 ∧ hareFree (hareAt 0x60 { copies := [c, c, c, c] }) 0x3000 = false) ∧
    (let s := { hareAt 0x60 {} with power := { domains := [(0, { st := .on })] } }
     copyDown s (resolveCopy s 0x3000 0x60) = none) ∧
    (∃ d, copyDown (hareAt 0x60 {}) (resolveCopy (hareAt 0x60 {}) 0x3000 0x60) = some d) ∧
    issueOf (hareAt 0x61 {}) 0x3000 [0x61] = some 0x61 ∧ issueOf (hareAt 0x62 {}) 0x3000 [0x62] = some 0x62 ∧
    (let c : CopyRec := { issue := 1, rowBytes := 64, rows := 1, dst := 64 }
     let s := hareAt 0x60 { copies := [c] }
     copyOf s 0x3000 1 = some c ∧ c.stopped = false ∧ c.sent < c.total ∧ behindCopy s 0x3000 c = false ∧ srcRemoteOf s c = false ∧
     dstRemoteOf s c = false ∧ hostSourced c = false ∧ engClass 0x3000 ≠ 5 ∧ (hallAddr (c.srcAt 0)).space = 0 ∧ (hallAddr (c.dstAt 0)).space = 0 ∧
     copyStage s 0x3000 c 0 (c.chunkEnd 0 - 0) = none) ∧
    (let c : CopyRec := { issue := 1, kind := .fill, rowBytes := 64, rows := 1, dst := 64 }
     let s := hareAt 0x60 { copies := [c] }
     copyOf s 0x3000 1 = some c ∧ c.sent < c.total ∧ behindCopy s 0x3000 c = false ∧ copyStage s 0x3000 c 0 (c.chunkEnd 0 - 0) = none) ∧
    (let c : CopyRec := { issue := 1, stopped := true, readbacks := [64] }
     copyOf (hareAt 0x60 { copies := [c] }) 0x3000 1 = some c ∧ c.readbacks = 64 :: []) ∧
    (let s : State := { units := { ppe := [(7, { load := some (3, { w := [], fold := 0, mode := 0 }) })] } }
     engClass 0x5700 = 5 ∧ domDown s (16 + engDie 0x5700) = true ∧ (SMap.get {} s.units.ppe (engDie 0x5700)).load.map (·.1) = some 3) := by
  refine ⟨by decide, by decide, by decide, by decide, by decide, ⟨_, by rfl⟩, by decide, by decide, by decide, by decide, by decide, by decide⟩

/-- Domain 0 and its neighbours are on. -/
def poweredOn (s : State) : State := { s with power := { s.power with domains := (List.range 24).map (fun i => (i, { st := .on })) } }

theorem witness_StagingAndScrub :
    (issueOf (hareAt 0x64 {}) 0x3000 [0x64] = some 0x64 ∧ issueOf (hareAt 0x65 {}) 0x3000 [0x65] = some 0x65 ∧
     issueOf (hareAt 0x67 {}) 0x3000 [0x67] = some 0x67) ∧
    (issueOf (hareAt 0x66 {}) 0x3000 [0x66] = some 0x66 ∧ (hareOf (hareAt 0x66 {}) 0x3000).sres = none ∧
     sresWaits (hareAt 0x66 {}) 0x3000 0x66 = false) ∧
    (let w : Word64 := 0x10000000066
     let s := { hareAt w {} with units := { stg := [(0, { opened := true, owner := 0x3000, tag := some 0, run := .flight })] } }
     issueOf s 0x3000 [0x66] = some w ∧ (hareOf s 0x3000).sres = none ∧ sresWaits s 0x3000 w = true) ∧
    (issueOf (hareAt 0x66 { sres := some (0, []) }) 0x3000 [0x66] = some 0x66 ∧ (hareOf (hareAt 0x66 { sres := some (0, []) }) 0x3000).sres ≠ none) ∧
    (let s : State := poweredOn { units := { stg := [(0, { opened := true, run := .flight, parts := [{ src := 0, off := 0, len := 8 }] })] } }
     (stgOf s (stgKey 0 0)).run = .flight ∧ (stgOf s (stgKey 0 0)).flight = 0 ∧
     (∀ p, p ∈ (stgOf s (stgKey 0 0)).parts →
       isRemote s (hallAddr p.src) = false ∧ downAt s p.src = none ∧ localReady s p.src p.len false = true) ∧
     (runLocal (stgKey 0 0) [] s (stgOf s (stgKey 0 0)).parts 0).isSome = true) ∧
    (domDark (poweredOn {}) (domainOf .sp (2 ^ 35 - 64)) = false ∧ (2 ^ 29 - 64 : Nat) < 2 ^ 29 ∧
     (let s : State := { mem := { hbmc := [(15, { trained := true })] } }
      (SMap.get {} s.mem.hbmc ((2 ^ 40 - 64) / 2 ^ 36)).trained = true ∧ (SMap.get {} s.mem.hbmc ((2 ^ 40 - 64) / 2 ^ 36)).patrol = true) ∧
     (SMap.get {} State.reset.mem.hbmc 0).trained = false) := by
  refine ⟨by decide, by decide, by decide, by decide, by decide, by decide⟩

/-- A device with one stream context in a state, with its queue and its digital flag. -/
def withCtx (st flags : Nat) (q : List (Nat × Nat)) : State :=
  { units := { ctx := [(0, { (({ alloc := true } : Ctx).put 0x08 1 st).put 0x09 1 flags with queue := q })] } }

/-- A closed context with a valid layout (R237) and its plan held. -/
def validCtx : State :=
  let x := (((((((({ alloc := true } : Ctx).put 0x0A 2 0x0140).put 0x18 4 64).put 0x1C 4 1).put 0x28 8 1024).put 0x30 8 16384).put 0x38 8 4096).put 0x48 4
    64).put 0x4C 4 0x00010000
  { tallies := [(0, { allocated := true })], units := { ctx := [(0, x)] } }

set_option maxRecDepth 40000 in
theorem witness_StreamsAndContexts :
    (let x := ctxOf (withCtx 1 0 []) 0
     x.alloc = true ∧ x.state = 1 ∧ x.length + 256 ≤ x.limit ∧ x.queue = [] ∧ x.digital = false) ∧
    (let x := ctxOf (withCtx 0 0 []) 0
     x.alloc = true ∧ x.state = 0 ∧ ctxValid (withCtx 0 0 []) 0 = false) ∧
    (let s : State := { units := { ctx := [(0, (({ alloc := true } : Ctx).put 0x08 1 1).put 0x00 3 256)] } }
     (ctxOf s 0).alloc = true ∧ (ctxOf s 0).state = 1 ∧ (ctxOf s 0).limit < (ctxOf s 0).length + 1) ∧
    ((ctxOf validCtx 0).alloc = true ∧ (ctxOf validCtx 0).state = 0 ∧ ctxValid validCtx 0 = true ∧
     checkAccess validCtx (ctxEngine 0) (mkHall (myLogical validCtx) 0 ((ctxOf validCtx 0).fld 0x30 8)) 8192 1 true true = none) ∧
    (let s : State := { units := { ctx := [(0, { alloc := true, closing := true })] } }
     (ctxOf s 0).closing = true ∧ (ctxOf s 0).queue = []) ∧
    ((ctxOf State.reset 0).alloc = false ∧ (ctxOf (withCtx 1 0 [(0, 1)]) 0).queue ≠ []) ∧
    (0x0A + List.length [(0 : Byte)] ≤ 0x60 ∧ ((List.range [(0 : Byte)].length).map (· + 8)).any ctxOwned = true ∧
     List.length (List.replicate 8 (0 : Byte)) = 8) ∧
    (let s := withCtx 1 0 [(0, 1)]
     (ctxOf s 0).queue = (0, 1) :: [] ∧ (ctxOf s 0).state = 1 ∧ ctxDown s 0 = true) ∧
    (let s := poweredOn (withCtx 1 0 [(0, 1)])
     (ctxOf s 0).queue = (0, 1) :: [] ∧ ctxDown s 0 = false ∧ (ctxOf s 0).digital = false ∧ appendsHeld s 0 = true ∧ (ctxOf s 0).sketched < 0 + 1) ∧
    (let s := poweredOn (withCtx 1 0 [(0, 1)])
     let s := { s with units := { s.units with ppe := [(0, { mesh := .sketch })] } }
     ctxDown s 0 = false ∧ (ctxOf s 0).digital = false ∧ appendsHeld s 0 = false) ∧
    (let s := poweredOn (withCtx 1 1 [(0, 0)])
     (ctxOf s 0).queue = (0, 0) :: [] ∧ ctxDown s 0 = false ∧ (ctxOf s 0).digital = true ∧ 0 + 0 ≤ (ctxOf s 0).sketched ∧ (ctxOf s 0).flight = 0) := by
  refine ⟨by decide, by decide, by decide, by decide, by decide, by decide, by decide, by decide, by decide, by decide, by decide⟩

/-- Bytes read are the cells' values in turn. -/
theorem bytes_map (m : Memory) (n : Nat) : ∀ a, Memory.bytes m a n = (List.range n).map (fun i => m.read (a + i)) := by
  induction n with
  | zero => intro a; rfl
  | succ n ih => intro a; simp [Memory.bytes, ih, List.range_succ_eq_map, Nat.add_assoc, Nat.add_comm 1]

/-- The bytes a range was written with are read back. -/
theorem bytes_written (a : Nat) (d : List Byte) : Memory.bytes (Memory.writeBytes [] a d) a d.length = d := by
  rw [bytes_map]
  exact List.ext_getElem (by simp) fun i _ hi => by simpa using Memory.read_writeBytes_inside [] a i d rfl hi

theorem exclRow_length (x : Ctx) : (exclRow x).length = 8192 := (List.length_map _).trans List.length_range

/-- A row that memory holds already has no byte to change. -/
theorem rowChanges_nil (s : State) (x : Ctx) (h : readStore s .sp (x.fld 0x30 8) 8192 = exclRow x) (hp : poisonOf s .sp = []) :
    rowChanges s x = [] := by
  have hz : ∀ l : List Byte, ∀ t ∈ (l.zip l).zipIdx, t.1.1 = t.1.2 := fun l t ht => by
    obtain ⟨i, hi, h⟩ := List.mem_iff_getElem.mp (List.fst_mem_of_mem_zipIdx ht)
    rw [← h]; simp
  simp only [rowChanges, h, List.filterMap_eq_nil_iff]
  exact fun t ht => by simp [hz _ t ht, poisoned, hp]

/-- The valid context over a scratchpad that holds some bytes at its exclusion row. -/
def rowHeld (d : List Byte) : State := { validCtx with mem := { sp := Memory.writeBytes [] 16384 d } }

theorem witness_StreamsAndContexts_row (d : List Byte) :
    (ctxOf (rowHeld d) 0).alloc = true ∧ (ctxOf (rowHeld d) 0).closing = false ∧ (ctxOf (rowHeld d) 0).state = 0 ∧ ctxValid (rowHeld d) 0 = true ∧
    (ctxOf (rowHeld d) 0).fld 0x30 8 = 16384 := by
  have h : ctxOf (rowHeld d) 0 = ctxOf validCtx 0 := rfl
  have v : ctxValid (rowHeld d) 0 = ctxValid validCtx 0 := rfl
  rw [h, v]; decide

theorem witness_StreamsAndContexts_written :
    ∃ d u, rowWrite 0 ((ctxOf (rowHeld d) 0).fld 0x30 8) (rowChanges (rowHeld d) (ctxOf (rowHeld d) 0)) (rowHeld d) = .ok u := by
  obtain ⟨d, hd⟩ : ∃ d, d = exclRow (ctxOf validCtx 0) := ⟨_, rfl⟩
  have h : readStore (rowHeld d) .sp 16384 d.length = d := bytes_written 16384 d
  rw [hd, exclRow_length, ← hd] at h
  refine ⟨d, rowHeld d, ?_⟩
  rw [rowChanges_nil _ _ ((congrArg (fun a => readStore (rowHeld d) .sp a 8192) (witness_StreamsAndContexts_row d).2.2.2.2).trans (h.trans hd)) rfl]
  rfl

/-- A poisoned line counts as changed from its first byte. -/
theorem rowChanges_cons (s : State) (x : Ctx) (hp : poisoned s .sp (x.fld 0x30 8) 1 = true) : ∃ b l, rowChanges s x = (0, b) :: l := by
  unfold rowChanges exclRow
  generalize hn : 8192 = n
  cases n with
  | zero => cases hn
  | succ n => clear hn; simp [readStore, Memory.bytes, List.range_succ_eq_map, hp]

/-- The valid context whose exclusion row meets a poisoned line. -/
def rowPoisoned : State := { validCtx with mem := { spPoison := [256] } }

theorem witness_StreamsAndContexts_refused :
    ∃ g, rowWrite 0 ((ctxOf rowPoisoned 0).fld 0x30 8) (rowChanges rowPoisoned (ctxOf rowPoisoned 0)) rowPoisoned = .error g := by
  obtain ⟨b, l, e⟩ := rowChanges_cons rowPoisoned (ctxOf rowPoisoned 0) (by decide)
  have h : unitWrite 0 ((ctxOf rowPoisoned 0).fld 0x30 8 + 0) [b] rowPoisoned = .error none := by
    simp only [unitWrite, List.length_singleton]
    rw [if_pos (by decide)]
    split
    · rename_i g hg; exact absurd hg (by decide +revert)
    · rfl
  exact ⟨_, by rw [e, rowWrite, h]⟩

theorem witness_StreamsAndContexts_later :
    let s : State := { units := { ctx := [(0, { alloc := true, closing := true, later := [1 + 2 ^ 16] })] } }
    (ctxOf s 0).alloc = true ∧ (ctxOf s 0).closing = true ∧ (ctxOf s 0).queue = [] ∧ 511 < 512 := by decide

/-- A projection engine at an instruction, its mesh in a state. -/
def ppeAt (w : Word64) (m : Mesh) (frozen : Bool) (mode : Nat) : State :=
  let s := poweredOn (heldAt 0x5000 w)
  { s with
    frozen := frozen
    run := { s.run with plan := s.run.plan.map (fun p => { p with progs := p.progs.map (fun g => { g with mode := mode }) }) }
    units := { ppe := [(0, { mesh := m, turn := 129 })] } }

set_option maxRecDepth 40000 in
theorem witness_ProjectionEngine :
    (let s := { ppeAt 0x70 .empty true 0 with mem := { sp := [(0, 1)] } }
     let rows : Rows := { base := descBase s 0x5000 0, stride := descStride s 0x5000 0, count := 64, len := 256 }
     domDown s (16 + engDie 0x5000) = false ∧ issueOf s 0x5000 [0x70] = some 0x70 ∧ (ppeOf s (engDie 0x5000)).mesh = .empty ∧
     firstRefused (rows.checks s 0x5000 true) = none ∧ rows.poison s = false ∧
     badMatrix ((List.range 64).map (fun i => unpack 0x12 64 (rows.bytes s i))) = false ∧
     badMatrix ((List.range 64).map (fun i => unpack 0x12 64 (rows.bytes (ppeAt 0x70 .empty true 0) i))) = true) ∧
    (let s := ppeAt 0x70 .empty false 1
     issueOf s 0x5000 [0x70] = some 0x70 ∧ s.frozen = false ∧ ((progOf s 0x5000).map (·.mode)).getD 0 = 1) ∧
    (let r : MatRec := { w := [], fold := 0, mode := 0 }
     let s : State := { units := { ppe := [(0, { load := some (3, r) })] } }
     engClass 0x5000 = 5 ∧ (ppeOf s (engDie 0x5000)).load = some (3, r)) ∧
    (issueOf (ppeAt 0x71 .loading true 0) 0x5000 [0x71] = some 0x71 ∧ issueOf (ppeAt 0x71 .sketch true 0) 0x5000 [0x71] = some 0x71 ∧
     issueOf (ppeAt 0x71 .empty true 0) 0x5000 [0x71] = some 0x71 ∧ issueOf (ppeAt 0x72 .frozen true 0) 0x5000 [0x72] = some 0x72 ∧
     issueOf (ppeAt 0x72 .empty true 0) 0x5000 [0x72] = some 0x72) ∧
    (let s := ppeAt 0x70 .empty true 0
     (7 : Nat) < 8 ∧ (domOf s (16 + 7)).st = .on ∧ domDown s (16 + 7) = false ∧ (ppeOf s 0).spareUsed = false ∧ (ppeOf s 7).overdue = false ∧
     (let s := { s with time := { s.time with hall := { sec := 901 } } }
      domDown s (16 + 7) = false ∧ (ppeOf s 7).overdue = false ∧ calPassed s 7 = true)) ∧
    (let s : State := { units := { ppe := [(7, { mesh := .recal, spareUsed := true })] } }
     (ppeOf s 7).mesh = .recal ∧ (ppeOf s 7).spareUsed = true) := by
  refine ⟨by decide, by decide, by decide, by decide, by decide, by decide⟩

/-- A fabric with its lanes. -/
def withLane (l : Lane) : State := { fab := { lanes := [(0, l)] } }

theorem witness_LaserFeedsAndRings :
    (let s : State := { fab := { tiles := [(7, { active := 0, a := { tones := true, ok := true }, b := { tones := true, ok := true, avg := 100000, minLine := 100000 } })] } }
     (feedOf s 7 false).tones = true ∧ activeFeed s 7 = b2n false ∧ feedUsable s 7 (!false) = true) ∧
    (let s : State := { fab := { tiles := [(0, { a := { tones := true, ok := true, avg := 100000, minLine := 100000 } })] } }
     (feedOf s 0 false).tones = true ∧ (feedOf s 0 false).ok = feedHealthy (feedOf s 0 false) ∧ (feedOf s 0 false).ok = true) ∧
    (let s : State := { fab := { tiles := [(0, { active := 0, failover := true })] } }
     (tileOf s 0).failover = true ∧ activeFeed s 0 ≠ 2 ∧ (0 : Nat) ≠ 8) ∧
    (let s : State := { fab := { rings := [(ringKey 0 false 0, { state := .sweeping })] } }
     (ringOf s 0 false 0).state = .sweeping ∧ (ringOf s 0 false 0).fails = 0) ∧
    (let s : State := { fab := { rings := [(ringKey 0 false 0, { state := .tuning })] } }
     let u := modRing 0 false 0 (fun g => { g with state := .verified }) s
     (ringOf s 0 false 0).state = .tuning ∧ laneOfRing u 0 false 0 = none) ∧
    (let s : State := { fab := { rings := [(ringKey 0 false 0, { state := .locked })], lanes := [(0, { state := .tuning, txRing := 0 })] } }
     let u := modRing 0 false 0 (fun g => { g with state := .verified }) s
     (ringOf s 0 false 0).state = .locked ∧ laneOfRing u 0 false 0 = some 0) ∧
    (let s : State := { fab := { rings := [(ringKey 0 false 0, { state := .verified })] } }
     (ringOf s 0 false 0).state = .verified ∧ laneOfRing s 0 false 0 = none) ∧
    (let s : State := { fab := { rings := [(ringKey 0 false 8, { state := .verified, line := laneLine 0 })], lanes := [(0, { state := .up, txRing := 0 })] } }
     (portOf s (lanePort 0)).txSpare < 9 ∧ laneRing (laneOf s 0) false < 9 ∧ (ringOf s (lanePort 0) false (portOf s (lanePort 0)).txSpare).state = .verified ∧
     (ringOf s (lanePort 0) false (portOf s (lanePort 0)).txSpare).line = laneLine 0) := by
  refine ⟨by decide, by decide, by decide, by decide, by decide, by decide, by decide, by decide⟩

/-- A tile whose feeds are healthy or not. -/
def feeds (active : Nat) (a b : Bool) : State := { fab := { tiles := [(0, { active := active, a := { ok := a }, b := { ok := b } })] } }

theorem witness_LaserFeedsAndRings_back :
    ((feedOf (feeds 0 false true) 0 false).ok = false ∧ feedUsable (feeds 0 false true) 0 false = false ∧
     (let f : Feed := { ok := false, avg := 96, minLine := 64 }
      f.ok = false ∧ feedHealthy { f with tones := true } = true)) ∧
    (feedUsable (feeds 2 true false) 0 false = true ∧ activeFeed (feeds 2 true false) 0 = 2) ∧
    (feedUsable (feeds 1 true true) 0 false = true ∧ activeFeed (feeds 1 true true) 0 = b2n (!false) ∧ feedUsable (feeds 1 true true) 0 (!false) = true) ∧
    (feedUsable (feeds 1 true false) 0 false = true ∧ activeFeed (feeds 1 true false) 0 = b2n (!false) ∧
     feedUsable (feeds 1 true false) 0 (!false) = false) ∧
    (let s : State := { fab := { rings := [(ringKey 0 true 0, { state := .verified })], lanes := [(0, { state := .up, rxRing := 0 })] } }
     (ringOf s 0 true 0).state = .verified ∧ (laneOfRing s 0 true 0).any (fun k => laneLive (laneOf s k) 0 && decide ((laneOf s k).wrongIdent = 0)) = true) := by
  refine ⟨by decide, by decide, by decide, by decide, by decide⟩

theorem witness_LanesAndFrames :
    (laneListens (laneOf State.reset 0) = false ∧ laneListens (laneOf (withLane { state := .up }) 0) = true ∧
     ({ sender := 1 } : Frame).sender ≠ (laneOf (withLane { state := .up }) 0).far) ∧
    (let s := withLane { state := .up, nextRx := 255 }
     let f : Frame := { kind := .data, sender := 0, port := lanePort 0, line := rxLine 0, seq := 255 }
     laneListens (laneOf s 0) = true ∧ f.sender = (laneOf s 0).far ∧ f.port = lanePort 0 ∧ f.line = rxLine 0 ∧ (laneOf s 0).state = .up ∧
     f.kind = .data ∧ f.seq = (laneOf s 0).nextRx ∧ ({ f with seq := 0 } : Frame).seq ≠ (laneOf s 0).nextRx ∧ ({ f with kind := .train } : Frame).kind = .train) ∧
    ((laneOf (withLane { unacked := [{ seq := 0, packets := [], resent := 15 }] }) 0).unacked = { seq := 0, packets := [], resent := 15 } :: [] ∧
     (laneOf (withLane { unacked := [{ seq := 0, packets := [], resent := 16 }] }) 0).unacked = { seq := 0, packets := [], resent := 16 } :: []) ∧
    ((laneOf (withLane { state := .marked }) 0).state = .marked ∧
     (laneOf (withLane { state := .acquiring, farTrain := true }) 0).farTrain = true ∧
     (laneOf (withLane { state := .down, named := true }) 0).named = true ∧ (laneOf (withLane { state := .held, named := true }) 0).state = .held) ∧
    ((laneOf (withLane { closing := some { planned := true, reason := 0 } }) 0).closing.map (·.planned) = some true ∧
     (laneOf (withLane { state := .closing, closing := some { planned := false, reason := 1 } }) 0).closing.map (·.planned) = some false) ∧
    (((laneOf (withLane { holdTime := 20 }) 0).flapTimes.all fun t => decide (t + 1200000000000 ≤ nowNs (withLane { holdTime := 20 }))) = true) ∧
    (let p := { msgFrom 5 (.close 0 0 0 1) with phys := false }
     let s := withLane { state := .closing, far := 5, closing := some { planned := false, reason := 1 } }
     let u := takeIngress p s
     p.body = .msg (.close 0 0 0 1) ∧ (laneOf u (laneKey 0 0)).state = .closing ∧ (laneOf u (laneKey 0 0)).far = p.source ∧
     (laneOf u (laneKey 0 0)).closing.map (·.planned) = some false) ∧
    ((laneOf (withLane { unclassed := 1 }) 0).unclassed = 1 ∧
     (laneOf (withLane { state := .marked, repair := some { step := 1, rule := 1 } }) 0).repair =
       some { step := 1, rule := 1 } ∧
     (laneOf (withLane { state := .marked, repair := some { step := 1, rule := 1, crossed := true } }) 0).repair =
       some { step := 1, rule := 1, crossed := true }) ∧
    ((9 : Nat) ≠ (laneOf State.reset 0).state.code ∧ (none : Option (Nat × Nat)) ≠ some (State.reset.fab.position, 0)) := by
  refine ⟨by decide, by decide, by decide, by decide, by decide, by decide, by decide, by decide, by decide⟩

/-- A codeword of least weight as the errors of a frame's first codeword: the decoder finds nothing to correct, and the check fails. -/
def codewordErrors : List (Nat × Nat) := (0, 1) :: rsGenerator.zipIdx.map (fun t => (4 * (t.2 + 1), t.1))

set_option maxRecDepth 400000 in
theorem witness_LanesAndFrames_errors :
    0 < badWords [(0, 1), (4, 1), (8, 1), (12, 1), (16, 1), (20, 1), (24, 1), (28, 1)] ∧
    badWords codewordErrors = 0 ∧ readFrame { kind := .idle } codewordErrors [] = none ∧
    badWords [(1087, 1023)] = 0 ∧ messageResidue [(1087, 1023)] = 0 := by
  refine ⟨by decide +kernel, by decide +kernel, by decide +kernel, by decide +kernel, by decide +kernel⟩

theorem witness_LanesAndFrames_states :
    (let s := withLane { state := .acquiring }
     let f : Frame := { kind := .train, sender := 0, port := lanePort 0, line := rxLine 0 }
     laneListens (laneOf s 0) = true ∧ f.sender = (laneOf s 0).far ∧ f.port = lanePort 0 ∧ f.line = rxLine 0 ∧ (laneOf s 0).state = .acquiring ∧
     f.kind = .train ∧ ({ f with kind := .idle } : Frame).kind ≠ .train) ∧
    (let l := laneOf (withLane { state := .closing, holdDue := true, closing := some { planned := true, reason := 0 } }) 0
     laneListens l = true ∧ l.state ≠ .acquiring ∧ l.holdDue = true ∧ l.state ≠ .held) ∧
    ((laneOf (withLane { state := .held }) 0).state = .held ∧ (laneOf (withLane { state := .held }) 0).named = false) ∧
    (let s := withLane { lastFlap := some 0 }
     let s := { s with time := { s.time with hall := { sec := 1200 } } }
     (((laneOf s 0).lastFlap.toList ++ (laneOf s 0).flapTimes).all fun t => decide (t + 1200000000000 ≤ nowNs s)) = true) ∧
    (let p := msgFrom 5 (.close 0 0 0 1)
     let t := takeIngress p (withLane { state := .up, far := 5 })
     let u := unplannedClose 0 1 false false t
     p.body = .msg (.close 0 0 0 1) ∧ laneKey 0 ((32 - 0) % 32) = 0 ∧ (laneOf t 0).far = p.source ∧ (laneOf u 0).state = .closing ∧
     (laneOf u 0).far = p.source ∧ (laneOf u 0).closing.map (·.planned) = some false) ∧
    (let s := withLane { unclassed := 8 }
     8 ≤ (laneOf s 0).unclassed ∧ (portOf s 0).cabling = false) := by
  refine ⟨by decide, by decide, by decide, by decide, by decide, by decide⟩

/-- A packet for position 1, received on lane 0 with some hops. -/
def passing (hops : Nat) : Packet := { vc := 1, dest := 1, phys := true, hops := hops }

theorem witness_PacketsAndFlaggedOrder :
    (let s : State := { fab := { transit := [(0, passing 6)] } }
     s.fab.transit.find? (fun e => e.2 == passing 6) = some (0, passing 6) ∧ s.fab.transit.find? (fun e => e.2 == passing 5) = none) ∧
    (let p := { passing 0 with source := 9 }
     let s := withLane { queue := [p] }
     (laneOf s 0).queue.contains p = true ∧ p.vc < 3 ∧ p.source ≠ myLogical s ∧ (passing 0).source = myLogical s) ∧
    (let s : State := { fab := { held := [{ p := passing 0, why := .noLane }], position := 1 } }
     s.fab.held.find? (fun h => h.p == passing 0) = some { p := passing 0, why := .noLane } ∧ destPos s (passing 0) = some s.fab.position) ∧
    (let p : Packet := { passing 0 with dest := 33 }
     let s : State := { fab := { lanes := [(0, { state := .up, far := 1, pools := [8, 8, 8, 8, 8] })], held := [{ p := p, why := .noLane }] } }
     s.fab.held.find? (fun h => h.p == p) = some { p := p, why := .noLane } ∧ destPos s p = some 33 ∧ (detourHop s p 33).isSome = true) ∧
    (let p : Packet := { passing 0 with vc := 3 }
     let s : State := { fab := { lanes := [(0, { state := .up, far := 1, pools := [8, 8, 8, 8, 8] })] } }
     p.vc = 3 ∧ destPos s p ≠ some s.fab.position ∧ (match chooseHop s p with | .ok _ => true | _ => false) = true) ∧
    ((msgFrom 7 (.orderSkip 3)).body = .msg (.orderSkip 3) ∧
     (let p := msgFrom 7 (.orderRetry 0)
      let q : Packet := { dest := 7, order := 0, flagged := true }
      let s : State := { fab := { flaggedSent := [q] } }
      p.body = .msg (.orderRetry 0) ∧ (takeIngress p s).fab.flaggedSent.find? (fun q => q.tag == p.tag && q.dest == p.source && q.order == 0) = some q)) ∧
    (({ fab := { orderResend := [passing 0] } } : State).fab.orderResend.contains (passing 0) = true ∧ SMap.wf 0 State.reset.fab.applied = true) := by
  refine ⟨by decide, by decide, by decide, by decide, by decide, by decide, by decide⟩

theorem witness_HopLimitDropsPackets :
    (let s : State := { fab := { transit := [(0, passing 7)] } }
     s.fab.transit.find? (fun e => e.2 == passing 7) = some (0, passing 7) ∧ (passing 7).hops = 7) ∧
    (let s : State := { fab := { transit := [(0, passing 6)] } }
     s.fab.transit.find? (fun e => e.2 == passing 6) = some (0, passing 6) ∧ (passing 6).hops < 7) ∧
    (let s : State := { fab := { position := 1 } }
     destPos s (passing 7) = some s.fab.position) := by decide

theorem witness_MulticastAndTree :
    (let p : Packet := { source := 1, body := .mem { extra := BitVec.ofNat 128 (2 ^ 64 + 2 ^ 32 + 1) } }
     let u := takeIngress p running
     (p.mcast && decide (p.mstage < 2)) = false ∧ ((maskSet u (BitVec.ofNat 64 (2 ^ 32 + 1)) 1).filter (fun d => d != p.source)).contains (myLogical u) = true) ∧
    (let p : Packet := { source := 1, mcast := true, mstage := 1, body := .mem {} }
     let u := takeIngress p running
     let v := sendStage p p.mstage (multicastSet u p) u
     (p.mcast && decide (p.mstage < 2)) = true ∧ ((maskSet u 0 0).filter (fun d => d != p.source)).contains (myLogical v) = false) ∧
    (let s : State := { fab := { position := 1, orphan := [(0, 1)] } }
     s.fab.mode = 1 ∧ tierCoord 0 s.fab.position ≠ tierCoord 0 s.fab.root ∧ SMap.get 0 s.fab.orphan 0 ≠ 0 ∧
     (let me := s.fab.position
      let i := (tierCoord 0 me + 32 - tierCoord 0 s.fab.root) % 32
      let parent := withCoord 0 me ((treeParent (tierPlanes 0) i + tierCoord 0 s.fab.root) % 32)
      let key := laneKey (tierBase 0 + uplinkPlane s 0) (lineTo 0 me parent)
      (laneOf s key).state ≠ .up ∧ (laneOf s key).state ≠ .marked ∧
      (laneOf { s with fab := { s.fab with lanes := [(key, { state := .marked })] } } key).state = .marked)) ∧
    ({ fab := { mode := 2 } } : State).fab.mode ≠ 1 ∧
    (let p := msgFrom 1 (.adopt 1 0 0)
     p.body = .msg (.adopt 1 0 0) ∧ 0 < tierPlanes 0 ∧
     ((portLanes (takeIngress p State.reset) (tierBase 0 + 0)).filter (fun e => e.2.named)).length < 8) ∧
    (let p := msgFrom 1 (.adopt 1 0 0)
     let s : State := { fab := { lanes := (List.range 8).map (fun i => (laneKey (tierBase 0) i, { named := true })) } }
     8 ≤ ((portLanes (takeIngress p s) (tierBase 0 + 0)).filter (fun e => e.2.named)).length) := by
  refine ⟨by decide, by decide, by decide, by decide, by decide, by decide⟩

/-- A device of one span with its scratchpad powered and a plan held. -/
def serving : State := poweredOn { running with run := { running.run with st := .hold } }

/-- A memory request of device 512 to this device. -/
def req (ty : Nat) (b : MemBody) : Packet := { vc := 1, ptype := ty, source := 512, body := .mem b }

theorem witness_RemoteRequestsServed :
    (let p := req 0x00 { len := 64 }
     let u := takeIngress p serving
     (hallAddr 0).space = 0 ∧ p.flagged = false ∧ downAt u (localForm u 0) = none ∧
     accessStage u srcRemote (localForm u 0) 64 1 false (remoteMay 0x00 (memOf p).op (memOf p).elem (hallAddr 0) 64) = none) ∧
    (let p := req 0x01 { data := [1, 2] }
     let u := takeIngress p serving
     downAt u (localForm u 0) = none ∧
     accessStage u srcRemote (localForm u 0) 2 1 true (remoteMay 0x01 (memOf p).op (memOf p).elem (hallAddr 0) 2) = none) ∧
    (let p := req 0x03 { op := 1, elem := 1 }
     let u := takeIngress p serving
     accessStage u srcRemote (localForm u 0) 8 8 true (remoteMay 0x03 1 1 (hallAddr 0) 8) = none) ∧
    (let p := req 0x04 { op := 1, elem := 1, data := List.replicate 8 1 }
     let u := takeIngress p serving
     (memOf p).data.length % elemBytes 1 = 0 ∧ accessStage u srcRemote (localForm u 0) 8 8 true (remoteMay 0x04 1 1 (hallAddr 0) 8) = none) ∧
    (let a : Word64 := BitVec.ofNat 64 (5 * 2 ^ 44)
     let p := req 0x01 { addr := BitVec.ofNat 64 (2 ^ 35), data := [1] }
     let u := takeIngress p serving
     (hallAddr (memOf p).addr).space = 0 ∧ a ≠ 0 ∧ downAt u (localForm u (memOf p).addr) = none ∧
     (accessStage u srcRemote (localForm u (memOf p).addr) 1 1 true (remoteMay 0x01 0 0 (hallAddr (memOf p).addr) 1)).isSome = true) ∧
    (let p := req 0x05 { addr := BitVec.ofNat 64 (3 * 2 ^ 44), operand := 1 }
     let s := { serving with tallies := [(0, { allocated := true })] }
     let u := takeIngress p s
     (hallAddr (memOf p).addr).space = 3 ∧ downAt u (localForm u (memOf p).addr) = none ∧
     accessStage u srcRemote (localForm u (memOf p).addr) 8 32 true true = none ∧ tallyOpen u 0 = true ∧ (memOf p).err = false ∧
     SMap.get 0 u.fab.skipMarked p.source = 0 ∧ SMap.wf 0 u.fab.skipMarked = true) := by
  refine ⟨by decide, by decide, by decide, by decide, by decide, by decide⟩

/-- A device with one request slot. -/
def withSlot (k : Slot) : State := { remote := { slots := [(3, k)] } }

/-- An answer of device 512 to slot 3, of a generation. -/
def answer (ty gen : Nat) : Packet := { vc := 3, ptype := ty, source := 512, tag := 3, gen := gen, body := .mem { slotGen := gen } }

theorem witness_ResponsesAndSlots :
    (freshAnswer State.reset (answer 0x10 1) = false ∧ (answer 0x12 1).tag ≠ 0xFFFF) ∧
    (let s := withSlot { busy := true, gen := 1, waiting := [512], use := .fox 0x2000 4 }
     freshAnswer s (answer 0x11 1) = true ∧ (slotOf (takeIngress (answer 0x11 1) s) 3).use = .fox 0x2000 4 ∧
     (slotOf (takeIngress (answer 0x11 1) s) 3).waiting = [(answer 0x11 1).source] ∧ (memOf (answer 0x11 1)).err = false ∧
     (slotOf s 3).busy = true ∧ (slotOf s 4).busy = false ∧ (3 : Nat) ≠ 0xFFFF) := by decide

theorem witness_ResponsesAndSlots_retry :
    (let k : Slot := { busy := true, gen := 1, waiting := [512], use := .hare 0x3000 7 0 64 }
     freshAnswer (withSlot k) (answer 0x10 1) = true ∧ k.use = .hare 0x3000 7 0 64 ∧ hareCanTake (withSlot k) 0x3000 7 0 64 = true) ∧
    (let k : Slot := { busy := true, gen := 1, waiting := [512], use := .pack 0x4000 }
     freshAnswer (withSlot k) (answer 0x58 1) = true ∧ (answer 0x58 1).tag ≠ 0xFFFF ∧ (slotOf (takeIngress (answer 0x58 1) (withSlot k)) 3).use = .pack 0x4000) ∧
    ({ answer 0x58 1 with tag := 0xFFFF } : Packet).tag = 0xFFFF ∧ (l1Of State.reset 0x2000 0).retry = false ∧
    (l1Of { sett := { l1 := [(0x2000, [(0, { retry := true })])] } } 0x2000 0).retry = true := by decide

theorem witness_CombiningOrderOfAtomics : (1 : Nat) ∈ [1, 2, 3, 4, 5, 6, 8, 9] ∧ atomOk 1 1 = true ∧ [1, 2].Perm [2, 1] :=
  ⟨by decide, by decide, List.Perm.swap 2 1 []⟩

/-- A coherence request of core 0x2001 of this device for line 0 of its core store. -/
def coh (ty : Nat) (core : Nat) : Packet := { vc := 0, ptype := ty, body := .mem { addr := BitVec.ofNat 64 (2 * 2 ^ 44), core := core } }

/-- A device whose directory holds line 0 in an entry. -/
def withDir (d : Dir) : State := poweredOn { sett := { dir := [(0, d)] } }

theorem witness_HomeDirectory :
    (let p := coh 0x40 0x2001
     let u := takeIngress p (poweredOn {})
     cohHomed p = true ∧ domDown u (lineDie (packetLine p)) = false ∧ dirStable (dirOf u (packetLine p)) = true ∧
     (dirOf u (packetLine p)).state = .inv ∧ (dirOf u (packetLine p)).wait = []) ∧
    (let p := coh 0x40 0x2001
     let u := takeIngress p (withDir { state := .bSnp })
     dirStable (dirOf u (packetLine p)) = false ∧ sliceWait u (packetLine p) < 64) ∧
    (let p := coh 0x40 0x2001
     let u := takeIngress p (withDir { state := .bSnp, wait := List.replicate 64 (.recall true) })
     dirStable (dirOf u (packetLine p)) = false ∧ 64 ≤ sliceWait u (packetLine p)) ∧
    (dirOf (withDir { state := .shared, sharers := 1 }) 0).state = .shared ∧
    (let p := coh 0x44 0x2001
     let u := takeIngress p (withDir { state := .em, owner := senderCode p })
     (dirOf u 0).owner = senderCode p ∧ (dirOf u 0).state = .em ∧ (dirOf u 0).wait = [] ∧ (dirOf u 0).owner ≠ senderCode (coh 0x44 0x2002)) ∧
    (let p := coh 0x53 0x2001
     let u := takeIngress p (withDir { state := .bSnp, owner := senderCode p, put := some p })
     (dirOf u 0).state = .bSnp ∧ (dirOf u 0).owner = senderCode p ∧ (memOf p).err = false ∧ (memOf p).poison = false ∧ (dirOf u 0).put = some p) ∧
    (let p := coh 0x56 0x2001
     let u := takeIngress p (withDir { state := .bSnp, owner := senderCode p })
     (dirOf u 0).state = .bSnp ∧ (dirOf u 0).owner = senderCode p ∧ (dirOf u 0).put = none) ∧
    (let p := coh 0x55 0x2001
     let u := takeIngress p (withDir { state := .bInv, acks := [0] })
     (dirOf u 0).state = .bInv ∧ (dirOf u 0).acks = [p.source]) := by
  refine ⟨by decide, by decide, by decide, by decide, by decide, by decide, by decide, by decide⟩

/-- A device whose core 0x2001 holds line 0 of its own core store in a state. -/
def withL1 (st : L1State) : State := { sett := { l1 := [(0x2001, [(0, { state := st, data := List.replicate 64 0 })])] } }

theorem witness_L1Coherence :
    (let p := coh 0x48 0x2001
     (l1Of (withL1 .excl) 0x2001 (grantKey (withL1 .excl) p)).state = .excl ∧ (l1Of State.reset 0x2001 (grantKey State.reset p)).state = .inv ∧
     (l1Of (withL1 .smG) 0x2001 (grantKey (withL1 .smG) p)).state = .smG) ∧
    (let p := coh 0x50 0x2001
     let v := takeIngress p (withL1 .isD)
     grantFresh v p = true ∧ (l1Of (withL1 .isD) 0x2001 (grantKey (withL1 .isD) p)).state ≠ .isDI) ∧
    (let p := coh 0x59 0x2001
     grantFresh (takeIngress p (withL1 .excl)) p = false) ∧
    (let p := coh 0x54 0x2001
     let u := takeIngress p (withL1 .miA)
     grantFresh u p = true ∧ l1Leaving (l1Of (l1CloseSlot u p (grantKey (withL1 .miA) p)) 0x2001 (grantKey (withL1 .miA) p)) = true) := by
  refine ⟨by decide, by decide, by decide, by decide⟩

/-- A leaving line of another device's core store, its slot gone. -/
theorem witness_L1Coherence_late :
    let p : Packet := { coh 0x54 0x2001 with body := .mem { addr := mkHall 1 2 0, core := 0x2001 } }
    let s : State := { sett := { l1 := [(0x2001, [(l1Key 1 0, { state := .eiA })])] } }
    let u := takeIngress p s
    grantFresh u p = false ∧ l1Leaving (l1Of s 0x2001 (grantKey s p)) = true := by decide

/-- A pack unit in a plan, with its collective. -/
def packWith (k : Pack) : State := let s := heldAt 0x4000 0x80; { s with units := { pack := [(0x4000, k)] } }

set_option maxRecDepth 20000 in
theorem witness_Collectives :
    (issueOf (packWith { coll := some {} }) 0x4000 [0x80] = some 0x80 ∧ (packOf (packWith { coll := some {} }) 0x4000).coll.isSome = true) ∧
    (let s := packWith {}
     let r := resolveColl s 0x4000 0x80
     issueOf s 0x4000 [0x80] = some 0x80 ∧ (packOf s 0x4000).coll = none ∧ r.1.need ≤ r.2) ∧
    (let p : Packet := { ptype := 0x30, body := .coll { die := 0, seq := 5, digest := 7, stage := 3 } }
     let s := packWith { coll := some { seq := 5, digest := 7 } }
     p.mcast = false ∧ (packOf s (engId 4 0 0)).coll = some { seq := 5, digest := 7 } ∧ p.body = .coll { die := 0, seq := 5, digest := 7, stage := 3 } ∧
     (5 : Nat) < 6 ∧ (7 : Nat) ≠ 8) := by
  refine ⟨by decide, by decide, by decide⟩

set_option maxRecDepth 20000 in
theorem witness_Collectives_chunk :
    (let c : Coll := { count := 16, kind := 0 }
     let s := packWith { coll := some c }
     (packOf s 0x4000).coll = some c ∧ c.kind < 2 ∧ c.stage < 3 ∧ 0 < c.chunks (myLogical s) ∧ c.summed.contains 0 = false ∧ c.m c.stage ≤ 1) ∧
    (let c : Coll := { count := 16, kind := 0, summed := [0] }
     (packOf (packWith { coll := some c }) 0x4000).coll = some c ∧ c.summed.contains 0 = true ∧ c.complete 0 = false) := by
  refine ⟨by decide, by decide⟩

theorem witness_CollectivePiecesPartition : 0 < 3 ∧ (splitPiece 0 100 3 1).2 ≠ 0 := by decide

theorem witness_CollMismatchAnswersErr :
    let p : Packet := { ptype := 0x30, body := .coll { die := 0, seq := 5, digest := 7, stage := 3 } }
    let s := packWith { coll := some { seq := 5, digest := 8 } }
    p.body = .coll { die := 0, seq := 5, digest := 7, stage := 3 } ∧ p.mcast = false ∧
    (packOf (takeIngress p s) (engId 4 0 0)).coll = some { seq := 5, digest := 8 } ∧ (7 : Nat) ≠ 8 ∧
    (packOf (takeIngress p (packWith { coll := some { seq := 6 } })) (engId 4 0 0)).coll = some { seq := 6 } ∧ (5 : Nat) < 6 ∧
    (packOf (takeIngress p (packWith { next := 6 })) (engId 4 0 0)).coll = none ∧ 5 < (packOf (takeIngress p (packWith { next := 6 })) (engId 4 0 0)).next := by
  decide

/-- A pack unit whose collective has a group of two devices and no work area. -/
theorem witness_Collectives_short :
    (let s := withParams [0, 0, 0x1200000010, 0, 0, 1, 0, 0, 0x100000001, 3] (heldAt 0x4000 0x80)
     let r := resolveColl s 0x4000 0x80
     issueOf s 0x4000 [0x80] = some 0x80 ∧ (packOf s 0x4000).coll = none ∧ r.2 < r.1.need) ∧
    ({ stage := 7 } : Coll).complete 0 = true := by decide

/-- The plan of span2 with epochs, run by the device at a position. -/
def epochAt (pos : Nat) (ep : Epoch) : State :=
  let pl := { span2 with epoch := some { hoardBase := 0, hoardSize := 2 ^ 30, lag := 0, epochs := 0, swap := true } }
  { fab := { fab2 with position := pos }, run := { st := .run, me := some pos, plan := some pl }, epoch := ep }

theorem witness_EpochMirrorAndArrivals_arrive :
    (let s := epochAt 0 {}
     let p := msgFrom 512 (.arrive 0 [(512, {})])
     let u := takeIngress p s
     nextCommit s < 1 ∧ msgOf p = some (.arrive 0 [(512, {})]) ∧ 0 ≤ nextCommit s ∧ 0 = nextCommit u ∧ ours p u = true ∧
     ours (msgFrom 7 (.arrive 0 [])) u = false ∧
     allIn (gatherFor { u with epoch := { u.epoch with arrivals := mergeTimes u.epoch.arrivals [(512, {})] } }).1
       ((mergeTimes u.epoch.arrivals [(512, {})]).map (·.1)) = false) ∧
    (let s := epochAt 0 { arrivals := [(0, {})] }
     let p := msgFrom 512 (.arrive 0 [(512, {})])
     let u := takeIngress p s
     let g := gatherFor { u with epoch := { u.epoch with arrivals := mergeTimes u.epoch.arrivals [(512, {})] } }
     allIn g.1 ((mergeTimes u.epoch.arrivals [(512, {})]).map (·.1)) = true ∧ allIn g.1 (u.epoch.arrivals.map (·.1)) = false ∧ g.2 = none) ∧
    (let s := epochAt 512 {}
     let p := msgFrom 512 (.arrive 0 [(512, {})])
     let u := takeIngress p s
     let v := { u with epoch := { u.epoch with arrivals := mergeTimes u.epoch.arrivals [(512, {})] } }
     allIn (gatherFor v).1 ((mergeTimes u.epoch.arrivals [(512, {})]).map (·.1)) = true ∧ allIn (gatherFor v).1 (u.epoch.arrivals.map (·.1)) = false ∧
     (gatherFor v).2 = some 0 ∧ rowGatherer v (posRow v.fab.position) ≠ some v.fab.position ∧ ours p u = true) := by
  refine ⟨by decide, by decide, by decide⟩

theorem witness_EpochMirrorAndArrivals :
    (let s := epochAt 512 { stage := .arrived }
     let p := msgFrom 0 (.mirror 0)
     let v := relayMsg p (takeIngress p s)
     msgOf p = some (.mirror 0) ∧ nextCommit s < 1 ∧ epochMember v = true ∧ ours p v = true ∧ 0 = nextCommit v ∧ v.epoch.stage = .arrived) ∧
    ((mySections (epochAt 0 {})).shards = [] ∧ (epochAt 0 {}).run.st ≠ .hold) ∧
    (let p : Packet := { ptype := 0x70, source := 16384, body := .mem { data := [1] } }
     (memOf p).op = 0 ∧ hoardOf (takeIngress p running) p.phys = none ∧ hoardOf (takeIngress p (epochAt 0 {})) p.phys = some (0, 2 ^ 30) ∧
     fromPartner { p with source := 7 } (takeIngress p (epochAt 0 {})) = false ∧ fromPartner p (takeIngress p (epochAt 0 {})) = true ∧
     hoardHalfOk p (0 / max 1 (2 ^ 30 / 2)) (takeIngress p (epochAt 0 {})) = true) ∧
    (let p : Packet := { ptype := 0x71, source := 512, body := .mem { op := 1, data := [1] } }
     (memOf p).op ≠ 0 ∧ awaitsCopy (takeIngress p (epochAt 0 { swaps := [{ logical := 512, spare := 0 }] })) = true ∧
     awaitsCopy (takeIngress p (epochAt 0 {})) = false) ∧
    (let p := msgFrom 512 (.sealed 0 64)
     msgOf p = some (.sealed 0 64) ∧ (takeIngress p (epochAt 0 { stage := .mirroring })).epoch.stage = .mirroring ∧
     0 = nextCommit (takeIngress p (epochAt 0 { stage := .mirroring })) ∧ (takeIngress p (epochAt 0 {})).epoch.stage ≠ .mirroring) ∧
    (let p := msgFrom 512 (.ready 0 [512])
     let u := takeIngress p (epochAt 512 {})
     let v := { u with epoch := { u.epoch with readies := [512] } }
     msgOf p = some (.ready 0 [512]) ∧ ours p u = true ∧ allIn (gatherFor v).1 [512] = true ∧ allIn (gatherFor v).1 u.epoch.readies = false ∧
     (gatherFor v).2 = some 0 ∧ allIn (gatherFor (takeIngress p (epochAt 0 {}))).1 [512] = false) := by
  refine ⟨by decide, by decide, by decide, by decide, by decide, by decide⟩

/-- Cells of some bytes from an address on. -/
def cellsOf (b : Nat) (l : List Byte) : Memory := ((List.zip (List.range l.length) l).filter (fun x => x.2 != 0)).map (fun x => (b + x.1, x.2))

/-- A spare that has received the whole copy of device 512's state, its identity to be taken up. -/
def spareWithCopy : State :=
  let s := epochAt 1 { swaps := [{ logical := 512, spare := 1 }], got := recordSize }
  let h := recordHeader { s with run := { s.run with me := some 512 } } 0 0 0
  { s with run := { s.run with me := none }, epoch := { s.epoch with incoming := cellsOf 0 h } }

set_option maxRecDepth 40000 in
theorem witness_EpochCommitAndKeep :
    (let p : Packet := { msgFrom 0 (.commit 0 {} []) with phys := false }
     let u := takeIngress p (epochAt 512 {})
     msgOf p = some (.commit 0 {} []) ∧ p.phys = false ∧ epochMember u = true ∧ 0 = nextCommit u ∧ (1 : Nat) ≠ nextCommit u) ∧
    (let p := msgFrom 0 (.commit 0 {} [])
     let v := relayMsg p (takeIngress p (epochAt 512 { stage := .ready }))
     p.phys = true ∧ ours p v = true ∧ epochMember v = true ∧ 0 = nextCommit v ∧ v.epoch.stage = .ready) ∧
    (let p := msgFrom 512 (.commitAck 0)
     let u := takeIngress p (epochAt 0 { commitSent := true })
     msgOf p = some (.commitAck 0) ∧ u.epoch.commitSent = true ∧ 0 = nextCommit u ∧ (commitEffective 0 u).hub.starter = none ∧
     (takeIngress p (epochAt 0 {})).epoch.commitSent = false) ∧
    (let p := msgFrom 512 (.commitAck 0)
     let u := takeIngress p { epochAt 0 { commitSent := true } with hub := { starter := some { queue := 0, cmdId := 0 } } }
     u.epoch.commitSent = true ∧ (commitEffective 0 u).hub.starter = some { queue := 0, cmdId := 0 }) ∧
    ((epochAt 0 { stage := .keep }).epoch.stage = .keep ∧ (epochAt 0 { stage := .keep }).epoch.keepValid = false ∧
     (epochAt 0 {}).epoch.stage ≠ .keep) := by
  refine ⟨by decide, by decide, by decide, by decide, by decide⟩

theorem witness_EpochCommitAndKeep_swaps :
    (writeKeep (epochAt 0 { stage := .keep })).epoch.swaps = [] ∧
    (writeKeep (epochAt 0 { stage := .keep, swaps := [{ logical := 512, spare := 1 }] })).epoch.swaps =
      [{ logical := 512, spare := 1 }] := ⟨rfl, rfl⟩

set_option maxRecDepth 40000 in
theorem witness_EpochCommitAndKeep_copy :
    let s := spareWithCopy
    s.epoch.swaps.find? (fun w => w.spare == s.fab.position) = some { logical := 512, spare := 1 } ∧ s.run.me = none ∧ s.epoch.got ≠ 0 ∧
    s.epoch.got = copyField s.epoch.incoming 0 0x18 8 ∧
    headerOk s.epoch.incoming 0 (copyField s.epoch.incoming 0 0x08 8) (placePlan { s with run := { s.run with me := some 512 } }) = true ∧
    headerOk s.epoch.incoming 0 1 (placePlan { s with run := { s.run with me := some 512 } }) = false ∧
    (placePlan { s with run := { s.run with me := some 512 } }).epoch.incomingBad = [] := by decide

theorem witness_FaultsStopsAndLiveness :
    (let p : Packet := { msgFrom 512 (.fault 0x9011 0 false) with phys := false }
     let u := takeIngress p (epochAt 0 {})
     msgOf p = some (.fault 0x9011 0 false) ∧ planRuns u = true ∧ fromMember p u = true ∧ (epochRec u).isSome = true ∧ (0x9011 : Nat) ≠ 0xA00A ∧
     epochRec (takeIngress p running) = none ∧ fromMember p (takeIngress p running) = true ∧ planRuns (takeIngress p running) = true) ∧
    (let p := msgFrom 0 (.stop 2)
     let v := relayMsg p (takeIngress p (epochAt 512 {}))
     msgOf p = some (.stop 2) ∧ ours p v = true ∧ v.run.st = .run) ∧
    (let p := msgFrom 512 (.stopReq true)
     let u := takeIngress p (epochAt 0 {})
     msgOf p = some (.stopReq true) ∧ fromMember p u = true ∧ isCoordinator u = true ∧ u.run.st ≠ .waiting ∧
     isCoordinator (takeIngress p (epochAt 512 {})) = false) ∧
    (let p := msgFrom 0 (.suspect 512)
     let u := takeIngress p (epochAt 0 {})
     msgOf p = some (.suspect 512) ∧ physOf u 512 = some 512 ∧ planRuns u = true ∧ fromMember p u = true ∧
     u.epoch.confirming.any (fun e => e.1 == 512) = false ∧ physOf u 7 = none) ∧
    (let p := msgFrom 512 (.probeAck 1)
     msgOf (msgFrom 512 (.probe 1)) = some (.probe 1) ∧ msgOf p = some (.probeAck 1) ∧ posActive (takeIngress p (epochAt 0 {})) p.source = true) ∧
    (spanRuns State.reset = false ∧ spanRuns (epochAt 0 {}) = true ∧ (epochAt 0 {}).epoch.confirming = [] ∧
     (let s := epochAt 0 { confirming := [(512, 3)] }
      spanRuns s = true ∧ s.epoch.confirming ≠ [] ∧ SMap.get 0 s.epoch.confirming 512 ≠ 0 ∧ physOf s 512 = some 512 ∧
      3 ≤ SMap.get 0 s.epoch.confirming 512 ∧ SMap.get 0 (epochAt 0 { confirming := [(512, 1)] }).epoch.confirming 512 < 3)) := by
  refine ⟨by decide, by decide, by decide, by decide, by decide, by decide⟩

/-- A device whose keep holds the record of commit 0, rolled back to it. -/
def keptAt (ep : Epoch) : State :=
  let s := epochAt 0 ep
  { s with mem := { hbm := cellsOf (keepBase s) (recordHeader s 0 0 0) } }

/-- A plan whose devices have shards. -/
def withShards (l : List Shard) (s : State) : State :=
  { s with run := { s.run with plan := s.run.plan.map (fun p => { p with devs := [(0xFFFF, { shards := l })] }) } }

/-- A spare named in the lost list that has received the copy of its new identity. -/
def spareRestoring (shards : List Shard) (inc : Bool) : State :=
  let s := epochAt 1 { stage := .rollback, lostList := [{ logical := 512, physical := 512, spare := some 1 }], got := 2 ^ 25 }
  let s := withShards shards { s with run := { s.run with me := some 512 } }
  { s with epoch := { s.epoch with incoming := if inc then cellsOf 0 (recordHeader s 0 0 0) else [] } }

set_option maxRecDepth 40000 in
theorem witness_RollbackAndRestart_restore :
    (let s := epochAt 0 { stage := .rollback, noCopy := true }
     s.epoch.stage = .rollback ∧ s.epoch.restored = false ∧ s.epoch.placed = false ∧ s.run.me.isSome = true ∧
     s.epoch.xfers.any (fun x => !x.phys && decide (x.acked < x.size)) = false ∧ s.epoch.noCopy = true ∧ (epochAt 0 {}).epoch.stage ≠ .rollback) ∧
    (let s := spareRestoring [] false
     s.epoch.lostList.any (fun l => l.spare == some s.fab.position) = true ∧ (mySections s).shards = [] ∧ s.epoch.noCopy = false ∧
     s.epoch.stage = .rollback ∧ s.run.me.isSome = true) ∧
    (let x : Shard := { space := 0, off := 0, size := 4096 }
     let s := spareRestoring [x] true
     (mySections s).shards ≠ [] ∧ copySize s ≤ s.epoch.got ∧ headerOk s.epoch.incoming 0 s.epoch.target s = true ∧ s.epoch.incomingBad = [] ∧
     headerOk (spareRestoring [x] false).epoch.incoming 0 0 (spareRestoring [x] false) = false) ∧
    (let s := keptAt { stage := .rollback }
     s.epoch.lostList.any (fun l => l.spare == some s.fab.position) = false ∧ keepBad s = [] ∧
     headerOk s.mem.hbm (keepBase s) s.epoch.target s = true ∧ headerOk s.mem.hbm (keepBase s) 1 s = false) ∧
    (let s := withShards [{ space := 0, off := 0, size := 4096 }] { epochAt 0 { stage := .rollback, inSpan := true } with mem := { hbmPoison := [2 ^ 24] } }
     keepBad s ≠ [] ∧ fetching s = false ∧ partnerHolds s = true ∧ partnerHolds { s with epoch := { s.epoch with lost := true } } = false) := by
  refine ⟨by decide, by decide, by decide, by decide, by decide⟩

set_option maxRecDepth 40000 in
theorem witness_RollbackAndRestart_tests :
    (let s : State := { mem := { hbmPoison := [0] } }
     (testLines [] s).2 = none ∧ (testLines [{ space := 1, addr := 0, repaired := false }] s).2 = some .hbm) ∧
    ((epochAt 0 { stage := .rollback }).epoch.placed = false ∧ recalling (restartRecal (epochAt 0 { stage := .rollback })) = false) ∧
    (let s : State := { epochAt 0 { stage := .rollback } with units := { ppe := [(0, { mesh := .recal })] } }
     recalling (restartRecal s) = true) := by
  refine ⟨by decide, by decide, by decide⟩

theorem witness_RollbackAndRestart :
    (let p := msgFrom 0 (.rollback 0 1 [] 0 [])
     let u := relayMsg p (takeIngress p (epochAt 512 {}))
     msgOf p = some (.rollback 0 1 [] 0 []) ∧ ours p u = true ∧ u.epoch.serial < 1 ∧ u.run.st = .run ∧
     ours (msgFrom 7 (.rollback 0 1 [] 0 [])) u = false ∧ 0 ≤ u.epoch.serial) ∧
    (let p := msgFrom 512 (.restored 1 [512])
     let u := takeIngress p (epochAt 0 { serial := 1, restoreds := [0] })
     let w := { u with epoch := { u.epoch with restoreds := [0, 512] } }
     msgOf p = some (.restored 1 [512]) ∧ 1 = u.epoch.serial ∧ ours p u = true ∧ u.epoch.swaps = [] ∧ allIn (gatherFor w).1 [0, 512] = true ∧
     allIn (gatherFor w).1 u.epoch.restoreds = false ∧ (gatherFor w).2 = none ∧ u.epoch.lostSent.any (fun l => l.spare.isNone) = false ∧
     [512].foldl (fun acc d => insertNat d acc) u.epoch.restoreds = [0, 512] ∧
     allIn (gatherFor w).1 ([512].foldl (fun acc d => insertNat d acc) []) = false ∧ (epochAt 0 {}).epoch.serial < 1) ∧
    (let p := msgFrom 0 (.restart {})
     let v := relayMsg p (takeIngress p (epochAt 512 { stage := .rollback }))
     msgOf p = some (.restart {}) ∧ ours p v = true ∧ v.epoch.stage = .rollback ∧ v.epoch.swaps = [] ∧ v.run.me = some 512) ∧
    (let s := epochAt 1 { stage := .rollback }
     let s := { s with run := { s.run with me := none } }
     let p := msgFrom 0 (.restart {})
     let v := relayMsg p (takeIngress p s)
     ours p v = true ∧ v.run.me = none) ∧
    ((epochAt 0 {}).epoch.restartAt = none ∧ (epochAt 0 { restartAt := some {}, restored := true }).epoch.restartAt = some {} ∧
     (epochAt 0 { restartAt := some {}, swaps := [{ logical := 0, spare := 1 }], keepValid := true }).epoch.swaps ≠ []) ∧
    (let s := epochAt 0 { lostSent := [{ logical := 512, physical := 512, spare := none }] }
     let s := { s with run := { s.run with st := .waiting }, fab := { s.fab with ctl := { s.fab.ctl with
       roster := [(0, { logical := 0, role := 1 }), (512, { logical := 512, role := 1 }), (513, { logical := 0, role := 2 })] } } }
     let l := logEvent 0xA009 srcDevice [] s
     s.run.st = .waiting ∧ (epochAt 0 {}).run.st ≠ .waiting ∧ isCoordinator l = true ∧
     l.epoch.lostSent.any (fun l' => l'.spare.isNone && (freeSpare l [] l'.physical).isSome) = true ∧
     isCoordinator (logEvent 0xA009 srcDevice [] { s with run := { s.run with me := some 512 } }) = false) := by
  refine ⟨by decide, by decide, by decide, by decide, by decide, by decide⟩

/-- A device at position 1 in the tree of the master at position 0, its parent known. -/
def childOf (ex : Exchange) : State := { fab := { position := 1 }, time := { parent := some 0, ex := ex } }

theorem witness_HallTimeRules :
    (parentOfPos State.reset 1 = some State.reset.fab.position ∧ (1 : Nat) < 32768 ∧ parentOfPos State.reset 0 ≠ some State.reset.fab.position) ∧
    (let p := msgFrom 0 (.sync 7 1 0)
     p.body = .msg (.sync 7 1 0) ∧ fromParent (refreshParent (takeIngress p (childOf {}))) p = true ∧
     fromParent (refreshParent (takeIngress { p with source := 9 } (childOf {}))) { p with source := 9 } = false) ∧
    (let p := msgFrom 0 (.follow {} 7 1 0)
     let u := refreshParent (takeIngress p (childOf { seq := 7, t2 := some {} }))
     p.body = .msg (.follow {} 7 1 0) ∧ fromParent u p = true ∧ u.time.ex.seq = 7 ∧ u.time.ex.t2 = some {}) ∧
    (let p := msgFrom 0 (.delayResp {} 7 1 0)
     let u := refreshParent (takeIngress p (childOf { reqSeq := 7, t1 := some {}, t2 := some {}, t3 := some {} }))
     p.body = .msg (.delayResp {} 7 1 0) ∧ u.time.ex.t1 = some {} ∧ u.time.ex.t2 = some {} ∧ u.time.ex.t3 = some {} ∧ fromParent u p = true ∧
     u.time.ex.reqSeq = 7 ∧ u.time.ex.bad = false ∧ bit 0 0 = false ∧ ((fine {} : Int) - fine {} + ((fine {} : Int) - fine {})) / 2 ≤ 2500 * 65536 ∧
     (2500 * 65536 : Int) < ((fine { sec := 1 } : Int) - fine {} + ((fine {} : Int) - fine {})) / 2) ∧
    (let p := msgFrom 0 (.announce 0 1 0)
     p.body = .msg (.announce 0 1 0) ∧ fromParent (refreshParent (takeIngress p (childOf {}))) p = true ∧
     (msgFrom 1 (.delayReq 0 1 0)).body = .msg (.delayReq 0 1 0)) ∧
    (let p := msgFrom 0 (.masterTake {} 1 0)
     p.body = .msg (.masterTake {} 1 0) ∧ (relayMsg p (takeIngress p (childOf {}))).time.backupActive = false ∧
     (relayMsg p (takeIngress p { time := { backupActive := true } })).time.backupActive = true) ∧
    (let s : State := { time := { ctl := { backupEnable := true } } }
     s.time.ctl.backupEnable = true ∧ s.time.backupActive = false ∧ s.fab.position = s.time.ctl.backup ∧ State.reset.time.ctl.backupEnable = false) ∧
    (isMaster { fab := { position := 1 }, time := { st := .locked } } = false ∧ isMaster { time := { st := .locked } } = true ∧
     State.reset.time.st = .acquiring ∧ offsetBoundPs State.reset < (2001 : Int).natAbs ∧ State.reset.time.offsetPs.natAbs ≤ offsetBoundPs State.reset ∧
     (let s : State := { time := { st := .locked, offsetPs := -2001 } }
      s.time.st = .locked ∧ offsetBoundPs s < s.time.offsetPs.natAbs) ∧ State.reset.time.ctl.limitMin ≠ 0 ∧ ({ time := { st := .holdover } } : State).time.st = .holdover ∧
     ({ time := { ctl := { limitMin := 0 } } } : State).time.ctl.limitMin = 0) ∧
    (let s : State := { time := { hall := { sec := 5, ns := 1 }, pulsed := some 4, st := .locked } }
     s.time.stepDue = none ∧ s.time.hall.ns ≠ 0 ∧ s.time.pulsed = some 4 ∧ 4 < s.time.hall.sec ∧ s.time.st = .locked ∧ s.time.hold = false ∧
     ({ time := { hall := { sec := 5 }, pulsed := some 5 } } : State).time.hall.sec ≤ 5) ∧
    (let s : State := { time := { st := .locked, ppsOk := true, ppsRun := 2, ctl := { usePps := true } } }
     isMaster (ppsGood s) = true ∧ (ppsGood s).time.ctl.usePps = true ∧ (ppsGood s).time.ppsOk = true ∧ (ppsGood s).time.st = .locked ∧
     s.time.ppsRun = 2 ∧ s.time.ppsLost = false ∧ s.time.ppsOk = true ∧ s.time.refOk = false ∧ isMaster (ppsGood (childOf {})) = false ∧
     ({ time := { refOk := true } } : State).time.refOk = true) := by
  refine ⟨by decide, by decide, by decide, by decide, by decide, by decide, by decide, by decide, by decide, by decide⟩

/-- A device whose first rail is in a state. -/
def withRail (x : Rail) : State := { power := { rails := x :: State.reset.power.rails.tail } }

theorem witness_RailChanges :
    (6 < State.reset.power.rails.length ∧ (railOf (withRail { request := 750, change := some .written }) 0).change = some .written ∧
     (railOf State.reset 0).change ≠ some .written) ∧
    (let x := railOf (withRail { request := 750, change := some .reading }) 0
     x.change = some .reading ∧ farMv 760 x.request ≤ 10 ∧ 10 < farMv 761 x.request) ∧
    ((railOf State.reset 0).change = none ∧ (railOf (withRail { change := some .retry }) 0).change = some .retry ∧ HostServed up) ∧
    (let x := railOf (withRail { fails := 2, gap := 5 }) 0
     x.gap ≤ 5 ∧ x.fails = 2 ∧ (railOf State.reset 0).fails < 2) := by
  refine ⟨by decide, by decide, by decide, by decide⟩

/-- A device with the rate record of its first compute die. -/
def withRate (d : DieRate) (st : PowerSt) : State := { hub := { ready := true }, power := { st := st, rates := [(0, d)] } }

theorem witness_PowerRules :
    ((withRate {} .watch).power.st = .watch ∧ (withRate {} .hold).power.st = .hold ∧ (withRate {} .hold).hub.ready = true ∧ PowerSt.run ≠ .watch) ∧
    (let s := withRate { fast := 10 } .run
     let t := dieTarget s 0
     dieTarget (withRate { canary := t, fast := 10 } .run) 0 ≤ (rateOf (withRate { canary := t, fast := 10 } .run) 0).canary ∧
     10 ≤ (rateOf s 0).fast ∧ 100 * (rateOf s 0).canary < 97 * t ∧ (rateOf (withRate { canary := t } .run) 0).fast < 10 ∧
     97 * dieTarget (withRate { canary := t - 1 } .run) 0 ≤ 100 * (rateOf (withRate { canary := t - 1 } .run) 0).canary ∧
     (rateOf (withRate { canary := t - 1 } .run) 0).canary < dieTarget (withRate { canary := t - 1 } .run) 0) ∧
    ((railOf (withRail { change := some .written }) 0).change.isSome = true ∧ (railOf (withRail { faulted := true }) 0).faulted = true) ∧
    (State.reset.power.samples.length < 9 ∧ 9 ≤ (List.replicate 9 0).length ∧
     (let s : State := { power := { avgW := 65535 } }
      capInForce s < s.power.avgW)) ∧
    ((40 : Nat) ≤ 40 ∧ (40 : Nat) < 41 ∧ (50 : Nat) ≤ 50 ∧ (7 : Nat) < 8 ∧ (500 : Nat) ≤ 500 ∧ (499 : Nat) < 500 ∧ (5000 : Nat) < 5001) := by
  refine ⟨by decide, by decide, by decide, by decide, by decide⟩

/-- A command waits and domain 8 is in a state. -/
def withDom (st : DomSt) (adm : Bool) : State := { queued with power := { domains := [(0, { st := .on }), (8, { st := st, adminOff := adm })] } }

theorem witness_PowerDomains :
    (cmdDue (withDom .off false) 0 = true ∧ (8 : Nat) < 24 ∧ (domOf (takeCmd 0 0 (withDom .off false)) 8).st = .off ∧
     (domOf (takeCmd 0 0 (withDom .off false)) 8).adminOff = false ∧ (domOf (takeCmd 0 0 (withDom .off false)) (8 % 8)).adminOff = false) ∧
    (let t := takeCmd 0 0 (withDom .on false)
     (domOf t 8).st = .on ∧ (domTree 8).any (domUsed t) = false ∧ (domOf (takeCmd 0 0 (withDom .on true)) 8).adminOff = true) ∧
    (let s := { withDom .on false with run := { running.run with st := .hold } }
     let s := { s with run := { s.run with plan := s.run.plan.map (fun p => { p with regions := [{ base := 0, size := 2 ^ 26, code := 0 }] }) } }
     let t := takeCmd 0 0 s
     cmdDue s 0 = true ∧ (domOf t 8).st = .on ∧ (domTree 8).any (domUsed t) = true ∧ planRuns t = false) ∧
    ((domOf (takeCmd 0 0 (withDom .failed false)) 8).st = .failed ∧ (domOf (takeCmd 0 0 (withDom .draining false)) 8).st = .draining ∧
     (let s := { withDom .on false with run := running.run }
      let s := { s with run := { s.run with plan := s.run.plan.map (fun p => { p with regions := [{ base := 0, size := 2 ^ 26, code := 0 }] }) } }
      let t := takeCmd 0 0 s
      (domOf t 8).st = .on ∧ (domTree 8).any (domUsed t) = true ∧ planRuns t = true) ∧
     (let s := { withDom .on false with run := { running.run with st := .hold } }
      let s := { s with run := { s.run with plan := s.run.plan.map (fun p => { p with regions := [{ base := 0, size := 2 ^ 26, code := 0 }] }) } }
      (domTree 8).any (domUsed (takeCmd 0 0 s)) = true ∧ (takeCmd 0 0 s).run.st = .hold) ∧
     (let s := { withDom .on false with run := { running.run with st := .ended } }
      let s := { s with run := { s.run with plan := s.run.plan.map (fun p => { p with regions := [{ base := 0, size := 2 ^ 26, code := 0 }] }) } }
      (domTree 8).any (domUsed (takeCmd 0 0 s)) = true ∧ planRuns (takeCmd 0 0 s) = false ∧ (takeCmd 0 0 s).run.st ≠ .hold)) ∧
    (let s := withDom .draining false
     (domOf s 8).st = .draining ∧ ((domTree 8).filter (· ≠ 8)).any (fun i => decide ((domOf s i).st = .draining)) = false ∧
     (domOf s 8).upPending = false ∧ (domOf s 0).st ≠ .draining) ∧
    (let s := withDom .waking false
     (domOf s 8).st = .waking ∧ (domOf s (8 % 8)).st ≠ .waking ∧ canRise s 8 = true ∧ (domOf s 0).st ≠ .waking) := by
  refine ⟨by decide, by decide, by decide, by decide, by decide, by decide⟩

theorem witness_PowerOffForgetsTheDie : State.reset.mem.sp.wf = true ∧ State.reset.mem.cs.wf = true ∧
    2 ^ 32 * 7 ≤ 2 ^ 35 - 1 ∧ 2 ^ 35 - 1 < 2 ^ 32 * 7 + 2 ^ 32 ∧ 2 ^ 26 * 7 ≤ 2 ^ 29 - 1 ∧ 2 ^ 29 - 1 < 2 ^ 26 * 7 + 2 ^ 26 := by decide

set_option maxRecDepth 20000 in
theorem witness_WatchAndTemperature :
    (cmdDue queued 0 = true ∧ watchBusy (takeCmd 0 0 queued) = false ∧
     (let s := { queued with run := running.run }
      cmdDue s 0 = true ∧ watchBusy (takeCmd 0 0 s) = true)) ∧
    ((1 : Nat) ≤ 3 ∧ (3 : Nat) < 4 ∧ State.reset.power.st ≠ .watch ∧
     (let s : State := { power := { st := .watch } }
      let r : SensorRead := { n := 120, reading := 2000 }
      s.power.waking = false ∧ ([r].find? (fun r => (watchSensors s).contains r.n && watchHot s r)) = some r)) ∧
    (let s : State := { power := { pwrOk := true } }
     let read := forEach (List.range 8) noteGoverning (forEach ([].filter (fun r => decide (r.n < 144))) noteSensor (commitThermal s))
     s.power.pwrOk = true ∧ s.power.st ≠ .watch ∧ s.power.tripped = false ∧ s.boot.clkLost = false ∧
     (owlTrip (modThm (fun t => { t with hottest := hottestSensor read }) read)).power.tripped = false) ∧
    ((dieTherm ({ thermal := { dies := [(0, { grace := some 0 })] } } : State) 0).grace.isSome = true ∧ (dieTherm State.reset 0).grace = none ∧
     State.reset.thermal.tripPin = false ∧ ({ thermal := { tripPin := true } } : State).thermal.tripPin = true) ∧
    ((80 : Int) < 81 ∧ 500 ≤ 85 * min 1000 1000 / 100 ∧ 500 ≤ 95 * min 1000 1000 / 100 ∧ 500 ≤ 102 * 1000 / 100) := by
  refine ⟨by decide, by decide, by decide, by decide, by decide⟩

theorem witness_ResetsAndBoot :
    (let s : State := { power := { pwrOk := true }, boot := { everReady := true } }
     s.power.pwrOk = true ∧ s.boot.everReady = true ∧ s.power.tripped = false ∧ State.reset.power.pwrOk = false ∧ State.reset.boot.everReady = false) ∧
    ((1000 : Nat) ≤ 1000 ∧ (899 : Nat) < 900 ∧ (900 : Nat) ≤ 999 ∧ (999 : Nat) < 1000) ∧
    (State.reset.boot.path = .none ∧ (let s : State := { power := { pwrOk := true }, boot := { path := .cold } }
     s.power.pwrOk = true ∧ s.boot.testRun = false ∧ s.boot.clkLost = false ∧ s.power.tripped = false ∧ s.boot.path = .cold) ∧
     (let s : State := { power := { pwrOk := true }, boot := { path := .wake, wakeStep := 3 } }
      s.boot.path = .wake ∧ s.boot.clkLost = false ∧ s.power.tripped = false ∧ ({ boot := { clkLost := true } } : State).boot.clkLost = true)) ∧
    (let s := poweredOn {}
     (15 : Nat) < 16 ∧ (SMap.get {} s.mem.hbmc 15).trained = false ∧ s.boot.absentStacks.contains 15 = false ∧ (domOf s (8 + 15 / 2)).st = .on) ∧
    (up.hub.ready = true ∧ up.boot.trained = false ∧ fabricTried up = true ∧ fabricTried (poweredOn up) = false ∧ State.reset.hub.ready = false) := by
  refine ⟨by decide, by decide, by decide, by decide, by decide⟩

theorem witness_ResetsAndBoot_faults : exec (.warmRstN 999) { power := { pwrOk := true } } = .fault .warmResetForbidden := rfl

theorem witness_PackageAndManagement :
    ((7 : Nat) < 8 ∧ (16 : Nat) < 17 ∧ (16 : Nat) ≤ 16 ∧ domDown (poweredOn {}) (16 + 7) = false ∧ domDown (poweredOn {}) 7 = false ∧ (SMap.get {} (poweredOn {}).boot.hubLinks 7).failed = false ∧
     (SMap.get {} (poweredOn {}).boot.hubLinks 7).up = false ∧ (SMap.get {} ({ boot := { hubLinks := [(7, { up := true })] } } : State).boot.hubLinks 7).up = true) ∧
    (let s : State := { power := { pwrOk := true } }
     s.power.pwrOk = true ∧ (1 : Nat) ≠ s.fab.position ∧ s.boot.strapLogged = false ∧ s.boot.clkLost = false ∧
     ({ s with boot := { step := 1 } } : State).boot.step = 1) ∧
    (tapOpen .idcode = true ∧ tapOpen .clamp = false ∧ up.hub.ready = true ∧ up.boot.testLogged = false ∧ State.reset.power.st ≠ .watch) ∧
    (let s : State := { hub := { ready := true }, boot := { writeDue := true } }
     s.hub.ready = true ∧ s.boot.writeDue = true ∧ s.boot.writeBusy = false ∧ ({ boot := { writeBusy := true } } : State).boot.retried = false ∧
     recalWriteDue { boot := { recalDue := true } } = true ∧ recalWriteDue State.reset = false) ∧
    ((1 : Nat) ≤ 144 ∧ (200 : Nat) ≤ 206 ∧ (23 : Nat) < 24 ∧ (31 : Nat) < 32 ∧ (0 : Nat) ≠ 1 ∧
     (domTree 8).any (domUsed (logEvent 0x1301 srcDevice [(4, 1008), (8, 1)] (withDom .on false))) = false) ∧
    (let s := { withDom .on false with run := { running.run with plan := running.run.plan.map (fun p => { p with regions := [{ base := 0, size := 2 ^ 26, code := 0 }] }) } }
     (domTree 8).any (domUsed (logEvent 0x1301 srcDevice [(4, 1008), (8, 1)] s)) = true) := by
  refine ⟨by decide, by decide, by decide, by decide, by decide, by decide⟩

/-! ### Worked values of the spec -/

/-- R454: a droop counts beyond 40 mV, so one of exactly 40 mV changes nothing. -/
theorem test_droop_40 : (match exec (.droop 0 40 50) State.reset with | .next t => decide (t = State.reset) | _ => false) = true := by decide

/-- R91: LOOP with its index register at zero goes on. -/
theorem test_loop_zero : (match exec (.loopX 0) (atIssue 0 0x0A) with | .next t => decide ((seqOf t 0).pc = 1) | _ => false) = true := by decide

/-- R91: ADDX wraps modulo 2^32. -/
theorem test_addx_wraps :
    (match exec (.addx 0) { atIssue 0 0x0000000100000009 with eng := [(0, { st := .running, xs := [(0, 0xFFFFFFFF)] })] } with
      | .next t => decide (xreg t 0 0 = 0)
      | _ => false) = true := by decide

/-- R403: a tally add past the top sets the error bit. -/
theorem test_tally_full : (tallyOf (tallyAdd 0 1 0 { tallies := [(0, { count := 2 ^ 64 - 1, allocated := true })] }) 0).error = true := by decide

end Sys2Proof.Tests
end

/-! PROOFS. The effective capability (R8): what the verification of the licences leaves in the two fields of the capability, and the licences
it is made of. -/

namespace Sys2Proof.Machine

open Sys2Proof

/-- The left fold of `max` over a list, from `a`, is the greatest of `a` and the list's elements. -/
theorem foldl_max_isGreatest (l : List Nat) (a : Nat) : l.foldl max a ∈ a :: l ∧ ∀ b ∈ a :: l, b ≤ l.foldl max a :=
  List.max?_eq_some_iff.mp List.max?_cons'

/-- The entries of the valid licences present, those whose union R8 speaks of. -/
def validLicences (s : State) : List LicEntry :=
  ((List.range 9).map (fun i => licEntry (licBytes s i))).filter (·.valid)

theorem mem_validLicences {s : State} {e : LicEntry} :
    e ∈ validLicences s ↔ ∃ i, i < 9 ∧ e.valid = true ∧ licEntry (licBytes s i) = e := by
  simp only [validLicences, List.mem_filter, List.mem_map, List.mem_range]
  constructor
  · rintro ⟨⟨i, hi, he⟩, hv⟩
    exact ⟨i, hi, hv, he⟩
  · rintro ⟨i, hi, hv, he⟩
    exact ⟨⟨i, hi, he⟩, hv⟩

/-- What changes at most the log each time it is applied changes at most the log when repeated. -/
theorem forEach_same {α : Type} (f : α → State → State) (h : ∀ a s, SameButLog s (f a s)) (l : List α) (s : State) :
    SameButLog s (forEach l f s) :=
  forEach_induct (SameButLog s) f (fun a t ht => ht.trans (h a t)) l s (SameButLog.refl s)

/-- Recording an event under a condition changes at most the log. -/
theorem logEvent_if_same (p : Prop) [Decidable p] (code src : Nat) (fs : List (Nat × Nat)) (s : State) :
    SameButLog s (if p then logEvent code src fs s else s) := by
  split
  · exact logEvent_same code src fs s
  · exact SameButLog.refl s

/-- What the verification sets is the licence entries of the boot state, the capability and the count of valid licences; beyond that only its
records 0x5022 and 0x5020 are made (R8, R509). -/
theorem verifyLicences_same (s : State) : ∃ m : SMap LicEntry, SameButLog
    { s with
      boot := { s.boot with licences := m }
      tier := ((validLicences s).map (·.tier)).foldl max 0
      frozen := (validLicences s).any (·.frozen)
      licences := (validLicences s).length } (verifyLicences s) :=
  ⟨_, (forEach_same _ (fun _ _ => logEvent_if_same ..) _ _).trans (logEvent_if_same ..)⟩

/-- The tier after verification is the greatest of the valid licences' tiers, 0 without one. -/
theorem verifyLicences_tier (s : State) : (verifyLicences s).tier = ((validLicences s).map (·.tier)).foldl max 0 := by
  obtain ⟨_, same⟩ := verifyLicences_same s
  exact same.tier

/-- The capability has frozen weights after verification where one of the valid licences grants them. -/
theorem verifyLicences_frozen (s : State) : (verifyLicences s).frozen = (validLicences s).any (·.frozen) := by
  obtain ⟨_, same⟩ := verifyLicences_same s
  exact same.frozen

/-- The capability has at least the tier of each valid licence. -/
theorem tier_le_verifyLicences {s : State} {e : LicEntry} (he : e ∈ validLicences s) : e.tier ≤ (verifyLicences s).tier := by
  rw [verifyLicences_tier]
  exact (foldl_max_isGreatest _ 0).2 _ (List.mem_cons_of_mem _ (List.mem_map_of_mem he))

/-- The capability's tier is granted: it is 0 or that of a valid licence. -/
theorem verifyLicences_tier_granted (s : State) : (verifyLicences s).tier = 0 ∨ ∃ e ∈ validLicences s, e.tier = (verifyLicences s).tier := by
  rw [verifyLicences_tier]
  exact (List.mem_cons.mp (foldl_max_isGreatest _ 0).1).imp_right List.mem_map.mp

/-- Frozen weights are in the capability exactly where a valid licence grants them. -/
theorem verifyLicences_frozen_iff (s : State) : (verifyLicences s).frozen = true ↔ ∃ e ∈ validLicences s, e.frozen = true := by
  rw [verifyLicences_frozen, List.any_eq_true]

/-- The first licence is the factory's in every state (R8): it is read from the fuses. -/
@[simp] theorem licBytes_zero (s : State) : licBytes s 0 = Config.factoryLicence := rfl

/-- Settles O59: the tier is the greatest, and frozen weights the disjunction, over the valid licences. -/
theorem capabilityIsTheUnionOfLicences : Obligations.CapabilityIsTheUnionOfLicences := by
  intro s
  refine ⟨fun i hi hv => ?_, ?_, fun hf => ?_, licBytes_zero⟩
  · have mem : licEntry (licBytes s i) ∈ validLicences s := mem_validLicences.mpr ⟨i, hi, hv, rfl⟩
    exact ⟨tier_le_verifyLicences mem, fun hf => (verifyLicences_frozen_iff s).mpr ⟨_, mem, hf⟩⟩
  · refine (verifyLicences_tier_granted s).imp_right ?_
    rintro ⟨e, mem, ht⟩
    obtain ⟨i, hi, hv, rfl⟩ := mem_validLicences.mp mem
    exact ⟨i, hi, hv, ht⟩
  · obtain ⟨e, mem, hf⟩ := (verifyLicences_frozen_iff s).mp hf
    obtain ⟨i, hi, hv, rfl⟩ := mem_validLicences.mp mem
    exact ⟨i, hi, hv, hf⟩

end Sys2Proof.Machine

/-! PROOFS. Atomics in any order (R231): an operation whose new word is a commutative and associative combination of keys of its operands leaves
the same word in every order. The key of an integer word is the word or its signed value, that of a float its place in the order of R232. -/

namespace Sys2Proof.Machine

open Sys2Proof

/-! ### The order of R232 -/

/-- The place of a signed magnitude in an order that has -0 next below +0. -/
def signedKey (neg : Bool) (v : Nat) : Int := if neg then Int.negSucc v else v

/-- A signed magnitude keeps its place among others when the magnitudes are replaced by others in the same order. -/
theorem signedKey_lt_congr {s t : Bool} {u v u' v' : Nat} (huv : u < v ↔ u' < v') (hvu : v < u ↔ v' < u') :
    signedKey s u < signedKey t v ↔ signedKey s u' < signedKey t v' := by
  cases s <;> cases t <;> simp only [signedKey] <;> grind

/-- A positive magnitude above all others lies above them. -/
theorem signedKey_lt_of_lt {s t : Bool} {u v : Nat} (h : u < v) : signedKey s u < signedKey t v ↔ t = false := by
  cases s <;> cases t <;> simp only [signedKey] <;> grind

/-- A negative magnitude above all others lies below them. -/
theorem signedKey_lt_of_gt {s t : Bool} {u v : Nat} (h : v < u) : signedKey s u < signedKey t v ↔ s = true := by
  cases s <;> cases t <;> simp only [signedKey] <;> grind

theorem signedKey_inj {s t : Bool} {u v : Nat} : signedKey s u = signedKey t v ↔ s = t ∧ u = v := by
  cases s <;> cases t <;> simp [signedKey]

/-- A mantissa aligned to a smaller exponent is a multiple of it aligned to a greater one. -/
theorem alignTo_eq_mul {e e0 e1 : Int} (h01 : e0 ≤ e1) (h1 : e1 ≤ e) (s : Bool) (m : Nat) :
    alignTo s m e e0 = alignTo s m e e1 * 2 ^ (e1 - e0).toNat := by
  have hexp : (e - e0).toNat = (e - e1).toNat + (e1 - e0).toNat := by omega
  cases s <;> simp [alignTo, hexp, pow_add, mul_assoc]

/-- Comparing two finite values, zeros of opposite sign told apart, at the smaller of their exponents. -/
theorem Num.lt_fin_iff {s t : Bool} {m n : Nat} {e k : Int} :
    Num.lt (.fin s m e) (.fin t n k) = true ↔
      alignTo s m e (min e k) < alignTo t n k (min e k) ∨
        alignTo s m e (min e k) = alignTo t n k (min e k) ∧ s = true ∧ t = false := by
  simp only [Num.lt, Num.cmp]
  split
  next h => simp [compare_lt_iff_lt.mp h]
  next h => simp [(compare_gt_iff_gt.mp h).le, (compare_gt_iff_gt.mp h).ne']
  next h => simp [compare_eq_iff_eq.mp h, Num.isNeg]

/-- Finite values lie as their signed magnitudes, counted in units of any exponent below both. -/
theorem Num.lt_fin_add (s t : Bool) (m n : Nat) (e0 : Int) (i j : Nat) :
    Num.lt (.fin s m (e0 + i)) (.fin t n (e0 + j)) = true ↔ signedKey s (m * 2 ^ i) < signedKey t (n * 2 ^ j) := by
  have hpos : (0 : Int) < 2 ^ (min (e0 + i) (e0 + j) - e0).toNat := by positivity
  have h0 : e0 ≤ min (e0 + i) (e0 + j) := by omega
  rw [Num.lt_fin_iff, ← mul_lt_mul_iff_left₀ hpos, ← mul_left_inj' hpos.ne',
    ← alignTo_eq_mul h0 (min_le_left ..), ← alignTo_eq_mul h0 (min_le_right ..)]
  simp only [alignTo, add_sub_cancel_left, Int.toNat_natCast]
  generalize m * 2 ^ i = u
  generalize n * 2 ^ j = v
  cases s <;> cases t <;> simp [signedKey] <;> omega

theorem Num.lt_inf_fin (s t : Bool) (n : Nat) (k : Int) : Num.lt (.inf s) (.fin t n k) = s := by
  cases s <;> rfl

theorem Num.lt_fin_inf (s t : Bool) (m : Nat) (e : Int) : Num.lt (.fin s m e) (.inf t) = !t := by
  cases t <;> rfl

theorem Num.lt_inf_iff (s t : Bool) (u : Nat) : Num.lt (.inf s) (.inf t) = true ↔ signedKey s u < signedKey t u := by
  cases s <;> cases t <;> simp [Num.lt, Num.cmp, Num.isNeg, signedKey] <;> omega

/-! ### Patterns of a format with infinities -/

/-- A format as IEEE 754 has it, with the NaN it produces among its patterns. -/
structure Fmt.IsIeee (f : Fmt) : Prop where
  top : f.top = .ieee
  isNan_nan : f.isNan f.nan = true
  nan_lt : f.nan < 2 ^ f.width

/-- The float formats of the atomics (R358) are of this kind, and their width is that of the word. -/
theorem elemFmt_isIeee {elem : Nat} (h2 : 2 ≤ elem) (h3 : elem ≤ 3) :
    (elemFmt elem).IsIeee ∧ (elemFmt elem).width = elemBytes elem * 8 := by
  interval_cases elem <;> exact ⟨⟨by decide, by decide, by decide⟩, by decide⟩

/-- A pattern without its sign bit. -/
def Fmt.mag (f : Fmt) (n : Nat) : Nat := n % 2 ^ (f.eb + f.fb)

/-- The magnitude of a finite pattern, in units of the smallest subnormal. -/
def Fmt.units (f : Fmt) (p : Nat) : Nat :=
  if p / 2 ^ f.fb = 0 then p % 2 ^ f.fb else (2 ^ f.fb + p % 2 ^ f.fb) * 2 ^ (p / 2 ^ f.fb - 1)

/-- The place of a pattern in the order of R232. -/
def Fmt.rank (f : Fmt) (n : Nat) : Int := signedKey (bit n (f.eb + f.fb)) (f.mag n)

theorem Fmt.bits_exponent (f : Fmt) (n : Nat) : bits n f.fb f.eb = f.mag n / 2 ^ f.fb := by
  rw [bits, Nat.shiftRight_eq_div_pow, Fmt.mag, Nat.add_comm, pow_add, Nat.mod_mul_right_div_self]

theorem Fmt.mod_fraction (f : Fmt) (n : Nat) : n % 2 ^ f.fb = f.mag n % 2 ^ f.fb :=
  (Nat.mod_mod_of_dvd n (pow_dvd_pow 2 (Nat.le_add_left f.fb f.eb))).symm

/-- A magnitude lies below those of all greater exponents. -/
theorem Fmt.units_lt (f : Fmt) (p : Nat) : f.units p < 2 ^ f.fb * 2 ^ (p / 2 ^ f.fb) := by
  have hp : p % 2 ^ f.fb < 2 ^ f.fb := Nat.mod_lt _ (Nat.two_pow_pos _)
  unfold Fmt.units
  split
  next h0 => simpa [h0] using hp
  next h0 =>
    obtain ⟨i, hi⟩ := Nat.exists_eq_add_one_of_ne_zero h0
    rw [hi, Nat.add_sub_cancel, pow_succ', ← mul_assoc]
    exact Nat.mul_lt_mul_of_pos_right (by omega) (Nat.two_pow_pos i)

theorem Fmt.le_units {f : Fmt} {p i : Nat} (h : p / 2 ^ f.fb = i + 1) : 2 ^ f.fb * 2 ^ i ≤ f.units p := by
  rw [Fmt.units, h, if_neg i.succ_ne_zero, Nat.add_sub_cancel]
  exact Nat.mul_le_mul_right _ (Nat.le_add_right _ _)

/-- Magnitudes of finite patterns are ordered as the patterns. -/
theorem Fmt.units_strictMono (f : Fmt) : StrictMono f.units := by
  intro p q hpq
  obtain heq | hlt := (Nat.div_le_div_right (c := 2 ^ f.fb) hpq.le).eq_or_lt
  · have hmod : p % 2 ^ f.fb < q % 2 ^ f.fb := by
      rw [← Nat.div_add_mod p (2 ^ f.fb), ← Nat.div_add_mod q (2 ^ f.fb), heq] at hpq
      exact Nat.lt_of_add_lt_add_left hpq
    simp only [Fmt.units, heq]
    split
    · exact hmod
    · gcongr
  · obtain ⟨i, hi⟩ := Nat.exists_eq_add_one_of_ne_zero (Nat.ne_zero_of_lt hlt)
    calc f.units p < 2 ^ f.fb * 2 ^ (p / 2 ^ f.fb) := f.units_lt p
      _ ≤ 2 ^ f.fb * 2 ^ i := Nat.mul_le_mul_left _ (Nat.pow_le_pow_right Nat.two_pos (by omega))
      _ ≤ f.units q := Fmt.le_units hi

/-- What a pattern that is not NaN stands for in a format with infinities: with the sign bit its sign, an infinity or a finite value below. -/
theorem Fmt.decode_of_isNan_eq_false {f : Fmt} (hf : f.top = .ieee) {n : Nat} (hn : f.isNan n = false) :
    (f.decode n = .inf (bit n (f.eb + f.fb)) ∧ f.mag n = f.infPat) ∨
    (∃ m i : Nat, f.decode n = .fin (bit n (f.eb + f.fb)) m (1 - (f.bias : Int) - f.fb + i) ∧
      m * 2 ^ i = f.units (f.mag n) ∧ f.mag n < f.infPat) := by
  have hmag : f.mag n < 2 ^ f.eb * 2 ^ f.fb := by
    rw [← pow_add]
    exact Nat.mod_lt _ (by positivity)
  have hexp : f.mag n / 2 ^ f.fb < 2 ^ f.eb := Nat.div_lt_of_lt_mul (by rwa [mul_comm])
  simp only [Fmt.isNan, Fmt.decode, hf, Fmt.bits_exponent, Fmt.mod_fraction f n, true_and, reduceCtorEq, false_and, if_false] at hn ⊢
  split
  next htop =>
    have hm : f.mag n % 2 ^ f.fb = 0 := by
      by_contra hm
      simp [htop, hm, Num.isNan] at hn
    refine .inl ⟨by rw [if_pos hm], ?_⟩
    rw [Fmt.infPat, ← htop, Nat.div_mul_cancel (Nat.dvd_of_mod_eq_zero hm)]
  next htop =>
    have hfin : f.mag n < f.infPat := (Nat.div_lt_iff_lt_mul (by positivity)).mp (by omega)
    refine .inr ?_
    split
    next he => exact ⟨f.mag n % 2 ^ f.fb, 0, by simp, by simp [Fmt.units, he], hfin⟩
    next he =>
      obtain ⟨i, hi⟩ := Nat.exists_eq_add_one_of_ne_zero he
      refine ⟨2 ^ f.fb + f.mag n % 2 ^ f.fb, i, ?_, by simp [Fmt.units, hi], hfin⟩
      rw [hi, Nat.cast_succ]
      congr 1
      omega

/-- Values of patterns that are not NaN lie as the patterns' ranks. -/
theorem Fmt.lt_decode_iff {f : Fmt} (hf : f.top = .ieee) {a b : Nat} (ha : f.isNan a = false) (hb : f.isNan b = false) :
    Num.lt (f.decode a) (f.decode b) = true ↔ f.rank a < f.rank b := by
  unfold Fmt.rank
  obtain ⟨hda, hma⟩ | ⟨m, i, hda, hma, hfa⟩ := Fmt.decode_of_isNan_eq_false hf ha <;>
    obtain ⟨hdb, hmb⟩ | ⟨n, j, hdb, hmb, hfb⟩ := Fmt.decode_of_isNan_eq_false hf hb <;> rw [hda, hdb]
  · rw [hma, hmb, Num.lt_inf_iff]
  · rw [Num.lt_inf_fin, signedKey_lt_of_gt (hma ▸ hfb)]
  · rw [Num.lt_fin_inf, signedKey_lt_of_lt (hmb ▸ hfa), Bool.not_eq_true']
  · rw [Num.lt_fin_add, hma, hmb]
    exact signedKey_lt_congr f.units_strictMono.lt_iff_lt f.units_strictMono.lt_iff_lt

/-- A pattern of the format's width is given by its rank. -/
theorem Fmt.rank_inj {f : Fmt} {a b : Nat} (ha : a < 2 ^ f.width) (hb : b < 2 ^ f.width) (h : f.rank a = f.rank b) : a = b := by
  obtain ⟨hsign, hmag⟩ := signedKey_inj.mp h
  have hw : 2 ^ f.width = 2 ^ (f.eb + f.fb) * 2 := by
    rw [Fmt.width, ← pow_succ]
    congr 1
    omega
  have ha' : a / 2 ^ (f.eb + f.fb) < 2 := Nat.div_lt_of_lt_mul (hw ▸ ha)
  have hb' : b / 2 ^ (f.eb + f.fb) < 2 := Nat.div_lt_of_lt_mul (hw ▸ hb)
  have hdiv : a / 2 ^ (f.eb + f.fb) = b / 2 ^ (f.eb + f.fb) := by
    simp only [bit, Nat.shiftRight_eq_div_pow, Nat.mod_eq_of_lt ha', Nat.mod_eq_of_lt hb'] at hsign
    rw [Bool.eq_iff_iff, beq_iff_eq, beq_iff_eq] at hsign
    generalize a / 2 ^ (f.eb + f.fb) = x at *
    generalize b / 2 ^ (f.eb + f.fb) = y at *
    omega
  rw [← Nat.div_add_mod a (2 ^ (f.eb + f.fb)), ← Nat.div_add_mod b (2 ^ (f.eb + f.fb)), hdiv]
  exact congrArg _ hmag

/-- The key by which `minMax` takes the greatest of two patterns: NaN wins over every number (R232). -/
def Fmt.minMaxKey (f : Fmt) (isMax : Bool) (n : Nat) : WithTop Int :=
  if f.isNan n then ⊤ else ((if isMax then f.rank n else -f.rank n : Int) : WithTop Int)

theorem Fmt.minMaxKey_eq_top_iff {f : Fmt} {isMax : Bool} {n : Nat} : f.minMaxKey isMax n = ⊤ ↔ f.isNan n = true := by
  simp [Fmt.minMaxKey]

/-- A NaN makes the result the format's NaN. -/
theorem Fmt.minMax_of_isNan {f : Fmt} {a b : Nat} (h : (f.isNan a || f.isNan b) = true) (isMax : Bool) : f.minMax isMax a b = f.nan :=
  if_pos h

/-- Without a NaN the result is one of the two patterns, by their ranks. -/
theorem Fmt.minMax_of_not_isNan {f : Fmt} (hf : f.top = .ieee) {a b : Nat} (ha : f.isNan a = false) (hb : f.isNan b = false) (isMax : Bool) :
    f.minMax isMax a b = if f.rank a < f.rank b then (if isMax then b else a) else (if isMax then a else b) := by
  have hn : ¬(f.isNan a || f.isNan b) = true := by simp [ha, hb]
  simp only [← Fmt.lt_decode_iff hf ha hb]
  exact if_neg hn

/-- The result of `minMax` has the greater of the two patterns' keys. -/
theorem Fmt.minMaxKey_minMax {f : Fmt} (hf : f.IsIeee) (isMax : Bool) (a b : Nat) :
    f.minMaxKey isMax (f.minMax isMax a b) = max (f.minMaxKey isMax a) (f.minMaxKey isMax b) := by
  by_cases hn : (f.isNan a || f.isNan b) = true
  · rw [Fmt.minMax_of_isNan hn, Fmt.minMaxKey_eq_top_iff.mpr hf.isNan_nan]
    rw [Bool.or_eq_true, ← Fmt.minMaxKey_eq_top_iff (isMax := isMax), ← Fmt.minMaxKey_eq_top_iff (isMax := isMax)] at hn
    exact (max_eq_top.mpr hn).symm
  · obtain ⟨ha, hb⟩ : f.isNan a = false ∧ f.isNan b = false := by simpa using hn
    rw [Fmt.minMax_of_not_isNan hf.top ha hb]
    cases isMax <;> split <;>
      simp only [Fmt.minMaxKey, ha, hb, Bool.false_eq_true, if_false, if_true, ← WithTop.coe_max, WithTop.coe_inj] <;> omega

/-- The words of a format, with the format's NaN for every NaN. -/
def Fmt.canonical (f : Fmt) : Set Nat := {n | n < 2 ^ f.width ∧ (f.isNan n = true → n = f.nan)}

theorem Fmt.minMax_mem_canonical {f : Fmt} (hf : f.IsIeee) (isMax : Bool) {a b : Nat} (ha : a < 2 ^ f.width) (hb : b < 2 ^ f.width) :
    f.minMax isMax a b ∈ f.canonical := by
  by_cases hn : (f.isNan a || f.isNan b) = true
  · rw [Fmt.minMax_of_isNan hn]
    exact ⟨hf.nan_lt, fun _ => rfl⟩
  · obtain ⟨hna, hnb⟩ : f.isNan a = false ∧ f.isNan b = false := by simpa using hn
    rw [Fmt.minMax_of_not_isNan hf.top hna hnb]
    have hmem : a ∈ f.canonical ∧ b ∈ f.canonical := by simp [Fmt.canonical, ha, hb, hna, hnb]
    split <;> split <;> simp only [hmem]

/-- Canonical words are told apart by their keys. -/
theorem Fmt.minMaxKey_injOn (f : Fmt) (isMax : Bool) : Set.InjOn (f.minMaxKey isMax) f.canonical := by
  rintro a ⟨ha, hna⟩ b ⟨hb, hnb⟩ h
  have hiff : f.isNan a = true ↔ f.isNan b = true := by rw [← Fmt.minMaxKey_eq_top_iff, h, Fmt.minMaxKey_eq_top_iff]
  by_cases hn : f.isNan a = true
  · rw [hna hn, hnb (hiff.mp hn)]
  · refine Fmt.rank_inj ha hb ?_
    cases isMax <;> simpa only [Fmt.minMaxKey, hn, mt hiff.mpr hn, if_true, if_false, Bool.false_eq_true, WithTop.coe_inj, neg_inj] using h

/-- Two's complement patterns of the width are told apart by their values. -/
theorem sext_injOn (n : Nat) : Set.InjOn (sext n) {a | a < 2 ^ n} := by
  intro a ha b hb h
  rw [Set.mem_ofPred_eq] at ha hb
  simp only [sext, Nat.mod_eq_of_lt ha, Nat.mod_eq_of_lt hb] at h
  by_cases hn : n = 0
  · subst hn
    omega
  · simp only [hn, if_false] at h
    split_ifs at h <;> omega

/-! ### Operations that combine keys -/

/-- An operation on words of `n` bits takes its operands in any order where a key tells its results apart and the key of a result is a commutative
and associative combination of the operands' keys. -/
theorem rightCommutative_of_key {K : Type} {n : Nat} {c : Nat → Nat → Nat} (op : K → K → K) [Std.Commutative op] [Std.Associative op]
    (key : Nat → K) {results : Set Nat} (hlt : ∀ r ∈ results, r < 2 ^ n)
    (hmem : ∀ a b, a < 2 ^ n → b < 2 ^ n → c a b ∈ results) (hkey : ∀ a b, key (c a b) = op (key a) (key b))
    (hinj : Set.InjOn key results) : RightCommutative fun w x => c (w % 2 ^ n) (x % 2 ^ n) where
  right_comm w x y := by
    have hres : ∀ {a} z, a < 2 ^ n → c a (z % 2 ^ n) ∈ results := fun z ha => hmem _ _ ha (Nat.mod_lt _ (Nat.two_pow_pos n))
    have hw : w % 2 ^ n < 2 ^ n := Nat.mod_lt _ (Nat.two_pow_pos n)
    have hx := hlt _ (hres x hw)
    have hy := hlt _ (hres y hw)
    simp only [Nat.mod_eq_of_lt hx, Nat.mod_eq_of_lt hy]
    refine hinj (hres y hx) (hres x hy) ?_
    simp only [hkey, RightCommutative.right_comm (op := op) (key (w % 2 ^ n)) (key (x % 2 ^ n))]

/-- A commutative and associative operation that stays within `n` bits takes its operands in any order. -/
theorem rightCommutative_of_lt {n : Nat} (op : Nat → Nat → Nat) [Std.Commutative op] [Std.Associative op]
    (hlt : ∀ a b, a < 2 ^ n → b < 2 ^ n → op a b < 2 ^ n) : RightCommutative fun w x => op (w % 2 ^ n) (x % 2 ^ n) :=
  rightCommutative_of_key op id (results := {r | r < 2 ^ n}) (fun _ h => h) hlt (fun _ _ => rfl) (Set.injOn_id _)

theorem rightCommutative_addWord (n : Nat) : RightCommutative fun w x => (w % 2 ^ n + x % 2 ^ n) % 2 ^ n where
  right_comm w x y := by
    simp only [Nat.mod_mod, ← Nat.add_mod]
    rw [Nat.add_right_comm]

theorem rightCommutative_signedMin (n : Nat) :
    RightCommutative fun w x => if sext n (x % 2 ^ n) < sext n (w % 2 ^ n) then x % 2 ^ n else w % 2 ^ n :=
  rightCommutative_of_key (c := fun a b => if sext n b < sext n a then b else a) min (sext n) (results := {r | r < 2 ^ n}) (fun _ h => h)
    (fun a b ha hb => by split <;> assumption) (fun a b => by split <;> omega) (sext_injOn n)

theorem rightCommutative_signedMax (n : Nat) :
    RightCommutative fun w x => if sext n (w % 2 ^ n) < sext n (x % 2 ^ n) then x % 2 ^ n else w % 2 ^ n :=
  rightCommutative_of_key (c := fun a b => if sext n a < sext n b then b else a) max (sext n) (results := {r | r < 2 ^ n}) (fun _ h => h)
    (fun a b ha hb => by split <;> assumption) (fun a b => by split <;> omega) (sext_injOn n)

theorem rightCommutative_minMax {f : Fmt} (hf : f.IsIeee) (isMax : Bool) :
    RightCommutative fun w x => f.minMax isMax (w % 2 ^ f.width) (x % 2 ^ f.width) :=
  rightCommutative_of_key max (f.minMaxKey isMax) (fun _ h => h.1) (fun _ _ => Fmt.minMax_mem_canonical hf isMax) (Fmt.minMaxKey_minMax hf isMax)
    (f.minMaxKey_injOn isMax)

/-! ### The atomics (R231) -/

/-- Integer add, and, or, xor, and every min and max take their operands in any order. -/
theorem atomResult_rightCommutative {op elem : Nat} (swap : Nat) (hop : op ∈ [1, 2, 3, 4, 5, 6, 8, 9]) (ok : atomOk op elem = true) :
    RightCommutative fun w x => atomResult op elem w x swap := by
  have minMax (isMax : Bool) (h2 : 2 ≤ elem) (h3 : elem ≤ 3) :=
    (elemFmt_isIeee h2 h3).2 ▸ rightCommutative_minMax (elemFmt_isIeee h2 h3).1 isMax
  fin_cases hop
  · -- add
    exact rightCommutative_addWord _
  · -- min, float or signed
    by_cases h2 : 2 ≤ elem
    · simpa only [atomResult, h2, if_true] using minMax false h2 (of_decide_eq_true ok)
    · simpa only [atomResult, h2, if_false] using rightCommutative_signedMin (elemBytes elem * 8)
  · -- max, float or signed
    by_cases h2 : 2 ≤ elem
    · simpa only [atomResult, h2, if_true] using minMax true h2 (of_decide_eq_true ok)
    · simpa only [atomResult, h2, if_false] using rightCommutative_signedMax (elemBytes elem * 8)
  · -- and
    exact rightCommutative_of_lt (· &&& ·) fun _ _ _ hb => Nat.and_lt_two_pow _ hb
  · -- or
    exact rightCommutative_of_lt (· ||| ·) fun _ _ => Nat.or_lt_two_pow
  · -- xor
    exact rightCommutative_of_lt (· ^^^ ·) fun _ _ => Nat.xor_lt_two_pow
  · -- unsigned min
    exact rightCommutative_of_lt min fun _ _ _ hb => min_lt_of_right_lt hb
  · -- unsigned max
    exact rightCommutative_of_lt max fun _ _ => max_lt

/-- FP32 add to 2^24: 2^24 + 1 rounds to 2^24, so the operand 1 is lost where it comes before the operand -2^24 and kept where it comes after. -/
theorem atomResult_floatAdd_order :
    atomResult 7 2 (atomResult 7 2 0x4B800000 0x3F800000 0) 0xCB800000 0 ≠
      atomResult 7 2 (atomResult 7 2 0x4B800000 0xCB800000 0) 0x3F800000 0 := by
  decide

/-- Settles O41: the operations R231 names take their operands in any order. Float add loses a small operand or keeps it, swap leaves the last operand,
and a compare-and-swap may match only the word that another one wrote. -/
theorem combiningOrderOfAtomics : Obligations.CombiningOrderOfAtomics := by
  refine ⟨fun op elem old swap l l' hop ok hperm => ?_, ⟨_, _, _, atomResult_floatAdd_order⟩,
    ⟨0, 1, 2, by decide⟩, ⟨0, 0, 1, 1, 2, by decide⟩⟩
  have := atomResult_rightCommutative swap hop ok
  exact hperm.foldl_eq old

end Sys2Proof.Machine

/-! PROOFS. The hop limit (R334): what PACKET_FORWARD does with a packet it finds in transit, and where a packet that has arrived goes. -/

namespace Sys2Proof.Machine

open Sys2Proof

theorem exec_packetForward (p : Packet) (s : State) : exec (.packetForward p) s = execPacketForward p s := rfl

/-- The state once a packet in transit from lane `k` is taken up: it is counted as forwarded and its credit is freed (R303, R333). -/
def takeTransit (k : Nat) (p : Packet) (s : State) : State :=
  freeCreditOf k p { s with fab := { s.fab with transit := s.fab.transit.erase (k, p), forwarded := satAdd 64 s.fab.forwarded 1 } }

/-- PACKET_FORWARD of a packet in transit takes it up, then its hops field alone decides between drop and next hop. -/
theorem exec_packetForward_of_find {s : State} {k : Nat} {p : Packet} (found : s.fab.transit.find? (fun e => e.2 == p) = some (k, p)) :
    exec (.packetForward p) s =
      .next (if 7 ≤ p.hops then deadDrop 0x8032 p (takeTransit k p s) else routePacket p (takeTransit k p s)) := by
  rw [exec_packetForward, execPacketForward, found]
  exact (apply_ite Host.Outcome.next ..).symm

/-- A packet whose destination is this position goes to the ingress, and nothing else changes. -/
theorem routePacket_of_arrived {s : State} {p : Packet} (arrived : destPos s p = some s.fab.position) :
    routePacket p s = { s with fab := { s.fab with ingress := s.fab.ingress ++ [p] } } :=
  if_pos arrived

/-- Settles O37: the limit is reached at 7 hops and not below it, and an arrived packet is routed without its hops being read. -/
theorem hopLimitDropsPackets : Obligations.HopLimitDropsPackets := by
  intro s k p u
  refine ⟨fun found atLimit => ?_, fun found below => ?_, fun arrived => ?_⟩
  · rw [exec_packetForward_of_find found, if_pos atLimit.ge]
    rfl
  · rw [exec_packetForward_of_find found, if_neg below.not_ge]
    rfl
  · rw [routePacket_of_arrived arrived]
    exact ⟨rfl, rfl⟩

end Sys2Proof.Machine

/-! PROOFS. Mismatches of a collective (R399): which packets the pack unit at a packet's destination refuses, and what a refusal answers. -/

namespace Sys2Proof.Machine

open Sys2Proof

/-- A packet of a collective sent to this device alone is served by the pack unit of the die it names. -/
theorem exec_collData_of_unicast {s : State} {p : Packet} {b : CollBody} (body : p.body = .coll b) (single : p.mcast = false) :
    exec (.collData p) s = .next (collServe p b (takeIngress p s)) := by
  have unfolded : exec (.collData p) s = execCollData p s := rfl
  rw [unfolded, execCollData]
  simp [body, single]

/-- A packet numbered below the collective the pack unit is in is a mismatch, whatever its digest. -/
theorem collServe_of_seq_lt {s : State} {p : Packet} {b : CollBody} {c : Coll} (current : (packOf s (engId 4 b.die 0)).coll = some c)
    (below : b.seq < c.seq) : collServe p b s = collMismatch (engId 4 b.die 0) p b s := by
  simp only [collServe, current]
  exact if_pos below

/-- A packet of the collective the pack unit is in, but of another digest, is a mismatch. -/
theorem collServe_of_digest_ne {s : State} {p : Packet} {b : CollBody} {c : Coll} (current : (packOf s (engId 4 b.die 0)).coll = some c)
    (same : b.seq = c.seq) (differs : b.digest ≠ c.digest) : collServe p b s = collMismatch (engId 4 b.die 0) p b s := by
  simp only [collServe, current]
  rw [if_neg same.not_lt, if_neg same.not_gt, if_pos differs]

/-- Between collectives, a packet numbered below the pack unit's next one is a mismatch. -/
theorem collServe_of_seq_lt_next {s : State} {p : Packet} {b : CollBody} (idle : (packOf s (engId 4 b.die 0)).coll = none)
    (below : b.seq < (packOf s (engId 4 b.die 0)).next) : collServe p b s = collMismatch (engId 4 b.die 0) p b s := by
  simp only [collServe, idle]
  exact if_pos below

/-- A mismatch is recorded and raised as an error of the pack unit, and then answered with ERR (packet type 0x12) and code 0x6610. -/
theorem exists_collMismatch_eq_collAnswer (e : Nat) (p : Packet) (b : CollBody) (s : State) :
    ∃ v, collMismatch e p b s = collAnswer 0x12 p 0x6610 (engineError e 0x6610 v) := by
  unfold collMismatch
  exact ⟨_, rfl⟩

/-- Settles O46: a packet for this device alone goes to its pack unit, which compares the number first and the digest second; what it refuses
is answered as a mismatch. -/
theorem collMismatchAnswersErr : Obligations.CollMismatchAnswersErr := by
  intro s p b body single u e refused
  have refused_of_mismatch (mismatch : collServe p b u = collMismatch e p b u) : refused :=
    (exec_collData_of_unicast body single).trans (congrArg Host.Outcome.next mismatch)
  refine ⟨fun c current same differs => ?_, fun c current below => ?_, fun idle below => ?_, ?_⟩
  · exact refused_of_mismatch (collServe_of_digest_ne current same differs)
  · exact refused_of_mismatch (collServe_of_seq_lt current below)
  · exact refused_of_mismatch (collServe_of_seq_lt_next idle below)
  · obtain ⟨v, answered⟩ := exists_collMismatch_eq_collAnswer e p b u
    exact ⟨_, answered⟩

end Sys2Proof.Machine

/-! SUPPORT. What keeps the queue and the canonical form (`Keeps`): the frame of a state, the choices and the repetitions the model is built of,
and what keeping means of an operation that answers more than a state. The sections below are elaborated one proof at a time: in parallel,
hundreds of short proofs wait on one another, each on a thread of its own. -/

namespace Sys2Proof.Machine

open Sys2Proof

theorem SMap.wfFrom_filter {α : Type} [DecidableEq α] {d : α} {lo : Nat} {m : SMap α} {p : Nat × α → Bool}
    (wf : SMap.wfFrom d lo m = true) : SMap.wfFrom d lo (m.filter p) = true := by
  induction m generalizing lo with
  | nil => rfl
  | cons e m ih =>
    simp only [SMap.wfFrom, Bool.and_eq_true, decide_eq_true_eq] at wf
    obtain ⟨⟨key, value⟩, rest⟩ := wf
    rw [List.filter_cons]
    split
    · simpa only [SMap.wfFrom, Bool.and_eq_true, decide_eq_true_eq] using ⟨⟨key, value⟩, ih rest⟩
    · exact SMap.wfFrom_mono d lo (e.1 + 1) _ (ih rest) (by omega)

theorem Memory.wf_filter {m : Memory} {p : Nat × Byte → Bool} (wf : m.wf = true) : Memory.wf (m.filter p) = true :=
  SMap.wfFrom_filter wf

/-- Writing byte after byte keeps a memory canonical, wherever each byte goes. -/
theorem Memory.wf_foldl_write {l m : Memory} {place : Nat → Nat} (wf : m.wf = true) :
    Memory.wf (l.foldl (fun m c => Memory.write m (place c.1) c.2) m) = true := by
  induction l generalizing m with
  | nil => exact wf
  | cons c l ih => exact ih (Memory.wf_write m _ c.2 wf)

section

set_option Elab.async false

variable {s₀ s t : State}

theorem Keeps.refl (s : State) : Keeps s s := ⟨rfl, id⟩

theorem Keeps.trans (h : Keeps s₀ s) (h' : Keeps s t) : Keeps s₀ t := ⟨h'.1.trans h.1, h'.2 ∘ h.2⟩

/-- A choice keeps what both of its sides keep. -/
protected theorem Keeps.ite {c : Prop} {inst : Decidable c} (ht : Keeps s₀ s) (hf : Keeps s₀ t) : Keeps s₀ (@ite _ c inst s t) := by
  split
  · exact ht
  · exact hf

/-- What lies outside the memories, the rails and the queue is free to change. -/
theorem Keeps.frame {tallies eng units log msix hub time thermal boot fab remote sett load run epoch tier frozen licences free}
    (h : Keeps s₀ s) : Keeps s₀ { s with
      tallies := tallies, eng := eng, units := units, log := log, msix := msix, hub := hub, time := time, thermal := thermal
      boot := boot, fab := fab, remote := remote, sett := sett, load := load, run := run, epoch := epoch, tier := tier
      frozen := frozen, licences := licences, free := free } := h

/-- The power unit may change as long as its rails stay seven. -/
theorem Keeps.power {tallies eng units log msix hub time power thermal boot fab remote sett load run epoch tier frozen licences free}
    (h : Keeps s₀ s) (rails : power.rails.length = s.power.rails.length := by rfl) : Keeps s₀ { s with
      tallies := tallies, eng := eng, units := units, log := log, msix := msix, hub := hub, time := time, power := power
      thermal := thermal, boot := boot, fab := fab, remote := remote, sett := sett, load := load, run := run, epoch := epoch
      tier := tier, frozen := frozen, licences := licences, free := free } :=
  ⟨h.1, fun canonical => by simpa [Canonical, rails] using h.2 canonical⟩

/-- The memories may change as long as the four of bytes stay canonical. -/
theorem Keeps.mem {tallies eng units log msix hub time thermal boot fab remote sett load run epoch tier frozen licences free}
    {m : Mem} (h : Keeps s₀ s) (sp : s.mem.sp.wf = true → m.sp.wf = true := by exact id)
    (hbm : s.mem.hbm.wf = true → m.hbm.wf = true := by exact id) (cs : s.mem.cs.wf = true → m.cs.wf = true := by exact id)
    (host : s.mem.host.wf = true → m.host.wf = true := by exact id) : Keeps s₀ { s with
      mem := m, tallies := tallies, eng := eng, units := units, log := log, msix := msix, hub := hub, time := time
      thermal := thermal, boot := boot, fab := fab, remote := remote, sett := sett, load := load, run := run, epoch := epoch
      tier := tier, frozen := frozen, licences := licences, free := free } :=
  ⟨h.1, fun canonical =>
    let ⟨wfSp, wfHbm, wfCs, wfHost, rails⟩ := h.2 canonical
    ⟨sp wfSp, hbm wfHbm, cs wfCs, host wfHost, rails⟩⟩

theorem Keeps.foldl {α : Type} {f : State → α → State} {l : List α} (h : Keeps s₀ s) (hf : ∀ t a, Keeps s₀ t → Keeps s₀ (f t a)) :
    Keeps s₀ (l.foldl f s) := by
  induction l generalizing s with
  | nil => exact h
  | cons a l ih => exact ih (hf s a h)

protected theorem Keeps.forEach {α : Type} {l : List α} {f : α → State → State} (h : Keeps s₀ s)
    (hf : ∀ a t, Keeps s₀ t → Keeps s₀ (f a t)) : Keeps s₀ (forEach l f s) :=
  h.foldl fun t a => hf a t

end

/-- Every state a command, an access or a search may answer with is one that keeps. -/
def OutKeeps (s₀ : State) : Out → Prop
  | .next t => Keeps s₀ t
  | _ => True

def OptKeeps (s₀ : State) : Option State → Prop
  | some t => Keeps s₀ t
  | none => True

def AccKeeps (s₀ : State) : Acc → Prop
  | .done _ t => Keeps s₀ t
  | .hold t => Keeps s₀ t
  | .trap _ => True

def PumpedKeeps (s₀ : State) : Pumped → Prop
  | .sent t => Keeps s₀ t
  | .held t => Keeps s₀ t

def ExceptKeeps {ε : Type} (s₀ : State) : Except ε State → Prop
  | .ok t => Keeps s₀ t
  | .error _ => True

def EntryKeeps {α : Type} (s₀ : State) : Except State (α × State) → Prop
  | .ok v => Keeps s₀ v.2
  | .error t => Keeps s₀ t

inductive OptExceptKeeps {ε : Type} (s₀ : State) : Option (Except ε State) → Prop
  | none : OptExceptKeeps s₀ none
  | error (e : ε) : OptExceptKeeps s₀ (some (.error e))
  | ok {t : State} (h : Keeps s₀ t) : OptExceptKeeps s₀ (some (.ok t))

section

set_option Elab.async false

variable {s₀ s t : State} {c : Prop} {inst : Decidable c}

protected theorem OutKeeps.ite {o p : Out} (ho : OutKeeps s₀ o) (hp : OutKeeps s₀ p) : OutKeeps s₀ (@ite _ c inst o p) := by
  split <;> assumption

protected theorem OptKeeps.ite {o p : Option State} (ho : OptKeeps s₀ o) (hp : OptKeeps s₀ p) :
    OptKeeps s₀ (@ite _ c inst o p) := by
  split <;> assumption

theorem OptKeeps.some {o : Option State} (h : OptKeeps s₀ o) (answer : o = .some t) : Keeps s₀ t := by
  subst answer
  exact h

theorem OptKeeps.getD {o : Option State} (h : OptKeeps s₀ o) (hs : Keeps s₀ s) : Keeps s₀ (o.getD s) := by
  cases o
  · exact hs
  · exact h

theorem OptKeeps.map {o : Option State} {f : State → State} (h : OptKeeps s₀ o) (hf : ∀ t, Keeps s₀ t → Keeps s₀ (f t)) :
    OptKeeps s₀ (o.map f) := by
  cases o
  · trivial
  · exact hf _ h

theorem OptKeeps.of_map {α : Type} {o : Option α} {f : α → State} (hf : ∀ a, Keeps s₀ (f a)) : OptKeeps s₀ (o.map f) := by
  cases o
  · trivial
  · exact hf _

protected theorem AccKeeps.ite {a b : Acc} (ha : AccKeeps s₀ a) (hb : AccKeeps s₀ b) : AccKeeps s₀ (@ite _ c inst a b) := by
  split <;> assumption

theorem AccKeeps.done {a : Acc} {d : List Byte} (h : AccKeeps s₀ a) (answer : a = .done d t) : Keeps s₀ t := by
  subst answer
  exact h

theorem AccKeeps.hold {a : Acc} (h : AccKeeps s₀ a) (answer : a = .hold t) : Keeps s₀ t := by
  subst answer
  exact h

protected theorem PumpedKeeps.ite {a b : Pumped} (ha : PumpedKeeps s₀ a) (hb : PumpedKeeps s₀ b) :
    PumpedKeeps s₀ (@ite _ c inst a b) := by
  split <;> assumption

theorem PumpedKeeps.sent {a : Pumped} (h : PumpedKeeps s₀ a) (answer : a = .sent t) : Keeps s₀ t := by
  subst answer
  exact h

theorem PumpedKeeps.held {a : Pumped} (h : PumpedKeeps s₀ a) (answer : a = .held t) : Keeps s₀ t := by
  subst answer
  exact h

protected theorem ExceptKeeps.ite {ε : Type} {a b : Except ε State} (ha : ExceptKeeps s₀ a) (hb : ExceptKeeps s₀ b) :
    ExceptKeeps s₀ (@ite _ c inst a b) := by
  split <;> assumption

theorem ExceptKeeps.ok {ε : Type} {a : Except ε State} (h : ExceptKeeps s₀ a) (answer : a = .ok t) : Keeps s₀ t := by
  subst answer
  exact h

protected theorem EntryKeeps.ite {α : Type} {a b : Except State (α × State)} (ha : EntryKeeps s₀ a) (hb : EntryKeeps s₀ b) :
    EntryKeeps s₀ (@ite _ c inst a b) := by
  split <;> assumption

theorem EntryKeeps.ok {α : Type} {a : Except State (α × State)} {v : α × State} (h : EntryKeeps s₀ a) (answer : a = .ok v) :
    Keeps s₀ v.2 := by
  subst answer
  exact h

theorem EntryKeeps.error {α : Type} {a : Except State (α × State)} (h : EntryKeeps s₀ a) (answer : a = .error t) :
    Keeps s₀ t := by
  subst answer
  exact h

theorem OptExceptKeeps.of_answer {ε : Type} {o : Option (Except ε State)} (h : OptExceptKeeps s₀ o) (answer : o = some (.ok t)) :
    Keeps s₀ t := by
  subst answer
  cases h
  assumption

theorem OptKeeps.mapOk {ε : Type} {o : Option State} {f : State → State} (h : OptKeeps s₀ o)
    (hf : ∀ t, Keeps s₀ t → Keeps s₀ (f t)) : OptExceptKeeps (ε := ε) s₀ (o.map fun t => .ok (f t)) := by
  cases o
  · exact .none
  · exact .ok (hf _ h)

end

end Sys2Proof.Machine

/-! SUPPORT. What keeps the queue and the canonical form: the shared operations: the log, MSI-X, the sequencers, the tallies, packets, messages and the commands of a sequencer. -/

namespace Sys2Proof.Machine

open Sys2Proof

section

set_option Elab.async false

variable {s₀ s : State}

protected theorem Keeps.useFree (h : Keeps s₀ s) : Keeps s₀ (useFree s) :=
  h.frame

protected theorem Keeps.freeBytes {n} (h : Keeps s₀ s) : Keeps s₀ (freeBytes n s).2 := by
  induction n generalizing s with
  | zero => exact h
  | succ n ih => exact ih h.useFree

protected theorem Keeps.msixNow {v'} (h : Keeps s₀ s) : Keeps s₀ (msixNow v' s) :=
  h.ite (h.frame.ite h.frame)

protected theorem Keeps.msixSend {v'} (h : Keeps s₀ s) : Keeps s₀ (msixSend v' s) :=
  h.msixNow.ite h.frame

protected theorem Keeps.logEntry {code src cont data} (h : Keeps s₀ s) : Keeps s₀ (logEntry code src cont data s) :=
  h.frame

protected theorem Keeps.logVector (h : Keeps s₀ s) : Keeps s₀ (logVector s) :=
  h.frame.msixSend.ite h

protected theorem Keeps.logRest {code src n rest} (h : Keeps s₀ s) : Keeps s₀ (logRest code src n rest s) := by
  induction n generalizing s rest with
  | zero => exact h
  | succ n ih => exact h.ite (ih h.logEntry.logVector)

protected theorem Keeps.logEvent {code src fs} (h : Keeps s₀ s) : Keeps s₀ (logEvent code src fs s) :=
  h.logEntry.logVector.logRest

protected theorem Keeps.logOncePhase {code key src fs} (h : Keeps s₀ s) : Keeps s₀ (logOncePhase code key src fs s) :=
  h.ite h.frame.logEvent

protected theorem Keeps.logEvery {code key period src fs} (h : Keeps s₀ s) : Keeps s₀ (logEvery code key period src fs s) :=
  h.ite h.frame.logEvent

protected theorem Keeps.setSeq {e q} (h : Keeps s₀ s) : Keeps s₀ (setSeq e q s) :=
  h.frame

protected theorem Keeps.modSeq {e f} (h : Keeps s₀ s) : Keeps s₀ (modSeq e f s) :=
  h.setSeq

protected theorem Keeps.modFox {e f} (h : Keeps s₀ s) : Keeps s₀ (modFox e f s) :=
  h.frame

protected theorem Keeps.setX {e r v'} (h : Keeps s₀ s) : Keeps s₀ (setX e r v' s) :=
  h.ite h.modFox

protected theorem Keeps.dropSlots {e} (h : Keeps s₀ s) : Keeps s₀ (dropSlots e s) :=
  h.frame

protected theorem Keeps.settle {e} (h : Keeps s₀ s) : Keeps s₀ (settle e s) :=
  (h.setSeq.dropSlots.ite h.setSeq).ite h

protected theorem Keeps.issueOpen {e} (h : Keeps s₀ s) : Keeps s₀ (issueOpen e s) :=
  h.modSeq

protected theorem Keeps.completeOp {e i} (h : Keeps s₀ s) : Keeps s₀ (completeOp e i s) :=
  h.modSeq.settle

protected theorem Keeps.setTally {i t'} (h : Keeps s₀ s) : Keeps s₀ (setTally i t' s) :=
  h.frame

protected theorem Keeps.releaseOne {i t' e} (h : Keeps s₀ s) : Keeps s₀ (releaseOne i t' e s) := by
  unfold releaseOne
  dsimp only
  split
  · refine Keeps.ite ?_ h
    split
    · exact h.setSeq.settle.setX
    · exact h.setSeq.settle
  · exact h

protected theorem Keeps.notifyTally {i t'} (h : Keeps s₀ s) : Keeps s₀ (notifyTally i t' s) :=
  h.frame.forEach fun _ _ h => h.msixSend

protected theorem Keeps.tallyChanged {i} (h : Keeps s₀ s) : Keeps s₀ (tallyChanged i s) :=
  (h.forEach fun _ _ h => h.releaseOne).frame.notifyTally

protected theorem Keeps.tallyError {i code eng} (h : Keeps s₀ s) : Keeps s₀ (tallyError i code eng s) :=
  h.setTally.tallyChanged

protected theorem Keeps.tallyAdd {i n eng} (h : Keeps s₀ s) : Keeps s₀ (tallyAdd i n eng s) :=
  h.setTally.tallyChanged.ite h.setTally.logOncePhase.tallyError

protected theorem Keeps.tallySet {i v'} (h : Keeps s₀ s) : Keeps s₀ (tallySet i v' s) :=
  h.setTally.tallyChanged

protected theorem Keeps.engineError {e code} (h : Keeps s₀ s) : Keeps s₀ (engineError e code s) :=
  h.tallyError

protected theorem Keeps.addrFault {code e a} (h : Keeps s₀ s) : Keeps s₀ (addrFault code e a s) :=
  h.logEvent.engineError.ite h.logEvent

protected theorem Keeps.setStore {st m} (h : Keeps s₀ s) (wf : (storeOf s st).wf = true → m.wf = true) :
    Keeps s₀ (setStore st m s) := by
  cases st
  · exact h.mem (sp := wf)
  · exact h.mem (hbm := wf)
  · exact h.mem (cs := wf)

/-- Bytes written over those of a store leave it canonical. -/
theorem Keeps.setStore_writeBytes {st a d} (h : Keeps s₀ s) :
    Keeps s₀ (setStore st ((storeOf s st).writeBytes a d) s) :=
  h.setStore (Memory.wf_writeBytes _ a d)

protected theorem Keeps.setPoison {st l} (h : Keeps s₀ s) : Keeps s₀ (setPoison st l s) := by
  unfold setPoison
  split <;> exact h.mem

protected theorem Keeps.writeStore {st a d} (h : Keeps s₀ s) : Keeps s₀ (writeStore st a d s) :=
  h.setStore_writeBytes.setPoison

protected theorem Keeps.poisonLines {st ls} (h : Keeps s₀ s) : Keeps s₀ (poisonLines st ls s) :=
  h.setPoison

protected theorem Keeps.writePoisoned {st a d} (h : Keeps s₀ s) : Keeps s₀ (writePoisoned st a d s) :=
  h.setStore_writeBytes.poisonLines

protected theorem Keeps.hostWrite {a d} (h : Keeps s₀ s) : Keeps s₀ (hostWrite a d s) :=
  (h.mem (host := Memory.wf_writeBytes _ a d)).ite h.frame

protected theorem Keeps.modQueue {q f} (h : Keeps s₀ s) : Keeps s₀ (modQueue q f s) :=
  h.frame

protected theorem Keeps.writeEntry {q id status detail} (h : Keeps s₀ s) : Keeps s₀ (writeEntry q id status detail s) :=
  h.modQueue.ite (h.modQueue.ite h.hostWrite.modQueue.msixSend)

protected theorem Keeps.postCompletion {q id status detail} (h : Keeps s₀ s) :
    Keeps s₀ (postCompletion q id status detail s) :=
  h.frame.writeEntry

protected theorem Keeps.finishWaiter {w status detail} (h : Keeps s₀ s) : Keeps s₀ (finishWaiter w status detail s) :=
  h.postCompletion

protected theorem Keeps.postStatus (h : Keeps s₀ s) : Keeps s₀ (postStatus s) :=
  h.frame.hostWrite.msixSend

protected theorem Keeps.modLane {k f} (h : Keeps s₀ s) : Keeps s₀ (modLane k f s) :=
  h.frame

protected theorem Keeps.modPort {n f} (h : Keeps s₀ s) : Keeps s₀ (modPort n f s) :=
  h.frame

protected theorem Keeps.licenceDrop {port} (h : Keeps s₀ s) : Keeps s₀ (licenceDrop port s) :=
  h.modPort.logOncePhase

protected theorem Keeps.countEscape {old p} (h : Keeps s₀ s) : Keeps s₀ (countEscape old p s) :=
  h.frame

protected theorem Keeps.enqueue {k old p} (h : Keeps s₀ s) : Keeps s₀ (enqueue k old p s) :=
  h.countEscape.modLane

protected theorem Keeps.routePacket {p} (h : Keeps s₀ s) : Keeps s₀ (routePacket p s) := by
  unfold routePacket
  refine h.frame.ite ?_
  split
  · exact h.enqueue
  · exact h.countEscape.frame

protected theorem Keeps.enqueueFirst {k old p} (h : Keeps s₀ s) : Keeps s₀ (enqueueFirst k old p s) :=
  h.countEscape.modLane

protected theorem Keeps.sendMsgPos {m pos} (h : Keeps s₀ s) : Keeps s₀ (sendMsgPos m pos s) :=
  h.routePacket

protected theorem Keeps.sendMsg {m dev} (h : Keeps s₀ s) : Keeps s₀ (sendMsg m dev s) := by
  unfold sendMsg
  split
  · exact h.sendMsgPos
  · exact h.routePacket

protected theorem Keeps.sendOrdered {p} (h : Keeps s₀ s) : Keeps s₀ (sendOrdered p s) :=
  (h.frame.ite h.frame).routePacket

protected theorem Keeps.releaseFlagged {src} (h : Keeps s₀ s) : Keeps s₀ (releaseFlagged src s) :=
  h.frame

protected theorem Keeps.orderApplied {src n} (h : Keeps s₀ s) : Keeps s₀ (orderApplied src n s) :=
  h.frame.releaseFlagged

protected theorem Keeps.sendCopy {p c} (h : Keeps s₀ s) : Keeps s₀ (sendCopy p c s) := by
  unfold sendCopy
  split
  · exact h.enqueue
  · exact h.forEach fun _ _ h => h.routePacket

protected theorem Keeps.handBack {far ps} (h : Keeps s₀ s) : Keeps s₀ (handBack far ps s) := by
  unfold handBack
  refine h.forEach fun _ _ h => h.frame.ite ?_
  split
  · exact h.enqueueFirst
  · exact h.countEscape.frame

protected theorem Keeps.sendStage {p stage dests} (h : Keeps s₀ s) : Keeps s₀ (sendStage p stage dests s) :=
  h.forEach fun _ _ h => h.sendCopy

protected theorem Keeps.broadcastMsg {m} (h : Keeps s₀ s) : Keeps s₀ (broadcastMsg m s) := by
  unfold broadcastMsg
  dsimp only
  split
  · exact h.sendStage.frame.sendMsgPos
  · exact h.sendStage.frame

protected theorem Keeps.relayMsg {p} (h : Keeps s₀ s) : Keeps s₀ (relayMsg p s) := by
  unfold relayMsg
  dsimp only
  split
  · exact (h.sendStage.ite h).sendMsgPos
  · exact h.sendStage.ite h

protected theorem Keeps.takeIngress {p} (h : Keeps s₀ s) : Keeps s₀ (takeIngress p s) :=
  h.frame

protected theorem Keeps.openSlot {i e waiting use p} (h : Keeps s₀ s) : Keeps s₀ (openSlot i e waiting use p s) :=
  h.frame

protected theorem Keeps.postEnd {c} (h : Keeps s₀ s) : Keeps s₀ (postEnd c s) :=
  h.frame.postStatus.forEach fun _ _ h => h.finishWaiter

protected theorem Keeps.settleEnd (h : Keeps s₀ s) : Keeps s₀ (settleEnd s) := by
  unfold settleEnd
  split
  · exact h.ite h.postEnd
  · exact h

protected theorem Keeps.closeSlot {i} (h : Keeps s₀ s) : Keeps s₀ (closeSlot i s) :=
  h.frame.settleEnd.ite h

protected theorem Keeps.sendRequest {e use p} (h : Keeps s₀ s) : OptKeeps s₀ (sendRequest e use p s) := by
  unfold sendRequest
  split
  · exact trivial
  · exact h.openSlot.sendOrdered.ite h.openSlot.routePacket

protected theorem Keeps.stopEngines (h : Keeps s₀ s) : Keeps s₀ (stopEngines s) :=
  h.frame

protected theorem Keeps.epochFault {cause e selfLost} (h : Keeps s₀ s) : Keeps s₀ (epochFault cause e selfLost s) :=
  h.logEvent.stopEngines.frame.sendMsg.ite h

protected theorem Keeps.eccFatal {st a e} (h : Keeps s₀ s) : Keeps s₀ (eccFatal st a e s) :=
  h.poisonLines.logEvent.epochFault

protected theorem Keeps.moveTime {d} (h : Keeps s₀ s) : Keeps s₀ (moveTime d s) :=
  h.frame

protected theorem Keeps.tick (h : Keeps s₀ s) : Keeps s₀ (tick s) :=
  h.frame.moveTime

protected theorem Keeps.reachTime {t'} (h : Keeps s₀ s) : Keeps s₀ (reachTime t' s) :=
  h.frame.ite h

protected theorem Keeps.refreshParent (h : Keeps s₀ s) : Keeps s₀ (refreshParent s) :=
  h.ite h.frame.logEvent

protected theorem Keeps.onIssue {e ops f} (h : Keeps s₀ s) (hf : ∀ w t, Keeps s₀ t → Keeps s₀ (f w t)) :
    OutKeeps s₀ (onIssue e ops s f) := by
  unfold onIssue
  split
  · exact hf _ _ h
  · exact h

protected theorem Keeps.nextPc {e} (h : Keeps s₀ s) : Keeps s₀ (nextPc e s) :=
  h.modSeq

protected theorem Keeps.setXreg {e r v'} (h : Keeps s₀ s) : Keeps s₀ (setXreg e r v' s) :=
  h.modSeq

protected theorem Keeps.execNop {e} (h : Keeps s₀ s) : OutKeeps s₀ (execNop e s) :=
  h.onIssue fun _ _ h => h.nextPc

protected theorem Keeps.execEndProg {e} (h : Keeps s₀ s) : OutKeeps s₀ (execEndProg e s) :=
  h.onIssue fun _ _ h => h.modSeq.settle

protected theorem Keeps.execWaitT {e} (h : Keeps s₀ s) : OutKeeps s₀ (execWaitT e s) :=
  h.onIssue fun _ _ h => h.modSeq.settle.ite h.modSeq

protected theorem Keeps.execSignal {e} (h : Keeps s₀ s) : OutKeeps s₀ (execSignal e s) :=
  h.onIssue fun _ _ h => h.modSeq

protected theorem Keeps.execErrt {e} (h : Keeps s₀ s) : OutKeeps s₀ (execErrt e s) :=
  h.onIssue fun _ _ h => h.modSeq

protected theorem Keeps.execSetx {e} (h : Keeps s₀ s) : OutKeeps s₀ (execSetx e s) :=
  h.onIssue fun _ _ h => h.setXreg.nextPc

protected theorem Keeps.execAddx {e} (h : Keeps s₀ s) : OutKeeps s₀ (execAddx e s) :=
  h.onIssue fun _ _ h => h.setXreg.nextPc

protected theorem Keeps.execLoopX {e} (h : Keeps s₀ s) : OutKeeps s₀ (execLoopX e s) :=
  h.onIssue fun _ _ h => h.nextPc.ite h.setXreg.modSeq

protected theorem Keeps.sendSig {e a n err} (h : Keeps s₀ s) : OptKeeps s₀ (sendSig e a n err s) :=
  h.sendRequest

protected theorem Keeps.applySignal {e g} (h : Keeps s₀ s) : OptKeeps s₀ (applySignal e g s) := by
  unfold applySignal
  split
  · exact h.tallyAdd.ite h.addrFault
  · exact h.sendSig

protected theorem Keeps.execSignalApply {e} (h : Keeps s₀ s) : OutKeeps s₀ (execSignalApply e s) := by
  unfold execSignalApply
  dsimp only
  split
  · exact h
  · refine .ite h (.ite h ?_)
    split
    · exact (h.applySignal.some ‹_›).modSeq.settle
    · exact h

protected theorem Keeps.modEcc {st a f} (h : Keeps s₀ s) : Keeps s₀ (modEcc st a f s) :=
  h.mem

protected theorem Keeps.eccNote {st a e x} (h : Keeps s₀ s) : Keeps s₀ (eccNote st a e x s) := by
  unfold eccNote
  split
  · exact h
  · exact h.modEcc.logOncePhase
  · exact h.modEcc.eccFatal

protected theorem Keeps.hbmServe {lat a n} (h : Keeps s₀ s) : Keeps s₀ (hbmServe lat a n s) :=
  h.mem

protected theorem Keeps.served {st lat a n} (h : Keeps s₀ s) : Keeps s₀ (served st lat a n s) :=
  h.hbmServe.ite h

protected theorem Keeps.atomAt {st a op elem x swap} (h : Keeps s₀ s) : Keeps s₀ (atomAt st a op elem x swap s).2.2 := by
  unfold atomAt
  dsimp only
  split
  · exact h
  · exact h.setStore_writeBytes

protected theorem Keeps.tallyStore {e off len v'} (h : Keeps s₀ s) : OptKeeps s₀ (tallyStore e off len v' s) :=
  .ite trivial (.ite h.tallyAdd (.ite h.tallySet (.ite h.tallyError trivial)))

protected theorem Keeps.modCtx {c f} (h : Keeps s₀ s) : Keeps s₀ (modCtx c f s) :=
  h.frame

protected theorem Keeps.modStr {k f} (h : Keeps s₀ s) : Keeps s₀ (modStr k f s) :=
  h.frame

protected theorem Keeps.ctxFault {c code pos keep} (h : Keeps s₀ s) : Keeps s₀ (ctxFault c code pos keep s) :=
  h.modCtx.modStr.logEvent.tallyError

protected theorem Keeps.keyFault {c p code a} (h : Keeps s₀ s) : Keeps s₀ (keyFault c p code a s) := by
  unfold keyFault
  refine Keeps.ctxFault ?_
  split
  · exact h.logEvent
  · exact h

protected theorem Keeps.unitWrite {c off d} (h : Keeps s₀ s) : ExceptKeeps s₀ (unitWrite c off d s) := by
  unfold unitWrite
  split
  · exact trivial
  · exact .ite trivial h.writeStore

protected theorem Keeps.rowWrite {c row l} (h : Keeps s₀ s) : ExceptKeeps s₀ (rowWrite c row l s) := by
  induction l generalizing s with
  | nil => exact h
  | cons b l ih =>
    unfold rowWrite
    split
    · exact ih (h.unitWrite.ok ‹_›)
    · trivial

protected theorem Keeps.ctxOpen {c} (h : Keeps s₀ s) : Keeps s₀ (ctxOpen c s) := by
  unfold ctxOpen
  refine h.ctxFault.ite (h.ctxFault.ite ?_)
  split
  · exact h.keyFault
  · exact (h.rowWrite.ok ‹_›).modCtx

protected theorem Keeps.ctxAppend {c n} (h : Keeps s₀ s) : Keeps s₀ (ctxAppend c n s) :=
  h.ctxFault.ite (h.ctxFault.ite h.modCtx.modStr)

protected theorem Keeps.ctxClose {c} (h : Keeps s₀ s) : Keeps s₀ (ctxClose c s) :=
  h.ctxFault.ite (h.modCtx.ite h.modCtx)

protected theorem Keeps.ctxReset {c} (h : Keeps s₀ s) : Keeps s₀ (ctxReset c s) :=
  h.ctxFault.ite h.modCtx

end

end Sys2Proof.Machine

/-! SUPPORT. What keeps the queue and the canonical form: contexts, the directory, requests at their home and the transfers of an epoch. -/

namespace Sys2Proof.Machine

open Sys2Proof

section

set_option Elab.async false

variable {s₀ s : State}

protected theorem Keeps.ctxCommand {c v'} (h : Keeps s₀ s) : Keeps s₀ (ctxCommand c v' s) :=
  h.ctxFault.ite (h.ctxAppend.ite (h.ctxFault.ite (h.ctxOpen.ite (h.ctxClose.ite (h.ctxReset.ite h.ctxFault)))))

protected theorem Keeps.ctxReach {c v'} (h : Keeps s₀ s) : Keeps s₀ (ctxReach c v' s) :=
  h.modCtx.ite h.ctxCommand

protected theorem Keeps.ctxLater {c l} (h : Keeps s₀ s) : Keeps s₀ (ctxLater c l s) := by
  induction l generalizing s with
  | nil => exact h
  | cons v l ih => exact h.modCtx.ite (ih h.ctxCommand)

protected theorem Keeps.ctxStore {c off d} (h : Keeps s₀ s) : OptKeeps s₀ (ctxStore c off d s) :=
  .ite trivial (.ite (.ite h.ctxReach trivial) (.ite trivial (.ite trivial (.ite trivial h.modCtx))))

protected theorem Keeps.streamStore {off d} (h : Keeps s₀ s) : OptKeeps s₀ (streamStore off d s) :=
  h.ctxStore

protected theorem Keeps.ctxRefuse {e c off} (h : Keeps s₀ s) : Keeps s₀ (ctxRefuse e c off s) :=
  h.addrFault

protected theorem Keeps.execStreamAppend {e c n} (h : Keeps s₀ s) : OutKeeps s₀ (execStreamAppend e c n s) :=
  h.ctxReach.ite h.ctxRefuse

protected theorem Keeps.execStreamOpen {e c} (h : Keeps s₀ s) : OutKeeps s₀ (execStreamOpen e c s) :=
  h.ctxReach.ite h.ctxRefuse

protected theorem Keeps.execStreamClose {e c} (h : Keeps s₀ s) : OutKeeps s₀ (execStreamClose e c s) :=
  h.ctxReach.ite h.ctxRefuse

protected theorem Keeps.execStreamReset {e c} (h : Keeps s₀ s) : OutKeeps s₀ (execStreamReset e c s) :=
  h.ctxReach.ite h.ctxRefuse

protected theorem Keeps.execContextStore {e c off d} (h : Keeps s₀ s) : OutKeeps s₀ (execContextStore e c off d s) := by
  unfold execContextStore
  split
  · exact (h.ctxStore.some ‹_›)
  · exact h.ctxRefuse

protected theorem Keeps.execCloseComplete {c} (h : Keeps s₀ s) : OutKeeps s₀ (execCloseComplete c s) :=
  .ite h.modCtx.ctxLater h

protected theorem Keeps.streamAnswered {c} (h : Keeps s₀ s) : Keeps s₀ (streamAnswered c s) :=
  h.modCtx

protected theorem Keeps.streamFailed {c} (h : Keeps s₀ s) : Keeps s₀ (streamFailed c s) :=
  h.streamAnswered.ctxFault

protected theorem Keeps.dcsStore {e off d} (h : Keeps s₀ s) : OptKeeps s₀ (dcsStore e off d s) :=
  .ite h.tallyStore (.ite h h.streamStore)

protected theorem Keeps.modDir {line f} (h : Keeps s₀ s) : Keeps s₀ (modDir line f s) :=
  h.frame

protected theorem Keeps.modCounts {line f} (h : Keeps s₀ s) : Keeps s₀ (modCounts line f s) :=
  h.frame

protected theorem Keeps.sendCoh {ptype dest home line core tag gen dirty poison d} (h : Keeps s₀ s) :
    Keeps s₀ (sendCoh ptype dest home line core tag gen dirty poison d s) :=
  h.routePacket

protected theorem Keeps.answerCoh {ptype line p} (h : Keeps s₀ s) : Keeps s₀ (answerCoh ptype line p s) :=
  h.sendCoh

protected theorem Keeps.dirDone {st sharers owner line} (h : Keeps s₀ s) : Keeps s₀ (dirDone st sharers owner line s) :=
  h.modDir

protected theorem Keeps.grantM {line p granted} (h : Keeps s₀ s) : Keeps s₀ (grantM line p granted s) :=
  h.answerCoh.dirDone

protected theorem Keeps.snoopOwner {line inv req ext} (h : Keeps s₀ s) : Keeps s₀ (snoopOwner line inv req ext s) :=
  h.modCounts.modDir.sendCoh

protected theorem Keeps.invSharers {line ms req ext} (h : Keeps s₀ s) : Keeps s₀ (invSharers line ms req ext s) :=
  h.modCounts.modDir.forEach fun _ _ h => h.sendCoh

protected theorem Keeps.dirStart {line req} (h : Keeps s₀ s) : Keeps s₀ (dirStart line req s) := by
  unfold dirStart
  dsimp only
  split
  · split
    · exact h.modCounts.answerCoh.dirDone
    · exact h.modCounts.snoopOwner
    · exact h.modCounts.answerCoh.dirDone
  · split
    · exact h.modCounts.grantM.ite h.modCounts.invSharers
    · exact h.modCounts.snoopOwner
    · exact h.modCounts.grantM
  · split
    · exact h.ite (h.dirDone.ite h.invSharers)
    · exact h.snoopOwner
    · exact h

protected theorem Keeps.dirAnswered {line} (h : Keeps s₀ s) : Keeps s₀ (dirAnswered line s) := by
  unfold dirAnswered
  dsimp only
  split
  · exact h.answerCoh.dirDone
  · exact h.grantM
  · exact h.dirDone.ite h.dirDone
  · exact h

protected theorem Keeps.dirAcked {line} (h : Keeps s₀ s) : Keeps s₀ (dirAcked line s) := by
  unfold dirAcked
  split
  · exact h.grantM
  · exact h.dirDone
  · exact h.dirDone

protected theorem Keeps.csRecall {off len write} (h : Keeps s₀ s) : Keeps s₀ (csRecall off len write s) :=
  h.forEach fun _ _ h => h.dirStart.ite h

protected theorem Keeps.countUncached {off n} (h : Keeps s₀ s) : Keeps s₀ (countUncached off n s) :=
  h.modCounts

protected theorem Keeps.ownerData {line m} (h : Keeps s₀ s) : Keeps s₀ (ownerData line m s) :=
  h.writePoisoned.ite h.writeStore

protected theorem Keeps.rateMark {code key} (h : Keeps s₀ s) : Keeps s₀ (rateMark code key s) :=
  h.frame

protected theorem Keeps.sendSuspect {d} (h : Keeps s₀ s) : Keeps s₀ (sendSuspect d s) :=
  h.rateMark.sendMsg.ite h

protected theorem Keeps.noteDead {e ptype d cause lost} (h : Keeps s₀ s) : Keeps s₀ (noteDead e ptype d cause lost s) :=
  (h.frame.logOncePhase.ite h.frame.logOncePhase.sendMsg).sendSuspect

theorem Memory.wf_copyRange {src dst : Memory} {a b n : Nat} (wf : dst.wf = true) : (copyRange src a dst b n).wf = true :=
  Memory.wf_foldl_write (place := fun k => b + (k - a)) (Memory.wf_filter wf)

protected theorem Keeps.putRange {src bad a st b n} (h : Keeps s₀ s) : Keeps s₀ (putRange src bad a st b n s) :=
  (h.setStore Memory.wf_copyRange).setPoison

protected theorem Keeps.modXfers {f} (h : Keeps s₀ s) : Keeps s₀ (modXfers f s) :=
  h.frame

protected theorem Keeps.pumpXfers {n} (h : Keeps s₀ s) : Keeps s₀ (pumpXfers n s) := by
  induction n generalizing s with
  | zero => exact h
  | succ n ih =>
    unfold pumpXfers
    split
    · exact h
    · dsimp only
      split
      · exact h
      · exact ih (h.sendRequest.some ‹_›).modXfers

protected theorem Keeps.runXfers (h : Keeps s₀ s) : Keeps s₀ (runXfers s) :=
  h.pumpXfers

protected theorem Keeps.startXfer {x} (h : Keeps s₀ s) : Keeps s₀ (startXfer x s) :=
  h.frame.runXfers

protected theorem Keeps.xferAcked {n p} (h : Keeps s₀ s) : Keeps s₀ (xferAcked n p s) :=
  (h.modXfers.tallyAdd.ite h.modXfers).runXfers

protected theorem Keeps.hoardLost (h : Keeps s₀ s) : Keeps s₀ (hoardLost s) :=
  h.ite h.frame.logEvent

protected theorem Keeps.fetchedLine {p d bad} (h : Keeps s₀ s) : Keeps s₀ (fetchedLine p d bad s) :=
  h.frame.ite h.writeStore

protected theorem Keeps.xferFailed {code p} (h : Keeps s₀ s) : Keeps s₀ (xferFailed code p s) :=
  h.tallyError.frame.ite (h.tallyError.hoardLost.ite h.tallyError)

protected theorem Keeps.respond {ptype p b} (h : Keeps s₀ s) : Keeps s₀ (respond ptype p b s) :=
  h.routePacket

protected theorem Keeps.respondData {p d poison} (h : Keeps s₀ s) : Keeps s₀ (respondData p d poison s) :=
  h.respond

protected theorem Keeps.respondAck {p old poison err} (h : Keeps s₀ s) : Keeps s₀ (respondAck p old poison err s) :=
  h.respond

protected theorem Keeps.respondErr {p code} (h : Keeps s₀ s) : Keeps s₀ (respondErr p code s) :=
  h.respond

protected theorem Keeps.takeMark {src} (h : Keeps s₀ s) : Keeps s₀ (takeMark src s).2 :=
  h.frame

protected theorem Keeps.markTally {i code eng} (h : Keeps s₀ s) : Keeps s₀ (markTally i code eng s) :=
  h.ite h.setTally

protected theorem Keeps.refuseRemote {p code record} (h : Keeps s₀ s) : Keeps s₀ (refuseRemote p code record s) :=
  ((h.logEvent.ite h).frame.ite (h.logEvent.ite h)).respondErr.orderApplied.ite
      ((h.logEvent.ite h).frame.ite (h.logEvent.ite h)).respondErr

protected theorem Keeps.reduceWrite {st op elem d a bad n} (h : Keeps s₀ s) :
    Keeps s₀ (reduceWrite st op elem d a bad n s) := by
  induction n generalizing s d a with
  | zero => exact h
  | succ n ih => exact h.ite (ih (h.poisonLines.ite h.atomAt))

protected theorem Keeps.storeWrite {st a d bad} (h : Keeps s₀ s) : Keeps s₀ (storeWrite st a d bad s) :=
  h.writePoisoned.ite h.writeStore

protected theorem Keeps.serveStore {st ecc p} (h : Keeps s₀ s) : Keeps s₀ (serveStore st ecc p s) := by
  unfold serveStore
  dsimp only
  split
  · exact (h.served.countUncached.ite h.served).eccNote.respondData
  · exact (h.served.countUncached.ite h.served).eccNote.atomAt.respondAck
  · exact (h.served.countUncached.ite h.served).eccNote.reduceWrite.respondAck
  · exact (h.served.countUncached.ite h.served).storeWrite.respondAck

protected theorem Keeps.serveSig {p} (h : Keeps s₀ s) : Keeps s₀ (serveSig p s) :=
  ((h.takeMark.markTally.ite h.takeMark).useFree.markTally.ite (h.takeMark.markTally.ite h.takeMark)).tallyAdd.respondAck

protected theorem Keeps.servePacket {ecc p} (h : Keeps s₀ s) : Keeps s₀ (servePacket ecc p s) := by
  unfold servePacket
  refine (Keeps.orderApplied ?_).ite ?_
  · split
    · refine (Keeps.storeWrite ?_).respondAck.ite (Keeps.serveStore ?_)
      · split
        · exact h.takeMark
        · exact h
      · split
        · exact h.takeMark
        · exact h
    · exact (h.serveSig.ite h).ite ((h.respondData.ite (h.tallyAdd.respondAck.ite
        (h.tallyStore.getD h).respondAck)).ite (h.respondData.ite (h.dcsStore.getD h).respondAck))
  · split
    · refine (Keeps.storeWrite ?_).respondAck.ite (Keeps.serveStore ?_)
      · split
        · exact h.takeMark
        · exact h
      · split
        · exact h.takeMark
        · exact h
    · exact (h.serveSig.ite h).ite ((h.respondData.ite (h.tallyAdd.respondAck.ite
        (h.tallyStore.getD h).respondAck)).ite (h.respondData.ite (h.dcsStore.getD h).respondAck))

protected theorem Keeps.serveRemote {ecc p} (h : Keeps s₀ s) : Keeps s₀ (serveRemote ecc p s) := by
  unfold serveRemote
  dsimp only
  split
  · exact h.refuseRemote
  · split
    · exact h.refuseRemote
    · exact h.csRecall.frame.ite h.servePacket

protected theorem Keeps.retryWaiting (h : Keeps s₀ s) : Keeps s₀ (retryWaiting s) :=
  h.frame.forEach fun _ _ h => h.serveRemote

protected theorem Keeps.dirServe {line n} (h : Keeps s₀ s) : Keeps s₀ (dirServe line n s) := by
  induction n generalizing s with
  | zero => exact h
  | succ n ih =>
    unfold dirServe
    dsimp only
    split
    · exact (ih h.modDir.dirStart).ite h
    · exact h

protected theorem Keeps.homeNext {line} (h : Keeps s₀ s) : Keeps s₀ (homeNext line s) :=
  h.retryWaiting.dirServe

protected theorem Keeps.serveHoardRead {ecc p} (h : Keeps s₀ s) : Keeps s₀ (serveHoardRead ecc p s) := by
  unfold serveHoardRead
  split
  · exact h.eccNote.respondData.ite h.refuseRemote
  · exact h.refuseRemote

protected theorem Keeps.execRd {p ecc} (h : Keeps s₀ s) : OutKeeps s₀ (execRd p ecc s) :=
  h.takeIngress.serveHoardRead.ite h.takeIngress.serveRemote

protected theorem Keeps.execWr {p} (h : Keeps s₀ s) : OutKeeps s₀ (execWr p s) :=
  h.takeIngress.serveRemote

protected theorem Keeps.execAtom {x} (h : Keeps s₀ s) : OutKeeps s₀ (execAtom x s) :=
  h.takeIngress.serveRemote

protected theorem Keeps.execRed {x} (h : Keeps s₀ s) : OutKeeps s₀ (execRed x s) :=
  h.takeIngress.serveRemote

protected theorem Keeps.execSig {p} (h : Keeps s₀ s) : OutKeeps s₀ (execSig p s) :=
  h.takeIngress.serveRemote

protected theorem Keeps.execWrMc {p} (h : Keeps s₀ s) : OutKeeps s₀ (execWrMc p s) :=
  .ite (h.takeIngress.sendStage.ite h.takeIngress).serveRemote (h.takeIngress.sendStage.ite h.takeIngress)

protected theorem Keeps.homeRequest {req p} (h : Keeps s₀ s) : Keeps s₀ (homeRequest req p s) :=
  h.respondErr.ite (h.respondErr.ite (h.dirStart.ite (h.modCounts.sendCoh.ite h.modDir)))

protected theorem Keeps.execGets {p} (h : Keeps s₀ s) : OutKeeps s₀ (execGets p s) :=
  h.takeIngress.homeRequest

protected theorem Keeps.execGetm {p} (h : Keeps s₀ s) : OutKeeps s₀ (execGetm p s) :=
  h.takeIngress.homeRequest

protected theorem Keeps.execUpg {p} (h : Keeps s₀ s) : OutKeeps s₀ (execUpg p s) :=
  h.takeIngress.homeRequest

protected theorem Keeps.wbAck {p} (h : Keeps s₀ s) : Keeps s₀ (wbAck p s) :=
  h.sendCoh

protected theorem Keeps.strayNote {line} (h : Keeps s₀ s) : Keeps s₀ (strayNote line s) :=
  h.modCounts.logEvent

protected theorem Keeps.homePut {dirty p} (h : Keeps s₀ s) : Keeps s₀ (homePut dirty p s) :=
  (h.ownerData.ite h).dirDone.wbAck.homeNext.ite (((h.ownerData.ite h).modCounts.wbAck.ite
      (h.ownerData.ite h).modCounts.modDir).dirAnswered.homeNext.ite h.strayNote.wbAck)

protected theorem Keeps.execPutm {p} (h : Keeps s₀ s) : OutKeeps s₀ (execPutm p s) :=
  h.takeIngress.homePut

protected theorem Keeps.execPute {p} (h : Keeps s₀ s) : OutKeeps s₀ (execPute p s) :=
  h.takeIngress.homePut

protected theorem Keeps.execSnpData {p} (h : Keeps s₀ s) : OutKeeps s₀ (execSnpData p s) :=
  .ite (h.takeIngress.ownerData.ite h.takeIngress).dirAnswered.homeNext h.takeIngress

protected theorem Keeps.execInvAck {p} (h : Keeps s₀ s) : OutKeeps s₀ (execInvAck p s) :=
  .ite (h.takeIngress.modDir.dirAcked.homeNext.ite h.takeIngress.modDir) h.takeIngress

protected theorem Keeps.execDataInFlight {p} (h : Keeps s₀ s) : OutKeeps s₀ (execDataInFlight p s) := by
  unfold execDataInFlight
  dsimp only
  split
  · exact h.takeIngress.modDir.wbAck
  · exact .ite h.takeIngress.modDir h.takeIngress

protected theorem Keeps.failWaiting {line} (h : Keeps s₀ s) : Keeps s₀ (failWaiting line s) :=
  h.frame.forEach fun _ _ h => h.refuseRemote

protected theorem Keeps.execHomeWaitTimeout {line} (h : Keeps s₀ s) : OutKeeps s₀ (execHomeWaitTimeout line s) := by
  unfold execHomeWaitTimeout
  refine .ite (h.forEach fun _ _ h => h.logEvent).modCounts.dirAcked.homeNext
      (.ite (Keeps.failWaiting ?_).modDir.dirDone.homeNext h)
  split
  · exact h.modCounts.logEvent.eccNote.answerCoh
  · exact h.modCounts.logEvent.eccNote.answerCoh
  · exact h.modCounts.logEvent.eccNote

protected theorem Keeps.modHare {e f} (h : Keeps s₀ s) : Keeps s₀ (modHare e f s) :=
  h.frame

protected theorem Keeps.modCopy {e i f} (h : Keeps s₀ s) : Keeps s₀ (modCopy e i f s) :=
  h.modHare

protected theorem Keeps.postRemote {e d n r err} (h : Keeps s₀ s) : Keeps s₀ (postRemote e d r n err s) := by
  unfold postRemote
  extract_lets
  split
  · exact OptKeeps.some (.ite (show OptKeeps s₀ none from trivial) h.sendSig) ‹_›
  · exact h.modSeq

protected theorem Keeps.postTally {e c n} (h : Keeps s₀ s) : Keeps s₀ (postTally e c n s) := by
  unfold postTally
  refine h.ite ?_
  split
  · exact (h.modHare.forEach fun _ _ h => h.postRemote).tallyAdd.ite (h.modHare.forEach fun _ _ h => h.postRemote)
  · exact h.modHare.postRemote.ite (h.modHare.tallyAdd.ite h.modHare.addrFault)

protected theorem Keeps.postChunks {e c upto n pos} (h : Keeps s₀ s) : Keeps s₀ (postChunks e c upto n pos s) := by
  induction n generalizing s pos with
  | zero => exact h
  | succ n ih =>
    refine h.ite (ih ?_)
    split
    · exact h.postTally
    · exact h.postTally.ite h
    · exact h.postTally.ite h

protected theorem Keeps.postUpto {e i upto} (h : Keeps s₀ s) : Keeps s₀ (postUpto e i upto s) := by
  unfold postUpto
  split
  · exact h.ite h.postChunks.modCopy
  · exact h

protected theorem Keeps.copyErrors {e c code} (h : Keeps s₀ s) : Keeps s₀ (copyErrors e c code s) := by
  unfold copyErrors
  refine (h.ite ?_).engineError
  split
  · exact (h.forEach fun _ _ h => h.postRemote).tallyError.ite (h.forEach fun _ _ h => h.postRemote)
  · exact (h.postRemote.ite h).ite (h.tallyError.ite h)

protected theorem Keeps.copySettle {e i} (h : Keeps s₀ s) : Keeps s₀ (copySettle e i s) := by
  unfold copySettle
  split
  · exact h.modHare.completeOp.ite h
  · exact h

protected theorem Keeps.stopCopy {e i} (h : Keeps s₀ s) : Keeps s₀ (stopCopy e i s) :=
  h.modHare.modCopy.copySettle

protected theorem Keeps.refuseCopy {e c code a} (h : Keeps s₀ s) : Keeps s₀ (refuseCopy e c code a s) := by
  unfold refuseCopy
  exact h.logEvent.modHare.copyErrors.stopCopy

protected theorem Keeps.hostErrorCopy {e c a status} (h : Keeps s₀ s) : Keeps s₀ (hostErrorCopy e c a status s) := by
  unfold hostErrorCopy
  exact h.logEvent.modHare.copyErrors.stopCopy

protected theorem Keeps.localRecall {a n write} (h : Keeps s₀ s) : Keeps s₀ (localRecall a n write s) :=
  h.csRecall.ite h

protected theorem Keeps.localSense {e lat a n ecc} (h : Keeps s₀ s) : Keeps s₀ (localSense e lat a n ecc s) := by
  unfold localSense
  dsimp only
  split
  · exact h.eccNote.served
  · exact h

protected theorem Keeps.firstSense {e a ecc} (h : Keeps s₀ s) : Keeps s₀ (firstSense e a ecc s) := by
  unfold firstSense
  split
  · exact h.eccNote
  · exact h

protected theorem Keeps.hostStore {a d} (h : Keeps s₀ s) : Keeps s₀ (hostStore a d s) :=
  h.forEach fun _ _ h => h.hostWrite

protected theorem Keeps.countBytes {e n bad} (h : Keeps s₀ s) : Keeps s₀ (countBytes e n bad s) :=
  h.modHare

protected theorem Keeps.localPut {c a d bad} (h : Keeps s₀ s) : Keeps s₀ (localPut c a d bad s) := by
  unfold localPut
  dsimp only
  split
  · exact (h.served.countUncached.ite h.served).storeWrite.ite (h.served.countUncached.ite h.served).reduceWrite
  · exact h.hostStore

protected theorem Keeps.localWrite {e c a d bad} (h : Keeps s₀ s) : Keeps s₀ (localWrite e c a d bad s) :=
  h.countBytes.localPut

protected theorem Keeps.landed {e i pos len} (h : Keeps s₀ s) : Keeps s₀ (landed e i pos len s) := by
  unfold landed
  split
  · exact h
  · exact (h.modCopy.modCopy.modHare.ite h.modCopy).ite h.modCopy.postUpto

protected theorem Keeps.noteSent {e i n} (h : Keeps s₀ s) : Keeps s₀ (noteSent e i n s) :=
  h.modCopy

end

end Sys2Proof.Machine

/-! SUPPORT. What keeps the queue and the canonical form: the hares and the fox cores. -/

namespace Sys2Proof.Machine

open Sys2Proof

section

set_option Elab.async false

variable {s₀ s : State}

protected theorem Keeps.sendMc {e use dests p} (h : Keeps s₀ s) : OptKeeps s₀ (sendMc e use dests p s) := by
  unfold sendMc
  split
  · exact trivial
  · exact (h.openSlot.forEach fun _ _ h => h.frame).sendStage

protected theorem Keeps.sendWrite {e c d bad} (h : Keeps s₀ s) : OptKeeps s₀ (sendWrite e c d bad s) := by
  unfold sendWrite
  split
  · exact .ite (h.localPut.ite h).countBytes.modCopy.postUpto
      ((h.localPut.ite h).sendMc.map fun _ h => h.noteSent.countBytes.modCopy.postUpto)
  · exact h.sendRequest.map fun _ h => h.noteSent.countBytes.modCopy.postUpto

protected theorem Keeps.hostAsk {e i} (h : Keeps s₀ s) : Keeps s₀ (hostAsk e i s) := by
  unfold hostAsk
  split
  · exact h
  · exact h.modCopy.modHare.ite h

protected theorem Keeps.hostGot {e c} (h : Keeps s₀ s) : Keeps s₀ (hostGot e c s) :=
  h.modCopy.modHare

protected theorem Keeps.ownRecall {c pos n} (h : Keeps s₀ s) : Keeps s₀ (ownRecall c pos n s) := by
  unfold ownRecall
  split
  · exact h.localRecall
  · exact h

protected theorem Keeps.pumpOut {e c ecc} (h : Keeps s₀ s) : PumpedKeeps s₀ (pumpOut e c ecc s) := by
  unfold pumpOut
  dsimp only
  split
  · exact h.refuseCopy
  · refine .ite h (.ite h.ownRecall (.ite ?_ (.ite h (.ite h.localRecall ?_))))
    · split
      · exact (h.sendWrite.some ‹_›)
      · exact h
    · split
      · exact h.localSense
      · split
        · exact (h.localSense.sendWrite.some ‹_›)
        · exact h.localSense

protected theorem Keeps.pumpIn {e c} (h : Keeps s₀ s) : PumpedKeeps s₀ (pumpIn e c s) := by
  unfold pumpIn
  dsimp only
  split
  · exact h.refuseCopy
  · refine .ite h ?_
    split
    · exact (h.sendRequest.some ‹_›).noteSent
    · exact h

protected theorem Keeps.pumpItem {e c} (h : Keeps s₀ s) : PumpedKeeps s₀ (pumpItem e c s) := by
  unfold pumpItem
  dsimp only
  split
  · exact h.refuseCopy
  · refine .ite h.localRecall (.ite h ?_)
    split
    · exact (h.sendRequest.some ‹_›).noteSent
    · exact h

protected theorem Keeps.pumpCopy {e i ecc n} (h : Keeps s₀ s) : Keeps s₀ (pumpCopy e i ecc n s) := by
  induction n generalizing s ecc with
  | zero => exact h
  | succ n ih =>
    unfold pumpCopy
    split
    · exact h
    · refine h.hostAsk.ite (h.ite ?_)
      extract_lets r
      have pumped : PumpedKeeps s₀ r := .ite h.pumpItem
          (.ite h.pumpIn (.ite h.pumpOut (show PumpedKeeps s₀ (.held s) from h)))
      clear_value r
      cases r with
      | sent t => exact ih pumped
      | held t => exact pumped

protected theorem Keeps.pumpList {e l} (h : Keeps s₀ s) : Keeps s₀ (pumpList e l s) := by
  induction l generalizing s with
  | nil => exact h
  | cons i l ih =>
    unfold pumpList
    dsimp only
    split
    · exact (ih h.pumpCopy).ite h.pumpCopy
    · exact ih h.pumpCopy

protected theorem Keeps.pumpHare {e} (h : Keeps s₀ s) : Keeps s₀ (pumpHare e s) :=
  h.pumpList

protected theorem Keeps.refuseDown {e c d} (h : Keeps s₀ s) : Keeps s₀ (refuseDown e c d s) :=
  h.logEvent.modHare.copyErrors

protected theorem Keeps.startCopy {e c} (h : Keeps s₀ s) : Keeps s₀ (startCopy e c s) :=
  h.issueOpen.modHare.pumpHare.copySettle

protected theorem Keeps.issueCopy {e ecc w} (h : Keeps s₀ s) : Keeps s₀ (issueCopy e ecc w s) := by
  unfold issueCopy
  dsimp only
  refine h.ite ?_
  split
  · exact h.nextPc.refuseDown
  · exact h.nextPc.ite (h.nextPc.firstSense.ite h.nextPc).startCopy

protected theorem Keeps.chunkLocal {e c ecc host} (h : Keeps s₀ s) : Keeps s₀ (chunkLocal e c ecc host s) := by
  unfold chunkLocal
  extract_lets pos n a b sensed read got written landed
  have hsensed : Keeps s₀ sensed := h.localSense.ite h
  have hlanded : Keeps s₀ landed := (hsensed.hostGot.ite hsensed).localWrite.modCopy.landed.copySettle
  refine h.hostErrorCopy.ite (h.hostErrorCopy.ite ?_)
  split
  · exact h.refuseCopy
  · refine h.ite (h.localRecall.ite (h.localRecall.ite (h.hostErrorCopy.ite ?_)))
    split
    · exact hsensed
    · exact hlanded.hostAsk.ite hlanded

protected theorem Keeps.chunkItem {e c ecc list} (h : Keeps s₀ s) : Keeps s₀ (chunkItem e c ecc list s) := by
  unfold chunkItem
  dsimp only
  split
  · exact h.refuseCopy
  · refine h.localRecall.ite (h.localSense.ite (h.localSense.localRecall.ite
      (h.localSense.hostErrorCopy.ite (h.localSense.freeBytes.localWrite.modCopy.landed.copySettle.pumpHare.ite ?_))))
    split
    · exact h.localSense.logEvent.modHare.copyErrors.localWrite.modCopy.landed.copySettle.pumpHare
    · refine h.localSense.ite (h.localSense.localRecall.ite ?_)
      split
      · exact h.localSense.localSense
      · exact h.localSense.localSense.localWrite.modCopy.landed.copySettle.pumpHare

protected theorem Keeps.chunkOut {e c host} (h : Keeps s₀ s) : OutKeeps s₀ (chunkOut e c host s) := by
  unfold chunkOut
  refine .ite h.hostErrorCopy ?_
  split
  · exact h.refuseCopy
  · refine .ite h.hostAsk ?_
    split
    · exact h.hostErrorCopy
    · refine .ite h (.ite h.ownRecall ?_)
      split
      · exact (h.hostGot.sendWrite.some ‹_›).hostAsk
      · exact h

protected theorem Keeps.execChunkPerformed {e i ecc host} (h : Keeps s₀ s) :
    OutKeeps s₀ (execChunkPerformed e i ecc host s) := by
  unfold execChunkPerformed
  split
  · exact h
  · exact .ite h (.ite h.chunkItem (.ite h.pumpHare (.ite (.ite h.chunkOut h.pumpCopy.pumpHare)
      (.ite h.hostAsk.chunkLocal h.chunkLocal))))

protected theorem Keeps.foxReadbackDone {e i} (h : Keeps s₀ s) : Keeps s₀ (foxReadbackDone e i s) :=
  h.modFox.completeOp.ite h

protected theorem Keeps.execHostReadbackDone {e i status} (h : Keeps s₀ s) :
    OutKeeps s₀ (execHostReadbackDone e i status s) := by
  unfold execHostReadbackDone
  split
  · exact h.foxReadbackDone.ite h
  · split
    · exact h
    · exact .ite h.modHare.hostErrorCopy h.modHare.modCopy.postUpto.copySettle

protected theorem Keeps.cutMload {k} (h : Keeps s₀ s) : Keeps s₀ (cutMload k s) := by
  unfold cutMload
  split
  · exact h
  · exact h.logEvent.frame.engineError.completeOp

protected theorem Keeps.execCeDrainCut {e i} (h : Keeps s₀ s) : OutKeeps s₀ (execCeDrainCut e i s) := by
  unfold execCeDrainCut
  refine .ite (h.cutMload.ite h) ?_
  split
  · exact h
  · split
    · exact h
    · exact h.logEvent.modHare.copyErrors.stopCopy

protected theorem Keeps.hareAnswered {e i} (h : Keeps s₀ s) : Keeps s₀ (hareAnswered e i s) :=
  h.modCopy

protected theorem Keeps.hareData {e i pos d bad} (h : Keeps s₀ s) : Keeps s₀ (hareData e i pos d bad s) := by
  unfold hareData
  dsimp only
  split
  · exact h.hareAnswered
  · exact (h.hareAnswered.ite (h.hareAnswered.hostErrorCopy.ite h.hareAnswered.localWrite.landed)).pumpHare.copySettle

protected theorem Keeps.hareAck {e i} (h : Keeps s₀ s) : Keeps s₀ (hareAck e i s) :=
  h.hareAnswered.pumpHare.copySettle

protected theorem Keeps.hareFailed {e i pos code refused} (h : Keeps s₀ s) :
    Keeps s₀ (hareFailed e i pos code refused s) := by
  unfold hareFailed
  dsimp only
  split
  · exact h.hareAnswered
  · exact h.hareAnswered.copyErrors.modHare.localWrite.landed.pumpHare.copySettle.ite h.hareAnswered.copyErrors.modHare.stopCopy

protected theorem Keeps.hareFailedPart {e i code refused} (h : Keeps s₀ s) :
    Keeps s₀ (hareFailedPart e i code refused s) := by
  unfold hareFailedPart
  split
  · exact h
  · exact h.copyErrors.modHare.stopCopy

protected theorem Keeps.failHostCopies {e} (h : Keeps s₀ s) : Keeps s₀ (failHostCopies e s) :=
  h.forEach fun _ _ h => h.hostErrorCopy.ite h

protected theorem Keeps.calDirty (h : Keeps s₀ s) : Keeps s₀ (calDirty s) :=
  h.frame.ite h.frame

protected theorem Keeps.calResults (h : Keeps s₀ s) : Keeps s₀ (calResults s) :=
  h.frame

protected theorem Keeps.listRepair {code spare} (h : Keeps s₀ s) : Keeps s₀ (listRepair code spare s) :=
  h.frame.calDirty.logEvent

protected theorem Keeps.moveToSpare {e} (h : Keeps s₀ s) : Keeps s₀ (moveToSpare e s).2 := by
  unfold moveToSpare
  dsimp only
  split
  · exact h.frame.listRepair
  · exact h.frame

protected theorem Keeps.engineFatal {code e extra} (h : Keeps s₀ s) : Keeps s₀ (engineFatal code e extra s) :=
  h.logEvent.moveToSpare.modSeq.epochFault

protected theorem Keeps.setL1 {e k l} (h : Keeps s₀ s) : Keeps s₀ (setL1 e k l s) :=
  h.frame

protected theorem Keeps.modL1 {e k f} (h : Keeps s₀ s) : Keeps s₀ (modL1 e k f s) :=
  h.setL1

protected theorem Keeps.dropReservation {e k} (h : Keeps s₀ s) : Keeps s₀ (dropReservation e k s) :=
  h.modFox

protected theorem Keeps.l1Send {ptype e k dirty poison d} (h : Keeps s₀ s) :
    OptKeeps s₀ (l1Send ptype e k dirty poison d s) := by
  unfold l1Send
  refine .ite h.modL1.sendCoh ?_
  split
  · exact trivial
  · exact h.modL1.sendRequest

protected theorem Keeps.l1Evict {e k} (h : Keeps s₀ s) : Keeps s₀ (l1Evict e k s) := by
  unfold l1Evict
  dsimp only
  split
  · exact h.dropReservation.setL1
  · refine h.ite ?_
    split
    · exact (h.dropReservation.l1Send.some ‹_›).modL1
    · exact h
  · refine h.ite ?_
    split
    · exact (h.dropReservation.l1Send.some ‹_›).modL1
    · exact h
  · exact h

protected theorem Keeps.l1Room {e k} (h : Keeps s₀ s) : Keeps s₀ (l1Room e k s).1 := by
  unfold l1Room
  dsimp only
  split
  · exact h
  · split
    · exact h
    · split
      · exact h
      · exact h.useFree.l1Evict

protected theorem Keeps.l1Ask {ptype st e k} (h : Keeps s₀ s) : Keeps s₀ (l1Ask ptype st e k s) := by
  unfold l1Ask
  refine Keeps.ite ?_ ?_
  · split
    · refine ((Keeps.l1Send ?_).some ‹_›).modL1.modFox
      split
      · exact h.l1Room
      · exact h
    · exact h
  · split
    · exact h.l1Room
    · exact h

protected theorem Keeps.l1Corrected {e} (h : Keeps s₀ s) : Keeps s₀ (l1Corrected e s) :=
  h.modFox.logOncePhase

protected theorem Keeps.foxEccStop {e} (h : Keeps s₀ s) : Keeps s₀ (foxEccStop e s) :=
  h.modFox.engineFatal

protected theorem Keeps.l1Sense {e k x} (h : Keeps s₀ s) : Keeps s₀ (l1Sense e k x s) := by
  unfold l1Sense
  split
  · exact h
  · exact h
  · exact h.l1Corrected
  · exact h.l1Corrected.l1Evict
  · exact h.l1Corrected.l1Evict
  · exact h

protected theorem Keeps.l1Inval {e k} (h : Keeps s₀ s) : Keeps s₀ (l1Inval e k s) := by
  unfold l1Inval
  split
  · exact h.dropReservation.setL1
  · exact h.dropReservation.modL1
  · exact h.dropReservation.modL1
  · exact h

protected theorem Keeps.l1InvalOthers {but k} (h : Keeps s₀ s) : Keeps s₀ (l1InvalOthers but k s) :=
  h.forEach fun _ _ h => h.l1Inval

protected theorem Keeps.l1SendHome (h : Keeps s₀ s) : Keeps s₀ (l1SendHome s) :=
  h.forEach fun _ _ h => h.l1Evict

protected theorem Keeps.l1WriteBack (h : Keeps s₀ s) : Keeps s₀ (l1WriteBack s) :=
  h.forEach fun _ _ h => h.forEach fun _ _ h => (h.writePoisoned.ite h.writeStore).modL1.ite h

protected theorem Keeps.foxRefuse {e a code n} (h : Keeps s₀ s) : AccKeeps s₀ (foxRefuse e a code n s) :=
  h.addrFault.modFox

protected theorem Keeps.foxPoison {e code n} (h : Keeps s₀ s) : AccKeeps s₀ (foxPoison e code n s) :=
  h.engineError.modFox

protected theorem Keeps.l1Load {e h' n ecc} (h : Keeps s₀ s) : AccKeeps s₀ (l1Load e h' n ecc s) := by
  unfold l1Load
  dsimp only
  refine .ite h.foxEccStop ?_
  split
  · exact h.l1Sense.l1Ask
  · exact .ite h.l1Sense.foxPoison h.l1Sense
  · exact .ite h.l1Sense.foxPoison h.l1Sense
  · exact .ite h.l1Sense.foxPoison h.l1Sense
  · exact .ite h.l1Sense.foxPoison h.l1Sense
  · exact h.l1Sense

protected theorem Keeps.l1Store {e h' d} (h : Keeps s₀ s) : AccKeeps s₀ (l1Store e h' d s) := by
  unfold l1Store
  dsimp only
  split
  · exact h.l1Ask
  · exact h.l1Ask
  · exact h.setL1
  · exact h.setL1
  · exact h

protected theorem Keeps.foxAsk {e p} (h : Keeps s₀ s) : AccKeeps s₀ (foxAsk e p s) := by
  unfold foxAsk
  split
  · exact (h.sendRequest.some ‹_›).modFox
  · exact h

protected theorem Keeps.foxLoad {e a n ecc host ans} (h : Keeps s₀ s) : AccKeeps s₀ (foxLoad e a n ecc host ans s) := by
  unfold foxLoad
  dsimp only
  split
  · exact h
  · split
    · exact h.foxRefuse
    · exact trivial
    · refine .ite h (.ite h.l1Load (.ite (.ite h.foxAsk h) ?_))
      split
      · exact h
      · exact h
      · exact .ite h h
      · split
        · exact .ite h.eccNote.served.foxPoison h.eccNote.served
        · exact h.foxRefuse

protected theorem Keeps.foxStoreGo {e a d flagged} (h : Keeps s₀ s) : AccKeeps s₀ (foxStoreGo e a d flagged s) := by
  unfold foxStoreGo
  dsimp only
  refine .ite (.ite h h.l1Store) (.ite (.ite ?_ h) ?_)
  · split
    · exact (h.sendRequest.some ‹_›).issueOpen
    · exact h
  · split
    · split
      · exact (h.tallyStore.some ‹_›)
      · exact h.foxRefuse
    · split
      · exact (h.dcsStore.some ‹_›)
      · exact h.foxRefuse
    · exact h.hostWrite.modFox
    · split
      · exact h.writeStore.served
      · exact h.foxRefuse

protected theorem Keeps.foxStore {e a d flagged ans} (h : Keeps s₀ s) : AccKeeps s₀ (foxStore e a d flagged ans s) := by
  unfold foxStore
  refine .ite h ?_
  split
  · exact h.foxRefuse
  · exact trivial
  · exact .ite trivial (.ite h h.foxStoreGo)

protected theorem Keeps.amoHere {e h' a op elem x swap} (h : Keeps s₀ s) :
    AccKeeps s₀ (amoHere e h' a op elem x swap s) := by
  unfold amoHere
  split
  · exact .ite h.csRecall (.ite (h.atomAt.served.countUncached.ite h.atomAt.served).foxPoison
      (h.atomAt.served.countUncached.ite h.atomAt.served))
  · exact h.tallyAdd

protected theorem Keeps.foxAmo {e a op elem x swap ans} (h : Keeps s₀ s) :
    AccKeeps s₀ (foxAmo e a op elem x swap ans s) := by
  unfold foxAmo
  dsimp only
  split
  · exact h
  · split
    · exact .ite trivial h.foxRefuse
    · exact .ite trivial (.ite h (.ite h.l1Evict (.ite (.ite (h.l1Evict.ite h).foxAsk (h.l1Evict.ite h))
        (h.l1Evict.ite h).amoHere)))

protected theorem Keeps.foxLr {e a n ecc ans} (h : Keeps s₀ s) : AccKeeps s₀ (foxLr e a n ecc ans s) := by
  unfold foxLr
  refine .ite h (.ite trivial (.ite trivial (.ite h ?_)))
  split
  · exact (h.l1Load.done ‹_›).modFox
  · exact h.l1Load

protected theorem Keeps.foxSc {e a d ans} (h : Keeps s₀ s) : AccKeeps s₀ (foxSc e a d ans s) := by
  unfold foxSc
  refine .ite h.modFox (.ite trivial (.ite trivial (.ite h (.ite ?_ h.modFox))))
  split
  · exact (h.l1Store.done ‹_›).modFox
  · exact h.l1Store

protected theorem Keeps.foxReadback {e} (h : Keeps s₀ s) : Keeps s₀ (foxReadback e s) :=
  h.modFox.issueOpen.ite h

protected theorem Keeps.onFox {e k f} (h : Keeps s₀ s) (hf : ∀ i t, Keeps s₀ t → Keeps s₀ (f i t)) :
    OutKeeps s₀ (onFox e k s f) := by
  unfold onFox
  split
  · exact hf _ _ h
  · exact h

protected theorem Keeps.foxRetire {e next} (h : Keeps s₀ s) : Keeps s₀ (foxRetire e next s) :=
  h.modSeq.modFox

protected theorem Keeps.foxTrap {e cause tval} (h : Keeps s₀ s) : Keeps s₀ (foxTrap e cause tval s) :=
  h.logEvent.modFox.modSeq.engineError.foxReadback

protected theorem Keeps.foxIllegal {e i} (h : Keeps s₀ s) : Keeps s₀ (foxIllegal e i s) :=
  h.foxTrap

protected theorem Keeps.foxPure {e i r} (h : Keeps s₀ s) : Keeps s₀ (foxPure e i r s) := by
  unfold foxPure
  split
  · exact h.modFox.foxRetire
  · exact h.foxIllegal

protected theorem Keeps.foxEnd {e i a r f} (h : Keeps s₀ s) (hr : AccKeeps s₀ r) : Keeps s₀ (foxEnd e i a r f s) := by
  unfold foxEnd
  split
  · exact Keeps.foxRetire (Keeps.modFox hr)
  · exact hr
  · exact h.foxTrap

protected theorem Keeps.foxEndAq {e i a r f} (h : Keeps s₀ s) (hr : AccKeeps s₀ r) : Keeps s₀ (foxEndAq e i a r f s) := by
  unfold foxEndAq
  split
  · exact (h.foxEnd hr).modFox.foxReadback.ite (h.foxEnd hr)
  · exact h.foxEnd hr

protected theorem Keeps.foxScalarLoad {e i ecc host ans} (h : Keeps s₀ s) : Keeps s₀ (foxScalarLoad e i ecc host ans s) :=
  (h.foxIllegal.ite (h.foxEnd h.foxLoad)).ite (h.foxEnd h.foxLoad)

protected theorem Keeps.foxScalarStore {e i ans} (h : Keeps s₀ s) : Keeps s₀ (foxScalarStore e i ans s) :=
  (h.foxIllegal.ite (h.foxEnd h.foxStore)).ite (h.foxEnd h.foxStore)

protected theorem Keeps.vecRetire {e i} (h : Keeps s₀ s) : Keeps s₀ (vecRetire e i s) :=
  h.modFox.foxRetire

protected theorem Keeps.vecTrap {e i x ff cause} (h : Keeps s₀ s) : Keeps s₀ (vecTrap e i x ff cause s) :=
  h.modFox.vecRetire.ite h.modFox.foxTrap

protected theorem Keeps.vecLoop {e i load ff ecc host ans l} (h : Keeps s₀ s) :
    Keeps s₀ (vecLoop e i load ff ecc host ans l s) := by
  induction l generalizing s ecc host ans with
  | nil => exact h.vecRetire
  | cons x l ih =>
    unfold vecLoop
    dsimp only
    split
    · exact ih (AccKeeps.done (.ite h.foxLoad h.foxStore) ‹_›).modFox
    · exact AccKeeps.hold (.ite h.foxLoad h.foxStore) ‹_›
    · exact h.vecTrap

protected theorem Keeps.foxVector {e i load ecc host ans} (h : Keeps s₀ s) :
    Keeps s₀ (foxVector e i load ecc host ans s) := by
  unfold foxVector
  split
  · exact h.foxIllegal
  · exact h.vecLoop

protected theorem Keeps.foxAmoIns {e i ans} (h : Keeps s₀ s) : Keeps s₀ (foxAmoIns e i ans s) := by
  unfold foxAmoIns
  extract_lets
  split
  · exact h.foxIllegal
  · exact h.foxIllegal.ite (h.foxReadback.ite (h.foxEndAq h.foxAmo))

protected theorem Keeps.foxFadda {e i ans} (h : Keeps s₀ s) : Keeps s₀ (foxFadda e i ans s) :=
  h.foxIllegal.ite (h.foxEnd h.foxAmo)

protected theorem Keeps.foxLrIns {e i ecc ans} (h : Keeps s₀ s) : Keeps s₀ (foxLrIns e i ecc ans s) :=
  h.foxIllegal.ite (h.foxReadback.ite (h.foxEndAq h.foxLr))

protected theorem Keeps.foxScIns {e i ans} (h : Keeps s₀ s) : Keeps s₀ (foxScIns e i ans s) :=
  h.foxIllegal.ite (h.foxReadback.ite (h.foxEndAq h.foxSc))

protected theorem Keeps.foxSdf {e i ans} (h : Keeps s₀ s) : Keeps s₀ (foxSdf e i ans s) :=
  h.foxIllegal.ite (h.foxEnd h.foxStore)

protected theorem Keeps.foxMemory {e ecc host ans} (h : Keeps s₀ s) : Keeps s₀ (foxMemory e ecc host ans s) := by
  unfold foxMemory
  split
  · split
    · exact h.foxScalarLoad.ite h.foxVector
    · exact h.foxScalarStore.ite h.foxVector
    · exact h.foxAmoIns
    · exact h.foxLrIns
    · exact h.foxScIns
    · exact h.foxSdf
    · exact h.foxFadda
    · exact h
  · exact h

protected theorem Keeps.foxResume {e ans} (h : Keeps s₀ s) : Keeps s₀ (foxResume e ans s) :=
  h.modFox.foxMemory.ite h.modFox

protected theorem Keeps.execFcLoad {e ecc host} (h : Keeps s₀ s) : OutKeeps s₀ (execFcLoad e ecc host s) :=
  h.onFox fun _ _ h => h.foxMemory

protected theorem Keeps.execFcStore {e} (h : Keeps s₀ s) : OutKeeps s₀ (execFcStore e s) :=
  h.onFox fun _ _ h => h.foxMemory

protected theorem Keeps.execFcAmo {e} (h : Keeps s₀ s) : OutKeeps s₀ (execFcAmo e s) :=
  h.onFox fun _ _ h => h.foxMemory

protected theorem Keeps.execFcLr {x} (h : Keeps s₀ s) : OutKeeps s₀ (execFcLr x s) :=
  h.onFox fun _ _ h => h.foxMemory

protected theorem Keeps.execFcSc {e} (h : Keeps s₀ s) : OutKeeps s₀ (execFcSc e s) :=
  h.onFox fun _ _ h => h.foxMemory

protected theorem Keeps.execFadda {e} (h : Keeps s₀ s) : OutKeeps s₀ (execFadda e s) :=
  h.onFox fun _ _ h => h.foxMemory

protected theorem Keeps.execSdf {e} (h : Keeps s₀ s) : OutKeeps s₀ (execSdf e s) :=
  h.onFox fun _ _ h => h.foxMemory

protected theorem Keeps.execFcFence {e} (h : Keeps s₀ s) : OutKeeps s₀ (execFcFence e s) :=
  h.onFox fun _ _ h => h.foxRetire.ite (h.foxIllegal.ite (h.foxRetire.ite (h.foxRetire.ite h.foxReadback)))

protected theorem Keeps.execFcCsr {e} (h : Keeps s₀ s) : OutKeeps s₀ (execFcCsr e s) := by
  unfold execFcCsr
  dsimp only
  refine h.onFox fun _ _ h => ?_
  split
  · exact h.foxIllegal
  · exact h.foxIllegal.ite (h.useFree.ite h).modFox.foxRetire

protected theorem Keeps.foxCompute {e} (h : Keeps s₀ s) : Keeps s₀ (foxCompute e s) := by
  unfold foxCompute
  dsimp only
  split
  · exact h.foxTrap
  · exact h.foxTrap
  · refine h.ite ?_
    split
    · exact h.foxTrap.ite (h.foxTrap.ite h.foxIllegal)
    · exact h.foxPure
    · exact h.foxPure
    · exact h.foxPure
    · exact h.foxPure
    · exact h.foxPure
    · exact h.foxPure
    · exact h.foxPure

protected theorem Keeps.execFcEccFatal {e} (h : Keeps s₀ s) : OutKeeps s₀ (execFcEccFatal e s) :=
  .ite h.foxEccStop h

protected theorem Keeps.execFcCompute {e} (h : Keeps s₀ s) : OutKeeps s₀ (execFcCompute e s) :=
  .ite h.foxCompute h

protected theorem Keeps.execFend {e} (h : Keeps s₀ s) : OutKeeps s₀ (execFend e s) :=
  h.onFox fun _ _ h => h.foxIllegal.ite h.modFox.foxReadback.modSeq.settle

protected theorem Keeps.execTsig {e} (h : Keeps s₀ s) : OutKeeps s₀ (execTsig e s) := by
  unfold execTsig
  refine h.onFox fun _ _ h => h.foxIllegal.ite (Keeps.foxRetire ?_)
  split
  · exact h.addrFault.modFox
  · exact h.foxReadback.modSeq

protected theorem Keeps.execTwait {e} (h : Keeps s₀ s) : OutKeeps s₀ (execTwait e s) := by
  unfold execTwait
  refine h.onFox fun _ _ h => h.foxIllegal.ite ?_
  split
  · exact h.addrFault.modFox.setX.foxRetire
  · exact h.modFox.setX.foxRetire.ite h.modFox.modSeq.modFox

protected theorem Keeps.execTerrt {e} (h : Keeps s₀ s) : OutKeeps s₀ (execTerrt e s) := by
  unfold execTerrt
  refine h.onFox fun _ _ h => h.foxIllegal.ite (Keeps.foxRetire ?_)
  split
  · exact h.addrFault.modFox
  · exact h.modSeq

protected theorem Keeps.execPrm {e} (h : Keeps s₀ s) : OutKeeps s₀ (execPrm e s) :=
  h.onFox fun _ _ h => h.foxIllegal.ite (h.setX.foxRetire.ite h.logEvent.modFox.setX.foxRetire)

protected theorem Keeps.execEcallLog {e} (h : Keeps s₀ s) : OutKeeps s₀ (execEcallLog e s) :=
  h.onFox fun _ _ h => (h.modFox.logEvent.ite h.modFox).modSeq

protected theorem Keeps.execEcallYield {e} (h : Keeps s₀ s) : OutKeeps s₀ (execEcallYield e s) :=
  h.onFox fun _ _ h => h.modSeq.modFox

end

end Sys2Proof.Machine

/-! SUPPORT. What keeps the queue and the canonical form: the coherence of the L1s, collectives, staging and the answers of remote requests. -/

namespace Sys2Proof.Machine

open Sys2Proof

section

set_option Elab.async false

variable {s₀ s : State}

protected theorem Keeps.execYieldEnd {e} (h : Keeps s₀ s) : OutKeeps s₀ (execYieldEnd e s) :=
  h.modFox

protected theorem Keeps.snoopData {e k l} (h : Keeps s₀ s) : Keeps s₀ (snoopData e k l s) :=
  h.sendCoh

protected theorem Keeps.snoop {inv p} (h : Keeps s₀ s) : Keeps s₀ (snoop inv p s) := by
  unfold snoop
  dsimp only
  split
  · exact h
  · exact h
  · exact h
  · exact h
  · exact h.takeIngress.snoopData.dropReservation.setL1.ite h.takeIngress.snoopData.modL1
  · exact h.takeIngress.snoopData.dropReservation.setL1.ite h.takeIngress.snoopData.modL1
  · exact h.takeIngress.sendCoh.modL1.ite h.takeIngress.sendCoh

protected theorem Keeps.execSnpShare {p} (h : Keeps s₀ s) : OutKeeps s₀ (execSnpShare p s) :=
  h.snoop

protected theorem Keeps.execSnpInv {p} (h : Keeps s₀ s) : OutKeeps s₀ (execSnpInv p s) :=
  h.snoop

protected theorem Keeps.execInv {p} (h : Keeps s₀ s) : OutKeeps s₀ (execInv p s) :=
  (h.takeIngress.forEach fun _ _ h => h.l1Inval).sendCoh

protected theorem Keeps.l1CloseSlot {p k} (h : Keeps s₀ s) : Keeps s₀ (l1CloseSlot s p k) :=
  h.ite h.closeSlot

protected theorem Keeps.lateGrant {p} (h : Keeps s₀ s) : Keeps s₀ (lateGrant p s) := by
  unfold lateGrant
  extract_lets core key remote late stray logged
  have hlogged : Keeps s₀ logged := h.frame.modCounts.logEvent
  clear_value logged
  split
  · exact hlogged
  · exact hlogged.l1Send.getD hlogged
  · exact hlogged.l1Send.getD hlogged
  · exact ((hlogged.l1Send.map fun _ h => h.dropReservation.modL1).getD hlogged).ite (hlogged.l1Send.getD hlogged)

protected theorem Keeps.takeGrant {st p} (h : Keeps s₀ s) : Keeps s₀ (takeGrant st p s) := by
  unfold takeGrant
  extract_lets taken core key was closed alone resumed
  have htaken : Keeps s₀ taken := h.takeIngress
  have halone : Keeps s₀ alone := htaken.l1CloseSlot.l1InvalOthers.ite htaken.l1CloseSlot
  have hresumed : Keeps s₀ resumed := halone.modL1.foxResume
  exact htaken.lateGrant.ite (hresumed.l1Evict.ite hresumed)

protected theorem Keeps.execDataS {p} (h : Keeps s₀ s) : OutKeeps s₀ (execDataS p s) :=
  h.takeGrant

protected theorem Keeps.execDataE {p} (h : Keeps s₀ s) : OutKeeps s₀ (execDataE p s) :=
  h.takeGrant

protected theorem Keeps.execDataM {p} (h : Keeps s₀ s) : OutKeeps s₀ (execDataM p s) :=
  h.takeGrant

protected theorem Keeps.execGrant {p} (h : Keeps s₀ s) : OutKeeps s₀ (execGrant p s) :=
  h.takeGrant

protected theorem Keeps.execWbAck {p} (h : Keeps s₀ s) : OutKeeps s₀ (execWbAck p s) :=
  (h.takeIngress.l1CloseSlot.ite h.takeIngress).setL1.ite (h.takeIngress.l1CloseSlot.ite h.takeIngress)

protected theorem Keeps.l1Failed {e k code refused} (h : Keeps s₀ s) : Keeps s₀ (l1Failed e k code refused s) := by
  unfold l1Failed
  refine (Keeps.engineError ?_).modFox.foxResume.ite (Keeps.engineError ?_).modFox
  · split
    · exact h.modL1
    · exact h.setL1
  · split
    · exact h.modL1
    · exact h.setL1

protected theorem Keeps.modPack {e f} (h : Keeps s₀ s) : Keeps s₀ (modPack e f s) :=
  h.frame

protected theorem Keeps.modColl {e f} (h : Keeps s₀ s) : Keeps s₀ (modColl e f s) :=
  h.modPack

protected theorem Keeps.packFault {e c code a} (h : Keeps s₀ s) : Keeps s₀ (packFault e c code a s) :=
  h.logEvent.modPack.tallyError.engineError

protected theorem Keeps.packRead {e c base eb lo n ecc} (h : Keeps s₀ s) : Keeps s₀ (packRead e c base eb lo n ecc s).2 := by
  unfold packRead
  extract_lets a s₁ one l
  have h₁ : Keeps s₀ s₁ := by
    unfold s₁
    split
    · exact h.eccNote
    · exact h
  clear_value s₁ l
  split
  · dsimp only
    split
    · exact h₁.served
    · exact h₁
  · extract_lets
    split
    · dsimp only
      exact h₁.packFault
    · dsimp only
      exact h₁.modPack.tallyError.engineError

protected theorem Keeps.packWrite {e c base eb lo vs} (h : Keeps s₀ s) : Keeps s₀ (packWrite e c base eb lo vs s) := by
  unfold packWrite
  dsimp only
  split
  · split
    · exact h.writeStore.served
    · exact h
  · refine (h.forEach fun _ _ h => h.ite ?_).packFault
    split
    · exact h.writeStore
    · exact h

protected theorem Keeps.collData {e c stage lo n ecc} (h : Keeps s₀ s) : Keeps s₀ (collData e c stage lo n ecc s).2 := by
  unfold collData
  split
  · split
    · exact h.packRead
    · exact h
  · exact h.packRead

protected theorem Keeps.pumpColl {e ecc n} (h : Keeps s₀ s) : Keeps s₀ (pumpColl e ecc n s) := by
  induction n generalizing s ecc with
  | zero => unfold pumpColl; exact h
  | succ n ih =>
    unfold pumpColl
    split
    · exact h
    · split
      · exact h
      · refine (ih h.modColl).ite (h.ite ((ih h.collData.modColl.modPack).ite ?_))
        split
        · exact h
        · exact ih (h.collData.openSlot.routePacket.ite h.collData.openSlot.sendStage).modColl.modPack.modColl

protected theorem Keeps.enterStage {e stage sends ecc} (h : Keeps s₀ s) : Keeps s₀ (enterStage e stage sends ecc s) :=
  h.modColl.pumpColl

protected theorem Keeps.gatherOn {e n} (h : Keeps s₀ s) : Keeps s₀ (gatherOn e n s) := by
  induction n generalizing s with
  | zero => exact h
  | succ n ih =>
    unfold gatherOn
    split
    · exact h
    · exact (ih h.enterStage).ite h

protected theorem Keeps.writeSums {e c lo vs} (h : Keeps s₀ s) : Keeps s₀ (writeSums e c lo vs s) := by
  unfold writeSums
  dsimp only
  split
  · exact h
  · exact (h.ite h.modPack.logOncePhase).packWrite

protected theorem Keeps.afterSums {e} (h : Keeps s₀ s) : Keeps s₀ (afterSums e s) := by
  unfold afterSums
  split
  · exact h
  · exact h.ite (h.enterStage.ite (h.enterStage.gatherOn.ite h.modColl))

protected theorem Keeps.sumChunk {e c k ecc work} (h : Keeps s₀ s) : Keeps s₀ (sumChunk e c k ecc work s) := by
  unfold sumChunk
  extract_lets _ _ _ _ _ _ own s₁ read s₂
  have h₁ : Keeps s₀ s₁ := by
    unfold s₁ own
    split
    · exact h.packRead
    · exact h
  have h₂ : Keeps s₀ s₂ := by
    refine List.foldlRecOn (motive := fun x : Ecc × List
        (Nat × List (Option Nat)) × State => Keeps s₀ x.2.2) _ _ h₁ fun _ h _ _ => ?_
    dsimp only
    split
    · exact h
    · exact h.packRead
  exact h₂.modPack.modColl.writeSums.ite h₂.modPack.modColl.modColl

protected theorem Keeps.startColl {e c ecc} (h : Keeps s₀ s) : Keeps s₀ (startColl e c ecc s) := by
  unfold startColl
  exact h.enterStage.ite (h.modColl.ite h.packRead.packWrite.enterStage)

protected theorem Keeps.execColl {x} (h : Keeps s₀ s) : OutKeeps s₀ (execColl x s) := by
  unfold execColl
  refine h.onIssue fun _ _ h => ?_
  extract_lets
  exact h.ite (h.nextPc.modPack.logEvent.modPack.tallyError.engineError.ite h.nextPc.modPack.issueOpen.modPack.startColl)

protected theorem Keeps.execCollChunkSum {e k ecc res} (h : Keeps s₀ s) : OutKeeps s₀ (execCollChunkSum e k ecc res s) := by
  unfold execCollChunkSum
  split
  · exact h
  · refine .ite h (.ite h.sumChunk.afterSums (.ite (Keeps.epochFault ?_) h.modPack.modPack.modColl.logOncePhase))
    exact (h.modPack.modPack.logEvent.logEvent.ite h.modPack.modPack.logEvent).modSeq

protected theorem Keeps.execCollComplete {e} (h : Keeps s₀ s) : OutKeeps s₀ (execCollComplete e s) := by
  unfold execCollComplete
  split
  · exact h
  · exact .ite h.modPack.tallyAdd.completeOp h

protected theorem Keeps.collAnswer {ptype p code} (h : Keeps s₀ s) : Keeps s₀ (collAnswer ptype p code s) :=
  h.routePacket

protected theorem Keeps.fillMissing {e c st i} (h : Keeps s₀ s) : Keeps s₀ (fillMissing e c st i s) :=
  h.ite h.packWrite.gatherOn

protected theorem Keeps.collMismatch {e p b} (h : Keeps s₀ s) : Keeps s₀ (collMismatch e p b s) := by
  unfold collMismatch
  refine (Keeps.engineError ?_).collAnswer
  split
  · exact (h.logEvent.modPack.modColl.fillMissing.ite h.logEvent.modPack).tallyError
  · exact h.logEvent.modPack

protected theorem Keeps.collTake {e c b} (h : Keeps s₀ s) : Keeps s₀ (collTake e c b s) :=
  h.modPack.packWrite.modColl.ite (h.modPack.packWrite.modColl.ite h.modPack.packWrite.modColl.gatherOn)

protected theorem Keeps.collServe {p b} (h : Keeps s₀ s) : Keeps s₀ (collServe p b s) := by
  unfold collServe
  dsimp only
  split
  · exact h.collMismatch.ite (h.collAnswer.ite (h.collMismatch.ite (h.collAnswer.ite h.collTake.collAnswer)))
  · exact h.collMismatch.ite h.collAnswer

protected theorem Keeps.execCollData {p} (h : Keeps s₀ s) : OutKeeps s₀ (execCollData p s) := by
  unfold execCollData
  split
  · exact (h.takeIngress.sendStage.ite h.takeIngress).collServe.ite (h.takeIngress.sendStage.ite h.takeIngress)
  · exact h.takeIngress

protected theorem Keeps.packAnswered {e} (h : Keeps s₀ s) : Keeps s₀ (packAnswered e s) :=
  h.modColl.pumpColl

protected theorem Keeps.packFailed {e code} (h : Keeps s₀ s) : Keeps s₀ (packFailed e code s) := by
  unfold packFailed
  split
  · exact h.engineError
  · exact (h.useFree.logEvent.modPack.ite h).tallyError.engineError

protected theorem Keeps.setStg {k g} (h : Keeps s₀ s) : Keeps s₀ (setStg k g s) :=
  h.frame

protected theorem Keeps.modStg {k f} (h : Keeps s₀ s) : Keeps s₀ (modStg k f s) :=
  h.setStg

protected theorem Keeps.stagingFault {e code slot} (h : Keeps s₀ s) : Keeps s₀ (stagingFault e code slot s) :=
  h.modHare.modStr.logEvent.engineError

protected theorem Keeps.zeroSp {a n} (h : Keeps s₀ s) : Keeps s₀ (zeroSp a n s) :=
  h.writeStore

protected theorem Keeps.freeStg {k} (h : Keeps s₀ s) : Keeps s₀ (freeStg k s) :=
  h.modStg

protected theorem Keeps.cancelStg {die k} (h : Keeps s₀ s) : Keeps s₀ (cancelStg die k s) :=
  (h.ite h.modStr).freeStg

protected theorem Keeps.failRun {die k} (h : Keeps s₀ s) : Keeps s₀ (failRun die k s) :=
  h.modStg.modStr.ite h

protected theorem Keeps.stageData {k off d} (h : Keeps s₀ s) : Keeps s₀ (stageData k off d s) :=
  h.modStg

protected theorem Keeps.pumpRun {die k n} (h : Keeps s₀ s) : Keeps s₀ (pumpRun die k n s) := by
  induction n generalizing s with
  | zero => exact h
  | succ n ih =>
    unfold pumpRun
    refine h.ite ?_
    split
    · exact h
    · refine h.ite (h.ite ?_)
      split
      · exact h
      · exact ih (h.sendRequest.some ‹_›).modStg

protected theorem Keeps.startRun {die n prio parts} (h : Keeps s₀ s) : Keeps s₀ (startRun die n prio parts s) :=
  h.modStr.modStg.pumpRun.ite h.modStr.modStg.failRun

protected theorem Keeps.runData {k gen pos d bad} (h : Keeps s₀ s) : Keeps s₀ (runData k gen pos d bad s) :=
  h.ite (h.modStg.ite (h.modStg.failRun.ite h.modStg.stageData.pumpRun))

protected theorem Keeps.runFailed {k gen} (h : Keeps s₀ s) : Keeps s₀ (runFailed k gen s) :=
  h.ite h.modStg.failRun

protected theorem Keeps.runLocal {k host l o} (h : Keeps s₀ s) : OptKeeps s₀ (runLocal k host s l o) := by
  induction l generalizing s o with
  | nil => exact h
  | cons p l ih => exact .ite (ih h) (.ite trivial (ih h.localSense.stageData))

protected theorem Keeps.execRunaheadCopyDone {die n ok host} (h : Keeps s₀ s) :
    OutKeeps s₀ (execRunaheadCopyDone die n ok host s) := by
  unfold execRunaheadCopyDone
  refine .ite h (.ite h.failRun (.ite h.pumpRun (.ite (h.forEach fun _ _ h => h.ite h.localRecall) ?_)))
  split
  · exact (h.runLocal.some ‹_›).modStg
  · exact h.failRun

protected theorem Keeps.entryFault {e quiet code f} (h : Keeps s₀ s) : Keeps s₀ (entryFault e quiet code f s).2 :=
  h.ite h.engineError.modHare

protected theorem Keeps.mapEntry {quiet e c b} (h : Keeps s₀ s) : EntryKeeps s₀ (mapEntry quiet e c b s) := by
  unfold mapEntry
  extract_lets _ _ note
  have noted {code fs} : Keeps s₀ (note code fs) := h.ite h.logEvent
  split
  · exact noted.entryFault
  · split
    · exact noted.entryFault
    · refine .ite ?_ (.ite h.localRecall ?_)
      · split
        · exact h.modHare
        · refine .ite h ?_
          split
          · exact h
          · exact (h.sendRequest.some ‹_›).modHare
      · dsimp only [EntryKeeps]
        split
        · exact h.localSense.entryFault
        · exact h.localSense

protected theorem Keeps.entryArrived {e quiet v' code refused} (h : Keeps s₀ s) :
    Keeps s₀ (entryArrived e quiet v' code refused s) :=
  (h.ite h.engineError.modHare).modHare

protected theorem Keeps.openStg {e k base bytes tag fetch} (h : Keeps s₀ s) :
    Keeps s₀ (openStg e k base bytes tag fetch s).1 := by
  unfold openStg
  extract_lets
  split
  · exact h.stagingFault
  · split
    · exact h.stagingFault
    · split
      · exact h.stagingFault
      · exact h.zeroSp.setStg

protected theorem Keeps.noRun {die k} (h : Keeps s₀ s) : Keeps s₀ (noRun die k s) :=
  h.modStr.modStg.failRun

protected theorem Keeps.sopenLoop {e w n} (h : Keeps s₀ s) : Keeps s₀ (sopenLoop e w n s) := by
  induction n generalizing s with
  | zero => exact h
  | succ n ih =>
    unfold sopenLoop
    extract_lets _ i _ _ _ _ _ _ _ _ onward _ bad s₁ tag _ fetched
    clear_value i bad
    have go {t} (h : Keeps s₀ t) : Keeps s₀ (onward t) := ih h.modHare
    have h₁ : Keeps s₀ s₁ := by
      unfold s₁
      split
      · exact h.addrFault.modHare
      · exact h
    have take {entry t} (h : Keeps s₀ t) : Keeps s₀ (fetched entry t) := h.openStg.ite
        (h.openStg.noRun.ite h.openStg.startRun)
    clear_value tag
    refine h.modHare.nextPc.ite ((go h.stagingFault).ite ?_)
    split
    · exact go (take h₁)
    · refine Keeps.ite ?_ (go (take h₁))
      split
      · exact go (take (h₁.mapEntry.ok ‹_›))
      · exact h₁.mapEntry.error ‹_›

protected theorem Keeps.execSopen {e} (h : Keeps s₀ s) : OutKeeps s₀ (execSopen e s) :=
  h.onIssue fun _ _ h => h.sopenLoop

protected theorem Keeps.issueStaged {e w} (h : Keeps s₀ s) : Keeps s₀ (issueStaged e w s) := by
  unfold issueStaged
  dsimp only
  split
  · exact h.nextPc.stagingFault
  · exact h.nextPc.stagingFault.ite (h.nextPc.stagingFault.ite h.nextPc.startRun)

protected theorem Keeps.execCopy {e ecc} (h : Keeps s₀ s) : OutKeeps s₀ (execCopy e ecc s) :=
  h.onIssue fun _ _ h => h.issueStaged.ite h.issueCopy

protected theorem Keeps.execGather {e} (h : Keeps s₀ s) : OutKeeps s₀ (execGather e s) :=
  h.onIssue fun _ _ h => h.issueCopy

protected theorem Keeps.execFill {e} (h : Keeps s₀ s) : OutKeeps s₀ (execFill e s) :=
  h.onIssue fun _ _ h => h.issueCopy

protected theorem Keeps.startParts {e base tally l} (h : Keeps s₀ s) : Keeps s₀ (startParts e base tally l s) := by
  induction l generalizing s with
  | nil => exact h
  | cons p l ih => exact ih h.startCopy

protected theorem Keeps.publish {g} (h : Keeps s₀ s) : Keeps s₀ (publish g s) :=
  h.forEach fun _ _ h => h.writeStore

protected theorem Keeps.selectFault {e code c b tally} (h : Keeps s₀ s) : Keeps s₀ (selectFault e code c b tally s) :=
  (h.modStr.logEvent.tallyError.ite h.modStr.logEvent).engineError

protected theorem Keeps.redoRun {e k tally parts} (h : Keeps s₀ s) : Keeps s₀ (redoRun e k tally parts s) :=
  h.freeStg.startParts

protected theorem Keeps.spubAbsent {e k c b tally ta} (h : Keeps s₀ s) : Keeps s₀ (spubAbsent e k c b tally ta s) :=
  h.freeStg.selectFault.postTally

protected theorem Keeps.spubLoop {e w n} (h : Keeps s₀ s) : Keeps s₀ (spubLoop e w n s) := by
  induction n generalizing s with
  | zero => exact h
  | succ n ih =>
    unfold spubLoop
    extract_lets _ _ _ _ _ onward _
    have go {t} (h : Keeps s₀ t) : Keeps s₀ (onward t) := ih h.modHare
    refine (h.modHare.nextPc.ite h).ite ((go h.stagingFault).ite (h.ite ((go h.freeStg.publish.freeStg.postTally).ite ?_)))
    split
    · split
      · exact h.mapEntry.error ‹_›
      · have entry : Keeps s₀ _ := h.mapEntry.ok ‹_›
        exact go ((entry.tallyError.ite entry).freeStg.ite (entry.spubAbsent.ite entry.redoRun))
    · exact go h.redoRun

protected theorem Keeps.execSpub {e} (h : Keeps s₀ s) : OutKeeps s₀ (execSpub e s) :=
  h.onIssue fun _ _ h => h.spubLoop

protected theorem Keeps.execScan {e} (h : Keeps s₀ s) : OutKeeps s₀ (execScan e s) :=
  h.onIssue fun _ _ h => (h.forEach fun _ _ h => h.cancelStg.ite h.stagingFault).nextPc

protected theorem Keeps.freeAllStg (h : Keeps s₀ s) : Keeps s₀ (freeAllStg s) :=
  h.forEach fun _ _ h => h.cancelStg

protected theorem Keeps.sresWrite {e base off align d} (h : Keeps s₀ s) : Keeps s₀ (sresWrite e base off align d s) := by
  unfold sresWrite
  split
  · exact h.addrFault.modHare
  · exact h.writeStore.modHare

protected theorem Keeps.sresPart {e w tally src n b a} (h : Keeps s₀ s) : Keeps s₀ (sresPart e w tally src n b a s) := by
  unfold sresPart
  split
  · exact h.modStr.sresWrite
  · split
    · exact h.addrFault.modHare.tallyError.ite h.addrFault.modHare
    · exact h.startCopy

protected theorem Keeps.sresCand {e w x j b entry} (h : Keeps s₀ s) : Keeps s₀ (sresCand e w x j b entry s).1 := by
  unfold sresCand
  dsimp only
  split
  · split
    · refine Keeps.sresWrite ?_
      split
      · exact (h.tallyError.ite h).sresWrite
      · exact h.tallyError.ite h
    · split
      · exact (h.tallyError.ite h).sresWrite
      · exact h.tallyError.ite h
  · split
    · split
      · refine Keeps.sresWrite ?_
        split
        · exact h.selectFault.sresWrite
        · exact h.selectFault
      · split
        · exact h.selectFault.sresWrite
        · exact h.selectFault
    · split
      · refine Keeps.sresPart ?_
        split
        · exact h.sresPart
        · exact h
      · split
        · exact h.sresPart
        · exact h

protected theorem Keeps.sresTail {e x n j} (h : Keeps s₀ s) : Keeps s₀ (sresTail e x n j s) := by
  induction n generalizing s j with
  | zero => exact h
  | succ n ih => exact h.ite (ih h.sresWrite.postTally)

protected theorem Keeps.sresEnd {e w} (h : Keeps s₀ s) : Keeps s₀ (sresEnd e w s) :=
  ((h.forEach fun _ _ h => h.cancelStg.ite h).ite h).modHare.nextPc

protected theorem Keeps.sresRecord {e x j cands} (h : Keeps s₀ s) : Keeps s₀ (sresRecord e x j cands s) := by
  unfold sresRecord
  split
  · exact h.sresWrite.postTally
  · exact h

protected theorem Keeps.sresLoop {e w x n} (h : Keeps s₀ s) : Keeps s₀ (sresLoop e w x n s) := by
  induction n generalizing s with
  | zero => exact h
  | succ n ih =>
    unfold sresLoop
    split
    · exact h
    · refine h.ite ?_
      split
      · exact (h.ite h.sresRecord).sresTail.sresEnd
      · split
        · exact h.mapEntry.error ‹_›
        · have entry : Keeps s₀ _ := h.mapEntry.ok ‹_›
          exact ih (entry.ite entry.sresRecord).sresCand.modHare

protected theorem Keeps.sresStart {e w} (h : Keeps s₀ s) : Keeps s₀ (sresStart e w s) := by
  unfold sresStart
  refine h.selectFault.sresTail.sresEnd.ite (Keeps.forEach ?_ fun _ _ h => h.selectFault).modHare.sresLoop
  split
  · exact h.addrFault.modHare
  · exact h

protected theorem Keeps.execSres {e} (h : Keeps s₀ s) : OutKeeps s₀ (execSres e s) := by
  unfold execSres
  refine h.onIssue fun _ _ h => ?_
  split
  · exact h.sresLoop
  · exact h.ite h.sresStart

protected theorem Keeps.slotAnswered {i d} (h : Keeps s₀ s) : Keeps s₀ (slotAnswered i d s).1 := by
  unfold slotAnswered
  dsimp only
  split
  · exact h.closeSlot
  · exact h.frame

protected theorem Keeps.slotFail {i d code refused} (h : Keeps s₀ s) : Keeps s₀ (slotFail i d code refused s) := by
  unfold slotFail
  dsimp only
  split
  · exact h.slotAnswered.engineError.modFox.completeOp
  · exact h.slotAnswered.engineError.modFox.foxResume
  · exact h.slotAnswered.hareFailed.ite h.slotAnswered.hareFailedPart
  · exact h.slotAnswered.runFailed
  · exact h.slotAnswered.entryArrived
  · exact h.slotAnswered.packFailed.packAnswered.ite h.slotAnswered.packFailed
  · exact h.slotAnswered.l1Failed
  · exact h.slotAnswered.streamFailed
  · exact h.slotAnswered.xferFailed
  · exact (h.slotAnswered.modFox.ite h.slotAnswered).engineError

protected theorem Keeps.slotDead {i d cause} (h : Keeps s₀ s) : Keeps s₀ (slotDead i d cause s) :=
  h.slotFail.ite h.noteDead.slotFail

protected theorem Keeps.deadPacket {p d cause} (h : Keeps s₀ s) : Keeps s₀ (deadPacket p d cause s) :=
  h.slotDead.ite h

protected theorem Keeps.errReply {p code} (h : Keeps s₀ s) : Keeps s₀ (errReply p code s) :=
  h.routePacket

protected theorem Keeps.dropPacket {p code cause} (h : Keeps s₀ s) : Keeps s₀ (dropPacket p code cause s) :=
  h.ite (h.deadPacket.ite h.errReply)

protected theorem Keeps.lateAnswer (h : Keeps s₀ s) : Keeps s₀ (lateAnswer s) :=
  h.frame

protected theorem Keeps.foxAnswer {core code d poison} (h : Keeps s₀ s) : Keeps s₀ (foxAnswer core code d poison s) :=
  h.engineError.modFox.foxResume.ite h.foxResume

protected theorem Keeps.takeData {p} (h : Keeps s₀ s) : Keeps s₀ (takeData p s) := by
  unfold takeData
  dsimp only
  split
  · exact h.slotAnswered.foxAnswer
  · exact h.slotAnswered.hareData
  · exact h.slotAnswered.runData
  · exact h.slotAnswered.entryArrived
  · exact h.slotAnswered.fetchedLine
  · exact h.slotAnswered

protected theorem Keeps.execRdData {p} (h : Keeps s₀ s) : OutKeeps s₀ (execRdData p s) := by
  unfold execRdData
  refine .ite h.takeIngress.lateAnswer ?_
  split
  · refine .ite h.takeIngress.takeData ?_
    split
    · exact h.localRecall
    · exact h.takeIngress.takeData
  · exact h.takeIngress.takeData

protected theorem Keeps.takeAck {p} (h : Keeps s₀ s) : Keeps s₀ (takeAck p s) := by
  unfold takeAck
  dsimp only
  split
  · exact (h.slotAnswered.useFree.engineError.ite h.slotAnswered).completeOp
  · exact (h.slotAnswered.useFree.engineError.ite h.slotAnswered).foxAnswer
  · exact (h.slotAnswered.useFree.engineError.ite h.slotAnswered).hareAck.ite
      (h.slotAnswered.useFree.engineError.ite h.slotAnswered)
  · exact (h.slotAnswered.useFree.engineError.ite h.slotAnswered).packAnswered.ite
      (h.slotAnswered.useFree.engineError.ite h.slotAnswered)
  · exact (h.slotAnswered.useFree.engineError.ite h.slotAnswered).streamAnswered
  · exact (h.slotAnswered.useFree.engineError.ite h.slotAnswered).xferAcked
  · exact h.slotAnswered.useFree.engineError.ite h.slotAnswered

protected theorem Keeps.execAck {p} (h : Keeps s₀ s) : OutKeeps s₀ (execAck p s) :=
  .ite h.takeIngress.takeAck h.takeIngress.lateAnswer

protected theorem Keeps.takeErr {p} (h : Keeps s₀ s) : Keeps s₀ (takeErr p s) := by
  unfold takeErr
  refine h.slotDead.ite ?_
  split
  · exact h.frame.slotFail
  · exact h.frame.logOncePhase.slotFail

protected theorem Keeps.execErr {p} (h : Keeps s₀ s) : OutKeeps s₀ (execErr p s) :=
  .ite h.takeIngress.l1Failed (.ite h.takeIngress.takeErr h.takeIngress.lateAnswer)

protected theorem Keeps.execRequestSlotTimeout {i} (h : Keeps s₀ s) : OutKeeps s₀ (execRequestSlotTimeout i s) :=
  .ite (h.forEach fun _ _ h => h.slotDead) h

protected theorem Keeps.execRetry {p} (h : Keeps s₀ s) : OutKeeps s₀ (execRetry p s) := by
  unfold execRetry
  refine .ite h.takeIngress.modL1 (.ite h.takeIngress.lateAnswer (Keeps.frame ?_))
  split
  · exact h.takeIngress.modPack
  · exact h.takeIngress

protected theorem Keeps.execRetryResend {i core key} (h : Keeps s₀ s) : OutKeeps s₀ (execRetryResend i core key s) :=
  .ite (.ite h.modL1.sendCoh h) (.ite (h.frame.forEach fun _ _ h => h.routePacket) h)

end

end Sys2Proof.Machine

/-! SUPPORT. What keeps the queue and the canonical form: the bears and badgers, the rings and the lanes. -/

namespace Sys2Proof.Machine

open Sys2Proof

section

set_option Elab.async false

variable {s₀ s : State}

protected theorem Keeps.modBear {e f} (h : Keeps s₀ s) : Keeps s₀ (modBear e f s) :=
  h.frame

protected theorem Keeps.modBadger {e f} (h : Keeps s₀ s) : Keeps s₀ (modBadger e f s) :=
  h.frame

protected theorem Keeps.unitFault {e} (h : Keeps s₀ s) : Keeps s₀ (unitFault e s) :=
  h.modBear.ite h.modBadger

protected theorem Keeps.operandFault {e bad} (h : Keeps s₀ s) : Keeps s₀ (operandFault e bad s) := by
  unfold operandFault
  split
  · exact h.addrFault.unitFault
  · exact h

protected theorem Keeps.operandPoison {e bad} (h : Keeps s₀ s) : Keeps s₀ (operandPoison e bad s) :=
  h.engineError.unitFault.ite h

protected theorem Keeps.clearBanks (h : Keeps s₀ s) : Keeps s₀ (clearBanks s) :=
  h.frame

protected theorem Keeps.accNote {e bank row x} (h : Keeps s₀ s) : Keeps s₀ (accNote e bank row x s) := by
  unfold accNote
  split
  · exact h
  · exact h.modBear.logOncePhase
  · exact h.modBear.engineFatal

protected theorem Keeps.execAccScrub {e bank row x} (h : Keeps s₀ s) : OutKeeps s₀ (execAccScrub e bank row x s) :=
  .ite h.accNote h

protected theorem Keeps.execMma {e ecc acc} (h : Keeps s₀ s) : OutKeeps s₀ (execMma e ecc acc s) :=
  h.onIssue fun _ _ h => h.ite (h.eccNote.accNote.operandFault.operandPoison.modBear.nextPc.issueOpen.ite h.eccNote.accNote)

protected theorem Keeps.issueOmma {e ecc acc w} (h : Keeps s₀ s) : Keeps s₀ (issueOmma e ecc acc w s) :=
  h.ite (h.eccNote.accNote.operandFault.operandPoison.modBear.nextPc.issueOpen.ite h.eccNote.accNote)

protected theorem Keeps.execOmma32 {e ecc acc} (h : Keeps s₀ s) : OutKeeps s₀ (execOmma32 e ecc acc s) :=
  h.onIssue fun _ _ h => h.issueOmma

protected theorem Keeps.execOmma16 {e ecc acc} (h : Keeps s₀ s) : OutKeeps s₀ (execOmma16 e ecc acc s) :=
  h.onIssue fun _ _ h => h.issueOmma

protected theorem Keeps.execCmode {e} (h : Keeps s₀ s) : OutKeeps s₀ (execCmode e s) :=
  h.onIssue fun _ _ h => h.modBear.nextPc.ite h

protected theorem Keeps.modKeep {e f} (h : Keeps s₀ s) : Keeps s₀ (modKeep e f s) :=
  h.modBear.ite h.modBadger

protected theorem Keeps.countDummies {e n} (h : Keeps s₀ s) : Keeps s₀ (countDummies e n s) :=
  h.modBear.ite h.modBadger

protected theorem Keeps.keepReal {e dummy} (h : Keeps s₀ s) : Keeps s₀ (keepReal e dummy s) :=
  h.countDummies.modKeep.ite h

protected theorem Keeps.countGap {e} (h : Keeps s₀ s) : Keeps s₀ (countGap e s) :=
  h.useFree.countDummies.ite h

protected theorem Keeps.rowEnters {e} (h : Keeps s₀ s) : Keeps s₀ (rowEnters e s) :=
  (h.useFree.modKeep.ite h.useFree).ite h

protected theorem Keeps.execKeep {e} (h : Keeps s₀ s) : OutKeeps s₀ (execKeep e s) :=
  h.onIssue fun _ _ h => (h.countGap.modKeep.rowEnters.ite h).nextPc

protected theorem Keeps.execKeepRampTick {e} (h : Keeps s₀ s) : OutKeeps s₀ (execKeepRampTick e s) :=
  .ite h h.countDummies.modKeep.rowEnters

protected theorem Keeps.execKeepGapExpire {e} (h : Keeps s₀ s) : OutKeeps s₀ (execKeepGapExpire e s) :=
  .ite h h.countDummies.modKeep

protected theorem Keeps.setForceOff {die ve on} (h : Keeps s₀ s) : Keeps s₀ (setForceOff die ve on s) := by
  unfold setForceOff
  extract_lets change cls engines counted units marked stopped
  have hmarked : Keeps s₀ marked := ((h.forEach fun _ _ h => h.countGap).ite h).frame
  have hstopped : Keeps s₀ stopped := hmarked.forEach fun _ _ h => h.modKeep
  exact (hstopped.logEvent.ite hstopped).ite hmarked

protected theorem Keeps.execMeKeepAdminOff {die ve on} (h : Keeps s₀ s) : OutKeeps s₀ (execMeKeepAdminOff die ve on s) :=
  h.ite h.setForceOff

protected theorem Keeps.swapIn {e dummy} (h : Keeps s₀ s) : Keeps s₀ (swapIn e dummy s) :=
  h.modBear.keepReal

protected theorem Keeps.tileFault {e} (h : Keeps s₀ s) : Keeps s₀ (tileFault e s) :=
  h.modBear.engineFatal

protected theorem Keeps.execMmaSwap {e parity dummy} (h : Keeps s₀ s) : OutKeeps s₀ (execMmaSwap e parity dummy s) := by
  unfold execMmaSwap
  split
  · exact h
  · exact .ite h (.ite (h.countDummies.ite h).modBear.logEvent h.swapIn)

protected theorem Keeps.execTileRefillDone {e parity} (h : Keeps s₀ s) : OutKeeps s₀ (execTileRefillDone e parity s) :=
  .ite (h.countGap.tileFault.ite h.countGap.modBear.swapIn) h

protected theorem Keeps.execMeTileFault {e} (h : Keeps s₀ s) : OutKeeps s₀ (execMeTileFault e s) :=
  .ite h.tileFault h

protected theorem Keeps.execMmaComplete {e} (h : Keeps s₀ s) : OutKeeps s₀ (execMmaComplete e s) := by
  unfold execMmaComplete
  split
  · exact h
  · exact .ite h.rowEnters.modBear.completeOp h

protected theorem Keeps.spWrite {e misaligned off d} (h : Keeps s₀ s) : Keeps s₀ (spWrite e misaligned off d s) :=
  h.ite h.writeStore

protected theorem Keeps.drainRow {s' e r d} (h : Keeps s₀ s) : Keeps s₀ (drainRow s' e r d s) := by
  unfold drainRow
  extract_lets _ _ s₁ _ s₂ s₃
  have h₂ : Keeps s₀ s₂ := h.spWrite.spWrite.ite h.spWrite
  have h₃ : Keeps s₀ s₃ := h₂.ite h₂.modBear.logOncePhase
  exact h₃.modBear.ite h₃

protected theorem Keeps.execDrn {e ecc acc} (h : Keeps s₀ s) : OutKeeps s₀ (execDrn e ecc acc s) :=
  h.onIssue fun _ _ h =>
    h.ite (((h.eccNote.accNote.operandFault.operandPoison.forEach
      fun _ _ h => h.drainRow).modBear.nextPc.issueOpen).ite h.eccNote.accNote)

protected theorem Keeps.execDrnComplete {e} (h : Keeps s₀ s) : OutKeeps s₀ (execDrnComplete e s) := by
  unfold execDrnComplete
  split
  · exact h
  · exact h.modBear.completeOp

protected theorem Keeps.execDzero {e} (h : Keeps s₀ s) : OutKeeps s₀ (execDzero e s) :=
  h.onIssue fun _ _ h => h.ite h.modBear.nextPc

protected theorem Keeps.aloadRow {e base stride bank first d} (h : Keeps s₀ s) :
    Keeps s₀ (aloadRow e base stride bank first d s) :=
  h.modBear

protected theorem Keeps.execAload {e ecc} (h : Keeps s₀ s) : OutKeeps s₀ (execAload e ecc s) :=
  h.onIssue fun _ _ h => ((h.eccNote.operandFault.operandPoison.forEach fun _ _ h => h.aloadRow).nextPc.ite h.eccNote).ite h

protected theorem Keeps.execOdrn {e acc} (h : Keeps s₀ s) : OutKeeps s₀ (execOdrn e acc s) :=
  h.onIssue fun _ _ h => h.ite ((h.accNote.operandFault.forEach fun _ _ h => h.spWrite).nextPc.ite h.accNote)

protected theorem Keeps.VeRun_note {v} {g o} (h : Keeps s₀ v.s) : Keeps s₀ (VeRun.note v g o).s := by
  unfold VeRun.note
  split
  · split <;> exact h
  · exact h

protected theorem Keeps.slotRead {v} {m e d r j} (h : Keeps s₀ v.s) : Keeps s₀ (slotRead m e d r j v).2.s := by
  unfold slotRead
  dsimp only
  split
  · exact h.VeRun_note
  · split <;> exact h

protected theorem Keeps.bitRead {v} {m e d r j} (h : Keeps s₀ v.s) : Keeps s₀ (bitRead m e d r j v).2.s := by
  unfold bitRead
  dsimp only
  split
  · exact h.VeRun_note
  · split <;> exact h

protected theorem Keeps.slotWrite {v} {e d r j x} (h : Keeps s₀ v.s) : Keeps s₀ (slotWrite e d r j x v).s := by
  unfold slotWrite
  dsimp only
  split
  · exact h.VeRun_note
  · exact h.writeStore

protected theorem Keeps.VeRun_each {α : Type} {l : List α} {f : α → VeRun → VeRun} {v : VeRun} (h : Keeps s₀ v.s)
    (hf : ∀ a u, Keeps s₀ u.s → Keeps s₀ (f a u).s) : Keeps s₀ (VeRun.each l f v).s := by
  unfold VeRun.each
  induction l generalizing v with
  | nil => exact h
  | cons a l ih => exact ih (hf a v h)

protected theorem Keeps.VeRun_gather {α β : Type} {l : List α} {f : α → VeRun → β × VeRun} {v : VeRun} (h : Keeps s₀ v.s)
    (hf : ∀ a u, Keeps s₀ u.s → Keeps s₀ (f a u).2.s) : Keeps s₀ (VeRun.gather f l v).2.s := by
  induction l generalizing v with
  | nil => exact h
  | cons a l ih => exact ih (hf a v h)

protected theorem Keeps.veEnd {v} {e} (h : Keeps s₀ v.s) : Keeps s₀ (veEnd e v) := by
  unfold veEnd
  refine (Keeps.ite ?_ (Keeps.logOncePhase ?_)).modBadger.nextPc
  · split
    · exact h.operandFault.operandPoison.modBadger.logOncePhase.engineError
    · exact h.operandFault.operandPoison
  · split
    · exact h.operandFault.operandPoison.modBadger.logOncePhase.engineError
    · exact h.operandFault.operandPoison

protected theorem Keeps.veSense {e off ecc lane} (h : Keeps s₀ s) : Keeps s₀ (veSense e off ecc lane s) :=
  h.eccNote.modBadger.logOncePhase.ite h.eccNote

protected theorem Keeps.rawInput {v} {s0 e d r j} (h : Keeps s₀ v.s) : Keeps s₀ (rawInput s0 e d r j v).2.s :=
  h.slotRead

protected theorem Keeps.source {v} {s0 e c w src l} (h : Keeps s₀ v.s) : Keeps s₀ (source s0 e c w src l v).2.s := by
  unfold source
  split
  · exact h
  · split
    · exact h.slotRead
    · split
      · exact h
      · split
        · exact h
        · split <;> exact h

protected theorem Keeps.rotaryPos {v} {s0 e c w l} (h : Keeps s₀ v.s) : Keeps s₀ (rotaryPos s0 e c w l v).2.s := by
  unfold rotaryPos
  dsimp only
  split
  · exact h.rawInput
  · exact h

protected theorem Keeps.rotary {v} {s0 e c w l other} (h : Keeps s₀ v.s) : Keeps s₀ (rotary s0 e c w l other v).2.s := by
  unfold rotary
  dsimp only
  split
  · exact h.source.source.rotaryPos
  · exact h.source.source.rotaryPos.rawInput

protected theorem Keeps.popcmp {v} {s0 e c w l} (h : Keeps s₀ v.s) : Keeps s₀ (popcmp s0 e c w l v).2.s := by
  unfold popcmp
  split
  · exact h.rawInput.rawInput
  · exact h.rawInput.rawInput.source

protected theorem Keeps.stageResult {v} {s0 e c w l other} (h : Keeps s₀ v.s) :
    Keeps s₀ (stageResult s0 e c w l other v).2.s := by
  unfold stageResult
  dsimp only
  split
  · exact h.rotary
  · split
    · exact h.popcmp
    · split
      · exact h.source
      · split
        · exact h.source
        · split
          · exact h.source.source
          · exact h.source.source
          · exact h.source.source
          · exact h.source.source
          · split
            · exact h.source.source.source
            · split <;> exact h.source.source.source

protected theorem Keeps.runStage {v} {s0 e c ls w} (h : Keeps s₀ v.s) : Keeps s₀ (runStage s0 e c ls w v).2.s :=
  h.VeRun_gather fun _ _ h => h.stageResult

protected theorem Keeps.runStages {s' e c ws ls} {v : VeRun} (h : Keeps s₀ v.s) :
    Keeps s₀ (runStages s' e c ws ls v).2.s := by
  induction ws generalizing v ls with
  | nil => exact h
  | cons w ws ih => exact ih h.runStage

protected theorem Keeps.chainOut {e d src sat f l col} {v : VeRun} (h : Keeps s₀ v.s) :
    Keeps s₀ (chainOut e d src sat f l col v).s :=
  Keeps.slotWrite (v := { v with flags := _ }) h

protected theorem Keeps.writeElem {v} {e c l col} (h : Keeps s₀ v.s) : Keeps s₀ (writeElem e c l col v).s := by
  unfold writeElem
  split
  · exact h.chainOut.chainOut
  · exact h.chainOut

protected theorem Keeps.writeZero {v} {e c r col} (h : Keeps s₀ v.s) : Keeps s₀ (writeZero e c r col v).s := by
  unfold writeZero
  split
  · exact h.slotWrite.slotWrite
  · exact h.slotWrite

protected theorem Keeps.runGroup {s' e c ws r act pos cols} {v : VeRun} (h : Keeps s₀ v.s) :
    Keeps s₀ (runGroup s' e c ws r act pos cols v).s := by
  unfold runGroup
  extract_lets x
  have h₁ : Keeps s₀ x.2.s := Keeps.runStages (v := { v with groups := _ }) h
  refine h₁.VeRun_each fun _ _ h => ?_
  extract_lets
  split
  · exact h.writeElem
  · split
    · exact h.writeElem
    · split
      · exact h.writeZero
      · exact h

protected theorem Keeps.maskCols {v} {e c r cols} (h : Keeps s₀ v.s) : Keeps s₀ (maskCols e c r cols v).2.s :=
  h.VeRun_gather fun _ _ h => h.bitRead

protected theorem Keeps.takeActive {e c r n cols} {v : VeRun} (h : Keeps s₀ v.s) :
    Keeps s₀ (takeActive e c r n cols v).2.2.s := by
  fun_induction takeActive with
  | case1 => exact h
  | case2 => exact h
  | case3 n v j cols b active x ih => exact ih h.bitRead
  | case4 n v j cols b idle ih => exact ih h.bitRead

protected theorem Keeps.runPacked {s' e c ws r n pos cols} {v : VeRun} (h : Keeps s₀ v.s) :
    Keeps s₀ (runPacked s' e c ws r n pos cols v).2.s := by
  induction n generalizing v pos cols with
  | zero => exact h
  | succ n ih =>
    unfold runPacked
    dsimp only
    split
    · exact h.takeActive
    · exact ih h.takeActive.runGroup

protected theorem Keeps.runRow {s' e c ws r} {v : VeRun} (h : Keeps s₀ v.s) : Keeps s₀ (runRow s' e c ws r v).s := by
  unfold runRow
  extract_lets v₁ all x
  have h₁ : Keeps s₀ v₁.s := h
  split
  · have h₂ : Keeps s₀ x.2.s := h₁.runPacked
    split
    · exact h₂.slotWrite
    · exact h₂
  · refine h₁.VeRun_each fun _ _ h => Keeps.runGroup ?_
    split
    · exact h
    · exact h.maskCols

protected theorem Keeps.execChain {e ecc lane dummy} (h : Keeps s₀ s) : OutKeeps s₀ (execChain e ecc lane dummy s) :=
  h.onIssue fun _ _ h => (h.veSense.keepReal.VeRun_each fun _ _ h => h.runRow).veEnd.ite h.veSense.keepReal

protected theorem Keeps.argxOne {e w k places s'} {v : VeRun} (h : Keeps s₀ v.s) :
    Keeps s₀ (argxOne e w k places s' v).s := by
  unfold argxOne
  extract_lets _ _ _ _ _ src at' a b old
  have h₁ : Keeps s₀ src.2.s := h.VeRun_gather fun _ _ h => h.slotRead
  have h₂ : Keeps s₀ old.2.s := by
    unfold old
    split
    · exact h₁.slotRead.slotRead
    · exact h₁
  split
  · exact h₂.slotWrite.slotWrite
  · exact h₂

protected theorem Keeps.execArgx {e ecc lane} (h : Keeps s₀ s) : OutKeeps s₀ (execArgx e ecc lane s) := by
  unfold execArgx
  refine h.onIssue fun _ _ h => (Keeps.veEnd ?_).ite h.veSense
  split <;> exact h.veSense.VeRun_each fun _ _ h => h.argxOne

protected theorem Keeps.sketchRead {v} {m e d i} (h : Keeps s₀ v.s) : Keeps s₀ (sketchRead m e d i v).2.s := by
  unfold sketchRead
  dsimp only
  split
  · exact h.VeRun_note
  · split <;> exact h

protected theorem Keeps.execHsel {e ecc lane} (h : Keeps s₀ s) : OutKeeps s₀ (execHsel e ecc lane s) := by
  unfold execHsel
  refine h.onIssue fun _ _ h => Keeps.ite (Keeps.veEnd ?_) h.veSense
  refine (Keeps.VeRun_gather ?_ fun _ _ h => h.sketchRead).VeRun_each
    fun _ _ h => h.VeRun_each fun _ _ h => h.slotWrite
  split
  · exact (h.veSense.VeRun_gather fun _ _ h => h.sketchRead).VeRun_gather fun _ _ h => h.bitRead
  · exact h.veSense.VeRun_gather fun _ _ h => h.sketchRead

protected theorem Keeps.execVeEccFatal {e} (h : Keeps s₀ s) : OutKeeps s₀ (execVeEccFatal e s) :=
  .ite h.modBadger.engineFatal h

protected theorem Keeps.modTile {k f} (h : Keeps s₀ s) : Keeps s₀ (modTile k f s) :=
  h.frame

protected theorem Keeps.modRing {port rx r f} (h : Keeps s₀ s) : Keeps s₀ (modRing port rx r f s) :=
  h.frame

protected theorem Keeps.moveSpareRole {port rx r} (h : Keeps s₀ s) : Keeps s₀ (moveSpareRole port rx r s) := by
  unfold moveSpareRole
  split
  · exact h.modPort
  · exact h

protected theorem Keeps.tuneRing {port rx r line} (h : Keeps s₀ s) : Keeps s₀ (tuneRing port rx r line s) :=
  h.ite h.modRing

protected theorem Keeps.parkRing {port rx r} (h : Keeps s₀ s) : Keeps s₀ (parkRing port rx r s) :=
  h.ite h.modRing

protected theorem Keeps.startCabling {port} (h : Keeps s₀ s) : Keeps s₀ (startCabling port s) :=
  h.ite ((h.modPort.tuneRing.ite h.modPort).tuneRing.ite (h.modPort.tuneRing.ite h.modPort))

protected theorem Keeps.tuneLane {k} (h : Keeps s₀ s) : Keeps s₀ (tuneLane k s) := by
  unfold tuneLane
  dsimp only
  refine h.modLane.ite (h.modLane.ite (h.modLane.ite (h.modLane.ite ?_)))
  split
  · refine Keeps.ite (Keeps.modLane ?_) ?_
    all_goals exact h.startCabling.moveSpareRole.moveSpareRole.modLane.tuneRing.tuneRing
  · exact h.startCabling.modLane.ite h.startCabling.modLane

protected theorem Keeps.nameLane {port far} (h : Keeps s₀ s) : Keeps s₀ (nameLane port far s) :=
  h.ite (h.modLane.tuneLane.ite h.modLane)

protected theorem Keeps.releaseRings {k} (h : Keeps s₀ s) : Keeps s₀ (releaseRings k s) :=
  h.parkRing.parkRing.modLane

protected theorem Keeps.tuneWaiting {port} (h : Keeps s₀ s) : Keeps s₀ (tuneWaiting port s) :=
  h.forEach fun _ _ h => h.tuneLane

protected theorem Keeps.unuseLane {k} (h : Keeps s₀ s) : Keeps s₀ (unuseLane k s) :=
  h.releaseRings.modLane.tuneWaiting.handBack

protected theorem Keeps.dropLane {k} (h : Keeps s₀ s) : Keeps s₀ (dropLane k s) := by
  unfold dropLane
  dsimp only
  split
  · exact h.modLane
  · exact h.modLane
  · exact h.modLane.releaseRings.tuneWaiting
  · exact h.modLane
  · exact h.modLane
  · exact h.unuseLane

protected theorem Keeps.settleTree {t'} (h : Keeps s₀ s) : Keeps s₀ (settleTree t' s) :=
  (h.frame.forEach fun _ _ h => h.dropLane).ite h

protected theorem Keeps.applyLanes {set keep} (h : Keeps s₀ s) : Keeps s₀ (applyLanes set keep s) :=
  (h.forEach fun _ _ h => h.dropLane).forEach fun _ _ h => h.nameLane

protected theorem Keeps.afterClose {k} (h : Keeps s₀ s) : Keeps s₀ (afterClose k s) :=
  ((h.modLane.ite h.modLane.releaseRings.tuneWaiting).modLane.ite
      (h.modLane.unuseLane.ite (h.modLane.modLane.ite h.modLane.tuneLane))).handBack

protected theorem Keeps.countFlap {k burst takeOut} (h : Keeps s₀ s) : Keeps s₀ (countFlap k burst takeOut s).2 := by
  unfold countFlap
  dsimp only
  split
  · exact h.modLane.logEvent
  · exact h.modLane

protected theorem Keeps.unplannedClose {k reason own burst} (h : Keeps s₀ s) :
    Keeps s₀ (unplannedClose k reason own burst s) := by
  unfold unplannedClose
  refine h.ite (Keeps.modLane ?_).sendMsgPos
  split
  · exact h.logEvent.ite h
  · exact (h.logEvent.ite h).countFlap

protected theorem Keeps.downAfterClose {k} (h : Keeps s₀ s) : Keeps s₀ (downAfterClose k s) :=
  h.modLane

protected theorem Keeps.ringLaneOut {k reason} (h : Keeps s₀ s) : Keeps s₀ (ringLaneOut k reason s) := by
  unfold ringLaneOut
  split
  · exact h.unplannedClose
  · exact h.unplannedClose
  · exact h.modLane
  · exact h

protected theorem Keeps.moveUrgent {k} (h : Keeps s₀ s) : Keeps s₀ (moveUrgent k s) :=
  h.modLane.handBack

protected theorem Keeps.markLane {k detecting} (h : Keeps s₀ s) : Keeps s₀ (markLane k detecting s) :=
  h.modLane.moveUrgent.ite h

protected theorem Keeps.preTuneSpare {k rx} (h : Keeps s₀ s) : Keeps s₀ (preTuneSpare k rx s) :=
  h.tuneRing

protected theorem Keeps.repairStep {k step rule} (h : Keeps s₀ s) : Keeps s₀ (repairStep k step rule s) :=
  h.modLane.preTuneSpare.ite (h.modLane.ite h.logEvent.unplannedClose)

protected theorem Keeps.crossMark {k rule} (h : Keeps s₀ s) : Keeps s₀ (crossMark k rule s) :=
  h.modLane.ite (h.markLane.repairStep.ite h)

protected theorem Keeps.setFeed {k b f} (h : Keeps s₀ s) : Keeps s₀ (setFeed k b f s) :=
  h.frame.ite h.modTile

protected theorem Keeps.setActive {k a} (h : Keeps s₀ s) : Keeps s₀ (setActive k a s) :=
  h.frame.ite h.modTile

protected theorem Keeps.switchFeed {k feed} (h : Keeps s₀ s) : Keeps s₀ (switchFeed k feed s) :=
  h.setActive.frame.logEvent.msixSend.ite (h.setActive.modTile.logEvent.frame.logEvent.ite h.setActive.modTile.logEvent)

protected theorem Keeps.startFeed {k b} (h : Keeps s₀ s) : Keeps s₀ (startFeed k b s) :=
  h.setActive.forEach fun _ _ h => h.tuneLane

protected theorem Keeps.feedBack {k b} (h : Keeps s₀ s) : Keeps s₀ (feedBack k b s) :=
  h.ite (h.startFeed.ite (h.switchFeed.ite h))

protected theorem Keeps.feedNone {k} (h : Keeps s₀ s) : Keeps s₀ (feedNone k s) :=
  (h.setActive.logEvent.forEach fun _ _ h => h.unplannedClose).epochFault.ite
      (h.setActive.logEvent.forEach fun _ _ h => h.unplannedClose)

protected theorem Keeps.feedGone {k b lost} (h : Keeps s₀ s) : Keeps s₀ (feedGone k b lost s) :=
  h.ite (h.switchFeed.ite (h.ite (h.setActive.ite h.feedNone)))

protected theorem Keeps.execToneCheck {k b passed line} (h : Keeps s₀ s) : OutKeeps s₀ (execToneCheck k b passed line s) :=
  .ite h.setFeed.logEvent.feedGone (.ite h.setFeed.logEvent.feedBack h.setFeed)

end

end Sys2Proof.Machine

/-! SUPPORT. What keeps the queue and the canonical form: the optical ports, the frames and the host's queues. -/

namespace Sys2Proof.Machine

open Sys2Proof

section

set_option Elab.async false

variable {s₀ s : State}

protected theorem Keeps.execLaserFeedLost {k b avg low} (h : Keeps s₀ s) : OutKeeps s₀ (execLaserFeedLost k b avg low s) :=
  h.setFeed.logEvent.feedGone

protected theorem Keeps.execLaserPowerLow {k b avg low line} (h : Keeps s₀ s) :
    OutKeeps s₀ (execLaserPowerLow k b avg low line s) :=
  h.setFeed.logEvent.feedGone

protected theorem Keeps.execFeedRelockDone {k} (h : Keeps s₀ s) : OutKeeps s₀ (execFeedRelockDone k s) :=
  .ite h.modTile h

protected theorem Keeps.execNoticeWindowEnd {k} (h : Keeps s₀ s) : OutKeeps s₀ (execNoticeWindowEnd k s) :=
  h.modTile

protected theorem Keeps.execLaserFeedRestored {k b avg low} (h : Keeps s₀ s) :
    OutKeeps s₀ (execLaserFeedRestored k b avg low s) :=
  h.setFeed.logEvent.feedBack

protected theorem Keeps.laneAcquire {k} (h : Keeps s₀ s) : Keeps s₀ (laneAcquire k s) :=
  h.modLane.ite h

protected theorem Keeps.ringFaulty {port rx r} (h : Keeps s₀ s) : Keeps s₀ (ringFaulty port rx r s) :=
  h.logEvent.modRing.modPort

protected theorem Keeps.ringWrong {port rx r check} (h : Keeps s₀ s) : Keeps s₀ (ringWrong port rx r check s) := by
  unfold ringWrong
  dsimp only
  refine Keeps.ite ?_ ?_
  · split
    · exact h.logEvent.modRing.ringLaneOut
    · exact h.logEvent.modRing
  · split
    · exact h.ringFaulty
    · refine h.ringFaulty.modPort.modLane.modRing.ringLaneOut.ite ?_
      split
      · exact h.ringFaulty.logEvent.modLane.unplannedClose.downAfterClose
      · exact h.ringFaulty.logEvent.modLane.unplannedClose.downAfterClose
      · exact h.ringFaulty.logEvent.modLane.modLane
      · exact h.ringFaulty.logEvent.modLane.modLane
      · exact h.ringFaulty.logEvent.modLane

protected theorem Keeps.execRingSweepDone {port rx r found} (h : Keeps s₀ s) :
    OutKeeps s₀ (execRingSweepDone port rx r found s) :=
  .ite h (.ite h.modRing h.ringWrong)

protected theorem Keeps.execRingLock {port rx r driveOk} (h : Keeps s₀ s) :
    OutKeeps s₀ (execRingLock port rx r driveOk s) := by
  unfold execRingLock
  dsimp only
  refine .ite h (.ite h.ringWrong ?_)
  split
  · exact h.modRing.laneAcquire
  · exact h.modRing

protected theorem Keeps.execRetuneTimeout {port rx r} (h : Keeps s₀ s) : OutKeeps s₀ (execRetuneTimeout port rx r s) :=
  .ite h.modRing h

protected theorem Keeps.execRingToneCheckDone {port rx r passed} (h : Keeps s₀ s) :
    OutKeeps s₀ (execRingToneCheckDone port rx r passed s) :=
  .ite h (.ite h.logEvent.setFeed.feedGone h.ringWrong)

protected theorem Keeps.execSpareMove {k rx loopOk} (h : Keeps s₀ s) : OutKeeps s₀ (execSpareMove k rx loopOk s) :=
  .ite h (.ite h.modLane.logEvent.modPort.parkRing.modPort h.modLane.logEvent.modPort.ringFaulty)

protected theorem Keeps.execRetryTimeout {k} (h : Keeps s₀ s) : OutKeeps s₀ (execRetryTimeout k s) := by
  unfold execRetryTimeout
  dsimp only
  split
  · exact h
  · exact .ite h.unplannedClose h.modLane

protected theorem Keeps.execLossOfFrame {x} (h : Keeps s₀ s) : OutKeeps s₀ (execLossOfFrame x s) :=
  .ite h.unplannedClose h

protected theorem Keeps.execAcquireTimeout {k} (h : Keeps s₀ s) : OutKeeps s₀ (execAcquireTimeout k s) :=
  .ite h.modLane h

protected theorem Keeps.execDownRetry {k} (h : Keeps s₀ s) : OutKeeps s₀ (execDownRetry k s) :=
  .ite h (.ite h.tuneLane h.unuseLane)

protected theorem Keeps.execUcwClassify {k n lanes ports tiles retuned} (h : Keeps s₀ s) :
    OutKeeps s₀ (execUcwClassify k n lanes ports tiles retuned s) :=
  .ite h.modLane (.ite h.modLane.modLane (.ite (h.modLane.modLane.forEach fun _ _ h => h.modTile).logEvery
      (.ite h.modLane.modLane.crossMark h.modLane.modLane)))

protected theorem Keeps.execRepairObservationEnd {k} (h : Keeps s₀ s) : OutKeeps s₀ (execRepairObservationEnd k s) := by
  unfold execRepairObservationEnd
  dsimp only
  split
  · exact h
  · exact .ite h (.ite h.modLane h.modLane.repairStep)

protected theorem Keeps.execPlannedCloseTimeout {k} (h : Keeps s₀ s) : OutKeeps s₀ (execPlannedCloseTimeout k s) := by
  unfold execPlannedCloseTimeout
  split
  · exact .ite h.unplannedClose h
  · exact h

protected theorem Keeps.execClose {p} (h : Keeps s₀ s) : OutKeeps s₀ (execClose p s) := by
  unfold execClose
  dsimp only
  split
  · split
    · exact .ite (h.takeIngress.unplannedClose.ite h.takeIngress)
        (h.takeIngress.unplannedClose.ite h.takeIngress).modLane.afterClose
    · exact h.takeIngress.unplannedClose.ite h.takeIngress
  · exact h.takeIngress

protected theorem Keeps.execLaneCloseTimeout {k} (h : Keeps s₀ s) : OutKeeps s₀ (execLaneCloseTimeout k s) := by
  unfold execLaneCloseTimeout
  dsimp only
  split
  · exact .ite h (h.logEvent.forEach fun _ _ h => h.dropPacket).modLane.afterClose
  · exact h

protected theorem Keeps.execLaneHoldEnd {k} (h : Keeps s₀ s) : OutKeeps s₀ (execLaneHoldEnd k s) :=
  .ite (h.modLane.ite h) (.ite (h.modLane.ite h).tuneLane (h.modLane.ite h).unuseLane)

protected theorem Keeps.execHoldTimeReset {k} (h : Keeps s₀ s) : OutKeeps s₀ (execHoldTimeReset k s) :=
  .ite h.modLane h

protected theorem Keeps.execLaneDisagreeTimer {k reported} (h : Keeps s₀ s) :
    OutKeeps s₀ (execLaneDisagreeTimer k reported s) :=
  .ite h h.modPort.frame.logEvent

protected theorem Keeps.execPlaneCablingCheck {port seen} (h : Keeps s₀ s) :
    OutKeeps s₀ (execPlaneCablingCheck port seen s) :=
  .ite
    (((((h.parkRing.ite h).parkRing.ite (h.parkRing.ite h)).ite h).modPort.forEach
      fun _ _ h => h.tuneLane).forEach fun _ _ h => h.laneAcquire)
    (h.modPort.forEach fun _ _ h => h.modLane).logEvery

protected theorem Keeps.putFrame {k f} (h : Keeps s₀ s) : Keeps s₀ (putFrame k f s) :=
  h.modLane

protected theorem Keeps.laneUp {k} (h : Keeps s₀ s) : Keeps s₀ (laneUp k s) := by
  unfold laneUp
  extract_lets _ _ s₁ s₂ s₃ _ s₄ s₅
  have h₂ : Keeps s₀ s₂ := h.modLane.logOncePhase
  have h₃ : Keeps s₀ s₃ := h₂.logEvent.ite h₂
  have h₄ : Keeps s₀ s₄ := h₃.frame.logEvent.ite h₃
  have h₅ : Keeps s₀ s₅ := h₄.settleTree.ite h₄
  exact (h₅.frame.forEach fun _ _ h => h.routePacket).ite h

protected theorem Keeps.dropUnlicensed {k} (h : Keeps s₀ s) : Keeps s₀ (dropUnlicensed k s) :=
  h.modLane.forEach fun _ _ h => h.licenceDrop

protected theorem Keeps.finishPlanned {k} (h : Keeps s₀ s) : Keeps s₀ (finishPlanned k s) := by
  unfold finishPlanned
  dsimp only
  split
  · exact ((h.modLane.tuneLane.ite h.modLane).handBack.ite h.unuseLane).ite h
  · exact h

protected theorem Keeps.sendLineZero {port} (h : Keeps s₀ s) : Keeps s₀ (sendLineZero port s) :=
  h.modPort.ite h

protected theorem Keeps.frameSend {k} (h : Keeps s₀ s) : Keeps s₀ (frameSend k s) := by
  unfold frameSend
  dsimp only
  refine h.sendLineZero.ite (h.dropUnlicensed.ite ?_)
  split
  · exact h.dropUnlicensed.putFrame.modLane.laneUp
  · refine h.dropUnlicensed.ite ?_
    split
    · exact h.dropUnlicensed.unplannedClose.ite h.dropUnlicensed.putFrame.modLane
    · exact h.dropUnlicensed.putFrame.finishPlanned.ite h.dropUnlicensed.putFrame.modLane
  · refine h.dropUnlicensed.ite ?_
    split
    · exact h.dropUnlicensed.unplannedClose.ite h.dropUnlicensed.putFrame.modLane
    · exact h.dropUnlicensed.putFrame.finishPlanned.ite h.dropUnlicensed.putFrame.modLane
  · refine h.dropUnlicensed.ite ?_
    split
    · exact h.dropUnlicensed.unplannedClose.ite h.dropUnlicensed.putFrame.modLane
    · exact h.dropUnlicensed.putFrame.finishPlanned.ite h.dropUnlicensed.putFrame.modLane
  · exact h.dropUnlicensed

protected theorem Keeps.execFrameSend {k} (h : Keeps s₀ s) : OutKeeps s₀ (execFrameSend k s) :=
  h.frameSend

protected theorem Keeps.takeFlagged {p} (h : Keeps s₀ s) : Keeps s₀ (takeFlagged p s) :=
  h.frame.routePacket.ite (h.frame.ite h.frame)

protected theorem Keeps.freeCreditOf {k p} (h : Keeps s₀ s) : Keeps s₀ (freeCreditOf k p s) :=
  h.modLane

protected theorem Keeps.deliver {k p} (h : Keeps s₀ s) : Keeps s₀ (deliver k p s) :=
  h.licenceDrop.freeCreditOf.ite (h.frame.freeCreditOf.ite
      (h.frame.freeCreditOf.ite ((h.freeCreditOf.takeFlagged.ite h.freeCreditOf.frame).ite h.frame)))

protected theorem Keeps.takeHeader {k f} (h : Keeps s₀ s) : Keeps s₀ (takeHeader k f s) :=
  h.modLane

protected theorem Keeps.takeFlags {k f} (h : Keeps s₀ s) : Keeps s₀ (takeFlags k f s) := by
  unfold takeFlags
  extract_lets s₁ _ s₂ s₃ s₄ s₅ _ s₆
  have h₁ : Keeps s₀ s₁ := h.modLane.ite h
  have h₂ : Keeps s₀ s₂ := h₁.markLane.ite h₁
  have h₃ : Keeps s₀ s₃ := h₂.modLane.ite h₂
  have h₅ : Keeps s₀ s₅ := h₃.modLane.preTuneSpare.ite h₃.modLane
  exact (h₅.modLane.ite h₅).modLane

protected theorem Keeps.countCorrected {k n} (h : Keeps s₀ s) : Keeps s₀ (countCorrected k n s) :=
  h.ite ((h.modLane.logEvery.ite h.modLane).crossMark.ite (h.modLane.logEvery.ite h.modLane))

protected theorem Keeps.wrongIdentity {k f} (h : Keeps s₀ s) : Keeps s₀ (wrongIdentity k f s) :=
  h.modLane.ite (h.modLane.modLane.ringWrong.ite
    (h.modLane.modLane.logEvent.unplannedClose.downAfterClose.ite h.modLane.modLane.logEvent.countFlap.modLane))

protected theorem Keeps.discardFrame {k} (h : Keeps s₀ s) : Keeps s₀ (discardFrame k s) :=
  h.modLane

protected theorem Keeps.takeFrame {k f rtt} (h : Keeps s₀ s) : Keeps s₀ (takeFrame k f rtt s) := by
  unfold takeFrame
  refine h.wrongIdentity.ite ?_
  split
  · exact h.modLane.laneUp
  · exact h
  · exact h
  · exact h.takeHeader.takeFlags.finishPlanned
  · exact h.discardFrame.ite (h.takeHeader.modLane.forEach fun _ _ h => h.deliver).takeFlags

protected theorem Keeps.frameReceive {k f errs read rtt} (h : Keeps s₀ s) : Keeps s₀ (frameReceive k f errs read rtt s) := by
  unfold frameReceive
  refine h.ite (h.countCorrected.modLane.discardFrame.ite ?_)
  split
  · exact h.countCorrected.takeFrame
  · exact h.countCorrected.discardFrame

protected theorem Keeps.execFrameReceive {k f places values read rtt} (h : Keeps s₀ s) :
    OutKeeps s₀ (execFrameReceive k f places values read rtt s) :=
  h.frameReceive

protected theorem Keeps.applyTree {root} (h : Keeps s₀ s) : Keeps s₀ (applyTree root s) :=
  h.frame.applyLanes

protected theorem Keeps.changeTree {root} (h : Keeps s₀ s) : Keeps s₀ (changeTree root s) :=
  h.frame.ite (h.frame.applyLanes.forEach fun _ _ h => h.settleTree)

protected theorem Keeps.applyColour {c root} (h : Keeps s₀ s) : Keeps s₀ (applyColour c root s) :=
  h.applyTree.ite (h.frame.applyLanes.frame.forEach fun _ _ h => h.routePacket)

protected theorem Keeps.modBoot {f} (h : Keeps s₀ s) : Keeps s₀ (modBoot f s) :=
  h.frame

protected theorem Keeps.numberRows {bad} (h : Keeps s₀ s) : Keeps s₀ (numberRows bad s) := by
  unfold numberRows
  dsimp only
  refine h.forEach fun _ _ h => ?_
  split
  · exact h.modBoot
  · exact h

protected theorem Keeps.noteRepair {t' spare} (h : Keeps s₀ s) : Keeps s₀ (noteRepair t' spare s) :=
  h.logEvent

protected theorem Keeps.poisonUnread {st base n t'} (h : Keeps s₀ s) : Keeps s₀ (poisonUnread st base n t' s) :=
  h.poisonLines

protected theorem Keeps.repairLine {x} (h : Keeps s₀ s) : OptKeeps s₀ (repairLine x s) := by
  unfold repairLine
  split
  · exact .of_map fun _ => h.listRepair.modBoot.modBoot.poisonUnread.noteRepair
  · exact .of_map fun _ => h.listRepair.modBoot.poisonUnread.noteRepair
  · exact .ite h.noteRepair trivial
  · exact h

protected theorem Keeps.testLines {l} (h : Keeps s₀ s) : Keeps s₀ (testLines l s).1 := by
  induction l generalizing s with
  | nil => exact h
  | cons x l ih =>
    unfold testLines
    split
    · split
      · split
        · exact ih (h.repairLine.some ‹_›)
        · exact h
      · exact ih h
    · exact ih h

protected theorem Keeps.zeroPoisoned {st} (h : Keeps s₀ s) : Keeps s₀ (zeroPoisoned st s) :=
  h.forEach fun _ _ h => h.writeStore

protected theorem Keeps.zeroAllPoisoned (h : Keeps s₀ s) : Keeps s₀ (zeroAllPoisoned s) :=
  h.zeroPoisoned.zeroPoisoned.zeroPoisoned

protected theorem Keeps.replyHost {r} (h : Keeps s₀ s) : Keeps s₀ (replyHost r s) :=
  h.frame

protected theorem Keeps.startWake {cause} (h : Keeps s₀ s) : Keeps s₀ (startWake cause s) :=
  h.power.logEvent.ite h

protected theorem Keeps.onHost {f} (h : Keeps s₀ s) (hf : ∀ t, Keeps s₀ t → Keeps s₀ (f t)) : OutKeeps s₀ (onHost s f) :=
  .ite h (.ite h.replyHost.startWake (hf _ h))

protected theorem Keeps.hostPosted (h : Keeps s₀ s) : Keeps s₀ (hostPosted s) :=
  h.frame.replyHost

protected theorem Keeps.takeCmd {q id} (h : Keeps s₀ s) : Keeps s₀ (takeCmd q id s) :=
  h.modQueue.frame

protected theorem Keeps.onCmd {q id rsv f} (h : Keeps s₀ s) (hf : ∀ t, Keeps s₀ t → Keeps s₀ (f t)) :
    OutKeeps s₀ (onCmd q id rsv s f) :=
  .ite (h.takeCmd.postCompletion.ite (hf _ h.takeCmd)) h

protected theorem Keeps.endCmd {q id status} (h : Keeps s₀ s) : Keeps s₀ (endCmd q id status s) :=
  h.postCompletion

protected theorem Keeps.queueFault {q cause} (h : Keeps s₀ s) : Keeps s₀ (queueFault q cause s) :=
  h.modQueue.logEvent

protected theorem Keeps.flushHeld {q} (h : Keeps s₀ s) : Keeps s₀ (flushHeld q s) := by
  unfold flushHeld
  split
  · exact h.writeEntry
  · exact h

protected theorem Keeps.ringSq {q v'} (h : Keeps s₀ s) : Keeps s₀ (ringSq q v' s) :=
  h.queueFault.ite h.modQueue

protected theorem Keeps.ringCq {q v'} (h : Keeps s₀ s) : Keeps s₀ (ringCq q v' s) :=
  h.queueFault.ite h.modQueue.flushHeld

protected theorem Keeps.execSqTail {q v' size} (h : Keeps s₀ s) : OutKeeps s₀ (execSqTail q v' size s) :=
  h.onHost fun _ h => h.replyHost.ite h.hostPosted.ringSq

protected theorem Keeps.execCqHead {q v' size} (h : Keeps s₀ s) : OutKeeps s₀ (execCqHead q v' size s) :=
  h.onHost fun _ h => h.replyHost.ite h.hostPosted.ringCq

protected theorem Keeps.queueCfg {q v'} (h : Keeps s₀ s) : Keeps s₀ (queueCfg q v' s) :=
  h.modQueue

protected theorem Keeps.enableQueue {q v'} (h : Keeps s₀ s) : Keeps s₀ (enableQueue q v' s) :=
  h.queueCfg.ite h.queueCfg.modQueue

protected theorem Keeps.disableQueue {q v'} (h : Keeps s₀ s) : Keeps s₀ (disableQueue q v' s) :=
  h.queueCfg.modQueue

protected theorem Keeps.execQueueEnable {q v'} (h : Keeps s₀ s) : OutKeeps s₀ (execQueueEnable q v' s) :=
  h.onHost fun _ h => h.replyHost.ite h.hostPosted.enableQueue

protected theorem Keeps.execQueueDisable {q v'} (h : Keeps s₀ s) : OutKeeps s₀ (execQueueDisable q v' s) :=
  h.onHost fun _ h => h.replyHost.ite h.hostPosted.disableQueue

protected theorem Keeps.ackLog {v'} (h : Keeps s₀ s) : Keeps s₀ (ackLog v' s) :=
  h.frame.logVector

protected theorem Keeps.execLogAck {v'} (h : Keeps s₀ s) : OutKeeps s₀ (execLogAck v' s) :=
  h.onHost fun _ h => h.hostPosted.ackLog

protected theorem Keeps.execHostlinkDown {cause} (h : Keeps s₀ s) : OutKeeps s₀ (execHostlinkDown cause s) :=
  .ite (h.frame.logEvent.forEach fun _ _ h => h.failHostCopies) h

protected theorem Keeps.sendOut {o} (h : Keeps s₀ s) : Keeps s₀ (sendOut o s) := by
  unfold sendOut
  split
  · exact h.hostWrite
  · exact h.msixSend

protected theorem Keeps.execHostlinkUp (h : Keeps s₀ s) : OutKeeps s₀ (execHostlinkUp s) :=
  .ite h (h.frame.logEvent.forEach fun _ _ h => h.sendOut)

protected theorem Keeps.dropLoad {q} (h : Keeps s₀ s) : Keeps s₀ (dropLoad q s) :=
  h.frame.ite h

protected theorem Keeps.execHostCompletionTimeout {r} (h : Keeps s₀ s) : OutKeeps s₀ (execHostCompletionTimeout r s) := by
  unfold execHostCompletionTimeout
  dsimp only
  split
  · split
    · exact h.ite h.hostErrorCopy
    · exact h.foxReadbackDone
  · split
    · exact h.dropLoad.endCmd.ite h
    · exact h.queueFault.ite h

protected theorem Keeps.execConfigurationRequest {c} (h : Keeps s₀ s) : OutKeeps s₀ (execConfigurationRequest c s) := by
  unfold execConfigurationRequest
  dsimp only
  refine .ite h (.ite h.replyHost ?_)
  split
  · exact h.replyHost.useFree.replyHost
  · exact h.replyHost.frame
  · exact h.replyHost.frame.forEach fun _ _ h => h.msixSend
  · exact h.replyHost.frame.ite h.replyHost
  · exact h.replyHost.frame.ite h.replyHost
  · exact h.replyHost.frame.ite h.replyHost
  · exact h.replyHost.frame.ite h.replyHost

protected theorem Keeps.execTallyNotifyArm {q id rsv tally target vector} (h : Keeps s₀ s) :
    OutKeeps s₀ (execTallyNotifyArm q id rsv tally target vector s) :=
  h.onCmd fun _ h => h.endCmd.ite (h.endCmd.ite h.frame.notifyTally.endCmd)

protected theorem Keeps.execTallyNotifyDisarm {q id rsv tally} (h : Keeps s₀ s) :
    OutKeeps s₀ (execTallyNotifyDisarm q id rsv tally s) :=
  h.onCmd fun _ h => h.endCmd.ite (h.endCmd.ite h.frame.endCmd)

protected theorem Keeps.statusFail {a status} (h : Keeps s₀ s) : Keeps s₀ (statusFail a status s) :=
  h.frame.logEvent

protected theorem Keeps.execPlanStatus {q id rsv addr status} (h : Keeps s₀ s) :
    OutKeeps s₀ (execPlanStatus q id rsv addr status s) :=
  h.onCmd fun _ h => h.endCmd.ite (h.statusFail.endCmd.ite h.hostWrite.endCmd)

protected theorem Keeps.modRail {r f} (h : Keeps s₀ s) : Keeps s₀ (modRail r f s) :=
  h.power (List.length_modify ..)

protected theorem Keeps.requestMv {r mv} (h : Keeps s₀ s) : Keeps s₀ (requestMv r mv s) :=
  h.modRail

protected theorem Keeps.setRail {r mv} (h : Keeps s₀ s) : Keeps s₀ (setRail r mv s) :=
  h.ite (h.modRail.ite (h.ite h.requestMv))

protected theorem Keeps.confirmRail {r} (h : Keeps s₀ s) : Keeps s₀ (confirmRail r s) := by
  unfold confirmRail
  dsimp only
  split
  · exact h.modRail.setRail
  · exact h.modRail

protected theorem Keeps.railFail {r gap next} (h : Keeps s₀ s) : Keeps s₀ (railFail r gap next s) :=
  h.modRail.logEvent.ite h.modRail

protected theorem Keeps.execAvsResponse {r a} (h : Keeps s₀ s) : OutKeeps s₀ (execAvsResponse r a s) := by
  unfold execAvsResponse
  refine .ite h ?_
  split
  · exact h.modRail
  · exact h.modRail.ite h
  · exact h.confirmRail.ite h
  · exact .ite h h.modRail.logEvery.railFail
  · exact .ite h.modRail.logEvery (.ite h.modRail.logEvery.modRail h.modRail.logEvery.railFail)

protected theorem Keeps.execAvsReadbackTimeout {r mv} (h : Keeps s₀ s) : OutKeeps s₀ (execAvsReadbackTimeout r mv s) :=
  .ite h.modRail.logEvery.railFail h

protected theorem Keeps.execAvsRetryDelay {r} (h : Keeps s₀ s) : OutKeeps s₀ (execAvsRetryDelay r s) :=
  h.modRail.ite h

protected theorem Keeps.clearRailFault {r} (h : Keeps s₀ s) : Keeps s₀ (clearRailFault r s) :=
  h.modRail

protected theorem Keeps.execRailFaultClear {r} (h : Keeps s₀ s) : OutKeeps s₀ (execRailFaultClear r s) :=
  h.onHost fun _ h => h.hostPosted.clearRailFault

protected theorem Keeps.modRate {k f} (h : Keeps s₀ s) : Keeps s₀ (modRate k f s) :=
  h.power

protected theorem Keeps.noteRate {k c} (h : Keeps s₀ s) : Keeps s₀ (noteRate k c s) :=
  h.modRate.modRate

protected theorem Keeps.paceDie {k o} (h : Keeps s₀ s) : Keeps s₀ (paceDie k o s) :=
  h.modRate

protected theorem Keeps.shortRail {j} (h : Keeps s₀ s) : Keeps s₀ (shortRail j s) :=
  h.modRail.logOncePhase.ite h.modRail

end

end Sys2Proof.Machine

/-! SUPPORT. What keeps the queue and the canonical form: the rails, the power domains, the projection engines, hall time and temperature. -/

namespace Sys2Proof.Machine

open Sys2Proof

section

set_option Elab.async false

variable {s₀ s : State}

protected theorem Keeps.keepRail {j} (h : Keeps s₀ s) : Keeps s₀ (keepRail j s) := by
  unfold keepRail
  split
  · exact h
  · exact h.ite h.requestMv

protected theorem Keeps.noteRanges (h : Keeps s₀ s) : Keeps s₀ (noteRanges s) :=
  h.power.logOncePhase.ite h.power

protected theorem Keeps.execControlInterval {rates} (h : Keeps s₀ s) : OutKeeps s₀ (execControlInterval rates s) := by
  unfold execControlInterval
  extract_lets s₁ s₂ s₃ s₄
  have h₂ : Keeps s₀ s₂ := h.noteRanges.forEach fun _ _ h => h.noteRate.ite h
  have h₃ : Keeps s₀ s₃ := h₂.forEach fun _ _ h => h.paceDie
  have h₄ : Keeps s₀ s₄ := h₃.forEach fun _ _ h => h.shortRail
  exact .ite h (h₄.ite (h₄.forEach fun _ _ h => h.keepRail))

protected theorem Keeps.adjustCap (h : Keeps s₀ s) : Keeps s₀ (adjustCap s) :=
  (h.power.ite h.power.logEvent).ite ((h.power.logEvent.ite h.power).ite h)

protected theorem Keeps.execPowerMeasure {w} (h : Keeps s₀ s) : OutKeeps s₀ (execPowerMeasure w s) :=
  .ite h.power h.power.adjustCap

protected theorem Keeps.modDroop {j f} (h : Keeps s₀ s) : Keeps s₀ (modDroop j f s) :=
  h.power

protected theorem Keeps.execDroop {die depth ns} (h : Keeps s₀ s) : OutKeeps s₀ (execDroop die depth ns s) :=
  .ite h h.modDroop.logEvery

protected theorem Keeps.execVcoreUndervolt {die mv ns} (h : Keeps s₀ s) : OutKeeps s₀ (execVcoreUndervolt die mv ns s) :=
  .ite h h.modDroop.logEvent.power.epochFault

protected theorem Keeps.modDom {d f} (h : Keeps s₀ s) : Keeps s₀ (modDom d f s) :=
  h.power

protected theorem Keeps.drainStreams {d} (h : Keeps s₀ s) : Keeps s₀ (drainStreams d s) :=
  ((h.forEach fun _ _ h => h.cancelStg).ite h).forEach fun _ _ h => h.ctxFault

protected theorem Keeps.drainOne {cause d} (h : Keeps s₀ s) : Keeps s₀ (drainOne cause d s) :=
  h.modDom.logEvent.drainStreams.ite h

protected theorem Keeps.drainDom {cause d} (h : Keeps s₀ s) : Keeps s₀ (drainDom cause d s) :=
  h.forEach fun _ _ h => h.drainOne

protected theorem Keeps.answerDom {d status} (h : Keeps s₀ s) : Keeps s₀ (answerDom d status s) :=
  h.frame.forEach fun _ _ h => h.finishWaiter

protected theorem Keeps.raiseDom {d} (h : Keeps s₀ s) : Keeps s₀ (raiseDom d s) := by
  unfold raiseDom
  refine h.forEach fun _ _ h => ?_
  split
  · exact h.modDom
  · exact h.modDom
  · exact h.modDom
  · exact h

protected theorem Keeps.execDomainPowerOff {q id rsv d force} (h : Keeps s₀ s) :
    OutKeeps s₀ (execDomainPowerOff q id rsv d force s) := by
  unfold execDomainPowerOff
  refine h.onCmd fun _ h => h.endCmd.ite ?_
  split
  · exact h.endCmd
  · exact h.modDom.endCmd
  · exact h.frame
  · exact h.drainDom.frame.ite (h.endCmd.ite (h.modDom.sendMsg.frame.ite h.drainDom.frame))

protected theorem Keeps.execDomainPowerOn {q id rsv d} (h : Keeps s₀ s) : OutKeeps s₀ (execDomainPowerOn q id rsv d s) :=
  h.onCmd fun _ h => h.endCmd.ite (h.endCmd.ite (h.endCmd.ite h.frame.raiseDom))

protected theorem Keeps.loseDie {k} (h : Keeps s₀ s) : Keeps s₀ (loseDie k s) :=
  h.mem (sp := Memory.wf_filter) (cs := Memory.wf_filter)

protected theorem Keeps.loseHbm {k} (h : Keeps s₀ s) : Keeps s₀ (loseHbm k s) :=
  h.mem (hbm := Memory.wf_filter)

protected theorem Keeps.closeTile {k} (h : Keeps s₀ s) : Keeps s₀ (closeTile k s) := by
  unfold closeTile
  refine h.forEach fun _ _ h => ?_
  split
  · exact h.unplannedClose
  · exact h.unplannedClose
  · exact h
  · exact h.modLane

protected theorem Keeps.loseTile {k} (h : Keeps s₀ s) : Keeps s₀ (loseTile k s) :=
  h.closeTile.cutMload.frame

protected theorem Keeps.openSwitch {d} (h : Keeps s₀ s) : Keeps s₀ (openSwitch d s) :=
  h.modDom.loseDie.ite (h.modDom.loseHbm.ite h.modDom.loseTile)

protected theorem Keeps.execDomainOffComplete {d} (h : Keeps s₀ s) : OutKeeps s₀ (execDomainOffComplete d s) :=
  .ite h (.ite h (.ite h.openSwitch.logEvent.modDom.raiseDom h.openSwitch.logEvent.modDom.answerDom))

protected theorem Keeps.domOn {d} (h : Keeps s₀ s) : Keeps s₀ (domOn d s) :=
  h.modDom.loseDie.ite (h.modDom.mem.ite (h.modDom.forEach fun _ _ h => h.tuneLane))

protected theorem Keeps.execDomainOnComplete {d ok} (h : Keeps s₀ s) : OutKeeps s₀ (execDomainOnComplete d ok s) :=
  .ite h (.ite h (.ite h.domOn.logEvent.answerDom h.modDom.logEvent.answerDom))

protected theorem Keeps.drainForced (h : Keeps s₀ s) : Keeps s₀ (drainForced s) :=
  h.forEach fun _ _ h => h.drainDom

protected theorem Keeps.execMgmtDomainDisable {d off} (h : Keeps s₀ s) : OutKeeps s₀ (execMgmtDomainDisable d off s) :=
  .ite h (.ite h.logEvent.modDom (h.logEvent.modDom.logEvent.drainDom.epochFault.ite h.logEvent.modDom.logEvent.drainDom))

protected theorem Keeps.modPpe {k f} (h : Keeps s₀ s) : Keeps s₀ (modPpe k f s) :=
  h.frame

protected theorem Keeps.ppeDown {e} (h : Keeps s₀ s) : Keeps s₀ (ppeDown e s) :=
  h.logEvent.engineError.nextPc

protected theorem Keeps.onPpe {e op f} (h : Keeps s₀ s) (hf : ∀ w t, Keeps s₀ t → Keeps s₀ (f w t)) :
    OutKeeps s₀ (onPpe e op s f) :=
  h.onIssue fun w _ h => h.ppeDown.ite (h.ite (hf w _ h))

protected theorem Keeps.ppeFault {e bad} (h : Keeps s₀ s) : Keeps s₀ (ppeFault e bad s) := by
  unfold ppeFault
  split
  · exact h.addrFault.modPpe
  · exact h

protected theorem Keeps.ppePoison {e bad} (h : Keeps s₀ s) : Keeps s₀ (ppePoison e bad s) :=
  h.engineError.modPpe.ite h

protected theorem Keeps.mloadRefused {e code} (h : Keeps s₀ s) : Keeps s₀ (mloadRefused e code s) :=
  h.engineError.modPpe.nextPc

protected theorem Keeps.execMload {e ecc} (h : Keeps s₀ s) : OutKeeps s₀ (execMload e ecc s) := by
  unfold execMload
  refine h.onPpe fun _ _ h => h.logEvent.mloadRefused.ite ?_
  split
  · exact h.ppeFault.mloadRefused
  · exact h.eccNote.ite (h.eccNote.ppePoison.mloadRefused.ite
      (h.eccNote.logEvent.mloadRefused.ite h.eccNote.modPpe.issueOpen.nextPc))

protected theorem Keeps.execMloadComplete {e} (h : Keeps s₀ s) : OutKeeps s₀ (execMloadComplete e s) := by
  unfold execMloadComplete
  split
  · exact h
  · exact .ite h h.modPpe.completeOp

protected theorem Keeps.analogSketch {t' code k} (h : Keeps s₀ s) : Keeps s₀ (analogSketch t' code k s).2.2 := by
  unfold analogSketch
  split
  · exact h
  · split
    · exact h
    · exact h.useFree

protected theorem Keeps.noteSketch {k bad} (h : Keeps s₀ s) : Keeps s₀ (noteSketch k bad s) :=
  h.modPpe

protected theorem Keeps.PpeRun_note {v} {x} (h : Keeps s₀ v.s) : Keeps s₀ (PpeRun.note v x).s := by
  unfold PpeRun.note
  split
  · split <;> exact h
  · exact h
  · exact h

protected theorem Keeps.PpeRun_read {v} {e r i} (h : Keeps s₀ v.s) : Keeps s₀ (PpeRun.read e r i v).2.s := by
  unfold PpeRun.read
  dsimp only
  split
  · exact h.PpeRun_note
  · split <;> exact h

protected theorem Keeps.PpeRun_write {v} {e base off d} (h : Keeps s₀ v.s) : Keeps s₀ (PpeRun.write e base off d v).s := by
  unfold PpeRun.write
  dsimp only
  split
  · exact h.PpeRun_note
  · exact h.writeStore

protected theorem Keeps.ppeEnd {v} {e wrong} (h : Keeps s₀ v.s) : Keeps s₀ (ppeEnd e wrong v) := by
  unfold ppeEnd
  refine Keeps.nextPc ?_
  split
  · exact h.ppeFault.ppePoison.logEvent.engineError.modPpe
  · exact h.ppeFault.ppePoison

protected theorem Keeps.sketchOne {v} {e code inp out n wrong i} (h : Keeps s₀ v.s) :
    Keeps s₀ (sketchOne e code inp out n wrong v i).s := by
  unfold sketchOne
  split
  · exact h.PpeRun_write
  · exact h.PpeRun_read.analogSketch.noteSketch.PpeRun_write

/-- A run of a projection engine keeps where each of its vectors does. -/
theorem Keeps.foldlPpe {α : Type} {l : List α} {f : PpeRun → α → PpeRun} {v : PpeRun} (h : Keeps s₀ v.s)
    (hf : ∀ u a, Keeps s₀ u.s → Keeps s₀ (f u a).s) : Keeps s₀ (l.foldl f v).s := by
  induction l generalizing v with
  | nil => exact h
  | cons a l ih => exact ih (hf v a h)

protected theorem Keeps.execSketch {e ecc} (h : Keeps s₀ s) : OutKeeps s₀ (execSketch e ecc s) := by
  refine h.onPpe fun _ _ h => ?_
  extract_lets
  exact h.eccNote.ite (Keeps.ppeEnd (Keeps.foldlPpe h.eccNote fun _ _ h => h.sketchOne))

protected theorem Keeps.mvmCodes {k g l} (h : Keeps s₀ s) : Keeps s₀ (mvmCodes k g l s).2 := by
  induction l generalizing s with
  | nil => exact h
  | cons v l ih => exact ih h.useFree

protected theorem Keeps.mvmOne {v} {e g inp out stride wrong i} (h : Keeps s₀ v.s) :
    Keeps s₀ (mvmOne e g inp out stride wrong v i).s := by
  unfold mvmOne
  split
  · exact h.PpeRun_write
  · exact h.PpeRun_read.mvmCodes.modPpe.PpeRun_write

protected theorem Keeps.execMvm {e ecc} (h : Keeps s₀ s) : OutKeeps s₀ (execMvm e ecc s) := by
  refine h.onPpe fun _ _ h => ?_
  extract_lets
  exact h.eccNote.ite (Keeps.ppeEnd (Keeps.foldlPpe h.eccNote fun _ _ h => h.mvmOne))

protected theorem Keeps.ppeFatal {k code fs} (h : Keeps s₀ s) : Keeps s₀ (ppeFatal k code fs s) :=
  h.logEvent.modPpe.modSeq.epochFault

protected theorem Keeps.channelBad {k c} (h : Keeps s₀ s) : Keeps s₀ (channelBad k c s) :=
  h.ppeFatal.ite h.modPpe.logEvent

protected theorem Keeps.execPpeChannelCal {k ok} (h : Keeps s₀ s) : OutKeeps s₀ (execPpeChannelCal k ok s) :=
  .ite h (h.modPpe.modPpe.ite h.modPpe.channelBad)

protected theorem Keeps.startRecal {cause k} (h : Keeps s₀ s) : Keeps s₀ (startRecal cause k s) :=
  h.modPpe

protected theorem Keeps.recalDone {k ok badChan us} (h : Keeps s₀ s) : Keeps s₀ (recalDone k ok badChan us s) := by
  unfold recalDone
  refine (Keeps.calResults ?_).logEvent.ite (Keeps.ppeFatal ?_)
  · split
    · exact h.modPpe.channelBad
    · exact h.modPpe
  · split
    · exact h.modPpe.channelBad
    · exact h.modPpe

protected theorem Keeps.execPpeCalOverdue {k} (h : Keeps s₀ s) : OutKeeps s₀ (execPpeCalOverdue k s) :=
  .ite h h.modPpe.logEvent

protected theorem Keeps.noteSketched {c p sk} (h : Keeps s₀ s) : Keeps s₀ (noteSketched c p sk s) := by
  unfold noteSketched
  extract_lets _ _ place sum
  have summed : ExceptKeeps s₀ sum := .ite h.unitWrite (show ExceptKeeps s₀ (.ok s) from h)
  clear_value sum
  cases sum with
  | error g => exact h.keyFault
  | ok t =>
    have h : Keeps s₀ t := summed
    dsimp only
    split
    · exact h.keyFault
    · exact (h.rowWrite.ok ‹_›).modCtx.modStr

protected theorem Keeps.storeSketch {c p sk} (h : Keeps s₀ s) : OptExceptKeeps s₀ (storeSketch c p sk s) := by
  unfold storeSketch
  extract_lets
  split
  · exact .ok h
  · split
    · exact .error _
    · split
      · split
        · exact .none
        · exact h.sendRequest.mapOk fun _ h => h.modCtx
      · split
        · exact .none
        · split
          · split
            · exact .error _
            · exact .ok h.served.writeStore
          · exact .ok h

protected theorem Keeps.servePos {c p ecc} (h : Keeps s₀ s) : Keeps s₀ (servePos c p ecc s).1 := by
  unfold servePos
  extract_lets x _ _ _ _ _ proj s₁ k r s₂
  have h₁ : Keeps s₀ s₁ := h.eccNote
  have h₂ : Keeps s₀ s₂ := by
    unfold s₂ r
    split
    · exact h₁
    · exact h₁.analogSketch.noteSketch
  clear_value s₂ proj
  have faulted {t g a} (h : Keeps s₀ t) : Keeps s₀ (keyFault c p g a t, false).1 := Keeps.keyFault h
  split
  · exact faulted h
  · split
    · exact faulted h
    · split
      · exact h₁
      · split
        · exact faulted h₁
        · split
          · exact h₁.ite h₁.localRecall
          · exact faulted h₂
          · exact (h₂.storeSketch.of_answer ‹_›).noteSketched

protected theorem Keeps.serveTo {c upto ecc n} (h : Keeps s₀ s) : Keeps s₀ (serveTo c upto ecc n s) := by
  induction n generalizing s ecc with
  | zero => exact h
  | succ n ih => exact h.ite ((ih h.servePos).ite h.servePos)

protected theorem Keeps.postAppend {c} (h : Keeps s₀ s) : Keeps s₀ (postAppend c s) := by
  unfold postAppend
  dsimp only
  split
  · exact h.modCtx.tallyAdd.ite h
  · exact h

protected theorem Keeps.execAppendServe {c ecc} (h : Keeps s₀ s) : OutKeeps s₀ (execAppendServe c ecc s) := by
  unfold execAppendServe
  dsimp only
  split
  · exact h
  · exact .ite h.ctxFault (.ite h.postAppend (.ite h h.serveTo.postAppend))

protected theorem Keeps.execDigitalSketchJob {c ecc} (h : Keeps s₀ s) : OutKeeps s₀ (execDigitalSketchJob c ecc s) := by
  unfold execDigitalSketchJob
  dsimp only
  split
  · exact h
  · exact .ite h (.ite h.ctxFault h.serveTo)

protected theorem Keeps.modTime {f} (h : Keeps s₀ s) : Keeps s₀ (modTime f s) :=
  h.frame

protected theorem Keeps.enterLocked (h : Keeps s₀ s) : Keeps s₀ (enterLocked s) :=
  h.modTime.logEvent

protected theorem Keeps.enterHoldover {cause} (h : Keeps s₀ s) : Keeps s₀ (enterHoldover cause s) :=
  h.modTime.logEvent

protected theorem Keeps.enterFreerun (h : Keeps s₀ s) : Keeps s₀ (enterFreerun s) :=
  h.modTime.logEvent

protected theorem Keeps.correctTime {off} (h : Keeps s₀ s) : Keeps s₀ (correctTime off s) :=
  h.modTime.logEvent.ite h.modTime

protected theorem Keeps.masterLock (h : Keeps s₀ s) : Keeps s₀ (masterLock s) :=
  (h.modTime.enterLocked.ite h.modTime).ite h

protected theorem Keeps.execSyncTick {child t1 resent} (h : Keeps s₀ s) : OutKeeps s₀ (execSyncTick child t1 resent s) :=
  .ite h.modTime.sendMsgPos.sendMsgPos h

protected theorem Keeps.execSync {p t2} (h : Keeps s₀ s) : OutKeeps s₀ (execSync p t2 s) := by
  unfold execSync
  split
  · exact h.takeIngress.refreshParent.modTime.ite h.takeIngress.refreshParent
  · exact h.takeIngress.refreshParent

protected theorem Keeps.execFollow {p t3 resent} (h : Keeps s₀ s) : OutKeeps s₀ (execFollow p t3 resent s) := by
  unfold execFollow
  split
  · exact .ite h.takeIngress.refreshParent.modTime.sendMsgPos h.takeIngress.refreshParent
  · exact h.takeIngress.refreshParent

protected theorem Keeps.execDelayReq {p t4} (h : Keeps s₀ s) : OutKeeps s₀ (execDelayReq p t4 s) := by
  unfold execDelayReq
  split
  · exact h.takeIngress.sendMsgPos
  · exact h.takeIngress

protected theorem Keeps.validExchange {off} (h : Keeps s₀ s) : Keeps s₀ (validExchange off s) :=
  h.modTime.modTime.ite ((h.modTime.modTime.correctTime.ite h.modTime.modTime).enterLocked.ite
      (h.modTime.modTime.correctTime.ite h.modTime.modTime))

protected theorem Keeps.execDelayResp {p} (h : Keeps s₀ s) : OutKeeps s₀ (execDelayResp p s) := by
  unfold execDelayResp
  dsimp only
  split
  · have taken : Keeps s₀ (refreshParent (takeIngress p s)) := h.takeIngress.refreshParent
    exact .ite (.ite taken.modTime.modTime.useFree.validExchange taken.modTime.modTime) taken
  · exact h.takeIngress.refreshParent

protected theorem Keeps.execAnnounceTick {child} (h : Keeps s₀ s) : OutKeeps s₀ (execAnnounceTick child s) :=
  .ite h.sendMsgPos h

protected theorem Keeps.execAnnounce {p} (h : Keeps s₀ s) : OutKeeps s₀ (execAnnounce p s) := by
  unfold execAnnounce
  split
  · exact h.takeIngress.refreshParent.modTime.ite h.takeIngress.refreshParent
  · exact h.takeIngress.refreshParent

protected theorem Keeps.execMasterTake {p} (h : Keeps s₀ s) : OutKeeps s₀ (execMasterTake p s) := by
  unfold execMasterTake
  split
  · exact .ite h.takeIngress.relayMsg h.takeIngress.relayMsg.logEvent.modTime.refreshParent.masterLock
  · exact h.takeIngress.relayMsg

protected theorem Keeps.execBackupTakeoverTimer (h : Keeps s₀ s) : OutKeeps s₀ (execBackupTakeoverTimer s) :=
  .ite h.broadcastMsg h

protected theorem Keeps.execTimeExchangeTimeout {lane} (h : Keeps s₀ s) : OutKeeps s₀ (execTimeExchangeTimeout lane s) :=
  .ite h.enterHoldover h

protected theorem Keeps.execAcquireFreerunTimeout (h : Keeps s₀ s) : OutKeeps s₀ (execAcquireFreerunTimeout s) :=
  .ite h.enterFreerun h

protected theorem Keeps.execHoldoverLimit (h : Keeps s₀ s) : OutKeeps s₀ (execHoldoverLimit s) :=
  .ite h.enterFreerun h

protected theorem Keeps.execTimeOffsetHigh (h : Keeps s₀ s) : OutKeeps s₀ (execTimeOffsetHigh s) :=
  .ite h.logEvery h

protected theorem Keeps.ppsGood (h : Keeps s₀ s) : Keeps s₀ (ppsGood s) :=
  h.modTime.logEvent.ite h.modTime

protected theorem Keeps.refGood (h : Keeps s₀ s) : Keeps s₀ (refGood s) :=
  h.modTime.logEvent.ite h.modTime

protected theorem Keeps.execPpsInEdge (h : Keeps s₀ s) : OutKeeps s₀ (execPpsInEdge s) :=
  .ite (h.ppsGood.modTime.ite (h.ppsGood.ite h.ppsGood.correctTime)).masterLock h.ppsGood

protected theorem Keeps.execTimeRefLost {ref} (h : Keeps s₀ s) : OutKeeps s₀ (execTimeRefLost ref s) :=
  .ite (.ite h.modTime.logEvent.enterHoldover h.modTime.logEvent) h.modTime

protected theorem Keeps.commitReject {code f} (h : Keeps s₀ s) : Keeps s₀ (commitReject code f s) :=
  h.logEvent

protected theorem Keeps.noteStep {amount skip} (h : Keeps s₀ s) : Keeps s₀ (noteStep amount skip s) :=
  h.modTime.logEvent

protected theorem Keeps.applySet {c} (h : Keeps s₀ s) : Keeps s₀ (applySet c s) :=
  h.modTime.noteStep.ite h

protected theorem Keeps.commitTime (h : Keeps s₀ s) : Keeps s₀ (commitTime s) :=
  (h.modTime.commitReject.ite h.modTime.applySet.refreshParent).ite h

protected theorem Keeps.emitPulse (h : Keeps s₀ s) : Keeps s₀ (emitPulse s) :=
  h.ite (h.modTime.modTime.ite (h.modTime.modTime.ite h.modTime.modTime.useFree))

protected theorem Keeps.execSecondBoundary {refOk} (h : Keeps s₀ s) : OutKeeps s₀ (execSecondBoundary refOk s) := by
  unfold execSecondBoundary
  refine (Keeps.commitTime ?_).masterLock.emitPulse
  split
  · exact ((h.ite h.reachTime).refGood.ite (h.ite h.reachTime).modTime).modTime.moveTime.noteStep
  · exact (h.ite h.reachTime).refGood.ite (h.ite h.reachTime).modTime

protected theorem Keeps.modThm {f} (h : Keeps s₀ s) : Keeps s₀ (modThm f s) :=
  h.frame

protected theorem Keeps.modDieTherm {k f} (h : Keeps s₀ s) : Keeps s₀ (modDieTherm k f s) :=
  h.modThm

protected theorem Keeps.noteSensor {r} (h : Keeps s₀ s) : Keeps s₀ (noteSensor r s) :=
  h.modThm.modThm.logEvent.ite (h.modThm.logEvent.ite h.modThm)

protected theorem Keeps.noteGoverning {k} (h : Keeps s₀ s) : Keeps s₀ (noteGoverning k s) :=
  h.modDieTherm

protected theorem Keeps.trip {n reading} (h : Keeps s₀ s) : Keeps s₀ (trip n reading s) :=
  h.ite (h.modThm.power.forEach fun _ _ h => h.openSwitch).logEvent.frame

protected theorem Keeps.execThermTrip {n reading} (h : Keeps s₀ s) : OutKeeps s₀ (execThermTrip n reading s) :=
  .ite h.trip h

protected theorem Keeps.noteRequest (h : Keeps s₀ s) : Keeps s₀ (noteRequest s) := by
  unfold noteRequest
  extract_lets worstNow hot unit raised asked graced cool rounds cooled lowered
  have hasked : Keeps s₀ asked := h.modThm.logEvent.msixSend.ite h
  have hgraced : Keeps s₀ graced := hasked.forEach fun _ _ h => h.modDieTherm.ite h
  have hcooled : Keeps s₀ cooled := hgraced.modThm
  exact hasked.ite (hcooled.modThm.logEvent.msixSend.ite hcooled)

protected theorem Keeps.execGraceExpire {k} (h : Keeps s₀ s) : OutKeeps s₀ (execGraceExpire k s) :=
  h.modDieTherm.ite h

protected theorem Keeps.enforceDie {k} (h : Keeps s₀ s) : Keeps s₀ (enforceDie k s) :=
  h.ite (((h.logEvent.ite h).modThm.logEvent.ite (h.logEvent.ite h)).modDieTherm.logEvent.ite
      ((h.logEvent.ite h).modThm.logEvent.ite (h.logEvent.ite h)).modDieTherm)

protected theorem Keeps.commitThermal (h : Keeps s₀ s) : Keeps s₀ (commitThermal s) := by
  unfold commitThermal
  dsimp only
  refine Keeps.ite ?_ h
  split
  · exact h.modThm.commitReject
  · exact h.modThm

protected theorem Keeps.owlTrip (h : Keeps s₀ s) : Keeps s₀ (owlTrip s) := by
  unfold owlTrip
  split
  · exact h.trip
  · split
    · exact h.trip
    · exact h

end

end Sys2Proof.Machine

/-! SUPPORT. What keeps the queue and the canonical form: boot, the package, plans as they come and go, the management path and the commits. -/

namespace Sys2Proof.Machine

open Sys2Proof

section

set_option Elab.async false

variable {s₀ s : State}

protected theorem Keeps.execThermalRound {rs} (h : Keeps s₀ s) : OutKeeps s₀ (execThermalRound rs s) := by
  unfold execThermalRound
  extract_lets s₁ s₂ s₃ s₄ s₅
  have h₂ : Keeps s₀ s₂ := h.commitThermal.forEach fun _ _ h => h.noteSensor
  have h₃ : Keeps s₀ s₃ := h₂.forEach fun _ _ h => h.noteGoverning
  have h₅ : Keeps s₀ s₅ := h₃.modThm.owlTrip
  exact .ite h (.ite h₅ (h₅.noteRequest.forEach fun _ _ h => h.enforceDie))

/-- Entering WATCH drops bytes of the scratchpad as they stood before its units went dark. -/
protected theorem Keeps.enterWatch (h : Keeps s₀ s) : Keeps s₀ (enterWatch s) := by
  unfold enterWatch
  extract_lets sp _ s₁ s₂ s₃ s₄ _ s₅ s₆
  have h₁ : Keeps s₀ s₁ := h.forEach fun _ _ h => h.closeTile
  have h₂ : Keeps s₀ s₂ := h₁.forEach fun _ _ h => h.openSwitch
  have h₃ : Keeps s₀ s₃ := h₂.forEach fun _ _ h => h.openSwitch
  have h₄ : Keeps s₀ s₄ := h₃.forEach fun _ _ h => h.openSwitch
  clear_value s₄
  have h₅ : Keeps s₀ s₅ := ⟨h₄.1, fun canonical =>
    let ⟨_, wfHbm, wfCs, wfHost, rails⟩ := h₄.2 canonical
    ⟨Memory.wf_filter (h.2 canonical).1, wfHbm, wfCs, wfHost, rails⟩⟩
  clear_value s₅
  have h₆ : Keeps s₀ s₆ := h₅.setRail.forEach fun _ _ h => h.setRail
  exact h₆.power.modThm.logEvent

protected theorem Keeps.execWatch {q id rsv} (h : Keeps s₀ s) : OutKeeps s₀ (execWatch q id rsv s) :=
  h.onCmd fun _ h => h.endCmd.ite h.endCmd.enterWatch

protected theorem Keeps.execWatchWake {cause} (h : Keeps s₀ s) : OutKeeps s₀ (execWatchWake cause s) :=
  h.startWake.ite h

protected theorem Keeps.execWatchRound {rs railC} (h : Keeps s₀ s) : OutKeeps s₀ (execWatchRound rs railC s) := by
  unfold execWatchRound
  dsimp only
  refine .ite h ?_
  split
  · exact h.logEvent.startWake
  · split
    · exact h.logEvent.startWake
    · exact h

protected theorem Keeps.verifyLicences (h : Keeps s₀ s) : Keeps s₀ (verifyLicences s) :=
  (h.modBoot.frame.forEach fun _ _ h => h.logEvent.ite h).logEvent.ite
      (h.modBoot.frame.forEach fun _ _ h => h.logEvent.ite h)

protected theorem Keeps.licRefuse {q id r} (h : Keeps s₀ s) : Keeps s₀ (licRefuse q id r s) :=
  h.logEvent.postCompletion

protected theorem Keeps.execLicenceInstall {q id rsv addr d ok} (h : Keeps s₀ s) :
    OutKeeps s₀ (execLicenceInstall q id rsv addr d ok s) := by
  unfold execLicenceInstall
  refine h.onCmd fun _ h => h.endCmd.ite (h.endCmd.ite (h.licRefuse.ite (h.licRefuse.ite ?_)))
  split
  · exact h.licRefuse
  · exact h.modBoot.logEvent.endCmd

protected theorem Keeps.execPatchInstall {q id rsv addr len slot d ok back} (h : Keeps s₀ s) :
    OutKeeps s₀ (execPatchInstall q id rsv addr len slot d ok back s) :=
  h.onCmd fun _ h => h.endCmd.ite (h.endCmd.ite (h.postCompletion.ite (h.postCompletion.ite h.frame.logEvent.endCmd)))

protected theorem Keeps.execPatchClear {q id rsv slot} (h : Keeps s₀ s) : OutKeeps s₀ (execPatchClear q id rsv slot s) :=
  h.onCmd fun _ h => h.endCmd.ite h.frame.endCmd

protected theorem Keeps.verifyPatches (h : Keeps s₀ s) : Keeps s₀ (verifyPatches s) :=
  h.frame.forEach fun _ _ h => h.frame.ite h.logEvent

protected theorem Keeps.readSlots {r} (h : Keeps s₀ s) : Keeps s₀ (readSlots r s) :=
  h.modBoot

protected theorem Keeps.chooseSlot (h : Keeps s₀ s) : Keeps s₀ (chooseSlot s) :=
  ((h.ite h.logEvent).ite (h.ite h.logEvent).logEvent).modBoot.logEvent.calDirty.ite
      ((h.ite h.logEvent).ite (h.ite h.logEvent).logEvent).modBoot

protected theorem Keeps.execCalWriteStart (h : Keeps s₀ s) : OutKeeps s₀ (execCalWriteStart s) :=
  .ite h.modBoot.frame h

protected theorem Keeps.execCalWritten {ok} (h : Keeps s₀ s) : OutKeeps s₀ (execCalWritten ok s) :=
  .ite h (.ite h.modBoot.logEvent (.ite h.modBoot h.modBoot.logEvent))

protected theorem Keeps.numberClass {bad cls die} (h : Keeps s₀ s) : Keeps s₀ (numberClass bad cls die s) :=
  h.frame

protected theorem Keeps.numberBanks {bad d} (h : Keeps s₀ s) : Keeps s₀ (numberBanks bad d s) :=
  h.modBoot

protected theorem Keeps.settleRepairs {mine r} (h : Keeps s₀ s) : Keeps s₀ (settleRepairs mine r s) := by
  unfold settleRepairs
  refine (h.forEach fun _ _ h => h.modBoot.calDirty.logEvent).forEach fun _ _ h => ?_
  split
  · exact h.listRepair
  · exact h.modBoot.calDirty.logEvent

protected theorem Keeps.repairBanks {r} (h : Keeps s₀ s) : Keeps s₀ (repairBanks r s) :=
  (h.modBoot.forEach fun _ _ h => h.numberBanks).settleRepairs

protected theorem Keeps.repairEngines {r} (h : Keeps s₀ s) : Keeps s₀ (repairEngines r s) :=
  (h.frame.forEach fun _ _ h => h.forEach fun _ _ h => h.numberClass).settleRepairs

protected theorem Keeps.repairRows {r} (h : Keeps s₀ s) : Keeps s₀ (repairRows r s) :=
  h.modBoot.numberRows.settleRepairs

protected theorem Keeps.checkHubLinks {r} (h : Keeps s₀ s) : Keeps s₀ (checkHubLinks r s) :=
  ((h.forEach fun _ _ h => h.modBoot.logEvent).forEach fun _ _ h => h.modBoot.logEvent).forEach fun _ _ h => h.modBoot.logEvent

protected theorem Keeps.settleRail {r mv} (h : Keeps s₀ s) : Keeps s₀ (settleRail r mv s) :=
  h.ite h.modRail

protected theorem Keeps.bootDie {k} (h : Keeps s₀ s) : Keeps s₀ (bootDie k s) :=
  h.ite (h.modDom.ite h.domOn)

protected theorem Keeps.bootDep {d} (h : Keeps s₀ s) : Keeps s₀ (bootDep d s) :=
  h.ite (h.domOn.ite h.modDom)

protected theorem Keeps.noteUntrained {l} (h : Keeps s₀ s) : Keeps s₀ (noteUntrained l s) :=
  h.mem

protected theorem Keeps.noteTile {k t'} (h : Keeps s₀ s) : Keeps s₀ (noteTile k t' s) :=
  h.modBoot.modDom.logEvent.ite (h.modBoot.logEvent.ite h.modBoot)

protected theorem Keeps.noteFeed {f} (h : Keeps s₀ s) : Keeps s₀ (noteFeed f s) :=
  h.setFeed

protected theorem Keeps.pickFeed {k} (h : Keeps s₀ s) : Keeps s₀ (pickFeed k s) :=
  h.setActive

protected theorem Keeps.noteRing {x} (h : Keeps s₀ s) : Keeps s₀ (noteRing x s) :=
  h.modRing.modPort.logEvent

protected theorem Keeps.bootRecal {us k} (h : Keeps s₀ s) : Keeps s₀ (bootRecal us k s) :=
  h.modPpe.logEvent.ite h

protected theorem Keeps.bootTiles {r} (h : Keeps s₀ s) : Keeps s₀ (bootTiles r s) :=
  ((((h.forEach fun _ _ h => h.bootDep).forEach fun _ _ h => h.noteTile.ite h).forEach
    fun _ _ h => h.noteFeed).forEach fun _ _ h => h.pickFeed).forEach fun _ _ h => h.noteRing

protected theorem Keeps.unpowered (h : Keeps s₀ s) : Keeps s₀ (unpowered s) :=
  ⟨h.1, fun canonical => ⟨rfl, rfl, rfl, (h.2 canonical).2.2.2.1, rfl⟩⟩

protected theorem Keeps.execPwrOkFall (h : Keeps s₀ s) : OutKeeps s₀ (execPwrOkFall s) :=
  h.unpowered.ite h

protected theorem Keeps.coldState (h : Keeps s₀ s) : Keeps s₀ (coldState s) :=
  h.unpowered.power

protected theorem Keeps.execColdStart (h : Keeps s₀ s) : OutKeeps s₀ (execColdStart s) :=
  h.ite h.coldState

protected theorem Keeps.warmState (h : Keeps s₀ s) : Keeps s₀ (warmState s) := by
  refine ⟨h.1, fun canonical => ?_⟩
  obtain ⟨-, -, -, wfHost, rails⟩ := h.2 canonical
  exact ⟨rfl, rfl, rfl, wfHost, (List.length_map _).trans rails⟩

protected theorem Keeps.startWarm (h : Keeps s₀ s) : Keeps s₀ (startWarm s) :=
  h.warmState.modBoot.ite h.warmState.modBoot.logEvent

protected theorem Keeps.execWarmRstN {ns} (h : Keeps s₀ s) : OutKeeps s₀ (execWarmRstN ns s) :=
  .ite h (.ite trivial h.startWarm)

protected theorem Keeps.execReset {q id rsv} (h : Keeps s₀ s) : OutKeeps s₀ (execReset q id rsv s) :=
  h.onCmd fun _ h => h.endCmd.frame

protected theorem Keeps.execWarmResetDelay (h : Keeps s₀ s) : OutKeeps s₀ (execWarmResetDelay s) :=
  h.startWarm.ite h

protected theorem Keeps.bootFail {step cause} (h : Keeps s₀ s) : Keeps s₀ (bootFail step cause s) :=
  h.modBoot.logEvent

protected theorem Keeps.bootReady {warm us} (h : Keeps s₀ s) : Keeps s₀ (bootReady warm us s) :=
  h.power.modBoot.logEvent.applyTree.refreshParent

protected theorem Keeps.readStraps {r} (h : Keeps s₀ s) : Keeps s₀ (readStraps r s) :=
  h.frame

protected theorem Keeps.priorTrip (h : Keeps s₀ s) : Keeps s₀ (priorTrip s) := by
  unfold priorTrip
  split
  · exact h.modBoot.logEvent
  · exact h

protected theorem Keeps.readFuses {r} (h : Keeps s₀ s) : Keeps s₀ (readFuses r s) :=
  h.modBoot.logEvent.ite h.modBoot

protected theorem Keeps.coldStep {n r} (h : Keeps s₀ s) : Keeps s₀ (coldStep n r s) := by
  unfold coldStep
  split
  · exact h.bootFail.ite h.readStraps
  · exact h.readFuses.bootFail.ite h.readFuses.verifyPatches.frame
  · exact h.priorTrip.readSlots.chooseSlot.verifyLicences
  · exact h.settleRail.repairBanks
  · exact ((h.forEach fun _ _ h => h.settleRail).checkHubLinks.modBoot.forEach fun _ _ h => h.bootDie).repairEngines.repairRows
  · exact ((h.forEach fun _ _ h => h.bootDep).modBoot.forEach fun _ _ h => h.logEvent).noteUntrained
  · exact (h.bootTiles.forEach fun _ _ h => h.bootRecal).calDirty.ite (h.bootTiles.forEach fun _ _ h => h.bootRecal)
  · exact h.frame.bootReady

protected theorem Keeps.warmStep {n r} (h : Keeps s₀ s) : Keeps s₀ (warmStep n r s) := by
  unfold warmStep
  split
  · exact h.bootFail.ite h.readStraps
  · exact h.modBoot.logEvent.ite h.verifyPatches
  · exact h.verifyLicences
  · exact (h.settleRail.forEach fun _ _ h => h.settleRail).forEach fun _ _ h => h.bootDie
  · exact h.forEach fun _ _ h => h.loseDie.ite h
  · exact (h.forEach fun _ _ h => h.bootDep).noteUntrained
  · exact h.bootTiles
  · exact h.bootReady

/-- A die that wakes from WATCH has the scratchpad it went dark with. -/
protected theorem Keeps.wakeDie {k} (h : Keeps s₀ s) : Keeps s₀ (wakeDie k s) :=
  ⟨h.bootDie.1, fun canonical =>
    let ⟨_, wfHbm, wfCs, wfHost, rails⟩ := h.bootDie.2 canonical
    ⟨(h.2 canonical).1, wfHbm, wfCs, wfHost, rails⟩⟩

protected theorem Keeps.wakeScrub (h : Keeps s₀ s) : Keeps s₀ (wakeScrub s) :=
  h.forEach fun _ _ h => h.mem

protected theorem Keeps.wakeStep {n r} (h : Keeps s₀ s) : Keeps s₀ (wakeStep n r s) := by
  unfold wakeStep
  split
  · exact h.settleRail
  · exact h.settleRail.wakeDie.wakeDie
  · exact h.settleRail.wakeDie.wakeDie
  · exact h.settleRail.wakeDie.wakeDie
  · exact h.settleRail.wakeDie.wakeDie
  · exact h.wakeScrub
  · exact (h.forEach fun _ _ h => h.bootDep).noteUntrained
  · exact h.bootTiles
  · exact h.power.modBoot.applyTree.refreshParent
  · exact h

protected theorem Keeps.execBootStepComplete {r} (h : Keeps s₀ s) : OutKeeps s₀ (execBootStepComplete r s) := by
  unfold execBootStepComplete
  refine .ite h ?_
  split
  · exact h.modBoot.coldStep
  · exact h.modBoot.warmStep
  · exact h.modBoot.wakeStep

protected theorem Keeps.execHbmStoredBad {stack} (h : Keeps s₀ s) : OutKeeps s₀ (execHbmStoredBad stack s) :=
  .ite h h.mem.logEvent

protected theorem Keeps.execFabricTrained (h : Keeps s₀ s) : OutKeeps s₀ (execFabricTrained s) :=
  .ite h.modBoot.logEvent h

protected theorem Keeps.execUcieRetrain {k m} (h : Keeps s₀ s) : OutKeeps s₀ (execUcieRetrain k m s) :=
  .ite h h.modBoot.logEvent

protected theorem Keeps.execHubLinkSpare {k n up} (h : Keeps s₀ s) : OutKeeps s₀ (execHubLinkSpare k n up s) := by
  unfold execHubLinkSpare
  extract_lets link set counted used recorded absent off
  have hcounted : Keeps s₀ counted := h.modBoot
  have hoff : Keeps s₀ off := hcounted.modBoot.logEvent.modBoot.forEach fun _ _ h => h.openSwitch.modDom
  exact .ite h (.ite hcounted (.ite (hoff.epochFault.ite hoff) hcounted.modBoot.logEvent))

protected theorem Keeps.execPosStrapChanged {pos} (h : Keeps s₀ s) : OutKeeps s₀ (execPosStrapChanged pos s) :=
  .ite h.modBoot.logEvent h

protected theorem Keeps.execTapInstruction {ins} (h : Keeps s₀ s) : OutKeeps s₀ (execTapInstruction ins s) :=
  .ite h.modBoot (.ite (h.modBoot.ite h.modBoot.modBoot.logEvent) h.modBoot.modBoot)

protected theorem Keeps.execRefClkLost (h : Keeps s₀ s) : OutKeeps s₀ (execRefClkLost s) :=
  .ite h.frame.modBoot h

protected theorem Keeps.remapHbm {old new} (h : Keeps s₀ s) : Keeps s₀ (remapHbm old new s) :=
  h.ite (h.mem (hbm := fun _ => Memory.wf_foldl_write Memory.wf_nil))

protected theorem Keeps.withMapping {f} (h : Keeps s₀ s) (hf : ∀ t, Keeps s₀ t → Keeps s₀ (f t)) :
    Keeps s₀ (withMapping f s) :=
  (hf _ h).remapHbm

protected theorem Keeps.clearCounters (h : Keeps s₀ s) : Keeps s₀ (clearCounters s) :=
  h.mem

protected theorem Keeps.clearDirectory (h : Keeps s₀ s) : Keeps s₀ (clearDirectory s) :=
  h.frame

protected theorem Keeps.setRoles (h : Keeps s₀ s) : Keeps s₀ (setRoles s) :=
  h.frame

protected theorem Keeps.placePlan (h : Keeps s₀ s) : Keeps s₀ (placePlan s) := by
  unfold placePlan
  split
  · exact h.frame
  · exact h

protected theorem Keeps.freshMeshes (h : Keeps s₀ s) : Keeps s₀ (freshMeshes s) :=
  h.forEach fun _ _ h => h.modPpe.startRecal.ite h.modPpe

protected theorem Keeps.noteDisplaced (h : Keeps s₀ s) : Keeps s₀ (noteDisplaced s) := by
  unfold noteDisplaced
  split
  · exact h.ite h.logEvent
  · exact h

protected theorem Keeps.commitRoster {ro} (h : Keeps s₀ s) : Keeps s₀ (commitRoster ro s) :=
  h.frame

protected theorem Keeps.takePlan {p} (h : Keeps s₀ s) : Keeps s₀ (takePlan p s) :=
  h.frame

protected theorem Keeps.goDone {p} (h : Keeps s₀ s) : Keeps s₀ (goDone p s) :=
  h.frame.logEvent.postStatus.postCompletion

protected theorem Keeps.goPlan {p} (h : Keeps s₀ s) : Keeps s₀ (goPlan p s) := by
  unfold goPlan
  extract_lets load rostered mapped placed hub loaded power held fresh noted grown
  have hmapped : Keeps s₀ mapped := h.commitRoster.withMapping fun _ h => h.takePlan
  have hheld : Keeps s₀ held := hmapped.placePlan.clearCounters.clearDirectory.power
  have hgrown : Keeps s₀ grown := hheld.freshMeshes.setRoles.noteDisplaced.changeTree.refreshParent
  exact hgrown.frame.ite hgrown.goDone

protected theorem Keeps.dropAppends (h : Keeps s₀ s) : Keeps s₀ (dropAppends s) :=
  h.frame

protected theorem Keeps.giveUp {w} (h : Keeps s₀ s) : Keeps s₀ (giveUp w s) := by
  unfold giveUp
  split
  · exact h.finishWaiter
  · exact h

protected theorem Keeps.releaseWaiters (h : Keeps s₀ s) : Keeps s₀ (releaseWaiters s) :=
  h.frame.giveUp.giveUp

protected theorem Keeps.endPlan {c} (h : Keeps s₀ s) : Keeps s₀ (endPlan c s) :=
  h.stopEngines.freeAllStg.dropAppends.frame.logEvent.frame.settleEnd.releaseWaiters.drainForced

protected theorem Keeps.discardRun (h : Keeps s₀ s) : Keeps s₀ (discardRun s) :=
  h.power

protected theorem Keeps.discardPlan (h : Keeps s₀ s) : Keeps s₀ (discardPlan s) := by
  unfold discardPlan
  extract_lets ended completed unmapped hub released
  have hended : Keeps s₀ ended := by
    unfold ended
    split
    · exact h.postEnd
    · exact h
  have hcompleted : Keeps s₀ completed := by
    unfold completed
    split
    · exact hended.goDone
    · exact hended
  have hunmapped : Keeps s₀ unmapped := hcompleted.withMapping fun _ h => h.discardRun
  have hreleased : Keeps s₀ released := (hunmapped.frame.forEach fun _ _ h => h.finishWaiter).releaseWaiters
  exact (hreleased.changeTree.ite hreleased.applyTree).drainForced.refreshParent

protected theorem Keeps.applyPortAdmin {n} (h : Keeps s₀ s) : Keeps s₀ (applyPortAdmin n s) := by
  unfold applyPortAdmin
  refine (h.modPort.forEach fun _ _ h => ?_).ite (h.forEach fun _ _ h => h.tuneLane)
  split
  · exact h.unplannedClose
  · exact h.unplannedClose
  · exact h
  · exact h.modLane

protected theorem Keeps.mgmtAdmin {id v'} (h : Keeps s₀ s) : Keeps s₀ (mgmtAdmin id v' s) :=
  h.logEvent

protected theorem Keeps.execMgmtPortDisable {n off} (h : Keeps s₀ s) : OutKeeps s₀ (execMgmtPortDisable n off s) :=
  .ite h h.mgmtAdmin.modPort.applyPortAdmin

protected theorem Keeps.execMgmtWarmReset (h : Keeps s₀ s) : OutKeeps s₀ (execMgmtWarmReset s) :=
  h.mgmtAdmin.startWarm.ite h

protected theorem Keeps.execMgmtWake (h : Keeps s₀ s) : OutKeeps s₀ (execMgmtWake s) :=
  h.mgmtAdmin.startWake.ite h

protected theorem Keeps.execMgmtDisagree {unit mgmt data clear} (h : Keeps s₀ s) :
    OutKeeps s₀ (execMgmtDisagree unit mgmt data clear s) :=
  .ite h.frame (.ite h (h.frame.modThm.logEvent.ite h.frame).logEvent.msixSend)

protected theorem Keeps.execPldmGetSensor {n} (h : Keeps s₀ s) : OutKeeps s₀ (execPldmGetSensor n s) :=
  .ite h.frame h

protected theorem Keeps.modCommit {b f} (h : Keeps s₀ s) : Keeps s₀ (modCommit b f s) := by
  unfold modCommit
  split
  · exact h.frame
  · exact h.modTile
  · exact h.power
  · exact h.modThm
  · exact h.modTime

protected theorem Keeps.commitGo {b} (h : Keeps s₀ s) : Keeps s₀ (commitGo b s) :=
  h.ite (h.modCommit.logEvent.ite h.modCommit)

protected theorem Keeps.execCommitGo {b} (h : Keeps s₀ s) : OutKeeps s₀ (execCommitGo b s) :=
  h.onHost fun _ h => h.hostPosted.commitGo

protected theorem Keeps.rejectSet {b x} (h : Keeps s₀ s) : Keeps s₀ (rejectSet b x s) :=
  h.modCommit.commitReject

protected theorem Keeps.commitFab (h : Keeps s₀ s) : Keeps s₀ (commitFab s) := by
  unfold commitFab
  dsimp only
  refine h.ite ?_
  split
  · exact h.rejectSet
  · exact (h.frame.ite h.frame.changeTree).refreshParent

protected theorem Keeps.takeFeeds {k old} (h : Keeps s₀ s) : Keeps s₀ (takeFeeds k old s) :=
  (h.startFeed.ite (h.startFeed.ite h)).ite (h.ite h.switchFeed)

protected theorem Keeps.leaveRings {n} (h : Keeps s₀ s) : Keeps s₀ (leaveRings n s) := by
  unfold leaveRings
  refine h.forEach fun _ _ h => ?_
  split
  · exact h.unplannedClose
  · exact h.unplannedClose
  · exact h.tuneLane
  · exact h.tuneLane
  · exact h.tuneLane
  · exact h

protected theorem Keeps.withAdmin {k ws} (h : Keeps s₀ s) : Keeps s₀ (withAdmin k ws s) :=
  h.forEach fun _ _ h => h.modPort

protected theorem Keeps.takeRing {t' m} (h : Keeps s₀ s) : Keeps s₀ (takeRing t' m s) := by
  unfold takeRing
  split
  · exact h
  · exact h.parkRing.modLane.modPort.ite h.parkRing.modLane

protected theorem Keeps.takeAdmin {k q ws} (h : Keeps s₀ s) : Keeps s₀ (takeAdmin k q ws s) := by
  unfold takeAdmin
  split
  · exact h.ite h.modPort.leaveRings.applyPortAdmin
  · exact h

protected theorem Keeps.commitTile {k} (h : Keeps s₀ s) : Keeps s₀ (commitTile k s) := by
  unfold commitTile
  dsimp only
  refine h.ite ?_
  split
  · exact h.rejectSet
  · refine (h.forEach fun _ _ h => ?_).ite 
      (h.ite ((h.forEach fun _ _ h => h.takeRing).modTile.takeFeeds.forEach fun _ _ h => h.takeAdmin))
    split
    · exact h.tuneRing
    · exact h

protected theorem Keeps.commitPower (h : Keeps s₀ s) : Keeps s₀ (commitPower s) := by
  unfold commitPower
  dsimp only
  refine h.ite ?_
  split
  · exact h.rejectSet
  · split
    · exact h.power
    · exact h.forEach fun _ _ h => h.ite h.requestMv

protected theorem Keeps.execCommitApply {b} (h : Keeps s₀ s) : OutKeeps s₀ (execCommitApply b s) := by
  unfold execCommitApply
  refine .ite h ?_
  split
  · exact h.ite h.commitFab
  · exact h.commitTile
  · exact h.commitPower
  · exact h.commitThermal
  · exact h.commitTime

protected theorem Keeps.report {m} (h : Keeps s₀ s) : Keeps s₀ (report m s) := by
  unfold report
  split
  · exact h.sendMsgPos
  · exact h

protected theorem Keeps.gather {old new up done} (h : Keeps s₀ s) (hf : ∀ t, Keeps s₀ t → Keeps s₀ (done t)) :
    Keeps s₀ (gather old new up done s) := by
  unfold gather
  refine Keeps.ite ?_ h
  split
  · exact hf _ h
  · exact h.sendMsgPos

end

end Sys2Proof.Machine

/-! SUPPORT. What keeps the queue and the canonical form: epochs, phases, the registers of the host and the loads. -/

namespace Sys2Proof.Machine

open Sys2Proof

section

set_option Elab.async false

variable {s₀ s : State}

protected theorem Keeps.writeKeep (h : Keeps s₀ s) : Keeps s₀ (writeKeep s) := by
  unfold writeKeep
  refine (h.putRange.forEach fun _ _ h => ?_).frame
  split
  · exact h.putRange
  · exact h

protected theorem Keeps.setCommit {c t'} (h : Keeps s₀ s) : Keeps s₀ (setCommit c t' s) :=
  h.frame.logEvery

protected theorem Keeps.applyRecord {m b} (h : Keeps s₀ s) : Keeps s₀ (applyRecord m b s) :=
  h.frame.dropAppends

protected theorem Keeps.applyShards {m bad b} (h : Keeps s₀ s) : Keeps s₀ (applyShards m bad b s) := by
  unfold applyShards
  refine h.forEach fun _ _ h => ?_
  split
  · exact h.putRange
  · exact h

protected theorem Keeps.unrecoverable {devs} (h : Keeps s₀ s) : Keeps s₀ (unrecoverable devs s) :=
  h.logEvent.broadcastMsg

protected theorem Keeps.startRollback {new} (h : Keeps s₀ s) : Keeps s₀ (startRollback new s) := by
  unfold startRollback
  split
  · exact h
  · exact h.unrecoverable.ite (h.unrecoverable.ite ((h.logEvent.ite h).frame.broadcastMsg.forEach fun _ _ h => h.sendMsgPos))

protected theorem Keeps.declareLost {d cause} (h : Keeps s₀ s) : Keeps s₀ (declareLost d cause s) := by
  unfold declareLost
  split
  · exact h
  · exact h.frame.logEvent.startRollback

protected theorem Keeps.execStart {p} (h : Keeps s₀ s) : OutKeeps s₀ (execStart p s) := by
  unfold execStart
  split
  · exact h.takeIngress.relayMsg.frame.ite h.takeIngress.relayMsg
  · exact h.takeIngress.relayMsg

protected theorem Keeps.seedKeeping (h : Keeps s₀ s) : Keeps s₀ (seedKeeping s) :=
  (h.forEach fun _ _ h => h.modBear).forEach fun _ _ h => h.modBadger

protected theorem Keeps.zeroOrders (h : Keeps s₀ s) : Keeps s₀ (zeroOrders s) :=
  h.frame

protected theorem Keeps.openContexts (h : Keeps s₀ s) : Keeps s₀ (openContexts s) :=
  h.forEach fun _ _ h => h.modCtx.ctxOpen

protected theorem Keeps.freshStart (h : Keeps s₀ s) : Keeps s₀ (freshStart s) :=
  h.ite h.clearBanks.seedKeeping.frame.openContexts

protected theorem Keeps.applyPhase {i} (h : Keeps s₀ s) : Keeps s₀ (applyPhase i s) :=
  h.applyColour

protected theorem Keeps.beginPlan (h : Keeps s₀ s) : Keeps s₀ (beginPlan s) :=
  h.frame.applyPhase.ite h.power.zeroOrders.freshStart.applyPhase.logEvent.postStatus

protected theorem Keeps.execPlanStartTime (h : Keeps s₀ s) : OutKeeps s₀ (execPlanStartTime s) := by
  unfold execPlanStartTime
  split
  · exact .ite h.reachTime.beginPlan h
  · exact h

protected theorem Keeps.startBind {b} (h : Keeps s₀ s) : Keeps s₀ (startBind b s) :=
  h.setSeq.modFox.ite (h.setSeq.modBear.ite h.setSeq)

protected theorem Keeps.preTunePort {set port} (h : Keeps s₀ s) : Keeps s₀ (preTunePort set port s) := by
  unfold preTunePort
  dsimp only
  refine h.ite ?_
  split
  · exact (h.preTuneSpare.ite h).preTuneSpare.ite (h.preTuneSpare.ite h)
  · exact h

protected theorem Keeps.preTune (h : Keeps s₀ s) : Keeps s₀ (preTune s) :=
  h.ite (h.forEach fun _ _ h => h.preTunePort)

protected theorem Keeps.startPhase (h : Keeps s₀ s) : Keeps s₀ (startPhase s) :=
  ((h.frame.forEach fun _ _ h => h.ite h.startRecal).forEach fun _ _ h => h.startBind).preTune

protected theorem Keeps.execPhaseStart (h : Keeps s₀ s) : OutKeeps s₀ (execPhaseStart s) :=
  .ite (h.endPlan.ite h.startPhase) h

protected theorem Keeps.carryDensity {i j e} (h : Keeps s₀ s) : Keeps s₀ (carryDensity i j e s) :=
  h.ite h.modKeep

protected theorem Keeps.arriveBoundary (h : Keeps s₀ s) : Keeps s₀ (arriveBoundary s) := by
  unfold arriveBoundary
  dsimp only
  split
  · exact h.frame.report.sendMsgPos.ite h.frame.report
  · exact h.frame.report

protected theorem Keeps.stopHere (h : Keeps s₀ s) : Keeps s₀ (stopHere s) :=
  h.broadcastMsg.ite h

protected theorem Keeps.endPhase (h : Keeps s₀ s) : Keeps s₀ (endPhase s) := by
  unfold endPhase
  extract_lets phase flagged next written carried run passed halt applied committed
  have hwritten : Keeps s₀ written := h.l1WriteBack.ite h
  have hpassed : Keeps s₀ passed := (hwritten.forEach fun _ _ h => h.countGap.carryDensity).frame
  have hcommitted : Keeps s₀ committed := (hpassed.ite hpassed.applyPhase).commitFab
  exact hcommitted.arriveBoundary.ite (hcommitted.endPlan.ite hcommitted.stopHere)

protected theorem Keeps.execPhaseEnd (h : Keeps s₀ s) : OutKeeps s₀ (execPhaseEnd s) :=
  .ite h (.ite h.l1SendHome h.endPhase)

protected theorem Keeps.lagRow {note row} (h : Keeps s₀ s) : Keeps s₀ (lagRow note row s) := by
  unfold lagRow
  split
  · exact h
  · exact h.forEach fun _ _ h => (h.frame.logEvent.ite h.frame).frame.ite (h.frame.logEvent.ite h.frame)

protected theorem Keeps.arrivalsDone {c} (h : Keeps s₀ s) : Keeps s₀ (arrivalsDone c s) :=
  (h.forEach fun _ _ h => h.lagRow).frame.broadcastMsg

protected theorem Keeps.execArrive {p} (h : Keeps s₀ s) : OutKeeps s₀ (execArrive p s) := by
  unfold execArrive
  split
  · exact .ite h (.ite h.takeIngress ((h.takeIngress.frame.lagRow.ite h.takeIngress.frame).gather fun _ h => h.arrivalsDone))
  · exact h.takeIngress

protected theorem Keeps.sendReady {c} (h : Keeps s₀ s) : Keeps s₀ (sendReady c s) :=
  h.frame.report

protected theorem Keeps.startMirror {c} (h : Keeps s₀ s) : Keeps s₀ (startMirror c s) :=
  h.frame.sendReady.ite h.frame.tallySet.startXfer

protected theorem Keeps.execMirror {p} (h : Keeps s₀ s) : OutKeeps s₀ (execMirror p s) := by
  unfold execMirror
  split
  · exact .ite h (.ite h.takeIngress.relayMsg.startMirror h.takeIngress.relayMsg)
  · exact h.takeIngress

protected theorem Keeps.hoardWrite {base p} (h : Keeps s₀ s) : Keeps s₀ (hoardWrite base p s) :=
  h.writePoisoned.ite h.writeStore

protected theorem Keeps.sealCopy {p at'} (h : Keeps s₀ s) : Keeps s₀ (sealCopy p at' s) :=
  h.ite (h.tallySet.ite (h.tallySet.sendMsgPos.ite h.tallySet.sendMsg))

protected theorem Keeps.takeHoardData {p} (h : Keeps s₀ s) : Keeps s₀ (takeHoardData p s) := by
  unfold takeHoardData
  split
  · exact h.hoardWrite.tallyAdd.sealCopy.respondAck.ite h.refuseRemote
  · exact h.refuseRemote

protected theorem Keeps.takeCopyData {p} (h : Keeps s₀ s) : Keeps s₀ (takeCopyData p s) :=
  h.frame.respondAck

protected theorem Keeps.execHoardData {p} (h : Keeps s₀ s) : OutKeeps s₀ (execHoardData p s) :=
  .ite h.takeIngress.takeHoardData (.ite h.takeIngress.takeCopyData h.takeIngress.refuseRemote)

protected theorem Keeps.execSealed {p} (h : Keeps s₀ s) : OutKeeps s₀ (execSealed p s) := by
  unfold execSealed
  split
  · exact .ite h.takeIngress.frame.sendReady h.takeIngress
  · exact h.takeIngress

protected theorem Keeps.commitEffective {c} (h : Keeps s₀ s) : Keeps s₀ (commitEffective c s) :=
  h.frame.setCommit.broadcastMsg

protected theorem Keeps.readiesDone {c} (h : Keeps s₀ s) : Keeps s₀ (readiesDone c s) :=
  h.frame.commitEffective.ite h.frame.sendMsg

protected theorem Keeps.sendStart {w delayUs} (h : Keeps s₀ s) : Keeps s₀ (sendStart w delayUs s) :=
  h.frame.broadcastMsg.finishWaiter

protected theorem Keeps.execReady {p} (h : Keeps s₀ s) : OutKeeps s₀ (execReady p s) := by
  unfold execReady
  dsimp only
  split
  · refine .ite h (.ite h.takeIngress (h.takeIngress.frame.gather fun _ h => ?_))
    split
    · exact h.readiesDone.sendStart.ite h.readiesDone
    · exact h.readiesDone
  · exact h.takeIngress

protected theorem Keeps.deputyCommit {p c t'} (h : Keeps s₀ s) : Keeps s₀ (deputyCommit p c t' s) :=
  h.setCommit.sendMsg.ite h

protected theorem Keeps.memberCommit {c t' sw} (h : Keeps s₀ s) : Keeps s₀ (memberCommit c t' sw s) :=
  ((h.setCommit.ite h).ite (h.setCommit.ite h).frame).ite h.frame

protected theorem Keeps.execCommit {p} (h : Keeps s₀ s) : OutKeeps s₀ (execCommit p s) := by
  unfold execCommit
  split
  · exact .ite (h.takeIngress.relayMsg.memberCommit.ite h.takeIngress.relayMsg) h.takeIngress.deputyCommit
  · exact h.takeIngress

protected theorem Keeps.execCommitAck {p} (h : Keeps s₀ s) : OutKeeps s₀ (execCommitAck p s) := by
  unfold execCommitAck
  dsimp only
  split
  · refine .ite ?_ h.takeIngress
    split
    · exact h.takeIngress.commitEffective.sendStart
    · exact h.takeIngress.commitEffective
  · exact h.takeIngress

protected theorem Keeps.finishBoundary (h : Keeps s₀ s) : Keeps s₀ (finishBoundary s) :=
  h.frame.ite (h.frame.clearBanks.endPlan.ite (h.frame.clearBanks.broadcastMsg.ite h.frame.clearBanks))

protected theorem Keeps.sendSwap (h : Keeps s₀ s) : Keeps s₀ (sendSwap s) := by
  unfold sendSwap
  split
  · exact h.startXfer
  · exact h

protected theorem Keeps.execKeepWriteDone (h : Keeps s₀ s) : OutKeeps s₀ (execKeepWriteDone s) :=
  .ite h (h.writeKeep.frame.finishBoundary.ite h.writeKeep.frame.sendSwap)

protected theorem Keeps.execSwapCopyDone (h : Keeps s₀ s) : OutKeeps s₀ (execSwapCopyDone s) := by
  unfold execSwapCopyDone
  split
  · exact h
  · exact .ite h (.ite h.frame.placePlan.frame h.frame.placePlan.putRange.applyRecord.applyShards.frame.sendMsgPos)

protected theorem Keeps.deadDrop {code p} (h : Keeps s₀ s) : Keeps s₀ (deadDrop code p s) :=
  h.frame.logOncePhase.dropPacket

protected theorem Keeps.execPacketForward {p} (h : Keeps s₀ s) : OutKeeps s₀ (execPacketForward p s) := by
  unfold execPacketForward
  split
  · exact h
  · exact .ite h.frame.freeCreditOf.deadDrop h.frame.freeCreditOf.routePacket

protected theorem Keeps.execEscapeCreditTimeout {k p} (h : Keeps s₀ s) : OutKeeps s₀ (execEscapeCreditTimeout k p s) :=
  .ite h.modLane.frame.routePacket h

protected theorem Keeps.execDetourWaitTimeout {p} (h : Keeps s₀ s) : OutKeeps s₀ (execDetourWaitTimeout p s) := by
  unfold execDetourWaitTimeout
  split
  · exact h
  · split
    · exact h
    · split
      · exact h
      · exact h.frame.enqueue

protected theorem Keeps.execPacketHoldTimeout {p} (h : Keeps s₀ s) : OutKeeps s₀ (execPacketHoldTimeout p s) := by
  unfold execPacketHoldTimeout
  split
  · exact h
  · exact h.frame.deadDrop

protected theorem Keeps.execOrderSkip {p} (h : Keeps s₀ s) : OutKeeps s₀ (execOrderSkip p s) := by
  unfold execOrderSkip
  split
  · exact h.takeIngress.logEvent.frame.orderApplied
  · exact h.takeIngress

protected theorem Keeps.execOrderRetry {p} (h : Keeps s₀ s) : OutKeeps s₀ (execOrderRetry p s) := by
  unfold execOrderRetry
  dsimp only
  split
  · split
    · exact h.takeIngress.frame
    · exact h.takeIngress
  · exact h.takeIngress

protected theorem Keeps.execOrderRetryResend {p} (h : Keeps s₀ s) : OutKeeps s₀ (execOrderRetryResend p s) :=
  .ite h.frame.routePacket h

protected theorem Keeps.askAdopt {t' plane} (h : Keeps s₀ s) : Keeps s₀ (askAdopt t' plane s) :=
  h.frame.nameLane.sendMsgPos

protected theorem Keeps.execOrphanTimeout {t'} (h : Keeps s₀ s) : OutKeeps s₀ (execOrphanTimeout t' s) :=
  .ite h (.ite h h.logEvery.askAdopt)

protected theorem Keeps.execAdoptRetry {t'} (h : Keeps s₀ s) : OutKeeps s₀ (execAdoptRetry t' s) :=
  .ite h h.logEvery.askAdopt

protected theorem Keeps.execAdopt {p} (h : Keeps s₀ s) : OutKeeps s₀ (execAdopt p s) := by
  unfold execAdopt
  split
  · exact .ite h.takeIngress (.ite h.takeIngress h.takeIngress.frame.nameLane)
  · exact h.takeIngress

protected theorem Keeps.execTreeRootChange (h : Keeps s₀ s) : OutKeeps s₀ (execTreeRootChange s) :=
  h.changeTree

protected theorem Keeps.execTreeOldLaneTimeout (h : Keeps s₀ s) : OutKeeps s₀ (execTreeOldLaneTimeout s) :=
  h.frame.forEach fun _ _ h => h.dropLane

protected theorem Keeps.writeCommit {b w} (h : Keeps s₀ s) : Keeps s₀ (writeCommit b w s) :=
  h.ite (h.modCommit.commitGo.ite h.modCommit)

protected theorem Keeps.stageWrite {b w} (h : Keeps s₀ s) : Keeps s₀ (stageWrite b w s) :=
  h.ite h.modCommit

protected theorem Keeps.writeFab {w} (h : Keeps s₀ s) : Keeps s₀ (writeFab w s) := by
  unfold writeFab
  exact h.writeCommit.ite ((h.logEvery.ite h.stageWrite).ite (h.stageWrite.ite (h.frame.ite h)))

protected theorem Keeps.writePwr {w} (h : Keeps s₀ s) : Keeps s₀ (writePwr w s) := by
  unfold writePwr
  exact h.writeCommit.ite (h.stageWrite.ite ((h.clearRailFault.ite h).ite h))

protected theorem Keeps.writeThm {w} (h : Keeps s₀ s) : Keeps s₀ (writeThm w s) := by
  unfold writeThm
  exact h.writeCommit.ite (h.stageWrite.ite h)

protected theorem Keeps.writeTime {w} (h : Keeps s₀ s) : Keeps s₀ (writeTime w s) := by
  unfold writeTime
  exact h.writeCommit.ite (h.stageWrite.ite h)

protected theorem Keeps.writeQueue {q o w} (h : Keeps s₀ s) : Keeps s₀ (writeQueue q o w s) := by
  unfold writeQueue
  split
  · exact h.modQueue
  · exact h.modQueue
  · exact h.enableQueue.ite h.disableQueue
  · exact h.ringSq
  · exact h.ringCq
  · exact h

protected theorem Keeps.writeVector {n lo w} (h : Keeps s₀ s) : Keeps s₀ (writeVector n lo w s) :=
  h.frame.msixSend.ite h.frame

protected theorem Keeps.writeHub {w} (h : Keeps s₀ s) : Keeps s₀ (writeHub w s) := by
  unfold writeHub
  refine h.writeQueue.ite (h.writeVector.ite ?_)
  split
  · exact h.frame
  · exact h.frame
  · exact h.ackLog
  · exact h.frame
  · exact h

protected theorem Keeps.writeForceOff {k ve w} (h : Keeps s₀ s) : Keeps s₀ (writeForceOff k ve w s) :=
  h.ite h.setForceOff

protected theorem Keeps.writeCdie {k o w} (h : Keeps s₀ s) : Keeps s₀ (writeCdie k o w s) := by
  unfold writeCdie
  refine (h.modBear.ite (h.modBear.ite h)).ite ?_
  refine h.writeForceOff.ite (h.modBadger.ite (h.writeForceOff.ite ?_))
  refine h.modFox.ite (h.modHare.ite (h.modEcc.ite (h.modEcc.ite ?_)))
  exact h.modStr.ite (h.frame.ite (h.modPack.ite h))

protected theorem Keeps.writeOtil {k o w} (h : Keeps s₀ s) : Keeps s₀ (writeOtil k o w s) :=
  h.writeCommit.ite (h.stageWrite.ite (h.modPpe.ite h))

protected theorem Keeps.writeHbmc {n o w} (h : Keeps s₀ s) : Keeps s₀ (writeHbmc n o w s) :=
  h.modEcc.ite (h.mem.ite h)

protected theorem Keeps.hostRefuse {code space off} (h : Keeps s₀ s) : Keeps s₀ (hostRefuse code space off s) :=
  h.addrFault

protected theorem Keeps.writeWindow {off len v'} (h : Keeps s₀ s) : Keeps s₀ (writeWindow off len v' s) := by
  unfold writeWindow
  split
  · exact (h.dcsStore.some ‹_›)
  · exact h.hostRefuse.ite h.hostRefuse

protected theorem Keeps.dcsWrite {off len v'} (h : Keeps s₀ s) : Keeps s₀ (dcsWrite off len v' s) :=
  h.ite (h.writeHub.ite (h.writePwr.ite (h.writeThm.ite
      (h.writeTime.ite (h.ite (h.writeCdie.ite (h.writeOtil.ite
      (h.writeHbmc.ite (h.writeFab.ite (h.writeWindow.ite h))))))))))

protected theorem Keeps.execRegisterWrite {off len v'} (h : Keeps s₀ s) : OutKeeps s₀ (execRegisterWrite off len v' s) :=
  h.onHost fun _ h => h.replyHost.ite h.hostPosted.dcsWrite

protected theorem Keeps.tallyWindow {i o v' size} (h : Keeps s₀ s) : Keeps s₀ (tallyWindow i o v' size s) :=
  h.replyHost.ite h.hostPosted.writeWindow

protected theorem Keeps.execTallyWindowSignal {i v' size} (h : Keeps s₀ s) :
    OutKeeps s₀ (execTallyWindowSignal i v' size s) :=
  h.onHost fun _ h => h.tallyWindow

protected theorem Keeps.execTallySet {i v' size} (h : Keeps s₀ s) : OutKeeps s₀ (execTallySet i v' size s) :=
  h.onHost fun _ h => h.tallyWindow

protected theorem Keeps.execTallyMarkError {i v' size} (h : Keeps s₀ s) : OutKeeps s₀ (execTallyMarkError i v' size s) :=
  h.onHost fun _ h => h.tallyWindow

protected theorem Keeps.execDevSync (h : Keeps s₀ s) : OutKeeps s₀ (execDevSync s) :=
  h.onHost fun _ h => h.replyHost

protected theorem Keeps.bar0Read {off len} (h : Keeps s₀ s) : Keeps s₀ (bar0Read off len s) :=
  h.replyHost.ite (h.useFree.replyHost.ite (h.modTime.ite h).replyHost)

protected theorem Keeps.memRead {st a len x} (h : Keeps s₀ s) : Keeps s₀ (memRead st a len x s) := by
  unfold memRead
  split
  · exact h.hostRefuse.replyHost
  · exact h.freeBytes.replyHost.ite h.eccNote.served.replyHost

protected theorem Keeps.execHostBarRead {bar off len x} (h : Keeps s₀ s) :
    OutKeeps s₀ (execHostBarRead bar off len x s) := by
  unfold execHostBarRead
  refine .ite h.bar0Read (h.onHost fun _ h => h.bar0Read.ite ?_)
  split
  · exact h.memRead
  · exact h.replyHost

protected theorem Keeps.memWrite {st a d} (h : Keeps s₀ s) : Keeps s₀ (memWrite st a d s) := by
  unfold memWrite
  split
  · exact h.hostRefuse
  · exact h.ite h.writeStore.served

protected theorem Keeps.execHostBarWrite {bar off d} (h : Keeps s₀ s) : OutKeeps s₀ (execHostBarWrite bar off d s) := by
  unfold execHostBarWrite
  refine h.onHost fun _ h => ?_
  split
  · exact h.hostPosted.memWrite
  · exact h.replyHost

protected theorem Keeps.memAtomic {st a size o v' cmp x} (h : Keeps s₀ s) : Keeps s₀ (memAtomic st a size o v' cmp x s) := by
  unfold memAtomic
  split
  · exact h.hostRefuse.replyHost
  · refine h.freeBytes.replyHost.ite (Keeps.replyHost ?_)
    split <;> exact h.eccNote.served.atomAt

protected theorem Keeps.execHostAtomic {bar off op size v' cmp x} (h : Keeps s₀ s) :
    OutKeeps s₀ (execHostAtomic bar off op size v' cmp x s) := by
  unfold execHostAtomic
  refine h.onHost fun _ h => ?_
  split
  · exact h.memAtomic.ite h.replyHost
  · exact h.replyHost

protected theorem Keeps.probeState {p me b phase} (h : Keeps s₀ s) : Keeps s₀ (probeState s p me b phase) :=
  h.frame

protected theorem Keeps.execPlanLoad {q id rsv addr len ring vector} (h : Keeps s₀ s) :
    OutKeeps s₀ (execPlanLoad q id rsv addr len ring vector s) :=
  .ite h (h.onCmd fun _ h => h.endCmd.ite (h.endCmd.ite (h.discardPlan.ite h).frame))

protected theorem Keeps.refuseLoad {id e dev devCode} (h : Keeps s₀ s) : Keeps s₀ (refuseLoad id e dev devCode s) :=
  h.logEvent.frame.postCompletion

protected theorem Keeps.sendJoin {p code lease} (h : Keeps s₀ s) : Keeps s₀ (sendJoin p code lease s) := by
  unfold sendJoin
  split
  · exact h.sendMsgPos
  · exact h

protected theorem Keeps.startJoin {p} (h : Keeps s₀ s) : Keeps s₀ (startJoin p s) := by
  unfold startJoin
  dsimp only
  split
  · exact h.frame.sendJoin.sendMsgPos
  · exact h.frame.sendJoin

protected theorem Keeps.refuseKnown {p e} (h : Keeps s₀ s) : Keeps s₀ (refuseKnown p e s) :=
  (h.refuseLoad.frame.ite h.refuseLoad).sendJoin

protected theorem Keeps.execLoadChecks {image ok} (h : Keeps s₀ s) : OutKeeps s₀ (execLoadChecks image ok s) := by
  unfold execLoadChecks
  refine .ite h (.ite h.dropLoad.endCmd (.ite h ?_))
  split
  · exact h.refuseLoad
  · exact h.refuseKnown
  · exact h.startJoin

end

end Sys2Proof.Machine

/-! SUPPORT. What keeps the queue and the canonical form: the join, rollback and restart, suspension, and at last every command. -/

namespace Sys2Proof.Machine

open Sys2Proof

section

set_option Elab.async false

variable {s₀ s : State}

protected theorem Keeps.giveVerdict {v'} (h : Keeps s₀ s) : Keeps s₀ (giveVerdict v' s) :=
  h.frame.forEach fun _ _ h => h.sendMsgPos

protected theorem Keeps.lateSpare {pos} (h : Keeps s₀ s) : Keeps s₀ (lateSpare pos s) :=
  (h.frame.startRollback.ite h.frame).ite h

protected theorem Keeps.takeJoin {p pos j} (h : Keeps s₀ s) : Keeps s₀ (takeJoin p pos j s) := by
  unfold takeJoin
  dsimp only
  split
  · exact h.frame.sendMsgPos.lateSpare.ite h.frame.sendMsgPos
  · split
    · exact h.frame.giveVerdict
    · exact h.frame.giveVerdict.ite h.frame

protected theorem Keeps.execJoin {p} (h : Keeps s₀ s) : OutKeeps s₀ (execJoin p s) := by
  unfold execJoin
  split
  · exact h
  · refine .ite h (.ite h.takeIngress (.ite h.takeIngress.sendMsgPos ?_))
    split
    · exact h.takeIngress.takeJoin
    · exact h.takeIngress

protected theorem Keeps.execWithdraw {p} (h : Keeps s₀ s) : OutKeeps s₀ (execWithdraw p s) := by
  unfold execWithdraw
  split
  · exact h
  · refine .ite h (.ite h.takeIngress (.ite h.takeIngress.sendMsgPos ?_))
    split
    · exact h.takeIngress.sendMsgPos
    · exact h.takeIngress.giveVerdict.ite h.takeIngress.giveVerdict.sendMsgPos

protected theorem Keeps.execStewardJoinTimeout (h : Keeps s₀ s) : OutKeeps s₀ (execStewardJoinTimeout s) :=
  .ite h.giveVerdict h

protected theorem Keeps.execRefusingStewardEnd (h : Keeps s₀ s) : OutKeeps s₀ (execRefusingStewardEnd s) :=
  .ite h.frame h

protected theorem Keeps.execJoinTimeout (h : Keeps s₀ s) : OutKeeps s₀ (execJoinTimeout s) := by
  unfold execJoinTimeout
  split
  · refine .ite ?_ h
    split
    · exact h.frame.sendMsgPos
    · exact h.frame
  · exact h

protected theorem Keeps.refuseStage4 {code dev devCode} (h : Keeps s₀ s) : Keeps s₀ (refuseStage4 code dev devCode s) := by
  unfold refuseStage4
  split
  · exact h.refuseLoad
  · exact h

protected theorem Keeps.execWithdrawTimeout (h : Keeps s₀ s) : OutKeeps s₀ (execWithdrawTimeout s) :=
  .ite h.refuseStage4 h

protected theorem Keeps.keepVerdict {v' p j} (h : Keeps s₀ s) : Keeps s₀ (keepVerdict v' p j s) :=
  h.frame

protected theorem Keeps.takeVerdict {p go code dev devCode} (h : Keeps s₀ s) :
    Keeps s₀ (takeVerdict p go code dev devCode s) :=
  h.goPlan.ite (h.refuseStage4.keepVerdict.ite h.refuseStage4)

protected theorem Keeps.execVerdict {p} (h : Keeps s₀ s) : OutKeeps s₀ (execVerdict p s) := by
  unfold execVerdict
  dsimp only
  split
  · exact .ite h.takeIngress.takeVerdict h.takeIngress
  · exact h.takeIngress

protected theorem Keeps.refreshPartnerLanes (h : Keeps s₀ s) : Keeps s₀ (refreshPartnerLanes s) :=
  h.forEach fun _ _ h => h.nameLane

protected theorem Keeps.execLeaseCheck {p} (h : Keeps s₀ s) : OutKeeps s₀ (execLeaseCheck p s) := by
  unfold execLeaseCheck
  dsimp only
  split
  · split
    · exact .ite h.takeIngress.frame.refreshPartnerLanes.sendMsgPos h.takeIngress.sendMsgPos
    · exact h.takeIngress.sendMsgPos
  · exact h.takeIngress

protected theorem Keeps.leaseRefused {p} (h : Keeps s₀ s) : Keeps s₀ (leaseRefused p s) :=
  ((h.refuseStage4.keepVerdict.ite h.refuseStage4.keepVerdict.giveVerdict).ite h.refuseStage4).sendJoin

protected theorem Keeps.execLeaseOk {p} (h : Keeps s₀ s) : OutKeeps s₀ (execLeaseOk p s) := by
  unfold execLeaseOk
  dsimp only
  split
  · split
    · exact .ite h.takeIngress (.ite h.takeIngress.frame.sendJoin h.takeIngress.leaseRefused)
    · exact .ite h.takeIngress (.ite h.takeIngress.frame h.takeIngress.hoardLost)
    · exact h.takeIngress
  · exact h.takeIngress

protected theorem Keeps.execLeaseCheckTimeout (h : Keeps s₀ s) : OutKeeps s₀ (execLeaseCheckTimeout s) := by
  unfold execLeaseCheckTimeout
  split
  · exact .ite h.leaseRefused h
  · exact h

protected theorem Keeps.execFault {p} (h : Keeps s₀ s) : OutKeeps s₀ (execFault p s) := by
  unfold execFault
  split
  · exact .ite h.takeIngress (.ite h.takeIngress.unrecoverable (.ite h.takeIngress.declareLost h.takeIngress.startRollback))
  · exact h.takeIngress

protected theorem Keeps.execStop {p} (h : Keeps s₀ s) : OutKeeps s₀ (execStop p s) := by
  unfold execStop
  split
  · exact .ite h.takeIngress.relayMsg.endPlan h.takeIngress.relayMsg
  · exact h.takeIngress.relayMsg

protected theorem Keeps.execStopReq {p} (h : Keeps s₀ s) : OutKeeps s₀ (execStopReq p s) := by
  unfold execStopReq
  split
  · exact .ite h.takeIngress (.ite h.takeIngress.frame h.takeIngress.broadcastMsg)
  · exact h.takeIngress

protected theorem Keeps.sendProbe {pos} (h : Keeps s₀ s) : Keeps s₀ (sendProbe pos s) :=
  h.frame.sendMsgPos

protected theorem Keeps.execSuspect {p} (h : Keeps s₀ s) : OutKeeps s₀ (execSuspect p s) := by
  unfold execSuspect
  dsimp only
  split
  · split
    · exact .ite h.takeIngress h.takeIngress.frame.sendProbe
    · exact h.takeIngress
  · exact h.takeIngress

protected theorem Keeps.execProbe {p} (h : Keeps s₀ s) : OutKeeps s₀ (execProbe p s) := by
  unfold execProbe
  split
  · exact h.takeIngress.sendMsgPos.ite h.takeIngress.sendMsg
  · exact h.takeIngress

protected theorem Keeps.execProbeAck {p} (h : Keeps s₀ s) : OutKeeps s₀ (execProbeAck p s) := by
  unfold execProbeAck
  split
  · exact h.takeIngress.frame
  · exact h.takeIngress

protected theorem Keeps.probeOne {pos} (h : Keeps s₀ s) : Keeps s₀ (probeOne pos s) :=
  (h.frame.sendMsg.ite h.frame).sendProbe

protected theorem Keeps.confirmOne {d} (h : Keeps s₀ s) : Keeps s₀ (confirmOne d s) := by
  unfold confirmOne
  split
  · exact h
  · exact h.frame.sendProbe.ite h.frame.declareLost
  · exact h.frame

protected theorem Keeps.execProbeTick (h : Keeps s₀ s) : OutKeeps s₀ (execProbeTick s) :=
  .ite h (.ite (h.frame.forEach fun _ _ h => h.probeOne) (h.forEach fun _ _ h => h.confirmOne))

protected theorem Keeps.freeSlots (h : Keeps s₀ s) : Keeps s₀ (freeSlots s) :=
  h.frame

protected theorem Keeps.dropRun (h : Keeps s₀ s) : Keeps s₀ (dropRun s) :=
  h.frame

protected theorem Keeps.abandonRun (h : Keeps s₀ s) : Keeps s₀ (abandonRun s) :=
  h.stopEngines.freeAllStg.freeSlots.dropRun.clearDirectory.dropAppends

protected theorem Keeps.takeIdentity {d} (h : Keeps s₀ s) : Keeps s₀ (takeIdentity d s) :=
  h.frame.placePlan

protected theorem Keeps.loseIdentity (h : Keeps s₀ s) : Keeps s₀ (loseIdentity s) :=
  h.logEvent.power.stopEngines.freeSlots.postStatus

protected theorem Keeps.restoreLanes {q} (h : Keeps s₀ s) : Keeps s₀ (restoreLanes q s) :=
  h.forEach fun _ _ h => h.nameLane.ite h

protected theorem Keeps.sendRestores (h : Keeps s₀ s) : Keeps s₀ (sendRestores s) := by
  unfold sendRestores
  dsimp only
  split
  · exact h.ite ((h.startXfer.ite h).ite (h.startXfer.ite h).startXfer)
  · exact h

protected theorem Keeps.settleKeep {target} (h : Keeps s₀ s) : Keeps s₀ (settleKeep target s) :=
  (h.ite h.setCommit).ite (h.ite h.setCommit).writeKeep

protected theorem Keeps.noteLost {target lost} (h : Keeps s₀ s) : Keeps s₀ (noteLost target lost s) := by
  unfold noteLost
  split
  · exact h
  · exact h.frame

protected theorem Keeps.noteRollback {target lost} (h : Keeps s₀ s) : Keeps s₀ (noteRollback target lost s) :=
  ((h.ite h.logEvent).forEach fun _ _ h => h.logEvent).frame

protected theorem Keeps.rollbackHere {target serial lost next passes} (h : Keeps s₀ s) :
    Keeps s₀ (rollbackHere target serial lost next passes s) := by
  unfold rollbackHere
  extract_lets pos was noted settled abandoned epoch run rolled marked rostered left taken root treed parented lease leased restored
  have hnoted : Keeps s₀ noted := h.noteRollback
  have hsettled : Keeps s₀ settled := hnoted.settleKeep.ite hnoted
  have hrostered : Keeps s₀ rostered := hsettled.abandonRun.frame.tallySet.noteLost.commitRoster.noteDisplaced
  have hleft : Keeps s₀ left := hrostered.loseIdentity.ite hrostered
  have htaken : Keeps s₀ taken := by
    unfold taken
    split
    · exact hleft.ite hleft.takeIdentity
    · exact hleft
  have hparented : Keeps s₀ parented := (htaken.changeTree.ite htaken.applyTree).setRoles.refreshParent
  have hrestored : Keeps s₀ restored := by
    unfold restored
    split
    · exact (hparented.ite hparented.frame).restoreLanes
    · split
      · split
        · exact hparented.restoreLanes
        · exact hparented
      · exact hparented
  exact hrestored.sendRestores.ite hrestored

protected theorem Keeps.rollbackForeign {target lost} (h : Keeps s₀ s) : Keeps s₀ (rollbackForeign target lost s) := by
  unfold rollbackForeign
  split
  · split
    · exact h.frame.refreshPartnerLanes.frame.startXfer
    · exact h
  · exact h

protected theorem Keeps.execRollback {p} (h : Keeps s₀ s) : OutKeeps s₀ (execRollback p s) := by
  unfold execRollback
  split
  · exact .ite h.takeIngress.relayMsg.rollbackForeign (.ite h.takeIngress.relayMsg h.takeIngress.relayMsg.rollbackHere)
  · exact h.takeIngress.relayMsg

protected theorem Keeps.fetchLines (h : Keeps s₀ s) : Keeps s₀ (fetchLines s) :=
  h.forEach fun _ _ h => h.sendRequest.getD h

protected theorem Keeps.noIntactCopy (h : Keeps s₀ s) : Keeps s₀ (noIntactCopy s) :=
  h.frame.sendMsg

protected theorem Keeps.restoreImage (h : Keeps s₀ s) : Keeps s₀ (restoreImage s) :=
  h.frame.writeKeep

protected theorem Keeps.restoreIncoming (h : Keeps s₀ s) : Keeps s₀ (restoreIncoming s) :=
  h.putRange.applyRecord.applyShards.frame

protected theorem Keeps.restoreKeep (h : Keeps s₀ s) : Keeps s₀ (restoreKeep s) :=
  h.applyRecord.applyShards.frame

protected theorem Keeps.waitForSpare (h : Keeps s₀ s) : Keeps s₀ (waitForSpare s) :=
  h.frame.logEvent.logEvent.postStatus

protected theorem Keeps.restoredHere (h : Keeps s₀ s) : Keeps s₀ (restoredHere s) :=
  h.clearBanks.zeroOrders.frame.report.waitForSpare.ite h.clearBanks.zeroOrders.frame.report

protected theorem Keeps.restartRecal (h : Keeps s₀ s) : Keeps s₀ (restartRecal s) :=
  h.forEach fun _ _ h => h.startRecal.ite h

protected theorem Keeps.placedHere (h : Keeps s₀ s) : Keeps s₀ (placedHere s) := by
  unfold placedHere
  exact h.restartRecal.frame.ite h.restartRecal.restoredHere

protected theorem Keeps.restoreTested {failed restore} (h : Keeps s₀ s) (hf : ∀ t, Keeps s₀ t → Keeps s₀ (restore t)) :
    Keeps s₀ (restoreTested failed restore s) := by
  unfold restoreTested
  dsimp only
  split
  · exact h.testLines.frame.epochFault
  · exact (hf _ h.testLines.zeroAllPoisoned).placedHere

protected theorem Keeps.restoreHere {restore} (h : Keeps s₀ s) (hf : ∀ t, Keeps s₀ t → Keeps s₀ (restore t)) :
    Keeps s₀ (restoreHere restore s) :=
  h.useFree.restoreTested hf

protected theorem Keeps.execRestoreDone (h : Keeps s₀ s) : OutKeeps s₀ (execRestoreDone s) := by
  have fromImage := h.restoreHere fun _ h => h.restoreImage
  have fromCopy := h.restoreHere fun _ h => h.restoreIncoming
  have fromKeep := h.restoreHere fun _ h => h.restoreKeep
  exact .ite h (.ite h (.ite h.noIntactCopy (.ite fromImage
    (.ite (.ite h (.ite h.noIntactCopy fromCopy))
      (.ite (.ite h (.ite h.fetchLines h.noIntactCopy)) (.ite h.noIntactCopy fromKeep))))))

protected theorem Keeps.sendRestart (h : Keeps s₀ s) : Keeps s₀ (sendRestart s) :=
  h.broadcastMsg

protected theorem Keeps.execRestored {p} (h : Keeps s₀ s) : OutKeeps s₀ (execRestored p s) := by
  unfold execRestored
  split
  · exact .ite h (.ite h.takeIngress (.ite (h.takeIngress.frame.sendRestart.ite h.takeIngress.frame)
      (h.takeIngress.frame.gather fun _ h => h.ite h.sendRestart)))
  · exact h.takeIngress

protected theorem Keeps.execRestart {p} (h : Keeps s₀ s) : OutKeeps s₀ (execRestart p s) := by
  unfold execRestart
  split
  · exact .ite h.takeIngress.relayMsg h.takeIngress.relayMsg.frame
  · exact h.takeIngress.relayMsg

protected theorem Keeps.rejoin (h : Keeps s₀ s) : Keeps s₀ (rejoin s) :=
  h.frame.setRoles.applyPhase.refreshParent

protected theorem Keeps.nowRuns (h : Keeps s₀ s) : Keeps s₀ (nowRuns s) :=
  h.ite h.power.logEvent.postStatus

protected theorem Keeps.restartHere {t'} (h : Keeps s₀ s) : Keeps s₀ (restartHere t' s) :=
  (h.ite h.frame).logEvent.frame.rejoin.nowRuns

protected theorem Keeps.keepLags {old} (h : Keeps s₀ s) : Keeps s₀ (keepLags old s) :=
  h.frame

protected theorem Keeps.resumeSwap {now} (h : Keeps s₀ s) : Keeps s₀ (resumeSwap now s) := by
  unfold resumeSwap
  extract_lets swaps lagged logged epoch began left
  have hbegan : Keeps s₀ began := (h.commitRoster.noteDisplaced.keepLags.forEach fun _ _ h => h.logEvent).frame
  have hleft : Keeps s₀ left := hbegan.loseIdentity.ite hbegan
  exact hleft.zeroOrders.rejoin.clearBanks.nowRuns

protected theorem Keeps.execRestartTime (h : Keeps s₀ s) : OutKeeps s₀ (execRestartTime s) := by
  unfold execRestartTime
  split
  · exact h
  · exact .ite (.ite h h.reachTime.resumeSwap) (.ite h h.reachTime.restartHere)

protected theorem Keeps.execNoSpare (h : Keeps s₀ s) : OutKeeps s₀ (execNoSpare s) :=
  .ite h (h.logEvent.startRollback.ite h.logEvent)

protected theorem Keeps.startSpan {w d} (h : Keeps s₀ s) : Keeps s₀ (startSpan w d s) :=
  h.frame.broadcastMsg.ite h.sendStart

protected theorem Keeps.execPlanStart {q id rsv delay} (h : Keeps s₀ s) : OutKeeps s₀ (execPlanStart q id rsv delay s) := by
  unfold execPlanStart
  refine h.onCmd fun _ h => h.endCmd.ite ?_
  split
  · exact h.endCmd
  · exact h.endCmd
  · exact h.endCmd.ite (h.endCmd.ite h.startSpan)
  · exact h.endCmd

protected theorem Keeps.askStop {q id later} (h : Keeps s₀ s) : Keeps s₀ (askStop q id later s) := by
  unfold askStop
  split
  · exact h.frame.sendMsg
  · exact h.frame.sendMsg
  · exact h.frame.sendMsg
  · exact h.endCmd
  · exact h.endCmd

protected theorem Keeps.execPlanStop {q id rsv} (h : Keeps s₀ s) : OutKeeps s₀ (execPlanStop q id rsv s) :=
  h.onCmd fun _ h => h.askStop

protected theorem Keeps.execPlanStopAtBoundary {q id rsv} (h : Keeps s₀ s) :
    OutKeeps s₀ (execPlanStopAtBoundary q id rsv s) :=
  h.onCmd fun _ h => h.askStop

protected theorem Keeps.execPlanUnload {q id rsv} (h : Keeps s₀ s) : OutKeeps s₀ (execPlanUnload q id rsv s) := by
  unfold execPlanUnload
  refine h.onCmd fun _ h => ?_
  split
  · exact h.discardPlan.endCmd
  · exact h.discardPlan.endCmd
  · exact h.discardPlan.endCmd
  · exact h.endCmd
  · exact h.endCmd

protected theorem Keeps.askSuspend (h : Keeps s₀ s) : Keeps s₀ (askSuspend s) :=
  h.frame.broadcastMsg

protected theorem Keeps.execPlanSuspend {q id rsv area} (h : Keeps s₀ s) :
    OutKeeps s₀ (execPlanSuspend q id rsv area s) := by
  unfold execPlanSuspend
  refine h.onCmd fun _ h => h.endCmd.ite (h.endCmd.ite ((Keeps.frame ?_).askSuspend.ite (Keeps.frame ?_)))
  · split
    · exact h.finishWaiter
    · exact h
  · split
    · exact h.finishWaiter
    · exact h

protected theorem Keeps.dropSuspend (h : Keeps s₀ s) : Keeps s₀ (dropSuspend s) := by
  unfold dropSuspend
  dsimp only
  split
  · exact h.frame.finishWaiter
  · exact h.frame

protected theorem Keeps.takeAnswer {d ok} (h : Keeps s₀ s) : Keeps s₀ (takeAnswer d ok s) :=
  h.ite (h.dropSuspend.ite (h.frame.broadcastMsg.ite h.frame))

protected theorem Keeps.execSuspendRequest {p} (h : Keeps s₀ s) : OutKeeps s₀ (execSuspendRequest p s) := by
  unfold execSuspendRequest
  split
  · exact .ite h.takeIngress.relayMsg (.ite (h.takeIngress.relayMsg.frame.ite h.takeIngress.relayMsg)
      h.takeIngress.relayMsg.sendMsg)
  · exact h.takeIngress.takeAnswer.ite h.takeIngress
  · exact h.takeIngress

protected theorem Keeps.execSuspendAnswerTimeout (h : Keeps s₀ s) : OutKeeps s₀ (execSuspendAnswerTimeout s) :=
  h.dropSuspend.ite h

protected theorem Keeps.putSave {a m} (h : Keeps s₀ s) : Keeps s₀ (putSave a m s) :=
  h.putRange.ite (h.mem (host := Memory.wf_copyRange))

protected theorem Keeps.execSaveAreaWritten (h : Keeps s₀ s) : OutKeeps s₀ (execSaveAreaWritten s) := by
  unfold execSaveAreaWritten
  dsimp only
  split
  · exact h
  · refine .ite (h.l1SendHome.ite h) ?_
    split
    · exact h.l1WriteBack.putSave.freeAllStg.power.logEvent.postStatus.finishWaiter
    · exact h.l1WriteBack.putSave.freeAllStg.power.logEvent.postStatus

protected theorem Keeps.loadBanks {m} (h : Keeps s₀ s) : Keeps s₀ (loadBanks m s) :=
  h.forEach fun _ _ h => h.modBear

protected theorem Keeps.resumePlan {m} (h : Keeps s₀ s) : Keeps s₀ (resumePlan m s) :=
  h.applyRecord.loadBanks.restartRecal.frame.logEvent.postStatus

protected theorem Keeps.execPlanResume {q id rsv area host ok} (h : Keeps s₀ s) :
    OutKeeps s₀ (execPlanResume q id rsv area host ok s) :=
  h.onCmd fun _ h => h.endCmd.ite (h.endCmd.ite (h.endCmd.ite (h.endCmd.ite (h.postCompletion.ite h.resumePlan.endCmd))))

protected theorem Keeps.execHoardLeaseGrant {q id rsv plan base size} (h : Keeps s₀ s) :
    OutKeeps s₀ (execHoardLeaseGrant q id rsv plan base size s) :=
  h.onCmd fun _ h => h.endCmd.ite (h.endCmd.ite (h.withMapping fun _ h => h.frame).endCmd)

protected theorem Keeps.remakeLanes (h : Keeps s₀ s) : Keeps s₀ (remakeLanes s) :=
  h.applyColour.ite h.changeTree

protected theorem Keeps.revokeLease {l} (h : Keeps s₀ s) : Keeps s₀ (revokeLease l s) := by
  unfold revokeLease
  split
  · exact (h.withMapping fun _ h => h.frame).sendMsgPos.remakeLanes
  · exact h.withMapping fun _ h => h.frame

protected theorem Keeps.execHoardLeaseRevoke {q id rsv plan x y} (h : Keeps s₀ s) :
    OutKeeps s₀ (execHoardLeaseRevoke q id rsv plan x y s) := by
  unfold execHoardLeaseRevoke
  refine h.onCmd fun _ h => ?_
  split
  · exact (h.revokeLease.ite h).endCmd
  · exact h.endCmd

protected theorem Keeps.afterRecal (h : Keeps s₀ s) : Keeps s₀ (afterRecal s) := by
  unfold afterRecal
  refine h.ite ?_
  split
  · exact h.goDone
  · exact h.restoredHere.ite h

protected theorem Keeps.execPpeRecalDone {k ok badChan us} (h : Keeps s₀ s) :
    OutKeeps s₀ (execPpeRecalDone k ok badChan us s) :=
  .ite h h.recalDone.afterRecal

protected theorem Keeps.scrubLine {st a x} (h : Keeps s₀ s) : Keeps s₀ (scrubLine st a x s) :=
  h.ite h.eccNote

protected theorem Keeps.execSpScrubStep {a x last} (h : Keeps s₀ s) : OutKeeps s₀ (execSpScrubStep a x last s) :=
  .ite h (h.scrubLine.modEcc.ite h.scrubLine)

protected theorem Keeps.execCsScrubStep {a x y} (h : Keeps s₀ s) : OutKeeps s₀ (execCsScrubStep a x y s) :=
  h.ite h.scrubLine

protected theorem Keeps.execHbmPatrol {a x last} (h : Keeps s₀ s) : OutKeeps s₀ (execHbmPatrol a x last s) :=
  .ite h h.scrubLine.mem

protected theorem Keeps.exec {i} (h : Keeps s₀ s) : OutKeeps s₀ (exec i s) := by
  unfold exec
  split
  · exact h.execCommitGo
  · exact h.execCommitApply
  · exact h.execRegisterWrite
  · exact h.execPhaseEnd
  · exact h.execPhaseStart
  · exact h.execPlanLoad
  · exact h.execLoadChecks
  · exact h.execJoin
  · exact h.execWithdraw
  · exact h.execVerdict
  · exact h.execJoinTimeout
  · exact h.execWithdrawTimeout
  · exact h.execStewardJoinTimeout
  · exact h.execRefusingStewardEnd
  · exact h.execLeaseCheck
  · exact h.execLeaseOk
  · exact h.execLeaseCheckTimeout
  · exact h.execStart
  · exact h.execPlanStartTime
  · exact h.execNop
  · exact h.execEndProg
  · exact h.execWaitT
  · exact h.execSignal
  · exact h.execSignalApply
  · exact h.execErrt
  · exact h.execSetx
  · exact h.execAddx
  · exact h.execLoopX
  · exact h.execKeep
  · exact h.execKeepRampTick
  · exact h.execKeepGapExpire
  · exact h.execMeKeepAdminOff
  · exact h.execMma
  · exact h.execMmaSwap
  · exact h.execTileRefillDone
  · exact h.execMmaComplete
  · exact h.execMeTileFault
  · exact h.execDrn
  · exact h.execDrnComplete
  · exact h.execDzero
  · exact h.execAload
  · exact h.execCmode
  · exact h.execOmma32
  · exact h.execOmma16
  · exact h.execOdrn
  · exact h.execAccScrub
  · exact h.execChain
  · exact h.execArgx
  · exact h.execHsel
  · exact h.execVeEccFatal
  · exact h.execFcLoad
  · exact h.execFcStore
  · exact h.execFcAmo
  · exact h.execFcLr
  · exact h.execFcSc
  · exact h.execFcFence
  · exact h.execFcCsr
  · exact h.execFcCompute
  · exact h.execFend
  · exact h.execTsig
  · exact h.execTwait
  · exact h.execTerrt
  · exact h.execSdf
  · exact h.execPrm
  · exact h.execFadda
  · exact h.execEcallLog
  · exact h.execEcallYield
  · exact h.execYieldEnd
  · exact h.execFcEccFatal
  · exact h.execCopy
  · exact h.execGather
  · exact h.execFill
  · exact h.execChunkPerformed
  · exact h.execHostReadbackDone
  · exact h.execCeDrainCut
  · exact h.execSopen
  · exact h.execSpub
  · exact h.execScan
  · exact h.execSres
  · exact h.execRunaheadCopyDone
  · exact h.execSpScrubStep
  · exact h.execCsScrubStep
  · exact h.execHbmPatrol
  · exact h.execDevSync
  · exact h.execHostBarRead
  · exact h.execHostBarWrite
  · exact h.execHostAtomic
  · exact h.execTallyWindowSignal
  · exact h.execTallySet
  · exact h.execTallyMarkError
  · exact h.execStreamAppend
  · exact h.execStreamOpen
  · exact h.execStreamClose
  · exact h.execStreamReset
  · exact h.execContextStore
  · exact h.execAppendServe
  · exact h.execDigitalSketchJob
  · exact h.execCloseComplete
  · exact h.execMload
  · exact h.execMloadComplete
  · exact h.execSketch
  · exact h.execMvm
  · exact h.execPpeChannelCal
  · exact h.execPpeRecalDone
  · exact h.execPpeCalOverdue
  · exact h.execToneCheck
  · exact h.execLaserFeedLost
  · exact h.execFeedRelockDone
  · exact h.execLaserFeedRestored
  · exact h.execNoticeWindowEnd
  · exact h.execRingSweepDone
  · exact h.execRingLock
  · exact h.execRetuneTimeout
  · exact h.execRingToneCheckDone
  · exact h.execSpareMove
  · exact h.execFrameSend
  · exact h.execFrameReceive
  · exact h.execRetryTimeout
  · exact h.execLossOfFrame
  · exact h.execAcquireTimeout
  · exact h.execDownRetry
  · exact h.execUcwClassify
  · exact h.execRepairObservationEnd
  · exact h.execPlannedCloseTimeout
  · exact h.execClose
  · exact h.execLaneCloseTimeout
  · exact h.execLaneHoldEnd
  · exact h.execHoldTimeReset
  · exact h.execLaneDisagreeTimer
  · exact h.execPlaneCablingCheck
  · exact h.execPacketForward
  · exact h.execEscapeCreditTimeout
  · exact h.execDetourWaitTimeout
  · exact h.execPacketHoldTimeout
  · exact h.execOrderSkip
  · exact h.execOrderRetry
  · exact h.execOrderRetryResend
  · exact h.execAdopt
  · exact h.execOrphanTimeout
  · exact h.execAdoptRetry
  · exact h.execTreeRootChange
  · exact h.execTreeOldLaneTimeout
  · exact h.execWrMc
  · exact h.execRd
  · exact h.execWr
  · exact h.execAtom
  · exact h.execRed
  · exact h.execSig
  · exact h.execRdData
  · exact h.execAck
  · exact h.execErr
  · exact h.execRequestSlotTimeout
  · exact h.execGets
  · exact h.execGetm
  · exact h.execUpg
  · exact h.execPutm
  · exact h.execPute
  · exact h.execSnpShare
  · exact h.execSnpInv
  · exact h.execInv
  · exact h.execDataS
  · exact h.execDataE
  · exact h.execDataM
  · exact h.execGrant
  · exact h.execSnpData
  · exact h.execInvAck
  · exact h.execDataInFlight
  · exact h.execWbAck
  · exact h.execRetry
  · exact h.execRetryResend
  · exact h.execHomeWaitTimeout
  · exact h.execColl
  · exact h.execCollData
  · exact h.execCollChunkSum
  · exact h.execCollComplete
  · exact h.execArrive
  · exact h.execMirror
  · exact h.execHoardData
  · exact h.execSealed
  · exact h.execReady
  · exact h.execCommit
  · exact h.execCommitAck
  · exact h.execKeepWriteDone
  · exact h.execFault
  · exact h.execSuspect
  · exact h.execProbe
  · exact h.execProbeAck
  · exact h.execProbeTick
  · exact h.execRollback
  · exact h.execRestoreDone
  · exact h.execRestored
  · exact h.execRestart
  · exact h.execRestartTime
  · exact h.execSwapCopyDone
  · exact h.execNoSpare
  · exact h.execStop
  · exact h.execStopReq
  · exact h.execSyncTick
  · exact h.execSync
  · exact h.execFollow
  · exact h.execDelayReq
  · exact h.execDelayResp
  · exact h.execAnnounce
  · exact h.execAnnounceTick
  · exact h.execMasterTake
  · exact h.execBackupTakeoverTimer
  · exact h.execTimeExchangeTimeout
  · exact h.execAcquireFreerunTimeout
  · exact h.execHoldoverLimit
  · exact h.execSecondBoundary
  · exact h.execPpsInEdge
  · exact h.execTimeRefLost
  · exact h.execTimeOffsetHigh
  · exact h.execControlInterval
  · exact h.execAvsResponse
  · exact h.execAvsReadbackTimeout
  · exact h.execAvsRetryDelay
  · exact h.execRailFaultClear
  · exact h.execPowerMeasure
  · exact h.execDroop
  · exact h.execVcoreUndervolt
  · exact h.execWatch
  · exact h.execWatchRound
  · exact h.execWatchWake
  · exact h.execDomainPowerOff
  · exact h.execDomainPowerOn
  · exact h.execDomainOffComplete
  · exact h.execDomainOnComplete
  · exact h.execPwrOkFall
  · exact h.execThermalRound
  · exact h.execGraceExpire
  · exact h.execThermTrip
  · exact h.execColdStart
  · exact h.execWarmRstN
  · exact h.execBootStepComplete
  · exact h.execHbmStoredBad
  · exact h.execFabricTrained
  · exact h.execUcieRetrain
  · exact h.execHubLinkSpare
  · exact h.execCalWritten
  · exact h.execPosStrapChanged
  · exact h.execTapInstruction
  · exact h.execReset
  · exact h.execPlanStart
  · exact h.execPlanStop
  · exact h.execPlanStopAtBoundary
  · exact h.execPlanUnload
  · exact h.execPlanSuspend
  · exact h.execSuspendRequest
  · exact h.execSuspendAnswerTimeout
  · exact h.execPlanResume
  · exact h.execPlanStatus
  · exact h.execHoardLeaseGrant
  · exact h.execHoardLeaseRevoke
  · exact h.execLicenceInstall
  · exact h.execPatchInstall
  · exact h.execPatchClear
  · exact h.execTallyNotifyArm
  · exact h.execTallyNotifyDisarm
  · exact h.execSqTail
  · exact h.execCqHead
  · exact h.execQueueEnable
  · exact h.execQueueDisable
  · exact h.execLogAck
  · exact h.execHostlinkDown
  · exact h.execHostlinkUp
  · exact h.execPldmGetSensor
  · exact h.execMgmtDomainDisable
  · exact h.execMgmtPortDisable
  · exact h.execMgmtWarmReset
  · exact h.execMgmtWake
  · exact h.execMgmtDisagree
  · exact h.execLaserPowerLow
  · exact h.execRefClkLost
  · exact h.execSaveAreaWritten
  · exact h.execHostCompletionTimeout
  · exact h.execWarmResetDelay
  · exact h.execCalWriteStart
  · exact h.execConfigurationRequest

end

end Sys2Proof.Machine

/-! PROOFS. The queue and the canonical form (log entries 1 and 2): every command keeps both, and so does a tick of hall time. -/

namespace Sys2Proof.Machine

open Sys2Proof

/-- Settles O5: every command keeps. -/
theorem everyCommandLeavesTheQueue : Obligations.EveryCommandLeavesTheQueue := by
  intro c s t completes
  have kept : OutKeeps s (exec c s) := (Keeps.refl s).exec
  rw [completes] at kept
  exact kept.1

/-- Settles O4: a step is a command, which keeps, or a tick of hall time. -/
theorem everyStepKeepsCanonical : Obligations.EveryStepKeepsCanonical := by
  intro s t canonical stepped
  unfold step at stepped
  split at stepped
  case h_1 =>
    cases stepped
    exact (Keeps.refl s).tick.2 canonical
  case h_2 c rest _ =>
    have kept : OutKeeps { s with pending := rest } (exec c { s with pending := rest }) := (Keeps.refl _).exec
    rw [stepped] at kept
    exact kept.2 canonical

end Sys2Proof.Machine

/-! PROOFS. The step of the machine (O1 to O3): the front command, the tick of an empty queue, and the state after reset. -/

namespace Sys2Proof.Machine

open Sys2Proof

/-- Settles O1, by the definition of a step. -/
theorem stepRunsFrontCommand : Obligations.StepRunsFrontCommand := by
  intro c rest s front
  simp only [step, front]

theorem fine_ofFine (n : Nat) : fine (ofFine n) = n := by
  simp only [fine, ofFine, hallNs]
  omega

/-- Settles O2: the fifths of a unit carry over, so that five units of the timebase and the fifths together lose nothing. -/
theorem emptyQueueTicksHallTime : Obligations.EmptyQueueTicksHallTime := by
  intro s idle _
  refine ⟨tick s, by simp only [step, idle], ?_, rfl, rfl⟩
  have slewed : -20 ≤ slewStep s.time.slew ∧ slewStep s.time.slew ≤ 20 := by
    simp only [slewStep]
    omega
  have moved : fine (tick s).time.hall
      = ((fine s.time.hall : Int) + (((2097152 + s.time.fifths) / 5 : Nat) - slewStep s.time.slew)).toNat := fine_ofFine _
  have fifths : (tick s).time.fifths = (2097152 + s.time.fifths) % 5 := rfl
  rw [moved, fifths]
  omega

/-- Settles O3, by evaluating the reset state. -/
theorem resetState : Obligations.ResetState := by
  refine ⟨rfl, rfl, rfl, by decide, fun q => ⟨rfl, rfl, rfl, rfl⟩, fun i => ⟨rfl, rfl, rfl⟩, fun e => ⟨rfl, rfl, fun r => rfl⟩, ?_,
    rfl, rfl, rfl, rfl, rfl, rfl, rfl, rfl, rfl, rfl, rfl, rfl⟩
  intro st a
  cases st <;> rfl

end Sys2Proof.Machine

/-! PROOFS. Stores and the event log (O6, O7). -/

namespace Sys2Proof.Machine

open Sys2Proof

theorem Memory.bytes_writeBytes (m : Memory) (a : Nat) (d : List Byte) (wf : m.wf = true) :
    (m.writeBytes a d).bytes a d.length = d := by
  induction d generalizing m a with
  | nil => rfl
  | cons b d ih =>
    have first : ((m.write a b).writeBytes (a + 1) d).read a = b := by
      rw [Memory.read_writeBytes_outside _ _ _ _ (.inl a.lt_succ_self), Memory.read_write _ _ _ wf]
    change _ :: _ = _
    rw [show m.writeBytes a (b :: d) = (m.write a b).writeBytes (a + 1) d from rfl, first, ih _ _ (Memory.wf_write _ _ _ wf)]

theorem mem_insertNat {n x : Nat} {l : List Nat} : x ∈ insertNat n l ↔ x = n ∨ x ∈ l := by
  induction l with
  | nil => simp [insertNat]
  | cons m l ih =>
    unfold insertNat
    split
    · simp
    · split
      case _ same => simp [same]
      · simp only [List.mem_cons, ih]
        tauto

theorem mem_foldl_insertNat {x : Nat} {ls acc : List Nat} : x ∈ ls.foldl (fun acc l => insertNat l acc) acc ↔ x ∈ ls ∨ x ∈ acc := by
  induction ls generalizing acc with
  | nil => simp
  | cons l ls ih =>
    simp only [List.foldl_cons, ih, mem_insertNat, List.mem_cons]
    tauto

theorem mem_linesOf_of_whole {a n l : Nat} (below : a ≤ 64 * l) (above : 64 * l + 64 ≤ a + n) : l ∈ linesOf a n := by
  unfold linesOf
  rw [if_neg (by omega)]
  simp only [List.mem_map, List.mem_range]
  exact ⟨l - a / 64, by omega, by omega⟩

theorem mem_wholeLines {a n l : Nat} : l ∈ wholeLines a n ↔ l ∈ linesOf a n ∧ a ≤ l * 64 ∧ l * 64 + 64 ≤ a + n := by
  simp [wholeLines]

section

variable (st st' : Store) (l : List Nat) (m : Memory) (s : State)

theorem storeOf_setPoison : storeOf (setPoison st l s) st' = storeOf s st' := by
  cases st <;> cases st' <;> rfl

theorem poisonOf_setStore : poisonOf (setStore st m s) st' = poisonOf s st' := by
  cases st <;> cases st' <;> rfl

theorem poisonOf_setPoison_self : poisonOf (setPoison st l s) st = l := by
  cases st <;> rfl

theorem host_setStore : (setStore st m s).mem.host = s.mem.host := by
  cases st <;> rfl

theorem host_setPoison : (setPoison st l s).mem.host = s.mem.host := by
  cases st <;> rfl

end

theorem poisonOf_setPoison_ne {st st' : Store} (l : List Nat) (s : State) (ne : st' ≠ st) :
    poisonOf (setPoison st l s) st' = poisonOf s st' := by
  cases st <;> cases st' <;> first | rfl | exact absurd rfl ne

section

variable (st st' : Store) (a : Nat) (d : List Byte) (bad : Bool) (s : State)

theorem storeOf_storeWrite_self : storeOf (storeWrite st a d bad s) st = (storeOf s st).writeBytes a d := by
  cases bad <;> exact (storeOf_setPoison ..).trans (storeOf_setStore_self ..)

theorem poisonOf_storeWrite_poisoned :
    poisonOf (storeWrite st a d true s) st = (linesOf a d.length).foldl (fun acc l => insertNat l acc) (poisonOf s st) :=
  (poisonOf_setPoison_self ..).trans (by rw [poisonOf_setStore])

theorem poisonOf_storeWrite_clean :
    poisonOf (storeWrite st a d false s) st = (poisonOf s st).filter (fun l => !(wholeLines a d.length).contains l) :=
  poisonOf_setPoison_self ..

theorem host_storeWrite : (storeWrite st a d bad s).mem.host = s.mem.host := by
  cases bad <;> exact (host_setPoison ..).trans (host_setStore ..)

theorem tallies_storeWrite : (storeWrite st a d bad s).tallies = s.tallies := by
  cases bad <;> exact (setPoison_tallies ..).trans (setStore_tallies ..)

end

theorem storeOf_storeWrite_ne {st st' : Store} (a : Nat) (d : List Byte) (bad : Bool) (s : State) (ne : st' ≠ st) :
    storeOf (storeWrite st a d bad s) st' = storeOf s st' := by
  cases bad <;> exact (storeOf_setPoison ..).trans (storeOf_setStore_ne _ _ _ _ ne)

theorem poisonOf_storeWrite_ne {st st' : Store} (a : Nat) (d : List Byte) (bad : Bool) (s : State) (ne : st' ≠ st) :
    poisonOf (storeWrite st a d bad s) st' = poisonOf s st' := by
  cases bad <;> exact (poisonOf_setPoison_ne _ _ ne).trans (poisonOf_setStore ..)

theorem mem_poisonOf_storeWrite_outside {st : Store} {a l : Nat} {d : List Byte} {bad : Bool} {s : State}
    (outside : l ∉ linesOf a d.length) : l ∈ poisonOf (storeWrite st a d bad s) st ↔ l ∈ poisonOf s st := by
  cases bad
  · simp [poisonOf_storeWrite_clean, mem_wholeLines, outside]
  · simp [poisonOf_storeWrite_poisoned, mem_foldl_insertNat, outside]

/-- Settles O6, from the rules of a write: its bytes go to the one memory, its lines to that memory's poison. -/
theorem storesReadBack : Obligations.StoresReadBack := by
  intro s st a d bad wf
  have written := storeOf_storeWrite_self st a d bad s
  refine ⟨?_, ?_, ?_, ?_, host_storeWrite .., tallies_storeWrite .., ?_, ?_, ?_⟩
  · rw [readStore, written]
    exact Memory.bytes_writeBytes _ _ _ wf
  · intro x outside
    rw [written]
    exact Memory.read_writeBytes_outside _ _ _ _ outside
  · exact fun st' ne => ⟨storeOf_storeWrite_ne a d bad s ne, poisonOf_storeWrite_ne a d bad s ne⟩
  · rw [written]
    exact Memory.wf_writeBytes _ _ _ wf
  · rintro rfl l touched
    rw [poisonOf_storeWrite_poisoned]
    exact mem_foldl_insertNat.2 (.inl touched)
  · rintro rfl l below above
    have whole : l ∈ wholeLines a d.length := mem_wholeLines.2 ⟨mem_linesOf_of_whole below above, by omega, by omega⟩
    simp [poisonOf_storeWrite_clean, whole]
  · exact fun l outside => mem_poisonOf_storeWrite_outside outside

section

variable {s : State} {code src : Nat} {fs : List (Nat × Nat)}

theorem logRest_nil (n : Nat) : logRest code src n [] s = s := by
  cases n <;> rfl

/-- An event of at most 16 bytes of data is one entry of the log. -/
theorem logEvent_of_short (short : (packFields fs).length ≤ 16) :
    logEvent code src fs s = logVector (logEntry code src false ((packFields fs).take 16) s) := by
  have single : decide (16 < (packFields fs).length) = false := decide_eq_false (by omega)
  rw [logEvent, single, List.drop_eq_nil_of_le short, logRest_nil]

theorem logVector_log : (logVector s).log.next = s.log.next ∧ (logVector s).log.entries = s.log.entries := by
  have sent : ∀ v t, (msixSend v t).log = t.log := by
    intro v t
    unfold msixSend msixNow
    dsimp only
    split_ifs <;> rfl
  unfold logVector
  dsimp only
  split
  · simp only [sent, and_self]
  · exact ⟨rfl, rfl⟩

theorem logVector_of_disarmed (disarmed : s.log.armed = false) : logVector s = s := by
  simp [logVector, disarmed]

end

/-- The newest entry reads back as it was written: its code is not zero, so it is not the entry of an empty log. -/
theorem entries_logEntry_newest {s : State} {code src : Nat} {cont : Bool} {d : List Byte} (nonzero : code ≠ 0) :
    let e := SMap.get {} (logEntry code src cont d s).log.entries (s.log.next % 8192)
    e.sequence = s.log.next ∧ e.code = code ∧ e.source = src ∧ e.seconds = s.time.hall.sec % 2 ^ 32 := by
  unfold logEntry
  extract_lets log i old lost entry e
  have newest : e = entry := SMap.get_set_self _ _ _ _ fun reset => nonzero (congrArg LogEntry.code reset)
  rw [newest]
  exact ⟨rfl, rfl, rfl, rfl⟩

/-- Settles O7: one entry, then the vector's test, which no longer touches the entries. -/
theorem eventLogEntries : Obligations.EventLogEntries := by
  intro s code src fs short nonzero t e
  have same : SameButLog s t := logEvent_same ..
  have single : t = logVector (logEntry code src false ((packFields fs).take 16) s) := logEvent_of_short short
  obtain ⟨next, entries⟩ := logVector_log (s := logEntry code src false ((packFields fs).take 16) s)
  rw [← single] at next entries
  have newest : e = SMap.get {} (logEntry code src false ((packFields fs).take 16) s).log.entries (s.log.next % 8192) := by
    rw [← entries]
  obtain ⟨sequence, code, source, seconds⟩ := entries_logEntry_newest (src := src) (cont := false) (d := (packFields fs).take 16) nonzero
  rw [newest]
  refine ⟨next, sequence, code, source, seconds, ?_, ?_, ?_⟩
  · intro i ne
    rw [entries]
    exact SMap.get_set_ne _ _ _ _ _ ne
  · obtain ⟨l, m, out, answer⟩ := same
    rw [answer]
  · intro disarmed
    rw [single, logVector_of_disarmed (s := logEntry ..) disarmed]
    rfl

end Sys2Proof.Machine

/-! PROOFS. What the host's accesses and the engines' control instructions write (O10, O19, O21, O24, O55). -/

namespace Sys2Proof.Machine

open Sys2Proof

theorem onHost_of_served {s : State} {f : State → State} (served : HostServed s) : onHost s f = .next (f s) := by
  obtain ⟨l0, ready⟩ := served
  simp [onHost, l0, ready]

/-! ### Tallies -/

theorem leVal_leBytes (n v : Nat) : leVal (leBytes n v) = v % 256 ^ n := by
  induction n generalizing v with
  | zero => simp [leBytes, leVal, Nat.mod_one]
  | succ n ih =>
    rw [leBytes, leVal, ih, BitVec.toNat_ofNat, show 2 ^ 8 = 256 from rfl, pow_succ', Nat.mod_mul (a := 256)]

/-- An 8-byte store to a field of a tally below the window's end reaches the tally's store. -/
theorem tallyWindow_of_whole {s : State} {i o v : Nat} (inside : i < 65536) (field : o = 0 ∨ o = 8 ∨ o = 16) (fits : v < 2 ^ 64) :
    tallyWindow i o v 8 s =
      (tallyStore srcHost (32 * i + o) 8 v (hostPosted s)).getD (hostRefuse 0x9003 3 (32 * i + o) (hostPosted s)) := by
  have whole : bar0Ok (0x02800000 + 32 * i + o) 8 = true := by
    rcases field with rfl | rfl | rfl <;> simp [bar0Ok] <;> omega
  have placed : 0x02800000 + 32 * i + o < 0x02A00000 := by omega
  have offset : 0x02800000 + 32 * i + o - 0x02800000 = 32 * i + o := by omega
  have value : leVal (leBytes 8 v) = v := by
    rw [leVal_leBytes]
    exact Nat.mod_eq_of_lt fits
  simp only [tallyWindow, whole, inside.not_ge, writeWindow, dcsStore, placed, offset, leBytes_length, value, if_true, decide_false,
    Bool.not_true, Bool.or_false, Bool.false_and, Bool.false_eq_true, if_false, decide_eq_false (show ¬(8 = 4) by decide)]
  cases tallyStore srcHost (32 * i + o) 8 v (hostPosted s) <;> rfl

section

variable {s : State} {i v : Nat}

theorem tallyOpen_hostPosted (s : State) (i : Nat) : tallyOpen (hostPosted s) i = tallyOpen s i := rfl

/-- The three fields of an open tally take the three changes of R403. -/
theorem tallyStore_of_open (opened : tallyOpen s i = true) :
    tallyStore srcHost (32 * i + 0) 8 v s = some (tallyAdd i v srcHost s) ∧
    tallyStore srcHost (32 * i + 16) 8 v s = some (tallySet i v s) ∧
    tallyStore srcHost (32 * i + 8) 8 1 s = some (tallyError i 0x9051 srcHost s) := by
  have whole : ∀ o, o < 32 → (32 * i + o) / 32 = i ∧ (32 * i + o) % 32 = o := fun o small => by omega
  obtain ⟨tally₀, field₀⟩ := whole 0 (by decide)
  obtain ⟨tally₁, field₁⟩ := whole 16 (by decide)
  obtain ⟨tally₂, field₂⟩ := whole 8 (by decide)
  refine ⟨?_, ?_, ?_⟩
  · rw [tallyStore, tally₀, field₀, if_neg (by simp [opened]; omega), if_pos rfl]
  · rw [tallyStore, tally₁, field₁, if_neg (by simp [opened]; omega), if_neg (by decide), if_pos rfl]
  · rw [tallyStore, tally₂, field₂, if_neg (by simp [opened]; omega), if_neg (by decide), if_neg (by decide), if_pos ⟨rfl, rfl⟩]

theorem tallyStore_of_closed {o : Nat} (small : o < 32) (closed : tallyOpen s i = false) : tallyStore srcHost (32 * i + o) 8 v s = none := by
  have tally : (32 * i + o) / 32 = i := by omega
  rw [tallyStore, tally, if_pos (.inr (.inr closed))]

/-- A set field takes whole stores only (R518). -/
theorem tallyWindow_set_of_half : tallyWindow i 16 v 4 s = replyHost .ur s := by
  have field : (0x02800000 + 32 * i + 16) / 8 * 8 = 0x02800000 + 32 * i + 16 := by omega
  unfold tallyWindow
  by_cases inside : i < 65536
  · have whole : wholeOnly (0x02800000 + 32 * i + 16) = true := by
      simp [wholeOnly]
      omega
    simp [field, whole]
  · simp [not_lt.1 inside]

end

theorem tallyOf_tallyChanged (i j : Nat) (s : State) : tallyOf (tallyChanged i s) j = tallyOf s j := by
  simp only [tallyOf, tallyChanged_tallies]

theorem tallyOf_tallyError_ne {i j code e : Nat} (s : State) (ne : j ≠ i) : tallyOf (tallyError i code e s) j = tallyOf s j := by
  rw [tallyError, tallyOf_tallyChanged, tallyOf_setTally_ne _ _ _ _ ne]

/-- Marking a tally's error keeps its count. -/
theorem tallyOf_tallyError_self (i code e : Nat) (s : State) :
    (tallyOf (tallyError i code e s) i).error = true ∧ (tallyOf (tallyError i code e s) i).count = (tallyOf s i).count := by
  have marked : ∀ t : Tally, t.error = true → tallyOf (setTally i t s) i = t :=
    fun t error => tallyOf_setTally_self _ _ _ fun reset => by simp [reset] at error
  rw [tallyError, tallyOf_tallyChanged]
  split
  case isTrue error =>
    rw [marked _ error]
    exact ⟨error, rfl⟩
  case isFalse =>
    rw [marked _ rfl]
    exact ⟨rfl, rfl⟩

theorem tallyAdd_of_fits {s : State} {i n e : Nat} (fits : (tallyOf s i).count + n < 2 ^ 64) (allocated : (tallyOf s i).allocated = true) :
    (tallyOf (tallyAdd i n e s) i).count = (tallyOf s i).count + n ∧ (tallyOf (tallyAdd i n e s) i).error = (tallyOf s i).error := by
  rw [tallyAdd, if_pos fits, tallyOf_tallyChanged, tallyOf_setTally_self]
  · exact ⟨rfl, rfl⟩
  · intro reset
    have : (tallyOf s i).allocated = false := congrArg Tally.allocated reset
    simp [this] at allocated

theorem tallyAdd_of_overflow {s : State} {i n e : Nat} (past : 2 ^ 64 ≤ (tallyOf s i).count + n) :
    (tallyOf (tallyAdd i n e s) i).count = 2 ^ 64 - 1 ∧ (tallyOf (tallyAdd i n e s) i).error = true := by
  rw [tallyAdd, if_neg past.not_gt]
  extract_lets stopped logged
  have saturated : (tallyOf logged i).count = 2 ^ 64 - 1 := by
    have kept : tallyOf logged i = tallyOf stopped i := by simp only [tallyOf, logged, logOncePhase_tallies]
    rw [kept, tallyOf_setTally_self]
    intro reset
    have full : 2 ^ 64 - 1 = 0 := congrArg Tally.count reset
    omega
  obtain ⟨error, count⟩ := tallyOf_tallyError_self i 0x9050 e logged
  exact ⟨count.trans saturated, error⟩

theorem tallyOf_tallyAdd_ne {i j n e : Nat} (s : State) (ne : j ≠ i) : tallyOf (tallyAdd i n e s) j = tallyOf s j := by
  have unset : ∀ t, tallyOf (setTally i t s) j = tallyOf s j := fun t => tallyOf_setTally_ne _ _ _ _ ne
  unfold tallyAdd
  dsimp only
  split
  · rw [tallyOf_tallyChanged, unset]
  · rw [tallyOf_tallyError_ne _ ne, tallyOf, logOncePhase_tallies]
    exact unset _

/-- Settles O10: the window's fields reach the tally's store, and a change of a tally writes that tally alone. -/
theorem tallyStoresAndAdds : Obligations.TallyStoresAndAdds := by
  refine ⟨fun s i v served inside fits => ⟨fun opened => ?_, fun closed => ?_, ?_⟩, fun s i n e => ⟨?_, ?_, ?_, ?_, ?_⟩⟩
  · obtain ⟨signal, set, mark⟩ := tallyStore_of_open (v := v) ((tallyOpen_hostPosted s i).trans opened)
    refine ⟨(onHost_of_served served).trans (congrArg _ ?_), (onHost_of_served served).trans (congrArg _ ?_),
      (onHost_of_served served).trans (congrArg _ ?_)⟩
    · rw [tallyWindow_of_whole inside (.inl rfl) fits, signal, Option.getD_some]
    · rw [tallyWindow_of_whole inside (.inr (.inr rfl)) fits, set, Option.getD_some]
    · rw [tallyWindow_of_whole inside (.inr (.inl rfl)) (by decide), mark, Option.getD_some]
  · have refused : ∀ o < 32, tallyStore srcHost (32 * i + o) 8 v (hostPosted s) = none :=
      fun o small => tallyStore_of_closed small ((tallyOpen_hostPosted s i).trans closed)
    refine ⟨(onHost_of_served served).trans (congrArg _ ?_), (onHost_of_served served).trans (congrArg _ ?_)⟩
    · rw [tallyWindow_of_whole inside (.inl rfl) fits, refused 0 (by decide), Option.getD_none, Nat.add_zero]
    · rw [tallyWindow_of_whole inside (.inr (.inr rfl)) fits, refused 16 (by decide), Option.getD_none]
  · exact (onHost_of_served served).trans (congrArg _ tallyWindow_set_of_half)
  · exact tallyAdd_of_fits
  · exact tallyAdd_of_overflow
  · exact fun j ne => tallyOf_tallyAdd_ne s ne
  · exact tallyAdd_mem ..
  · exact tallyAdd_pending ..

end Sys2Proof.Machine

/-! PROOFS. What the control instructions of an engine and DZERO leave unchanged (O19, O21, O24), and what a die loses with its power (O55). -/

namespace Sys2Proof.Machine

open Sys2Proof

/-- Keeping some of the keys of a map leaves what they read, and every other key reads nothing. -/
theorem SMap.get_filter_key {α : Type} (d : α) (keep : Nat → Bool) (m : SMap α) (i : Nat) :
    SMap.get d (m.filter fun e => keep e.1) i = if keep i then SMap.get d m i else d := by
  induction m with
  | nil => simp [SMap.get]
  | cons e m ih =>
    rw [List.filter_cons]
    by_cases here : i = e.1
    · subst here
      split <;> simp_all [SMap.get]
    · split <;> simp [SMap.get, here, ih]

/-- Settles O55: a die's bytes leave the two memories, and nothing else of them. -/
theorem powerOffForgetsTheDie : Obligations.PowerOffForgetsTheDie := by
  intro s k a _ _
  have dropped : ∀ (m : Memory) (base size : Nat), (base ≤ a → a < base + size → Memory.read (dropRange m base size) a = 0) ∧
      (a < base ∨ base + size ≤ a → Memory.read (dropRange m base size) a = m.read a) := by
    intro m base size
    have read := SMap.get_filter_key 0 (fun x => decide (x < base) || decide (base + size ≤ x)) m a
    refine ⟨fun above below => read.trans (if_neg ?_), fun outside => read.trans (if_pos ?_)⟩
    · simp [above, below]
    · simpa using outside
  obtain ⟨goneSp, keptSp⟩ := dropped s.mem.sp (2 ^ 32 * k) (2 ^ 32)
  obtain ⟨goneCs, keptCs⟩ := dropped s.mem.cs (2 ^ 26 * k) (2 ^ 26)
  exact ⟨goneSp, keptSp, goneCs, keptCs, rfl, rfl, rfl⟩

/-! ### The index registers -/

section

variable {s : State} {e r v : Nat}

/-- The sequencer of a running engine after a write of an index register is the one written. -/
theorem seqOf_setXreg_self (running : (seqOf s e).st = .running) :
    seqOf (setXreg e r v s) e = { seqOf s e with xs := SMap.set 0 (seqOf s e).xs (r % 16) (BitVec.ofNat 32 v) } :=
  seqOf_modSeq_self _ _ _ (seq_running_ne running)

theorem xreg_setXreg_self (running : (seqOf s e).st = .running) (wf : SMap.wf 0 (seqOf s e).xs = true) :
    xreg (setXreg e r v s) e r = v % 2 ^ 32 := by
  rw [xreg, seqOf_setXreg_self running, SMap.get_set _ _ _ _ wf, BitVec.toNat_ofNat]

theorem xreg_setXreg_ne {r' : Nat} (running : (seqOf s e).st = .running) (ne : r' % 16 ≠ r % 16) :
    xreg (setXreg e r v s) e r' = xreg s e r' := by
  rw [xreg, seqOf_setXreg_self running, SMap.get_set_ne _ _ _ _ _ ne, xreg]

end

/-- Settles O19, from the rules of an index register. -/
theorem indexRegisterHoldsWhatWasWritten : Obligations.IndexRegisterHoldsWhatWasWritten := by
  intro s e r v small running wf
  refine ⟨xreg_setXreg_self running wf, fun r' small' ne => xreg_setXreg_ne running ?_, ?_, fun e' ne => seqOf_modSeq_ne _ _ _ _ ne⟩
  · omega
  · rw [seqOf_setXreg_self running]

/-! ### What an engine's instructions leave alone -/

/-- At most the sequencer of one engine, the units and the free words drawn differ. -/
def SameButEngine (e : Nat) (s t : State) : Prop :=
  t = { s with eng := t.eng, units := t.units, free := t.free } ∧ ∀ e', e' ≠ e → seqOf t e' = seqOf s e'

/-- At most the sequencer of one engine differs. -/
def SameButSeq (e : Nat) (s t : State) : Prop := t = { s with eng := t.eng } ∧ ∀ e', e' ≠ e → seqOf t e' = seqOf s e'

section

variable {e : Nat} {s t u : State}

theorem SameButSeq.trans (h : SameButSeq e s t) (k : SameButSeq e t u) : SameButSeq e s u := by
  obtain ⟨same, seqs⟩ := h
  obtain ⟨same', seqs'⟩ := k
  refine ⟨?_, fun e' ne => (seqs' e' ne).trans (seqs e' ne)⟩
  rw [same', same]

theorem SameButEngine.trans (h : SameButEngine e s t) (k : SameButEngine e t u) : SameButEngine e s u := by
  obtain ⟨same, seqs⟩ := h
  obtain ⟨same', seqs'⟩ := k
  refine ⟨?_, fun e' ne => (seqs' e' ne).trans (seqs e' ne)⟩
  rw [same', same]

theorem SameButSeq.engine (h : SameButSeq e s t) : SameButEngine e s t := by
  obtain ⟨same, seqs⟩ := h
  refine ⟨?_, seqs⟩
  rw [same]

/-- Where the sequencers are as they were, a change of the units is one the engine's own instruction may make. -/
theorem SameButEngine.of_units (units : Units) (free : Nat) : SameButEngine e s { s with units := units, free := free } :=
  ⟨rfl, fun _ _ => rfl⟩

theorem sameButSeq_refl : SameButSeq e s s := ⟨rfl, fun _ _ => rfl⟩

theorem sameButSeq_modSeq (f : Seq → Seq) : SameButSeq e s (modSeq e f s) :=
  ⟨rfl, fun _ ne => seqOf_modSeq_ne _ _ _ _ ne⟩

theorem sameButEngine_dropSlots : SameButEngine e s (dropSlots e s) := .of_units ..

theorem sameButEngine_settle : SameButEngine e s (settle e s) := by
  have ended : SameButEngine e s (setSeq e { seqOf s e with st := .ended, ending := false } s) :=
    (sameButSeq_modSeq fun q => { q with st := .ended, ending := false }).engine
  unfold settle
  dsimp only
  split
  · split
    · exact ended.trans sameButEngine_dropSlots
    · exact ended
  · exact sameButSeq_refl.engine

theorem sameButEngine_modKeep (f : KeepSt → KeepSt) : SameButEngine e s (modKeep e f s) := by
  unfold modKeep
  split <;> exact .of_units ..

theorem sameButEngine_countGap : SameButEngine e s (countGap e s) := by
  unfold countGap countDummies
  split
  · split <;> exact .of_units ..
  · exact sameButSeq_refl.engine

theorem sameButEngine_rowEnters : SameButEngine e s (rowEnters e s) := by
  have drawn : SameButEngine e s (useFree s) := .of_units ..
  unfold rowEnters
  dsimp only
  split
  · split
    · exact drawn.trans (sameButEngine_modKeep _)
    · exact drawn
  · exact sameButSeq_refl.engine

/-- What an instruction at issue does to its own engine's state, and a command without one does nothing. -/
theorem of_onIssue {P : State → Prop} {ops : List Nat} {f : Word64 → State → State} (next : onIssue e ops s f = .next t) (same : P s)
    (changed : ∀ w, P (f w s)) : P t := by
  cases issued : issueOf s e ops with
  | none =>
    rw [onIssue_none f issued] at next
    cases next
    exact same
  | some w =>
    rw [onIssue_some f issued] at next
    cases next
    exact changed w

end

section

variable {e : Nat} {s t : State}

theorem sameButSeq_execNop (next : execNop e s = .next t) : SameButSeq e s t :=
  of_onIssue next sameButSeq_refl fun _ => sameButSeq_modSeq _

theorem sameButSeq_execErrt (next : execErrt e s = .next t) : SameButSeq e s t :=
  of_onIssue next sameButSeq_refl fun _ => sameButSeq_modSeq _

theorem sameButSeq_execSetx (next : execSetx e s = .next t) : SameButSeq e s t :=
  of_onIssue next sameButSeq_refl fun _ => .trans (sameButSeq_modSeq _) (sameButSeq_modSeq _)

theorem sameButSeq_execAddx (next : execAddx e s = .next t) : SameButSeq e s t :=
  of_onIssue next sameButSeq_refl fun _ => .trans (sameButSeq_modSeq _) (sameButSeq_modSeq _)

theorem sameButSeq_execSignal (next : execSignal e s = .next t) : SameButSeq e s t :=
  of_onIssue next sameButSeq_refl fun _ => sameButSeq_modSeq _

theorem sameButSeq_execLoopX (next : execLoopX e s = .next t) : SameButSeq e s t := by
  refine of_onIssue next sameButSeq_refl fun w => ?_
  dsimp only
  split
  · exact sameButSeq_modSeq _
  · exact .trans (sameButSeq_modSeq _) (sameButSeq_modSeq _)

theorem sameButEngine_execEndProg (next : execEndProg e s = .next t) : SameButEngine e s t :=
  of_onIssue next sameButSeq_refl.engine fun _ => .trans (sameButSeq_modSeq _).engine sameButEngine_settle

theorem sameButEngine_execWaitT (next : execWaitT e s = .next t) : SameButEngine e s t := by
  refine of_onIssue next sameButSeq_refl.engine fun w => ?_
  dsimp only
  split
  · exact .trans (sameButSeq_modSeq _).engine sameButEngine_settle
  · exact (sameButSeq_modSeq _).engine

theorem sameButEngine_execKeep (next : execKeep e s = .next t) : SameButEngine e s t := by
  refine of_onIssue next sameButSeq_refl.engine fun w => .trans ?_ (sameButSeq_modSeq _).engine
  split
  · exact (sameButEngine_countGap.trans (sameButEngine_modKeep _)).trans sameButEngine_rowEnters
  · exact sameButSeq_refl.engine

end

/-- Settles O21: six of the instructions change their engine's sequencer, the other three the units of their engine besides. -/
theorem controlInstructionsFrame : Obligations.ControlInstructionsFrame := by
  intro s t e c
  refine ⟨fun listed next => ?_, fun listed next => ?_⟩
  · simp only [List.mem_cons, List.not_mem_nil, or_false] at listed
    rcases listed with rfl | rfl | rfl | rfl | rfl | rfl
    · exact sameButSeq_execNop next
    · exact sameButSeq_execErrt next
    · exact sameButSeq_execSetx next
    · exact sameButSeq_execAddx next
    · exact sameButSeq_execLoopX next
    · exact sameButSeq_execSignal next
  · simp only [List.mem_cons, List.not_mem_nil, or_false] at listed
    rcases listed with rfl | rfl | rfl
    · exact sameButEngine_execEndProg next
    · exact sameButEngine_execWaitT next
    · exact sameButEngine_execKeep next

/-! ### DZERO -/

theorem bearOf_modBear_ne {e e' : Nat} (f : Bear → Bear) (s : State) (ne : e' ≠ e) : bearOf (modBear e f s) e' = bearOf s e' :=
  SMap.get_set_ne _ _ _ _ _ ne

/-- A bear reads what was written to it, in a canonical map of the bears. -/
theorem bearOf_modBear_self {e : Nat} (f : Bear → Bear) {s : State} (wf : SMap.wf ({} : Bear) s.units.bear = true) :
    bearOf (modBear e f s) e = f (bearOf s e) :=
  SMap.get_set _ _ _ _ wf

theorem fld_lt (w : Word64) (lo n : Nat) : fld w lo n < 2 ^ n := by
  unfold fld bits
  exact Nat.mod_lt _ (by positivity)

/-- The keys of accumulators outside the rows of a DZERO. -/
def outsideRows (bank first count k : Nat) : Bool := !(decide (accKey bank first 0 ≤ k) && decide (k < accKey bank (first + count) 0))

/-- The accumulators a DZERO leaves. -/
def zeroRows (bank first count : Nat) (b : Bear) : Bear := { b with acc := b.acc.filter fun x => outsideRows bank first count x.1 }

theorem accAt_zeroRows (bank bank' first count row j : Nat) (b : Bear) : accAt (zeroRows bank first count b) bank' row j =
    if outsideRows bank first count (accKey bank' row j) then accAt b bank' row j else 0 :=
  SMap.get_filter_key 0 (outsideRows bank first count) b.acc (accKey bank' row j)

theorem accAt_zeroRows_of_mem {b : Bear} {bank first count row j : Nat} (inside : first ≤ row ∧ row < first + count) (col : j < 128) :
    accAt (zeroRows bank first count b) bank row j = 0 := by
  rw [accAt_zeroRows, if_neg]
  simp [outsideRows, accKey]
  omega

theorem accAt_zeroRows_of_not_mem {b : Bear} {bank bank' first count row j : Nat}
    (outside : accKey bank' row j < accKey bank first 0 ∨ accKey bank (first + count) 0 ≤ accKey bank' row j) :
    accAt (zeroRows bank first count b) bank' row j = accAt b bank' row j := by
  rw [accAt_zeroRows, if_pos]
  simpa [outsideRows, imp_iff_or_not, or_comm] using outside

theorem exec_dzero_of_idle {s : State} {e : Nat} {w : Word64} (issued : issueOf s e [0x21] = some w)
    (idle : rowsBusy (bearOf s e) (fld w 8 1) (fld w 36 9) (fld w 45 9 + 1) = false) :
    exec (.dzero e) s = .next (nextPc e (modBear e (zeroRows (fld w 8 1) (fld w 36 9) (fld w 45 9 + 1)) s)) := by
  have unfolded : exec (.dzero e) s = execDzero e s := rfl
  rw [unfolded, execDzero, onIssue_some _ issued]
  simp only [idle, Bool.false_eq_true, if_false]
  rfl

/-- Settles O24: the keys DZERO takes out are those of its rows. -/
theorem dzeroZeroesItsRowsOnly : Obligations.DzeroZeroesItsRowsOnly := by
  intro s e w issued idle wf
  have bank : fld w 8 1 < 2 := fld_lt ..
  have row : fld w 36 9 < 512 := fld_lt ..
  have self : ∀ t, t = nextPc e (modBear e (zeroRows (fld w 8 1) (fld w 36 9) (fld w 45 9 + 1)) s) →
      bearOf t e = zeroRows (fld w 8 1) (fld w 36 9) (fld w 45 9 + 1) (bearOf s e) := by
    rintro t rfl
    exact bearOf_modBear_self _ wf
  refine ⟨_, exec_dzero_of_idle issued idle, ?_, ?_, ?_, fun e' ne => bearOf_modBear_ne _ _ ne⟩
  · intro d j small col
    rw [self _ rfl]
    exact accAt_zeroRows_of_mem ⟨by omega, by omega⟩ col
  · intro bank' row' j small inside col ne fits
    rw [self _ rfl]
    refine accAt_zeroRows_of_not_mem ?_
    simp only [accKey]
    omega
  · intro row' j outside col
    rw [self _ rfl]
    refine accAt_zeroRows_of_not_mem ?_
    simp only [accKey]
    omega

end Sys2Proof.Machine

/-! PROOFS. The pieces of a collective's split (O45) and the records of a sketch query (O26). -/

namespace Sys2Proof.Machine

open Sys2Proof

/-! ### The pieces of a split (R385) -/

/-- The pieces' size: the least multiple of 16 of which `m` cover `n`. -/
theorem le_mul_pieceSize {n m : Nat} (some : 0 < m) : n ≤ m * (16 * ((n + 16 * m - 1) / (16 * m))) := by
  have split := Nat.div_add_mod (n + 16 * m - 1) (16 * m)
  have small := Nat.mod_lt (n + 16 * m - 1) (show 0 < 16 * m by omega)
  have rearranged : m * (16 * ((n + 16 * m - 1) / (16 * m))) = 16 * m * ((n + 16 * m - 1) / (16 * m)) := by ring
  omega

/-- Settles O45: a piece runs from one multiple of the piece size to the next, cut off at the range's end. -/
theorem collectivePiecesPartition : Obligations.CollectivePiecesPartition := by
  intro a n m some
  have covered := le_mul_pieceSize (n := n) some
  generalize size : (n + 16 * m - 1) / (16 * m) = k at covered
  have next : ∀ i, (i + 1) * (16 * k) = i * (16 * k) + 16 * k := fun i => by ring
  simp only [splitPiece, size, next]
  refine ⟨by omega, fun i => by omega, ?_, fun i => by omega, fun i more => ?_⟩
  · have last : (m - 1) * (16 * k) + 16 * k = m * (16 * k) := by rw [← next, Nat.sub_add_cancel some]
    omega
  · have whole : i * (16 * k) = 16 * (i * k) := by ring
    omega

/-! ### The records of a query (R160) -/

theorem popcount_le (n : Nat) : popcount n ≤ 64 := by
  unfold popcount
  exact (List.length_filter_le _ _).trans (List.length_range ..).le

theorem selRecord_distance {i d : Nat} (small : d ≤ 64) : selRecord i d / 2 ^ 16 % 256 = d := by
  unfold selRecord
  omega

theorem selRecord_ne_selInvalid (i d : Nat) : selRecord i d ≠ selInvalid := by
  unfold selRecord selInvalid
  omega

/-- The accepted sketches within the bound, each with its number and its distance. -/
def selFound (maxDist q : Nat) (sk : List (Nat × Nat × Bool)) : List (Nat × Nat) :=
  sk.filterMap fun x => if x.2.2 || decide (maxDist < popcount (x.2.1 ^^^ q)) then none else some (x.1, popcount (x.2.1 ^^^ q))

/-- The same in ascending distance. -/
def selSorted (maxDist q : Nat) (sk : List (Nat × Nat × Bool)) : List (Nat × Nat) :=
  (List.range 65).flatMap fun d => (selFound maxDist q sk).filter fun x => x.2 == d

section

variable {k maxDist q : Nat} {sk : List (Nat × Nat × Bool)}

theorem hselRecords_eq : hselRecords k maxDist sk q = ((selSorted maxDist q sk).take k).map (fun x => selRecord x.1 x.2) ++
    List.replicate (k - ((selSorted maxDist q sk).take k).length) selInvalid := by
  rw [hselRecords, ← List.length_map (as := (selSorted maxDist q sk).take k) (fun x : Nat × Nat => selRecord x.1 x.2)]
  rfl

theorem mem_selFound {y : Nat × Nat} : y ∈ selFound maxDist q sk ↔
    ∃ x ∈ sk, x.2.2 = false ∧ popcount (x.2.1 ^^^ q) ≤ maxDist ∧ y = (x.1, popcount (x.2.1 ^^^ q)) := by
  unfold selFound
  rw [List.mem_filterMap]
  refine exists_congr fun x => and_congr_right fun _ => ?_
  split
  case isTrue refused =>
    rw [Bool.or_eq_true, decide_eq_true_eq] at refused
    constructor
    · exact fun none => absurd none (by simp)
    · rintro ⟨accepted, near, -⟩
      rcases refused with refused | far
      · simp [accepted] at refused
      · omega
  case isFalse taken =>
    simp only [Bool.or_eq_true, decide_eq_true_eq, not_or, Bool.not_eq_true, not_lt] at taken
    obtain ⟨accepted, near⟩ := taken
    simp [accepted, near, eq_comm]

theorem mem_selSorted {y : Nat × Nat} : y ∈ selSorted maxDist q sk ↔ y ∈ selFound maxDist q sk := by
  simp only [selSorted, List.mem_flatMap, List.mem_range, List.mem_filter, beq_iff_eq]
  refine ⟨fun ⟨_, _, found, _⟩ => found, fun found => ⟨y.2, ?_, found, rfl⟩⟩
  obtain ⟨x, -, -, -, rfl⟩ := mem_selFound.1 found
  exact Nat.lt_succ_of_le (popcount_le _)

theorem le_of_mem_selSorted {y : Nat × Nat} (found : y ∈ selSorted maxDist q sk) : y.2 ≤ 64 := by
  obtain ⟨x, -, -, -, rfl⟩ := mem_selFound.1 (mem_selSorted.1 found)
  exact popcount_le _

theorem selSorted_pairwise : (selSorted maxDist q sk).Pairwise fun x y => x.2 ≤ y.2 := by
  refine List.pairwise_flatMap.2 ⟨fun d _ => ?_, ?_⟩
  · refine List.pairwise_of_forall_mem_list fun x hx y hy => ?_
    rw [List.mem_filter, beq_iff_eq] at hx hy
    rw [hx.2, hy.2]
  · refine List.pairwise_lt_range.imp fun {d d'} before x hx y hy => ?_
    rw [List.mem_filter, beq_iff_eq] at hx hy
    omega

end

/-- Settles O26: the records are the first `k` of the found sketches in ascending distance, then as many that name none. -/
theorem hselRecordsAreTheNearest : Obligations.HselRecordsAreTheNearest := by
  intro k maxDist q sk recs
  have listed : recs = _ := hselRecords_eq
  have short : ((selSorted maxDist q sk).take k).length ≤ k := List.length_take_le ..
  have near : ∀ x ∈ (selSorted maxDist q sk).take k, selRecord x.1 x.2 / 2 ^ 16 % 256 = x.2 :=
    fun x taken => selRecord_distance (le_of_mem_selSorted (List.mem_of_mem_take taken))
  refine ⟨?_, ?_, ?_, ?_⟩
  · rw [listed, List.length_append, List.length_map, List.length_replicate]
    omega
  · rw [listed, List.pairwise_append]
    refine ⟨?_, List.pairwise_replicate.2 (.inr le_rfl), ?_⟩
    · refine List.pairwise_map.2 (List.Pairwise.imp_of_mem ?_ (selSorted_pairwise.sublist (List.take_sublist ..)))
      intro x y hx hy ordered
      rwa [near x hx, near y hy]
    · intro r hr r' hr'
      obtain ⟨x, taken, rfl⟩ := List.mem_map.1 hr
      rw [(List.mem_replicate.1 hr').2, near x taken, selInvalid]
      have := le_of_mem_selSorted (List.mem_of_mem_take taken)
      omega
  · intro r hr named
    rw [listed, List.mem_append] at hr
    rcases hr with hr | hr
    · obtain ⟨y, taken, rfl⟩ := List.mem_map.1 hr
      obtain ⟨x, hx, accepted, within, rfl⟩ := mem_selFound.1 (mem_selSorted.1 (List.mem_of_mem_take taken))
      exact ⟨x, hx, accepted, within, rfl⟩
    · exact absurd (List.mem_replicate.1 hr).2 named
  · intro x hx accepted within
    have found : (x.1, popcount (x.2.1 ^^^ q)) ∈ selSorted maxDist q sk := mem_selSorted.2 (mem_selFound.2 ⟨x, hx, accepted, within, rfl⟩)
    rw [listed, List.mem_append, List.mem_append]
    rcases le_total (selSorted maxDist q sk).length k with all | many
    · rw [List.take_of_length_le all]
      exact .inl (.inl (List.mem_map.2 ⟨_, found, rfl⟩))
    · rw [List.length_take_of_le many, Nat.sub_self]
      refine .inr fun invalid => ?_
      rcases invalid with record | filler
      · obtain ⟨y, -, same⟩ := List.mem_map.1 record
        exact selRecord_ne_selInvalid _ _ same
      · simp at filler

end Sys2Proof.Machine

/-! PROOFS. Host accesses of the stores (O11). -/

namespace Sys2Proof.Machine

open Sys2Proof

section

variable (st st' : Store) (lat : Bool) (a n : Nat) (s : State)

theorem storeOf_served : storeOf (served st lat a n s) st' = storeOf s st' := by
  unfold served
  split
  · cases st' <;> rfl
  · rfl

/-- Serving HBM counts bytes, and changes nothing but its counters. -/
theorem served_same : (served st lat a n s).mem.host = s.mem.host ∧ (served st lat a n s).tallies = s.tallies ∧
    (served st lat a n s).eng = s.eng ∧ (served st lat a n s).run = s.run ∧ (served st lat a n s).fab = s.fab := by
  unfold served
  split <;> exact ⟨rfl, rfl, rfl, rfl, rfl⟩

end

section

variable {s : State} {st : Store} {a len : Nat}

theorem memWrite_of_permitted {d : List Byte} (permitted : hostCheck s st a d.length true = none)
    (powered : domDark s (domainOf st a) = false) : memWrite st a d s = served st false a d.length (storeWrite st a d false s) := by
  simp only [memWrite, permitted, powered, Bool.false_eq_true, if_false]
  rfl

theorem memWrite_of_refused {d : List Byte} {c : Nat} (refused : hostCheck s st a d.length true = some c) :
    memWrite st a d s = hostRefuse c (storeSpace st) a s := by
  simp only [memWrite, refused]

theorem memRead_of_permitted {x : Ecc} (permitted : hostCheck s st a len false = none) (powered : domDark s (domainOf st a) = false) :
    memRead st a len x s =
      let t := served st false a len (eccNote st a srcHost x s)
      replyHost (.data (readStore t st a len) (poisoned t st a len)) t := by
  simp only [memRead, permitted, powered, Bool.false_eq_true, if_false]

theorem memRead_of_refused {x : Ecc} {c : Nat} (refused : hostCheck s st a len false = some c) :
    memRead st a len x s = replyHost (.data (badPattern a len) false) (hostRefuse c (storeSpace st) a s) := by
  simp only [memRead, refused]

theorem memAtomic_of_permitted {o : Nat × Nat} {v cmp : Word128} {x : Ecc} (single : o.1 ≠ 11)
    (permitted : hostCheck s st a len true = none) (powered : domDark s (domainOf st a) = false) :
    memAtomic st a len o v cmp x s =
      let t := served st false a len (eccNote st a srcHost x s)
      let r := atomAt st a o.1 o.2 v.toNat 0 t
      replyHost (.data (leBytes len r.1) r.2.1) r.2.2 := by
  simp only [memAtomic, permitted, powered, Bool.false_eq_true, if_false, single]

end

section

variable {s : State} {bar off len : Nat} {x : Ecc} {st : Store} {a : Nat}

theorem exec_hostBarWrite_of_target {d : List Byte} (served : HostServed s) (hit : barTarget s bar off d.length = some (st, a)) :
    exec (.hostBarWrite bar off d) s = .next (memWrite st a d (hostPosted s)) := by
  change execHostBarWrite bar off d s = _
  rw [execHostBarWrite, onHost_of_served served]
  simp only [hit]

theorem exec_hostBarRead_of_target (served : HostServed s) (memory : bar = 2 ∨ bar = 4) (hit : barTarget s bar off len = some (st, a)) :
    exec (.hostBarRead bar off len x) s = .next (memRead st a len x s) := by
  change execHostBarRead bar off len x s = _
  have other : bar ≠ 0 := by omega
  rw [execHostBarRead, if_neg (fun h => other h.1), onHost_of_served served, if_neg other]
  simp only [hit]

theorem exec_hostBarRead_of_no_target (served : HostServed s) (memory : bar = 2 ∨ bar = 4) (outside : barTarget s bar off len = none) :
    exec (.hostBarRead bar off len x) s = .next (replyHost .ur s) := by
  change execHostBarRead bar off len x s = _
  have other : bar ≠ 0 := by omega
  rw [execHostBarRead, if_neg (fun h => other h.1), onHost_of_served served, if_neg other]
  simp only [outside]

theorem exec_hostAtomic_of_target {op : Nat} {v cmp : Word128} {o : Nat × Nat} (served : HostServed s)
    (hit : barTarget s bar off len = some (st, a)) (known : atomicOp op len = some o) (aligned : off % len = 0) :
    exec (.hostAtomic bar off op len v cmp x) s = .next (memAtomic st a len o v cmp x s) := by
  change execHostAtomic bar off op len v cmp x s = _
  rw [execHostAtomic, onHost_of_served served]
  simp only [hit, known, aligned, if_true]

end

/-- Settles O11, from what each access of a store answers. -/
theorem hostMemoryAccesses : Obligations.HostMemoryAccesses := by
  refine ⟨fun s bar off a st d host hit => ⟨fun permitted powered canonical => ?_, fun c refused => ?_⟩,
    fun s bar off len x host memory => ⟨?_, ?_, ?_, ?_⟩⟩
  · have wf : (storeOf (hostPosted s) st).wf = true := by
      obtain ⟨sp, hbm, cs, -, -⟩ := canonical
      cases st <;> assumption
    have written : exec (.hostBarWrite bar off d) s = .next (served st false a d.length (storeWrite st a d false (hostPosted s))) := by
      rw [exec_hostBarWrite_of_target host hit, memWrite_of_permitted permitted powered]
    have stored : storeOf (served st false a d.length (storeWrite st a d false (hostPosted s))) st
        = (storeOf (hostPosted s) st).writeBytes a d := by
      rw [storeOf_served, storeOf_storeWrite_self]
    obtain ⟨hostMem, tallies, eng, run, fab⟩ := served_same st false a d.length (storeWrite st a d false (hostPosted s))
    refine ⟨_, written, ?_, ?_, ?_, ?_, ?_, ?_, ?_, ?_⟩
    · intro i inside
      rw [stored]
      exact Memory.read_writeBytes_inside _ _ _ _ wf inside
    · intro y outside
      rw [stored]
      exact Memory.read_writeBytes_outside _ _ _ _ outside
    · intro st' ne
      rw [storeOf_served, storeOf_storeWrite_ne _ _ _ _ ne]
      rfl
    · exact hostMem.trans (host_storeWrite ..)
    · exact tallies.trans (tallies_storeWrite ..)
    · exact eng.trans ((setPoison_eng ..).trans (setStore_eng ..))
    · exact run.trans ((setPoison_run ..).trans (setStore_run ..))
    · exact fab.trans ((setPoison_fab ..).trans (setStore_fab ..))
  · rw [exec_hostBarWrite_of_target host hit, memWrite_of_refused refused]
  · intro st a hit permitted powered
    rw [exec_hostBarRead_of_target host memory hit, memRead_of_permitted permitted powered]
  · intro st a c hit refused
    rw [exec_hostBarRead_of_target host memory hit, memRead_of_refused refused]
  · exact exec_hostBarRead_of_no_target host memory
  · intro st a op v cmp o hit known single aligned permitted powered
    rw [exec_hostAtomic_of_target host hit known aligned, memAtomic_of_permitted single permitted powered]

end Sys2Proof.Machine

/-! PROOFS. WATCH and temperature (O56). -/

namespace Sys2Proof.Machine

open Sys2Proof

/-- A command that is due and has its reserved fields zero is taken and performed. -/
theorem onCmd_of_due {q id : Nat} {s : State} {f : State → State} (due : cmdDue s q = true) :
    onCmd q id false s f = .next (f (takeCmd q id s)) := by
  simp [onCmd, due]

theorem ready_logEvent (code src : Nat) (fs : List (Nat × Nat)) (s : State) : (logEvent code src fs s).hub.ready = s.hub.ready := by
  rw [(logEvent_same code src fs s).hub]

section

variable {s : State}

theorem exec_watch_of_due {q id : Nat} (due : cmdDue s q = true) : exec (.watch q id false) s = .next (
    if watchBusy (takeCmd q id s) then endCmd q id 2 (takeCmd q id s) else enterWatch (endCmd q id 0 (takeCmd q id s))) := by
  change execWatch q id false s = _
  rw [execWatch, onCmd_of_due due]

theorem st_enterWatch (s : State) : (enterWatch s).power.st = .watch := by
  rw [enterWatch, logEvent_power]
  rfl

theorem ready_enterWatch (s : State) : (enterWatch s).hub.ready = false := by
  rw [enterWatch, ready_logEvent]
  rfl

theorem exec_watchWake (cause : Nat) : exec (.watchWake cause) s = .next (if 1 ≤ cause ∧ cause ≤ 3 then startWake cause s else s) :=
  rfl

theorem exec_watchRound_of_hot {rs : List SensorRead} {railC : List Nat} {r : SensorRead} (watching : s.power.st = .watch)
    (still : s.power.waking = false) (hot : rs.find? (fun r => (watchSensors s).contains r.n && watchHot s r) = some r) :
    exec (.watchRound rs railC) s = .next (startWake 3 (logEvent 0x3008 srcDevice [(4, r.n)] s)) := by
  change execWatchRound rs railC s = _
  rw [execWatchRound, if_neg (by simp [watching, still])]
  simp only [hot]

theorem exec_watchRound_of_nothing_read (watching : s.power.st = .watch) (still : s.power.waking = false) :
    exec (.watchRound [] []) s = .next s := by
  change execWatchRound [] [] s = _
  rw [execWatchRound, if_neg (by simp [watching, still])]
  rfl

theorem exec_watchRound_of_not_watch {rs : List SensorRead} {railC : List Nat} (awake : s.power.st ≠ .watch) :
    exec (.watchRound rs railC) s = .next s :=
  if_pos (.inl awake)

theorem exec_thermalRound_of_watch {rs : List SensorRead} (watching : s.power.st = .watch) : exec (.thermalRound rs) s = .next s :=
  if_pos (.inr (.inl watching))

theorem exec_thermalRound {rs : List SensorRead} (powered : s.power.pwrOk = true) (awake : s.power.st ≠ .watch)
    (untripped : s.power.tripped = false) (clocked : s.boot.clkLost = false) :
    exec (.thermalRound rs) s =
      let read := forEach (List.range 8) noteGoverning (forEach (rs.filter (fun r => decide (r.n < 144))) noteSensor (commitThermal s))
      let round := owlTrip (modThm (fun t => { t with hottest := hottestSensor read }) read)
      if round.power.tripped then .next round else .next (forEach (List.range 8) enforceDie (noteRequest round)) := by
  change execThermalRound rs s = _
  rw [execThermalRound, if_neg (by simp [powered, awake, untripped, clocked])]

theorem exec_graceExpire (k : Nat) : exec (.graceExpire k) s =
    .next (if (dieTherm s k).grace.isSome then modDieTherm k (fun d => { d with expired := true }) s else s) :=
  rfl

/-- A trip takes READY and the host link away. -/
theorem hub_trip_of_untripped {n : Nat} {reading : Int} (first : s.thermal.tripPin = false) :
    (trip n reading s).hub.ready = false ∧ (trip n reading s).hub.l0 = false := by
  rw [trip, if_neg (by simp [first])]
  exact ⟨rfl, rfl⟩

theorem trip_of_tripped {n : Nat} {reading : Int} (again : s.thermal.tripPin = true) : trip n reading s = s :=
  if_pos again

end

/-- The next rate, by how far the die is from its limit. -/
theorem nextRate_cases (g : Int) (r c : Nat) : 500 ≤ nextRate g r c ∧
    (80 < g → 500 ≤ 85 * min r c / 100 → nextRate g r c = 85 * min r c / 100) ∧
    (0 < g → g ≤ 80 → 500 ≤ 95 * min r c / 100 → nextRate g r c = 95 * min r c / 100) ∧
    (-48 ≤ g → g ≤ 0 → 500 ≤ r → nextRate g r c = r) ∧ (g < -48 → 500 ≤ 102 * r / 100 → nextRate g r c = 102 * r / 100) := by
  unfold nextRate
  refine ⟨le_max_left .., fun hot => ?_, fun above below => ?_, fun above below => ?_, fun cool => ?_⟩
  · rw [if_pos hot]
    exact max_eq_right
  · rw [if_neg below.not_gt, if_pos above]
    exact max_eq_right
  · rw [if_neg (by omega), if_neg (by omega), if_pos above]
    exact max_eq_right
  · rw [if_neg (by omega), if_neg (by omega), if_neg (by omega)]
    exact max_eq_right

/-- Settles O56, clause by clause. -/
theorem watchAndTemperature : Obligations.WatchAndTemperature := by
  refine ⟨fun s q id cause rs railC => ⟨fun due => ⟨fun busy => ?_, fun free => ?_⟩, st_enterWatch s, ready_enterWatch s, ?_, ?_,
      exec_watchRound_of_not_watch, fun watching still => ⟨fun r => exec_watchRound_of_hot watching still, ?_⟩⟩,
    fun s rs k n reading g r c => ⟨exec_thermalRound_of_watch, fun powered awake untripped clocked => ⟨?_, ?_⟩, ?_, ?_, ?_,
      hub_trip_of_untripped, trip_of_tripped, nextRate_cases g r c⟩⟩
  · rw [exec_watch_of_due due, if_pos busy]
  · rw [exec_watch_of_due due, if_neg (by simp [free])]
  · intro low high
    rw [exec_watchWake, if_pos ⟨low, high⟩]
  · intro other
    rw [exec_watchWake, if_neg (by omega)]
  · rintro rfl rfl
    exact exec_watchRound_of_nothing_read watching still
  · intro untripped'
    rw [exec_thermalRound powered awake untripped clocked]
    exact if_neg (by simp [untripped'])
  · intro tripped
    rw [exec_thermalRound powered awake untripped clocked]
    exact if_pos tripped
  · intro running
    rw [exec_graceExpire, if_pos running]
  · intro none
    rw [exec_graceExpire, if_neg (by simp [none])]
  · exact fun powered => if_pos powered

end Sys2Proof.Machine

/-! SUPPORT. What the fabric's own operations leave alone: tuning, naming and dropping lanes, the tree and the time parent. -/

namespace Sys2Proof.Machine

open Sys2Proof

/-- At most the fabric, hall time, the log, the MSI-X state and the messages sent differ. -/
def SameButFabric (s t : State) : Prop :=
  t = { s with fab := t.fab, time := t.time, log := t.log, msix := t.msix, hub := { s.hub with out := t.hub.out } }

section

variable {s₀ s t : State}

theorem SameButFabric.refl (s : State) : SameButFabric s s := rfl

theorem SameButFabric.trans (h : SameButFabric s₀ s) (k : SameButFabric s t) : SameButFabric s₀ t := by
  unfold SameButFabric at h k ⊢
  rw [k, h]

theorem SameButFabric.frame {fab time} (h : SameButFabric s₀ s) : SameButFabric s₀ { s with fab := fab, time := time } :=
  h.trans rfl

theorem SameButLog.fabric (h : SameButLog s t) : SameButFabric s t := by
  obtain ⟨_, _, _, rfl⟩ := h
  rfl

protected theorem SameButFabric.ite {c : Prop} {inst : Decidable c} (ht : SameButFabric s₀ s) (hf : SameButFabric s₀ t) :
    SameButFabric s₀ (@ite _ c inst s t) := by
  split
  · exact ht
  · exact hf

protected theorem SameButFabric.forEach {α : Type} {l : List α} {f : α → State → State} (h : SameButFabric s₀ s)
    (hf : ∀ a t, SameButFabric s₀ t → SameButFabric s₀ (f a t)) : SameButFabric s₀ (forEach l f s) :=
  forEach_induct (SameButFabric s₀) f hf l s h

protected theorem SameButFabric.logEvent {code src fs} (h : SameButFabric s₀ s) : SameButFabric s₀ (logEvent code src fs s) :=
  h.trans (logEvent_same ..).fabric

protected theorem SameButFabric.modLane {k f} (h : SameButFabric s₀ s) : SameButFabric s₀ (modLane k f s) := h.frame

protected theorem SameButFabric.modPort {n f} (h : SameButFabric s₀ s) : SameButFabric s₀ (modPort n f s) := h.frame

protected theorem SameButFabric.modRing {port rx r f} (h : SameButFabric s₀ s) : SameButFabric s₀ (modRing port rx r f s) := h.frame

protected theorem SameButFabric.moveSpareRole {port rx r} (h : SameButFabric s₀ s) : SameButFabric s₀ (moveSpareRole port rx r s) := by
  unfold moveSpareRole
  split
  · exact h.modPort
  · exact h

protected theorem SameButFabric.tuneRing {port rx r line} (h : SameButFabric s₀ s) : SameButFabric s₀ (tuneRing port rx r line s) :=
  h.ite h.modRing

protected theorem SameButFabric.parkRing {port rx r} (h : SameButFabric s₀ s) : SameButFabric s₀ (parkRing port rx r s) :=
  h.ite h.modRing

protected theorem SameButFabric.startCabling {port} (h : SameButFabric s₀ s) : SameButFabric s₀ (startCabling port s) :=
  h.ite ((h.modPort.tuneRing.ite h.modPort).tuneRing.ite (h.modPort.tuneRing.ite h.modPort))

protected theorem SameButFabric.tuneLane {k} (h : SameButFabric s₀ s) : SameButFabric s₀ (tuneLane k s) := by
  unfold tuneLane
  dsimp only
  refine h.modLane.ite (h.modLane.ite (h.modLane.ite (h.modLane.ite ?_)))
  split
  · refine SameButFabric.ite (SameButFabric.modLane ?_) ?_
    all_goals exact h.startCabling.moveSpareRole.moveSpareRole.modLane.tuneRing.tuneRing
  · exact h.startCabling.modLane.ite h.startCabling.modLane

protected theorem SameButFabric.releaseRings {k} (h : SameButFabric s₀ s) : SameButFabric s₀ (releaseRings k s) :=
  h.parkRing.parkRing.modLane

protected theorem SameButFabric.tuneWaiting {port} (h : SameButFabric s₀ s) : SameButFabric s₀ (tuneWaiting port s) :=
  h.forEach fun _ _ h => h.tuneLane

/-- Handing packets back to the fabric puts each at the ingress, in a lane's queue or among those held. -/
protected theorem SameButFabric.handBack {far ps} (h : SameButFabric s₀ s) : SameButFabric s₀ (handBack far ps s) := by
  have escaped : ∀ {p q t}, SameButFabric s₀ t → SameButFabric s₀ (countEscape p q t) := fun h => h.frame
  unfold handBack
  refine h.forEach fun _ _ h => h.frame.ite ?_
  split
  · exact (escaped h).modLane
  · exact (escaped h).frame

protected theorem SameButFabric.unuseLane {k} (h : SameButFabric s₀ s) : SameButFabric s₀ (unuseLane k s) :=
  h.releaseRings.modLane.tuneWaiting.handBack

protected theorem SameButFabric.dropLane {k} (h : SameButFabric s₀ s) : SameButFabric s₀ (dropLane k s) := by
  unfold dropLane
  dsimp only
  split
  case h_3 => exact h.modLane.releaseRings.tuneWaiting
  case h_6 => exact h.unuseLane
  all_goals exact h.modLane

protected theorem SameButFabric.nameLane {port far} (h : SameButFabric s₀ s) : SameButFabric s₀ (nameLane port far s) :=
  h.ite (h.modLane.tuneLane.ite h.modLane)

protected theorem SameButFabric.settleTree {tier} (h : SameButFabric s₀ s) : SameButFabric s₀ (settleTree tier s) :=
  (h.frame.forEach fun _ _ h => h.dropLane).ite h

protected theorem SameButFabric.applyLanes {set keep} (h : SameButFabric s₀ s) : SameButFabric s₀ (applyLanes set keep s) :=
  (h.forEach fun _ _ h => h.dropLane).forEach fun _ _ h => h.nameLane

protected theorem SameButFabric.changeTree {root} (h : SameButFabric s₀ s) : SameButFabric s₀ (changeTree root s) :=
  h.frame.ite (h.frame.applyLanes.forEach fun _ _ h => h.settleTree)

protected theorem SameButFabric.refreshParent (h : SameButFabric s₀ s) : SameButFabric s₀ (refreshParent s) :=
  h.ite h.frame.logEvent

protected theorem SameButFabric.noteDisplaced (h : SameButFabric s₀ s) : SameButFabric s₀ (noteDisplaced s) := by
  unfold noteDisplaced
  split
  · exact h.ite h.logEvent
  · exact h

end

end Sys2Proof.Machine

/-! PROOFS. PLAN_LOAD, the checks, the verdict and what GO leaves (O14). -/

namespace Sys2Proof.Machine

open Sys2Proof

/-! ### Completions -/

/-- What answering a command changes: host memory, the log, the MSI-X state, the queues and what the hub counts and sends. -/
def Answered (s t : State) : Prop :=
  t = { s with
    mem := { s.mem with host := t.mem.host }, log := t.log, msix := t.msix
    hub := { s.hub with
      out := t.hub.out, queues := t.hub.queues, cmdCompleted := t.hub.cmdCompleted, cmdInvalid := t.hub.cmdInvalid
      statusSeq := t.hub.statusSeq } }

section

variable {s₀ s t : State}

theorem Answered.refl (s : State) : Answered s s := rfl

theorem Answered.trans (h : Answered s₀ s) (k : Answered s t) : Answered s₀ t := by
  unfold Answered at h k ⊢
  rw [k, h]

theorem Answered.fab (h : Answered s t) : t.fab = s.fab := by
  rw [h]

theorem SameButLog.answered (h : SameButLog s t) : Answered s t := by
  obtain ⟨_, _, _, rfl⟩ := h
  rfl

protected theorem Answered.ite {c : Prop} {inst : Decidable c} (ht : Answered s₀ s) (hf : Answered s₀ t) : Answered s₀ (@ite _ c inst s t) := by
  split
  · exact ht
  · exact hf

protected theorem Answered.logEvent {code src fs} (h : Answered s₀ s) : Answered s₀ (logEvent code src fs s) :=
  h.trans (logEvent_same ..).answered

protected theorem Answered.msixSend {v} (h : Answered s₀ s) : Answered s₀ (msixSend v s) :=
  h.trans (msixSend_same ..).answered

theorem Answered.host {m out} (h : Answered s₀ s) :
    Answered s₀ { s with mem := { s.mem with host := m }, hub := { s.hub with out := out } } :=
  h.trans rfl

protected theorem Answered.hostWrite {a d} (h : Answered s₀ s) : Answered s₀ (hostWrite a d s) :=
  h.host.ite h.host

protected theorem Answered.modQueue {q f} (h : Answered s₀ s) : Answered s₀ (modQueue q f s) :=
  h.trans rfl

/-- Counting and writing leave the rest of the hub as it was. -/
theorem Answered.hub {queues completed invalid status} (h : Answered s₀ s) : Answered s₀ { s with hub := { s.hub with
    queues := queues, cmdCompleted := completed, cmdInvalid := invalid, statusSeq := status } } :=
  h.trans rfl

protected theorem Answered.writeEntry {q id status detail} (h : Answered s₀ s) : Answered s₀ (writeEntry q id status detail s) :=
  h.modQueue.ite (h.modQueue.ite h.hostWrite.modQueue.msixSend)

protected theorem Answered.postCompletion {q id status detail} (h : Answered s₀ s) : Answered s₀ (postCompletion q id status detail s) :=
  h.hub.writeEntry

protected theorem Answered.postStatus (h : Answered s₀ s) : Answered s₀ (postStatus s) :=
  h.hub.hostWrite.msixSend

end

/-- Completing a load answers its command and records 0x1400. -/
theorem goDone_answered (p : Plan) (s : State) : Answered { s with load := { s.load with goDue := false } } (goDone p s) :=
  (Answered.refl _).logEvent.postStatus.postCompletion

/-! ### GO (R78) -/

theorem remapHbm_same (old new : List Region) (s : State) : remapHbm old new s = { s with mem := (remapHbm old new s).mem } := by
  unfold remapHbm
  split <;> rfl

theorem freshMeshes_same (s : State) : freshMeshes s = { s with units := (freshMeshes s).units } := by
  refine forEach_induct (fun t => t = { s with units := t.units }) _ ?_ _ s rfl
  intro k t same
  dsimp only
  split <;> · rw [same]; rfl

section

variable {p : Plan} {s t u : State}

/-- What R78 lists of a plan that goes. -/
structure Gone (p : Plan) (s t : State) : Prop where
  run : t.run = (takePlan p s).run
  tallies : t.tallies = planTallies (mySections (takePlan p s))
  dir : t.sett.dir = []
  l1 : t.sett.l1 = []
  notifies : t.hub.notifies = []

theorem SameButFabric.gone (same : SameButFabric t u) (gone : Gone p s t) : Gone p s u := by
  obtain ⟨run, tallies, dir, l1, notifies⟩ := gone
  rw [same]
  exact ⟨run, tallies, dir, l1, notifies⟩

theorem Answered.gone (same : Answered t u) (gone : Gone p s t) : Gone p s u := by
  obtain ⟨run, tallies, dir, l1, notifies⟩ := gone
  rw [same]
  exact ⟨run, tallies, dir, l1, notifies⟩

theorem Gone.freshMeshes (gone : Gone p s t) : Gone p s (freshMeshes t) := by
  obtain ⟨run, tallies, dir, l1, notifies⟩ := gone
  rw [freshMeshes_same]
  exact ⟨run, tallies, dir, l1, notifies⟩

theorem Gone.setRoles (gone : Gone p s t) : Gone p s (setRoles t) := by
  obtain ⟨run, tallies, dir, l1, notifies⟩ := gone
  exact ⟨run, tallies, dir, l1, notifies⟩

/-- A plan that is placed with its own logical number has its tallies at their initial values. -/
theorem tallies_placePlan (held : t.run = (takePlan p s).run) : (placePlan t).run = (takePlan p s).run ∧
    (placePlan t).tallies = planTallies (mySections (takePlan p s)) := by
  have plan : t.run.plan = some p := by
    rw [held]
    rfl
  have sections : mySections t = mySections (takePlan p s) := by simp only [mySections, held]
  rw [placePlan]
  simp only [plan]
  exact ⟨held, by rw [sections]⟩

theorem run_withMapping (f : State → State) (s : State) : (withMapping f s).run = (f s).run := by
  rw [withMapping, remapHbm_same]

/-- GO leaves what R78 lists, and then completes the load, or notes that its completion is due. -/
theorem exists_gone : ∃ v, Gone p s v ∧
    goPlan p s = if recalling v then { v with load := { v.load with goDue := true } } else goDone p v := by
  unfold goPlan
  extract_lets load rostered mapped placed hub loaded power held fresh noted grown
  refine ⟨grown, ?_, rfl⟩
  obtain ⟨run, tallies⟩ := tallies_placePlan (p := p) (s := s) (t := mapped) (run_withMapping ..)
  have hheld : Gone p s held := ⟨run, tallies, rfl, rfl, rfl⟩
  clear_value held
  have hfresh : Gone p s fresh := hheld.freshMeshes.setRoles
  exact SameButFabric.gone (SameButFabric.refl fresh).noteDisplaced.changeTree.refreshParent hfresh

theorem gone_goPlan : Gone p s (goPlan p s) := by
  obtain ⟨v, ⟨run, tallies, dir, l1, notifies⟩, answer⟩ := exists_gone (p := p) (s := s)
  rw [answer]
  split
  · exact ⟨run, tallies, dir, l1, notifies⟩
  · exact (goDone_answered p v).gone ⟨run, tallies, dir, l1, notifies⟩

/-- The load completes at once, or once no projection engine recalibrates (R78). -/
theorem goPlan_done_or_due : (recalling (goPlan p s) = true ∧ (goPlan p s).load.goDue = true) ∨
    ∃ v, recalling v = false ∧ goPlan p s = goDone p v := by
  obtain ⟨v, -, answer⟩ := exists_gone (p := p) (s := s)
  cases recal : recalling v
  · exact .inr ⟨v, recal, answer.trans (if_neg (by simp [recal]))⟩
  · rw [answer, if_pos recal]
    exact .inl ⟨recal, rfl⟩

end

/-! ### The load and the verdict -/

section

variable {s : State} {q id addr len ring vector : Nat}

theorem exec_planLoad_of_valid (due : cmdDue s q = true) (ready : hbmReady s = true) (address : addr < 2 ^ 44) (aligned : addr % 8 = 0)
    (length : len < 2 ^ 32) (ringAt : ring < 2 ^ 44) (ringAligned : ring % 64 = 0) (vectored : vector < 2048) :
    exec (.planLoad q id false addr len ring vector) s = .next (
      if s.run.st ≠ .none ∧ s.run.st ≠ .ended then endCmd q id 2 (takeCmd q id s)
      else
        let t := if s.run.st = .ended then discardPlan (takeCmd q id s) else takeCmd q id s
        { t with
          load := { stage := .reading, length := len, queue := q, cmdId := id % 65536, ring := BitVec.ofNat 64 ring, vector := vector }
          run := { st := .loading, lastId := t.run.lastId } }) := by
  have words : (!hostAddrOk addr 8 || decide (2 ^ 32 ≤ len) || !hostAddrOk ring 64 || decide (2048 ≤ vector)) = false := by
    simp only [hostAddrOk, address, aligned, ringAt, ringAligned, length.not_ge, vectored.not_ge]
    rfl
  change execPlanLoad q id false addr len ring vector s = _
  rw [execPlanLoad, if_neg (by simp [ready]), onCmd_of_due due]
  simp only [words, Bool.false_eq_true, if_false]
  rfl

theorem exec_loadChecks_of_image {image : List Byte} (reading : s.load.stage = .reading) (whole : image.length = s.load.length) :
    (∀ p, checkImage s image s.load.length = .passed p → exec (.loadChecks image true) s = .next (startJoin p s)) ∧
    (∀ e, checkImage s image s.load.length = .refused e → exec (.loadChecks image true) s = .next (refuseLoad (leAt image 0x18 8) e 0 0 s)) := by
  change (∀ p, _ → execLoadChecks image true s = _) ∧ (∀ e, _ → execLoadChecks image true s = _)
  rw [execLoadChecks, if_neg (not_not.2 reading), if_neg (by decide), if_neg (not_not.2 whole)]
  exact ⟨fun p passed => by simp only [passed], fun e refused => by simp only [refused]⟩

theorem exec_loadChecks_of_hostError {image : List Byte} (reading : s.load.stage = .reading) :
    exec (.loadChecks image false) s = .next (endCmd s.load.queue s.load.cmdId 6 { s with
      load := { s.load with stage := .idle, image := [], plan := none }, run := { s.run with st := .none } }) := by
  change execLoadChecks image false s = _
  rw [execLoadChecks, if_neg (not_not.2 reading), if_pos (by decide), dropLoad, if_pos ⟨reading, rfl⟩]

theorem exec_verdict_of_msg {p : Packet} {pl : Plan} {go : Bool} {code dev devCode : Nat}
    (msg : msgOf p = some (.verdict go code dev devCode)) (plan : s.load.plan = some pl) :
    exec (.verdict p) s = .next (
      if (s.load.stage = .joining ∨ s.load.stage = .withdrawn) ∧ spanPos pl pl.steward = some p.source then
        takeVerdict pl go code dev devCode (takeIngress p s)
      else takeIngress p s) := by
  change execVerdict p s = _
  rw [execVerdict]
  have named : (takeIngress p s).load.plan = some pl := plan
  simp only [msg, named]
  by_cases heard : (s.load.stage = .joining ∨ s.load.stage = .withdrawn) ∧ spanPos pl pl.steward = some p.source
  · exact (if_pos heard).trans (by rw [if_pos heard])
  · exact (if_neg heard).trans (by rw [if_neg heard])

theorem takeVerdict_of_refuse {pl : Plan} {code dev devCode : Nat} (plan : s.load.plan = some pl) (other : stewardHere pl s = false) :
    takeVerdict pl false code dev devCode s = refuseLoad pl.planId.toNat { code := code } dev devCode s := by
  have position : (refuseLoad pl.planId.toNat { code := code } dev devCode s).fab = s.fab := by
    rw [refuseLoad, (Answered.refl _).postCompletion.fab]
    exact logEvent_fab ..
  have still : stewardHere pl (refuseLoad pl.planId.toNat { code := code } dev devCode s) = false := by
    rw [← other, stewardHere, position, stewardHere]
  simp only [takeVerdict, refuseStage4, plan, still, Bool.false_eq_true, if_false]

end

/-- Settles O14, from the load's and the verdict's cases and from what GO leaves. -/
theorem planLoadAndVerdict : Obligations.PlanLoadAndVerdict := by
  refine ⟨fun s q id addr len ring vector => ⟨fun due ready address aligned length ringAt ringAligned vectored => ?_, ?_⟩,
    fun s p pl go code dev devCode msg plan => ⟨fun heard steward => ⟨?_, ?_⟩, ?_⟩, fun s p => ?_⟩
  · rw [exec_planLoad_of_valid due ready address aligned length ringAt ringAligned vectored]
    refine ⟨fun none => ?_, fun held running => ?_⟩
    · rw [if_neg (by simp [none]), if_neg (by simp [none])]
      rfl
    · rw [if_pos ⟨held, running⟩]
  · intro image reading whole
    obtain ⟨passed, refused⟩ := exec_loadChecks_of_image reading whole
    exact ⟨passed, refused, exec_loadChecks_of_hostError reading⟩
  · rintro rfl
    rw [exec_verdict_of_msg msg plan, if_pos ⟨heard, steward⟩, takeVerdict, if_pos rfl]
  · rintro rfl other
    rw [exec_verdict_of_msg msg plan, if_pos ⟨heard, steward⟩, takeVerdict_of_refuse (s := takeIngress p s) plan other]
  · intro unheard
    rw [exec_verdict_of_msg msg plan, if_neg]
    rintro ⟨heard, steward⟩
    rcases unheard with idle | other
    · rw [idle] at heard
      simp at heard
    · exact other steward
  · have gone : Gone p s (goPlan p s) := gone_goPlan
    have completed := goPlan_done_or_due (p := p) (s := s)
    have pending : (goPlan p s).pending = s.pending := (Keeps.refl s).goPlan.1
    have due : goDone p s = _ := goDone.eq_1 p s
    generalize goPlan p s = t at gone completed pending ⊢
    refine ⟨?_, ?_, ?_, ?_, gone.tallies, gone.dir, gone.l1, gone.notifies, pending, completed, due⟩
    all_goals
      rw [gone.run]
      rfl

end Sys2Proof.Machine

/-! PROOFS. The commit blocks (O8) and the commands of a queue (O13). -/

namespace Sys2Proof.Machine

open Sys2Proof

/-! ### Commits -/

section

variable {s : State}

theorem exec_commitGo_of_served {b : CommitBlock} (served : HostServed s) : exec (.commitGo b) s = .next (commitGo b (hostPosted s)) := by
  change execCommitGo b s = _
  rw [execCommitGo, onHost_of_served served]

theorem blockDown_hostPosted (b : CommitBlock) : blockDown (hostPosted s) b = blockDown s b := by
  cases b <;> rfl

theorem blockCommit_hostPosted (b : CommitBlock) : blockCommit (hostPosted s) b = blockCommit s b := by
  cases b <;> rfl

/-- COMMIT_GO on a block that is there latches the staged set, or overruns where one is pending. -/
theorem commitGo_hostPosted_of_up {b : CommitBlock} (up : blockDown s b = false) : commitGo b (hostPosted s) =
    if (blockCommit s b).pending then
      logEvent (commitDigit b * 0x1000 + 0x0F11) srcDevice [] (modCommit b (fun c => { c with overrun := true }) (hostPosted s))
    else modCommit b (fun c => { c with latched := c.staged, staged := [], pending := true }) (hostPosted s) := by
  rw [commitGo, if_neg (by simp [blockDown_hostPosted, up]), blockCommit_hostPosted]

/-- COMMIT_APPLY at PWR, with a set pending. -/
theorem exec_commitApply_pwr (pending : s.power.commit.pending = true) : exec (.commitApply .pwr) s = .next (commitPower s) := by
  change execCommitApply .pwr s = _
  rw [execCommitApply, if_neg]
  rintro (none | down)
  · have pending' : s.power.commit.pending = false := none
    simp [pending] at pending'
  · simp [blockDown] at down

theorem commitPower_of_bad {x : FieldAt} (pending : s.power.commit.pending = true)
    (bad : (s.power.commit.latched.foldl PwrCtl.write s.power.ctl).bad = some x) : commitPower s = rejectSet .pwr x s := by
  rw [commitPower]
  dsimp only
  rw [if_neg (by simp [pending]), bad]

theorem commitPower_of_good (pending : s.power.commit.pending = true)
    (good : (s.power.commit.latched.foldl PwrCtl.write s.power.ctl).bad = none)
    (inside : railsOutside s (s.power.commit.latched.foldl PwrCtl.write s.power.ctl) = []) : commitPower s =
      { s with power := { s.power with
        ctl := s.power.commit.latched.foldl PwrCtl.write s.power.ctl, commit := s.power.commit.done true } } := by
  rw [commitPower]
  dsimp only
  rw [if_neg (by simp [pending]), good, inside]

/-- COMMIT_APPLY at FAB, with a set pending. -/
theorem exec_commitApply_fab (pending : s.fab.commit.pending = true) :
    exec (.commitApply .fab) s = .next (if s.run.st = .run ∧ s.run.between = false then s else commitFab s) := by
  change execCommitApply .fab s = _
  rw [execCommitApply, if_neg]
  rintro (none | down)
  · have pending' : s.fab.commit.pending = false := none
    simp [pending] at pending'
  · simp [blockDown] at down

theorem commitFab_of_bad {p : Nat} (pending : s.fab.commit.pending = true) (free : waitsUnload s = false)
    (bad : rosterBad (s.fab.commit.latched.foldl FabCtl.write s.fab.ctl).roster [] = some p) :
    commitFab s = rejectSet .fab (0x02010000 + 8 * p, 0) s := by
  rw [commitFab]
  dsimp only
  rw [if_neg (by simp [pending, free]), bad]

theorem commitFab_of_good (pending : s.fab.commit.pending = true) (free : waitsUnload s = false)
    (good : rosterBad (s.fab.commit.latched.foldl FabCtl.write s.fab.ctl).roster [] = none)
    (root : (s.fab.commit.latched.foldl FabCtl.write s.fab.ctl).treeRoot = s.fab.ctl.treeRoot) :
    commitFab s = refreshParent { s with fab := { s.fab with
      ctl := s.fab.commit.latched.foldl FabCtl.write s.fab.ctl, commit := s.fab.commit.done true } } := by
  rw [commitFab]
  dsimp only
  rw [if_neg (by simp [pending, free]), good]
  dsimp only
  rw [if_pos (by simp [root])]

theorem fab_refreshParent : (refreshParent s).fab = s.fab := by
  unfold refreshParent
  dsimp only
  split
  · rfl
  · exact logEvent_fab ..

end

/-- Settles O8, block by block. -/
theorem commitBlocks : Obligations.CommitBlocks := by
  refine ⟨fun b s served up => ?_, fun s pending => ⟨?_, ?_⟩, fun s pending free => ⟨?_, ?_, ?_⟩⟩
  · rw [exec_commitGo_of_served served, commitGo_hostPosted_of_up up]
  · rintro ⟨x, bad⟩
    refine ⟨_, (exec_commitApply_pwr pending).trans (by rw [commitPower_of_bad pending bad]), ?_⟩
    have same : SameButLog (modCommit .pwr (fun c => c.done false) s) (rejectSet .pwr x s) := logEvent_same ..
    exact ⟨same.power, same.pending, same.mem, same.tallies, same.eng, same.units, same.run⟩
  · intro good inside
    rw [exec_commitApply_pwr pending, commitPower_of_good pending good inside]
    rfl
  · intro running
    rw [exec_commitApply_fab pending, if_pos running]
  · intro idle p bad
    refine ⟨_, (exec_commitApply_fab pending).trans (by rw [if_neg fun h => idle h.1, commitFab_of_bad pending free bad]), ?_⟩
    have same : SameButLog (modCommit .fab (fun c => c.done false) s) (rejectSet .fab (0x02010000 + 8 * p, 0) s) := logEvent_same ..
    exact ⟨same.fab, same.run, same.mem⟩
  · intro idle good root
    refine ⟨_, (exec_commitApply_fab pending).trans (by rw [if_neg fun h => idle h.1, commitFab_of_good pending free good root]), ?_⟩
    have same := (SameButFabric.refl { s with fab := { s.fab with
      ctl := s.fab.commit.latched.foldl FabCtl.write s.fab.ctl, commit := s.fab.commit.done true } }).refreshParent
    refine ⟨fab_refreshParent, ?_, ?_⟩
    · rw [same]
    · rw [same]

/-! ### The commands of a queue -/

section

variable {s : State} {q id : Nat}

/-- A command with a reserved field that is not zero is INVALID, whatever it would do. -/
theorem onCmd_of_reserved {f : State → State} (due : cmdDue s q = true) :
    onCmd q id true s f = .next (postCompletion q id 3 0 (takeCmd q id s)) := by
  simp [onCmd, due]

theorem exec_planLoad_of_reserved {a b c d : Nat} (due : cmdDue s q = true) (ready : hbmReady s = true) :
    exec (.planLoad q id true a b c d) s = .next (postCompletion q id 3 0 (takeCmd q id s)) := by
  change execPlanLoad q id true a b c d s = _
  rw [execPlanLoad, if_neg (by simp [ready]), onCmd_of_reserved due]

theorem length_statusRecord (s : State) (sequence : Nat) : (statusRecord s sequence).length = 64 := by
  simp only [statusRecord, List.length_append, leBytes_length]

theorem exec_tallyNotifyArm_of_loaded {tally target vector : Nat} (due : cmdDue s q = true) (loaded : planLoaded s = true)
    (inside : tally < 65536) (vectored : vector < 2048) (room : s.hub.notifies.length < 256)
    (allocated : (tallyOf s tally).allocated = true) :
    exec (.tallyNotifyArm q id false tally target vector) s = .next (
      let t := takeCmd q id s
      endCmd q id 0 (notifyTally tally (tallyOf s tally)
        { t with hub := { t.hub with notifies := t.hub.notifies ++ [{ tally := tally, target := target, vector := vector }] } })) := by
  change execTallyNotifyArm q id false tally target vector s = _
  have taken : planLoaded (takeCmd q id s) = true := loaded
  have sound : ¬(65536 ≤ tally ∨ 2048 ≤ vector ∨ 256 ≤ (takeCmd q id s).hub.notifies.length ∨
      (tallyOf (takeCmd q id s) tally).allocated = false) := by
    rintro (outside | outside | full | free)
    · omega
    · omega
    · exact absurd room full.not_gt
    · exact absurd allocated (by rw [show (tallyOf s tally).allocated = false from free]; decide)
  rw [execTallyNotifyArm, onCmd_of_due due, if_neg (by simp [taken]), if_neg sound]
  rfl

theorem exec_tallyNotifyDisarm_of_loaded {tally : Nat} (due : cmdDue s q = true) (loaded : planLoaded s = true)
    (inside : tally < 65536) (allocated : (tallyOf s tally).allocated = true) :
    exec (.tallyNotifyDisarm q id false tally) s = .next (
      let t := takeCmd q id s
      endCmd q id 0 { t with hub := { t.hub with notifies := t.hub.notifies.filter (fun n => n.tally != tally) } }) := by
  change execTallyNotifyDisarm q id false tally s = _
  have taken : planLoaded (takeCmd q id s) = true := loaded
  have sound : ¬(65536 ≤ tally ∨ (tallyOf (takeCmd q id s) tally).allocated = false) := by
    rintro (outside | free)
    · omega
    · exact absurd allocated (by rw [show (tallyOf s tally).allocated = false from free]; decide)
  rw [execTallyNotifyDisarm, onCmd_of_due due, if_neg (by simp [taken]), if_neg sound]

theorem exec_tallyNotifyArm_of_no_plan {tally target vector : Nat} (due : cmdDue s q = true) (none : planLoaded s = false) :
    exec (.tallyNotifyArm q id false tally target vector) s = .next (endCmd q id 5 (takeCmd q id s)) := by
  change execTallyNotifyArm q id false tally target vector s = _
  have taken : planLoaded (takeCmd q id s) = false := none
  rw [execTallyNotifyArm, onCmd_of_due due, if_pos (by simp [taken])]

theorem exec_tallyNotifyDisarm_of_no_plan {tally : Nat} (due : cmdDue s q = true) (none : planLoaded s = false) :
    exec (.tallyNotifyDisarm q id false tally) s = .next (endCmd q id 5 (takeCmd q id s)) := by
  change execTallyNotifyDisarm q id false tally s = _
  have taken : planLoaded (takeCmd q id s) = false := none
  rw [execTallyNotifyDisarm, onCmd_of_due due, if_pos (by simp [taken])]

theorem exec_planStatus_of_valid {addr : Nat} (due : cmdDue s q = true) (address : addr < 2 ^ 44) (aligned : addr % 64 = 0) :
    exec (.planStatus q id false addr 0) s = .next (
      let t := takeCmd q id s
      endCmd q id 0 (hostWrite addr (statusRecord t t.hub.statusSeq) t)) := by
  change execPlanStatus q id false addr 0 s = _
  have valid : hostAddrOk addr 64 = true := by
    rw [hostAddrOk, decide_eq_true address, decide_eq_true aligned]
    rfl
  rw [execPlanStatus, onCmd_of_due due, if_neg (by rw [valid]; decide), if_neg (not_not.2 rfl)]

end

/-- Settles O13: the reserved field is looked at before anything else, and each command of a tally by its own cases. -/
theorem queueCommands : Obligations.QueueCommands := by
  refine ⟨fun s q id a b c d e w l f g due ready i listed => ?_, fun s q id tally target vector addr due => ⟨?_, ?_, ?_⟩⟩
  · simp only [List.mem_cons, List.not_mem_nil, or_false] at listed
    rcases listed with rfl | listed
    · exact exec_planLoad_of_reserved due ready
    · rcases listed with rfl | rfl | rfl | rfl | rfl | rfl | rfl | rfl | rfl | rfl | rfl | rfl | rfl | rfl | rfl | rfl | rfl | rfl
      · rw [show exec (.planStart q id true a) s = execPlanStart q id true a s from rfl, execPlanStart, onCmd_of_reserved due]
      · rw [show exec (.planStop q id true) s = execPlanStop q id true s from rfl, execPlanStop, onCmd_of_reserved due]
      · rw [show exec (.planStopAtBoundary q id true) s = execPlanStopAtBoundary q id true s from rfl, execPlanStopAtBoundary, onCmd_of_reserved due]
      · rw [show exec (.planUnload q id true) s = execPlanUnload q id true s from rfl, execPlanUnload, onCmd_of_reserved due]
      · rw [show exec (.planSuspend q id true w) s = execPlanSuspend q id true w s from rfl, execPlanSuspend, onCmd_of_reserved due]
      · rw [show exec (.planResume q id true w l f) s = execPlanResume q id true w l f s from rfl, execPlanResume, onCmd_of_reserved due]
      · rw [show exec (.planStatus q id true a b) s = execPlanStatus q id true a b s from rfl, execPlanStatus, onCmd_of_reserved due]
      · rw [show exec (.hoardLeaseGrant q id true w a b) s = execHoardLeaseGrant q id true w a b s from rfl, execHoardLeaseGrant, onCmd_of_reserved due]
      · rw [show exec (.hoardLeaseRevoke q id true w a b) s = execHoardLeaseRevoke q id true w a b s from rfl, execHoardLeaseRevoke, onCmd_of_reserved due]
      · rw [show exec (.domainPowerOff q id true a f) s = execDomainPowerOff q id true a f s from rfl, execDomainPowerOff, onCmd_of_reserved due]
      · rw [show exec (.domainPowerOn q id true a) s = execDomainPowerOn q id true a s from rfl, execDomainPowerOn, onCmd_of_reserved due]
      · rw [show exec (.watch q id true) s = execWatch q id true s from rfl, execWatch, onCmd_of_reserved due]
      · rw [show exec (.reset q id true) s = execReset q id true s from rfl, execReset, onCmd_of_reserved due]
      · rw [show exec (.licenceInstall q id true a l f) s = execLicenceInstall q id true a l f s from rfl, execLicenceInstall, onCmd_of_reserved due]
      · rw [show exec (.patchInstall q id true a b e l f g) s = execPatchInstall q id true a b e l f g s from rfl, execPatchInstall, onCmd_of_reserved due]
      · rw [show exec (.patchClear q id true a) s = execPatchClear q id true a s from rfl, execPatchClear, onCmd_of_reserved due]
      · rw [show exec (.tallyNotifyArm q id true a b c) s = execTallyNotifyArm q id true a b c s from rfl, execTallyNotifyArm, onCmd_of_reserved due]
      · rw [show exec (.tallyNotifyDisarm q id true a) s = execTallyNotifyDisarm q id true a s from rfl, execTallyNotifyDisarm, onCmd_of_reserved due]
  · intro loaded inside vectored room allocated
    exact ⟨exec_tallyNotifyArm_of_loaded due loaded inside vectored room allocated,
      exec_tallyNotifyDisarm_of_loaded due loaded inside allocated⟩
  · exact fun none => ⟨exec_tallyNotifyArm_of_no_plan due none, exec_tallyNotifyDisarm_of_no_plan due none⟩
  · exact fun address aligned => ⟨length_statusRecord .., exec_planStatus_of_valid due address aligned⟩

end Sys2Proof.Machine

/-! PROOFS. Register writes, doorbells and Q_CFG (O9), and what waits on the host or the link (O12). -/

namespace Sys2Proof.Machine

open Sys2Proof

/-! ### Registers -/

/-- An 8-byte write replaces a field by its bits of the value. -/
theorem put_regWriteOf_whole {off : Nat} (v old lo n : Nat) (aligned : off % 8 = 0) :
    (regWriteOf off 8 v).put old lo n = bits (v % 2 ^ 64) lo n := by
  have mask : (regWriteOf off 8 v).mask = 2 ^ 64 - 1 := by simp [regWriteOf, aligned]
  have val : (regWriteOf off 8 v).val = v % 2 ^ 64 := by simp [regWriteOf, aligned]
  rw [RegWrite.put, mask, val, Nat.xor_self, Nat.and_zero, Nat.zero_or, Nat.and_two_pow_sub_one_eq_mod, Nat.mod_mod]

theorem bits_zero_of_le {n : Nat} (v : Nat) (narrow : n ≤ 64) : bits (v % 2 ^ 64) 0 n = v % 2 ^ n := by
  rw [bits, Nat.shiftRight_zero, Nat.mod_mod_of_dvd _ (pow_dvd_pow 2 narrow)]

section

variable {s : State} {off len v : Nat}

theorem exec_registerWrite_of_bad_size (served : HostServed s) (four : len ≠ 4) (eight : len ≠ 8) :
    exec (.registerWrite off len v) s = .next (replyHost .ur s) := by
  change execRegisterWrite off len v s = _
  have bad : bar0Ok off len = false := by simp [bar0Ok, four, eight]
  rw [execRegisterWrite, onHost_of_served served, if_pos (by rw [bad]; rfl)]

theorem exec_registerWrite_of_whole (served : HostServed s) (aligned : off % 8 = 0) (inside : off + 8 ≤ 0x04000000) :
    exec (.registerWrite off 8 v) s = .next (dcsWrite off 8 v (hostPosted s)) := by
  change execRegisterWrite off 8 v s = _
  have good : bar0Ok off 8 = true := by
    rw [bar0Ok, decide_eq_true (.inr rfl), decide_eq_true aligned, decide_eq_true inside]
    rfl
  rw [execRegisterWrite, onHost_of_served served, if_neg (by rw [good]; simp)]

theorem off_regWriteOf (aligned : off % 8 = 0) : (regWriteOf off len v).off = off :=
  Nat.div_mul_cancel (Nat.dvd_of_mod_eq_zero aligned)

/-- Offsets below the dies lie in no power domain. -/
theorem dcsDark_of_hub (low : off < 0x01000000) : dcsDark s off = false := by
  have none : dcsDomain off = none := by
    rw [dcsDomain, if_neg (by omega), if_neg (by omega), if_neg (by omega)]
  simp only [dcsDark, none]

theorem dcsWrite_threshold : dcsWrite 0x80 8 v s = { s with log := { s.log with threshold := v % 2 ^ 13 } } := by
  have at80 : (regWriteOf 0x80 8 v).off = 0x80 := off_regWriteOf rfl
  rw [dcsWrite]
  dsimp only
  rw [dcsDark_of_hub (by decide), if_neg (by decide), at80, if_pos (by decide), writeHub]
  dsimp only
  rw [at80, if_neg (by decide), if_neg (by decide)]
  change { s with log := { s.log with threshold := (regWriteOf 0x80 8 v).put s.log.threshold 0 13 } } = _
  rw [put_regWriteOf_whole v _ _ _ rfl, bits_zero_of_le v (by decide)]

theorem dcsWrite_cap : dcsWrite 0x00100008 8 v s =
    { s with power := { s.power with commit := { s.power.commit with staged := s.power.commit.staged ++ [regWriteOf 0x00100008 8 v] } } } := by
  have at8 : (regWriteOf 0x00100008 8 v).off = 0x00100008 := off_regWriteOf rfl
  rw [dcsWrite]
  dsimp only
  rw [dcsDark_of_hub (by decide), if_neg (by decide), at8, if_neg (by decide), if_pos (by decide), writePwr]
  dsimp only
  rw [at8, if_neg (by decide), if_pos (by decide)]
  rfl

theorem dcsWrite_of_reserved (aligned : off % 8 = 0) (low : 0x00400000 ≤ off) (high : off < 0x01000000) : dcsWrite off 8 v s = s := by
  have there : (regWriteOf off 8 v).off = off := off_regWriteOf aligned
  rw [dcsWrite]
  rw [dcsDark_of_hub high, if_neg (by decide), there, if_neg (by omega), if_neg (by omega), if_neg (by omega), if_neg (by omega), if_pos high]

end

/-! ### Doorbells -/

section

variable {s : State} {q v : Nat}

theorem exec_sqTail_of_whole (served : HostServed s) (inside : q < 8) : exec (.sqTail q v 8) s = .next (ringSq q v (hostPosted s)) := by
  change execSqTail q v 8 s = _
  rw [execSqTail, onHost_of_served served, if_neg (by omega)]

theorem exec_cqHead_of_whole (served : HostServed s) (inside : q < 8) : exec (.cqHead q v 8) s = .next (ringCq q v (hostPosted s)) := by
  change execCqHead q v 8 s = _
  rw [execCqHead, onHost_of_served served, if_neg (by omega)]

theorem exec_sqTail_of_half (served : HostServed s) : exec (.sqTail q v 4) s = .next (replyHost .ur s) := by
  change execSqTail q v 4 s = _
  rw [execSqTail, onHost_of_served served, if_pos (.inl (by decide))]

theorem exec_cqHead_of_half (served : HostServed s) : exec (.cqHead q v 4) s = .next (replyHost .ur s) := by
  change execCqHead q v 4 s = _
  rw [execCqHead, onHost_of_served served, if_pos (.inl (by decide))]

/-- A queue that is not as after reset reads what was written. -/
theorem queueOf_modQueue_self {f : Queue → Queue} (changed : f (queueOf s q) ≠ {}) : queueOf (modQueue q f s) q = f (queueOf s q) :=
  SMap.get_modify_self _ _ _ _ changed

theorem ringCq_of_inside (inside : v % 4096 ≤ (queueOf s q).cqSize) (room : (queueOf s q).held = none)
    (enabled : (queueOf s q).enable = true) : ringCq q v s = modQueue q (fun k => { k with cqHead := v % 4096 }) s := by
  have rung : queueOf (modQueue q (fun k => { k with cqHead := v % 4096 }) s) q = { queueOf s q with cqHead := v % 4096 } := by
    refine queueOf_modQueue_self fun reset => ?_
    have off : (queueOf s q).enable = false := congrArg Queue.enable reset
    rw [off] at enabled
    exact absurd enabled (by decide)
  rw [ringCq]
  rw [if_neg inside.not_gt, flushHeld, rung]
  simp only [room]

theorem exec_queueEnable_of_inside (served : HostServed s) (inside : q < 8) :
    exec (.queueEnable q v) s = .next (enableQueue q v (hostPosted s)) := by
  change execQueueEnable q v s = _
  rw [execQueueEnable, onHost_of_served served, if_neg (by omega)]

theorem exec_queueDisable_of_inside (served : HostServed s) (inside : q < 8) :
    exec (.queueDisable q v) s = .next (disableQueue q v (hostPosted s)) := by
  change execQueueDisable q v s = _
  rw [execQueueDisable, onHost_of_served served, if_neg (by omega)]

/-- Q_CFG names a vector, so the queue it writes is not as after reset. -/
theorem queueOf_queueCfg : queueOf (queueCfg q v s) q = { queueOf s q with
    sqSize := if (queueOf s q).enable then (queueOf s q).sqSize else bits v 0 12
    cqSize := if (queueOf s q).enable then (queueOf s q).cqSize else bits v 16 12
    vector := some (bits v 32 11) } :=
  queueOf_modQueue_self fun reset => by simpa using congrArg Queue.vector reset

theorem queueOf_enableQueue (disabled : (queueOf s q).enable = false) : queueOf (enableQueue q v s) q = { queueOf s q with
    sqSize := bits v 0 12, cqSize := bits v 16 12, vector := some (bits v 32 11), enable := true
    sqHead := 0, cqTail := 0, sqTail := 0, cqHead := 0, phase := true, fault := false } := by
  rw [enableQueue]
  dsimp only
  rw [if_neg (by simp [disabled]), queueOf_modQueue_self fun reset => by simpa using congrArg Queue.enable reset, queueOf_queueCfg]
  simp only [disabled, Bool.false_eq_true, if_false]

theorem queueOf_disableQueue : queueOf (disableQueue q v s) q = { queueOf s q with
    sqSize := if (queueOf s q).enable then (queueOf s q).sqSize else bits v 0 12
    cqSize := if (queueOf s q).enable then (queueOf s q).cqSize else bits v 16 12
    vector := some (bits v 32 11), enable := false
    busy := if (queueOf s q).held.isSome then none else (queueOf s q).busy, held := none } := by
  rw [disableQueue]
  dsimp only
  rw [queueOf_modQueue_self, queueOf_queueCfg]
  rw [queueOf_queueCfg]
  exact fun reset => by simpa using congrArg Queue.vector reset

theorem onlyHub_enableQueue : OnlyHub s (enableQueue q v (hostPosted s)) := by
  unfold enableQueue
  dsimp only
  split <;> rfl

end

/-- Settles O9: each write goes by its offset, and each doorbell by the queue's size. -/
theorem hostRegisterWrites : Obligations.HostRegisterWrites := by
  refine ⟨fun s v served => ⟨?_, ?_, ?_, ?_⟩, fun s q v served inside => ⟨?_, ?_, ?_, ?_, ?_, ?_, ?_⟩⟩
  · rw [exec_registerWrite_of_whole served rfl (by decide), dcsWrite_threshold]
  · have staged := (exec_registerWrite_of_whole (v := v) served rfl (by decide)).trans (congrArg _ dcsWrite_cap)
    exact ⟨_, staged, rfl, rfl⟩
  · intro off low high aligned _
    rw [exec_registerWrite_of_whole served aligned (by omega), dcsWrite_of_reserved aligned low high]
  · exact fun off len four eight => exec_registerWrite_of_bad_size served four eight
  · intro fits
    rw [exec_sqTail_of_whole served inside, ringSq]
    exact congrArg _ (if_neg (show ¬(queueOf s q).sqSize < v % 4096 from fits.not_gt))
  · intro beyond
    rw [exec_sqTail_of_whole served inside, ringSq]
    exact congrArg _ (if_pos (show (queueOf s q).sqSize < v % 4096 from beyond))
  · intro fits room enabled
    rw [exec_cqHead_of_whole served inside, ringCq_of_inside (s := hostPosted s) fits room enabled]
  · intro beyond
    rw [exec_cqHead_of_whole served inside, ringCq]
    exact congrArg _ (if_pos (show (queueOf s q).cqSize < v % 4096 from beyond))
  · exact ⟨exec_sqTail_of_half served, exec_cqHead_of_half served⟩
  · exact fun disabled => ⟨_, exec_queueEnable_of_inside served inside, onlyHub_enableQueue, queueOf_enableQueue (s := hostPosted s) disabled⟩
  · exact ⟨_, exec_queueDisable_of_inside served inside, rfl, queueOf_disableQueue (s := hostPosted s)⟩

end Sys2Proof.Machine

/-! PROOFS. What waits on the host or configures the link (O12). -/

namespace Sys2Proof.Machine

open Sys2Proof

section

variable {s : State}

theorem exec_devSync_of_served (served : HostServed s) : exec .devSync s = .next (replyHost (.data (leBytes 8 s.hub.hostWrites) false) s) := by
  change execDevSync s = _
  rw [execDevSync, onHost_of_served served]

theorem exec_logAck_of_served {v : Nat} (served : HostServed s) : exec (.logAck v) s = .next (
    let t := hostPosted s
    logVector { t with log := { t.log with acked := v % 2 ^ 32, armed := true } }) := by
  change execLogAck v s = _
  rw [execLogAck, onHost_of_served served, ackLog]

/-! ### The link going down and coming back -/

theorem failHostCopies_of_no_copies {e : Nat} (none : (hareOf s e).copies = []) : failHostCopies e s = s := by
  rw [failHostCopies, none]
  rfl

theorem forEach_of_fixed {α : Type} {l : List α} {f : α → State → State} (fixed : ∀ a, f a s = s) : forEach l f s = s :=
  forEach_induct (fun t => t = s) f (fun a _ same => by rw [same, fixed a]) l s rfl

/-- The state just after the link went down: counted and recorded. -/
def linkDown (cause : Nat) (s : State) : State :=
  logEvent 0x1200 srcDevice [(4, cause)] { s with hub := { s.hub with l0 := false, downs := satAdd 16 s.hub.downs 1 } }

theorem exec_hostlinkDown {cause : Nat} (up : s.hub.l0 = true) :
    exec (.hostlinkDown cause) s = .next (forEach (s.units.hare.map (·.1)) failHostCopies (linkDown cause s)) := by
  change execHostlinkDown cause s = _
  rw [execHostlinkDown, if_pos up]
  dsimp only
  rw [logEvent_units]
  rfl

theorem linkDown_same {cause : Nat} : SameButLog { s with hub := { s.hub with l0 := false, downs := satAdd 16 s.hub.downs 1 } } (linkDown cause s) :=
  logEvent_same ..

theorem onlyHub_linkDown {cause : Nat} : OnlyHub s (linkDown cause s) := by
  obtain ⟨log, msix, out, same⟩ := linkDown_same (s := s) (cause := cause)
  rw [same]
  rfl

theorem msixSend_of_down {vec : Nat} (down : s.hub.l0 = false) :
    msixSend vec s = { s with hub := { s.hub with out := s.hub.out ++ [.msix vec] } } := by
  rw [msixSend, if_neg (by simp [down])]

theorem hostWrite_of_down {a : Nat} {d : List Byte} (down : s.hub.l0 = false) :
    hostWrite a d s = { s with hub := { s.hub with out := s.hub.out ++ [.write a d] } } := by
  rw [hostWrite, if_neg (by simp [down])]

theorem exec_hostlinkUp_of_down (down : s.hub.l0 = false) : exec .hostlinkUp s =
    .next (forEach s.hub.out sendOut (logEvent 0x1201 srcDevice [] { s with hub := { s.hub with l0 := true, out := [] } })) := by
  change execHostlinkUp s = _
  rw [execHostlinkUp, if_neg (by simp [down])]

/-! ### Completion timeouts (R527) -/

theorem exec_commandTimeout_of_load {q id : Nat} (busy : (queueOf s q).busy = some id) (reading : s.load.stage = .reading)
    (mine : s.load.queue = q) : exec (.hostCompletionTimeout (.command q)) s = .next (endCmd q id 6 { s with
      load := { s.load with stage := .idle, image := [], plan := none }, run := { s.run with st := .none } }) := by
  change execHostCompletionTimeout (.command q) s = _
  rw [execHostCompletionTimeout]
  simp only [busy]
  rw [if_pos ⟨reading, mine⟩, dropLoad, if_pos ⟨reading, mine⟩]

theorem exec_commandTimeout_of_fetch {q : Nat} (idle : (queueOf s q).busy = none) (due : cmdDue s q = true) :
    exec (.hostCompletionTimeout (.command q)) s = .next (queueFault q 2 s) := by
  change execHostCompletionTimeout (.command q) s = _
  rw [execHostCompletionTimeout]
  simp only [idle, due, if_true]

theorem exec_copyTimeout_of_running {e i : Nat} {c : CopyRec} (running : copyOf s e i = some c) (going : c.stopped = false) :
    exec (.hostCompletionTimeout (.copy e i)) s = .next (hostErrorCopy e c (hostFailAddr c) 0 s) := by
  change execHostCompletionTimeout (.copy e i) s = _
  rw [execHostCompletionTimeout]
  simp only [running, going, Bool.false_eq_true, if_false]

theorem exec_copyTimeout_of_none {e i : Nat} (none : copyOf s e i = none) :
    exec (.hostCompletionTimeout (.copy e i)) s = .next (foxReadbackDone e i s) := by
  change execHostCompletionTimeout (.copy e i) s = _
  rw [execHostCompletionTimeout]
  simp only [none]

/-! ### Configuration -/

theorem exec_configurationRequest_of_starting {c : CfgReq} (up : s.hub.l0 = true) (starting : s.hub.ready = false)
    (awake : s.power.st ≠ .watch) : exec (.configurationRequest c) s = .next (replyHost .crs s) := by
  change execConfigurationRequest c s = _
  rw [execConfigurationRequest, if_neg (by simp [up]), if_pos (by simp [starting, awake])]

theorem exec_bar2Request {g : Nat} (served : HostServed s) (size : g ∈ [1, 2, 4, 8, 16, 32]) :
    exec (.configurationRequest (.bar2 g)) s = .next { s with hub := { s.hub with reply := .none, bar2 := g } } := by
  obtain ⟨up, ready⟩ := served
  change execConfigurationRequest (.bar2 g) s = _
  rw [execConfigurationRequest, if_neg (by simp [up]), if_neg (by simp [ready])]
  dsimp only
  rw [if_pos size]
  rfl

theorem exec_readRequest {off : Nat} (served : HostServed s) : exec (.configurationRequest (.read off)) s =
    .next (replyHost (.data (cfgWord off (replyHost .none s)) false) (useFree (replyHost .none s))) := by
  obtain ⟨up, ready⟩ := served
  change execConfigurationRequest (.read off) s = _
  rw [execConfigurationRequest, if_neg (by simp [up]), if_neg (by simp [ready])]

theorem exec_powerRequest {d : Bool} (served : HostServed s) :
    exec (.configurationRequest (.power d)) s = .next { s with hub := { s.hub with reply := .none, d3hot := d } } := by
  obtain ⟨up, ready⟩ := served
  change execConfigurationRequest (.power d) s = _
  rw [execConfigurationRequest, if_neg (by simp [up]), if_neg (by simp [ready])]
  rfl

end

/-- Settles O12, from what each of these commands answers. -/
theorem hostLinkCommands : Obligations.HostLinkCommands := by
  refine ⟨fun s v cause => ⟨exec_devSync_of_served, exec_logAck_of_served, fun up => ⟨exec_hostlinkDown up, fun none => ?_, onlyHub_linkDown⟩,
      fun down => ⟨fun vec => msixSend_of_down down, fun a d => hostWrite_of_down down⟩, exec_hostlinkUp_of_down⟩,
    fun s q id => ⟨exec_commandTimeout_of_load, fun e i c => exec_copyTimeout_of_running, fun e i => exec_copyTimeout_of_none,
      exec_commandTimeout_of_fetch, fun up starting awake c => exec_configurationRequest_of_starting up starting awake,
      fun served g => exec_bar2Request served, fun served => ⟨_, exec_readRequest served, rfl, rfl, rfl⟩, fun served d => exec_powerRequest served⟩⟩
  refine (exec_hostlinkDown up).trans (congrArg _ (forEach_of_fixed fun e => failHostCopies_of_no_copies ?_))
  have units : (linkDown cause s).units = s.units := linkDown_same.units
  rw [hareOf, units]
  exact none e

end Sys2Proof.Machine

/-! PROOFS. The join and the hoard lease of a load (O15), and START and the phases of a plan (O18). -/

namespace Sys2Proof.Machine

open Sys2Proof

/-! ### The steward's side of the join -/

section

variable {s : State} {p : Packet} {pl : Plan}

theorem exec_join_of_served (plan : joinPlan s = some pl) (serving : joinServed s = true) : exec (.join p) s =
    if (spanEntry pl p.source).isNone then .next (takeIngress p s)
    else if s.load.refusing then .next (sendMsgPos (refusingVerdict pl (takeIngress p s)) p.source (takeIngress p s))
    else match (msgOf p).bind (joinRecord pl) with
      | some j => .next (takeJoin pl p.source j (takeIngress p s))
      | none => .next (takeIngress p s) := by
  change execJoin p s = _
  rw [execJoin, plan]
  dsimp only
  rw [if_neg (by simp [serving])]
  rfl

theorem exec_withdraw_of_served (plan : joinPlan s = some pl) (serving : joinServed s = true) : exec (.withdraw p) s =
    if (spanEntry pl p.source).isNone then .next (takeIngress p s)
    else if s.load.refusing then .next (sendMsgPos (refusingVerdict pl (takeIngress p s)) p.source (takeIngress p s))
    else match s.load.verdict with
      | some v => .next (sendMsgPos v.msg p.source (takeIngress p s))
      | none =>
        let t := giveVerdict (refusal 0x28) (takeIngress p s)
        .next (if (joinedAt t).contains p.source then t else sendMsgPos (refusal 0x28).msg p.source t) := by
  change execWithdraw p s = _
  rw [execWithdraw, plan]
  dsimp only
  rw [if_neg (by simp [serving])]
  rfl

variable {pos : Nat} {j : Joined}

/-- The first JOIN of a non-spare with another plan ends the join. -/
theorem takeJoin_of_mismatch (undecided : s.load.verdict = none) (active : j.spare = false) (other : j.matching = false) :
    takeJoin pl pos j s = giveVerdict (refusal 0x26) { s with load := { s.load with joined := SMap.set none s.load.joined pos (some j) } } := by
  rw [takeJoin]
  simp only [undecided, active, Bool.false_eq_true, if_false, joinFailure, other, Bool.not_false, if_true]

theorem takeJoin_of_verdict {v : Verdict} (decided : s.load.verdict = some v) (active : j.spare = false) :
    takeJoin pl pos j s = sendMsgPos v.msg pos { s with load := { s.load with joined := SMap.set none s.load.joined pos (some j) } } := by
  rw [takeJoin]
  simp only [decided, active, Bool.and_false, Bool.false_and, Bool.false_eq_true, if_false]

theorem exec_stewardJoinTimeout_of_undecided (plan : joinPlan s = some pl) (joining : s.load.stage = .joining)
    (undecided : s.load.verdict = none) : exec .stewardJoinTimeout s = .next (giveVerdict (refusal 0x28) s) :=
  if_pos ⟨by simp [plan], joining, by simp [undecided]⟩

theorem exec_refusingStewardEnd_of_refusing (refusing : s.load.refusing = true) :
    exec .refusingStewardEnd s = .next { s with load := { s.load with refusing := false, plan := none } } :=
  if_pos refusing

end

/-! ### The joining device's timeouts and its lease -/

section

variable {s : State} {p : Packet} {pl : Plan} {id : Word64} {size pos : Nat}

theorem exec_joinTimeout_of_joining (plan : s.load.plan = some pl) (joining : s.load.stage = .joining) (other : stewardHere pl s = false)
    (steward : spanPos pl pl.steward = some pos) :
    exec .joinTimeout s = .next (sendMsgPos .withdraw pos { s with load := { s.load with stage := .withdrawn } }) := by
  change execJoinTimeout s = _
  rw [execJoinTimeout, plan]
  dsimp only
  rw [if_pos ⟨joining, other⟩, steward]

theorem exec_withdrawTimeout_of_withdrawn (plan : s.load.plan = some pl) (withdrawn : s.load.stage = .withdrawn) :
    exec .withdrawTimeout s = .next (refuseLoad pl.planId.toNat { code := 0x28 } 0 0 s) := by
  change execWithdrawTimeout s = _
  rw [execWithdrawTimeout, if_pos withdrawn, refuseStage4, plan]

/-- The answer to a pending lease check, at a device that joins. -/
theorem exec_leaseOk_of_pending {ok : Bool} (plan : s.load.plan = some pl) (unloaded : s.run.plan = none) (joining : s.load.stage = .joining)
    (waits : s.load.lease = .pending) (msg : msgOf p = some (.leaseOk pl.planId ok)) : exec (.leaseOk p) s = .next (
      if ok then sendJoin pl 0 .confirmed { takeIngress p s with load := { s.load with lease := .confirmed } }
      else leaseRefused pl (takeIngress p s)) := by
  have answers : ¬((takeIngress p s).load.stage ≠ .joining ∨ (takeIngress p s).load.lease ≠ .pending ∨ pl.planId ≠ pl.planId) := by
    simp [joining, waits]
  have plan' : (takeIngress p s).load.plan = some pl := plan
  have unloaded' : (takeIngress p s).run.plan = none := unloaded
  change execLeaseOk p s = _
  rw [execLeaseOk, msg]
  dsimp only
  rw [plan', unloaded']
  dsimp only
  rw [if_neg answers]
  cases ok
  · rfl
  · rw [plan]
    rfl

theorem exec_leaseCheckTimeout_of_pending (plan : s.load.plan = some pl) (joining : s.load.stage = .joining)
    (waits : s.load.lease = .pending) : exec .leaseCheckTimeout s = .next (leaseRefused pl s) := by
  change execLeaseCheckTimeout s = _
  rw [execLeaseCheckTimeout, plan]
  dsimp only
  rw [if_pos ⟨joining, waits⟩]

theorem exec_leaseCheck_of_holder {l : LeaseRec} (msg : msgOf p = some (.leaseCheck id size pos)) (lease : s.hub.lease = some l)
    (same : l.planId = id) (large : size ≤ l.size) : exec (.leaseCheck p) s =
      .next (sendMsgPos (.leaseOk id true) pos (refreshPartnerLanes
        (let t := takeIngress p s; { t with hub := { t.hub with lease := some { l with served := some pos, need := size } } }))) := by
  have lease' : (takeIngress p s).hub.lease = some l := lease
  change execLeaseCheck p s = _
  rw [execLeaseCheck, msg]
  dsimp only
  rw [lease']
  dsimp only
  rw [if_pos ⟨same, large⟩]

theorem exec_leaseCheck_of_none (msg : msgOf p = some (.leaseCheck id size pos)) (lease : s.hub.lease = none) :
    exec (.leaseCheck p) s = .next (sendMsgPos (.leaseOk id false) pos (takeIngress p s)) := by
  have lease' : (takeIngress p s).hub.lease = none := lease
  change execLeaseCheck p s = _
  rw [execLeaseCheck, msg]
  dsimp only
  rw [lease']

end

/-- Settles O15: the steward's cases by what has been decided, then the joining device's by what it waits for. -/
theorem joinAndLeases : Obligations.JoinAndLeases := by
  refine ⟨fun s p pl plan serving => ⟨?_, ?_, ?_, ?_, ?_, exec_stewardJoinTimeout_of_undecided plan, exec_refusingStewardEnd_of_refusing⟩,
    fun s p pl id size pos => ⟨fun plan joining other sp => exec_joinTimeout_of_joining plan joining other, exec_withdrawTimeout_of_withdrawn,
      fun plan unloaded joining waits => ⟨exec_leaseOk_of_pending plan unloaded joining waits,
        exec_leaseOk_of_pending plan unloaded joining waits, exec_leaseCheckTimeout_of_pending plan joining waits⟩,
      fun msg => ⟨fun l => exec_leaseCheck_of_holder msg, exec_leaseCheck_of_none msg⟩⟩⟩
  · intro outside
    rw [exec_join_of_served plan serving, exec_withdraw_of_served plan serving, if_pos outside, if_pos outside]
    exact ⟨rfl, rfl⟩
  · intro inside refusing
    have entry : ¬(spanEntry pl p.source).isNone = true := by simpa [Option.isSome_iff_ne_none] using inside
    rw [exec_join_of_served plan serving, exec_withdraw_of_served plan serving, if_neg entry, if_neg entry, if_pos refusing, if_pos refusing]
    exact ⟨rfl, rfl⟩
  · intro m j inside willing undecided msg record active other
    have entry : ¬(spanEntry pl p.source).isNone = true := by simpa [Option.isSome_iff_ne_none] using inside
    rw [exec_join_of_served plan serving, if_neg entry, if_neg (by simp [willing]), msg, Option.bind_some, record]
    exact congrArg _ (takeJoin_of_mismatch (s := takeIngress p s) undecided active other)
  · intro m j v inside willing decided msg record active
    have entry : ¬(spanEntry pl p.source).isNone = true := by simpa [Option.isSome_iff_ne_none] using inside
    rw [exec_join_of_served plan serving, if_neg entry, if_neg (by simp [willing]), msg, Option.bind_some, record]
    exact congrArg _ (takeJoin_of_verdict (s := takeIngress p s) decided active)
  · intro v inside willing decided
    have entry : ¬(spanEntry pl p.source).isNone = true := by simpa [Option.isSome_iff_ne_none] using inside
    rw [exec_withdraw_of_served plan serving, if_neg entry, if_neg (by simp [willing]), decided]

/-! ### START and the phases -/

section

variable {s : State} {p : Packet} {h : HallTime}

theorem exec_start_of_held (msg : msgOf p = some (.start h)) (held : (relayMsg p (takeIngress p s)).run.st = .hold)
    (mine : ours p (relayMsg p (takeIngress p s)) = true) : exec (.start p) s =
      .next (let r := relayMsg p (takeIngress p s); { r with run := { r.run with startAt := some h } }) := by
  change execStart p s = _
  rw [execStart, msg]
  dsimp only
  rw [if_pos ⟨held, mine⟩]

theorem exec_planStartTime_of_held (noted : s.run.startAt = some h) (held : s.run.st = .hold)
    (idle : s.epoch.stage = .none ∨ s.epoch.stage = .running) (still : recalling s = false) :
    exec .planStartTime s = .next (beginPlan (reachTime h s)) := by
  change execPlanStartTime s = _
  rw [execPlanStartTime, noted]
  exact if_pos ⟨held, idle, still⟩

theorem exec_phaseStart_of_ready (running : s.run.st = .run) (between : s.run.between = true) (going : s.run.halted = false)
    (idle : epochIdle s = true) (staying : s.hub.suspending = false) (locked : ringsLocked s = true) :
    exec .phaseStart s = .next (if (phaseOf s s.run.phase).kind = 2 then endPlan 1 s else startPhase s) :=
  if_pos ⟨running, between, going, idle, staying, locked⟩

theorem exec_phaseEnd_of_open (unfinished : phaseDone s = false) : exec .phaseEnd s = .next s := by
  change execPhaseEnd s = _
  rw [execPhaseEnd, if_pos (by simp [unfinished])]

theorem exec_phaseEnd_of_done (finished : phaseDone s = true) (plain : (phaseOf s s.run.phase).epoch = false)
    (staying : s.hub.suspending = false) : exec .phaseEnd s = .next (endPhase s) := by
  change execPhaseEnd s = _
  rw [execPhaseEnd, if_neg (by simp [finished]), if_neg (by simp [plain, staying])]

end

/-- Settles O18, from what START and each command of a phase answer. -/
theorem phasesRunInOrder : Obligations.PhasesRunInOrder := by
  intro s p h
  exact ⟨exec_start_of_held, exec_planStartTime_of_held, exec_phaseStart_of_ready, exec_phaseEnd_of_open, exec_phaseEnd_of_done, rfl⟩

end Sys2Proof.Machine

/-! PROOFS. PLAN_START to PLAN_SUSPEND and the suspension of a span (O16); leases, licences, patches and RESET (O17). -/

namespace Sys2Proof.Machine

open Sys2Proof

/-! ### The commands of a plan -/

section

variable {s : State} {q id delay : Nat} {area : Word64}

theorem exec_planStart_of_steward (due : cmdDue s q = true) (held : s.run.st = .hold) (steward : s.run.me = some (stewardOf s))
    (unasked : s.hub.starter = none) (unnamed : s.run.startAt = none) (plain : epochRec s = none) (low : 100 ≤ delay)
    (high : delay ≤ 10000000) :
    exec (.planStart q id false delay) s = .next (sendStart { queue := q, cmdId := id % 65536 } delay (takeCmd q id s)) := by
  have held' : (takeCmd q id s).run.st = .hold := held
  have steward' : (takeCmd q id s).run.me = some (stewardOf (takeCmd q id s)) := steward
  have unasked' : ¬((takeCmd q id s).hub.starter.isSome ∨ (takeCmd q id s).run.startAt.isSome = true) := by
    rw [show (takeCmd q id s).hub.starter = none from unasked, show (takeCmd q id s).run.startAt = none from unnamed]
    decide
  have plain' : epochRec (takeCmd q id s) = none := plain
  change execPlanStart q id false delay s = _
  rw [execPlanStart, onCmd_of_due due]
  dsimp only
  rw [if_neg (by omega : ¬delay = 0), if_neg (by omega), held']
  dsimp only
  rw [if_neg (not_not.2 steward'), if_neg unasked', startSpan, plain']
  rfl

theorem exec_planStart_of_other (due : cmdDue s q = true) (held : s.run.st = .hold) (other : s.run.me ≠ some (stewardOf s)) :
    exec (.planStart q id false 0) s = .next (endCmd q id 4 (takeCmd q id s)) := by
  have held' : (takeCmd q id s).run.st = .hold := held
  have other' : (takeCmd q id s).run.me ≠ some (stewardOf (takeCmd q id s)) := other
  change execPlanStart q id false 0 s = _
  rw [execPlanStart, onCmd_of_due due]
  dsimp only
  rw [if_pos rfl, if_neg (by omega), held']
  exact congrArg _ (if_pos other')

/-- A stop of a running plan asks the coordinator, and its command waits. -/
theorem askStop_of_run {later : Bool} (running : s.run.st = .run) : askStop q id later s =
    sendMsg (.stopReq later) (coordinatorOf s)
      { s with hub := { s.hub with stoppers := s.hub.stoppers ++ [{ queue := q, cmdId := id % 65536 }] } } := by
  rw [askStop]
  simp only [running]

theorem exec_planStop_of_due (due : cmdDue s q = true) : exec (.planStop q id false) s = .next (askStop q id false (takeCmd q id s)) := by
  change execPlanStop q id false s = _
  rw [execPlanStop, onCmd_of_due due]

theorem exec_planStopAtBoundary_of_due (due : cmdDue s q = true) :
    exec (.planStopAtBoundary q id false) s = .next (askStop q id true (takeCmd q id s)) := by
  change execPlanStopAtBoundary q id false s = _
  rw [execPlanStopAtBoundary, onCmd_of_due due]

theorem exec_planUnload_of_run (due : cmdDue s q = true) (running : s.run.st = .run) :
    exec (.planUnload q id false) s = .next (endCmd q id 2 (takeCmd q id s)) := by
  have running' : (takeCmd q id s).run.st = .run := running
  change execPlanUnload q id false s = _
  rw [execPlanUnload, onCmd_of_due due, running']

theorem exec_planUnload_of_still (due : cmdDue s q = true) (still : s.run.st = .hold ∨ s.run.st = .suspended ∨ s.run.st = .ended) :
    exec (.planUnload q id false) s = .next (endCmd q id 0 (discardPlan (takeCmd q id s))) := by
  have still' : (takeCmd q id s).run.st = .hold ∨ (takeCmd q id s).run.st = .suspended ∨ (takeCmd q id s).run.st = .ended := still
  change execPlanUnload q id false s = _
  rw [execPlanUnload, onCmd_of_due due]
  rcases still' with st | st | st <;> rw [st]

/-- A suspend on a running plan whose area is good, and with no other waiting. -/
theorem exec_planSuspend_of_run (due : cmdDue s q = true) (running : s.run.st = .run) (good : areaOk (takeCmd q id s) area = true)
    (unasked : s.hub.suspender = none) : exec (.planSuspend q id false area) s = .next (
      let t := takeCmd q id s
      let t := { t with hub := { t.hub with saveArea := some area, suspender := some { queue := q, cmdId := id % 65536 } } }
      if t.run.me = some (stewardOf t) ∧ t.hub.suspending = false then askSuspend t else t) := by
  have running' : (takeCmd q id s).run.st = .run := running
  have unasked' : (takeCmd q id s).hub.suspender = none := unasked
  change execPlanSuspend q id false area s = _
  rw [execPlanSuspend, onCmd_of_due due, if_neg (by simp [good]), if_neg (fun h => h.1 running'), unasked']

/-! ### Suspension and resumption -/

variable {p : Packet}

theorem exec_suspendRequest_of_asked (msg : msgOf p = some (.suspend true false)) (named : (relayMsg p (takeIngress p s)).run.me ≠ none)
    (mine : ours p (relayMsg p (takeIngress p s)) = true) : exec (.suspendRequest p) s = .next (
      let r := relayMsg p (takeIngress p s)
      sendMsg (.suspend false r.hub.saveArea.isSome) (stewardOf r) r) := by
  change execSuspendRequest p s = _
  rw [execSuspendRequest, msg]
  dsimp only
  rw [if_neg (by simp [named, mine]), if_neg (by decide)]

theorem exec_suspendRequest_of_decided (msg : msgOf p = some (.suspend true true)) (named : (relayMsg p (takeIngress p s)).run.me ≠ none)
    (mine : ours p (relayMsg p (takeIngress p s)) = true) (area : (relayMsg p (takeIngress p s)).hub.saveArea.isSome = true) :
    exec (.suspendRequest p) s = .next (
      let r := relayMsg p (takeIngress p s)
      { r with hub := { r.hub with suspending := true } }) := by
  change execSuspendRequest p s = _
  rw [execSuspendRequest, msg]
  dsimp only
  rw [if_neg (by simp [named, mine]), if_pos rfl, if_pos area]

theorem exec_suspendAnswerTimeout_of_asked {w : Waiter} (asked : s.hub.suspendAsked = true) (waits : s.hub.suspender = some w) :
    exec .suspendAnswerTimeout s =
      .next (finishWaiter w 2 0 { s with hub := { s.hub with suspendAsked := false, suspendAwait := [], suspender := none } }) := by
  change execSuspendAnswerTimeout s = _
  rw [execSuspendAnswerTimeout, if_pos asked, dropSuspend, waits]

/-- What has become suspended. -/
structure Suspended (t : State) : Prop where
  run : t.run.st = .suspended
  power : t.power.st = .hold
  area : t.hub.saveArea = none
  suspender : t.hub.suspender = none
  suspending : t.hub.suspending = false

theorem Answered.suspended {t u : State} (same : Answered t u) (suspended : Suspended t) : Suspended u := by
  obtain ⟨run, power, area, suspender, suspending⟩ := suspended
  rw [same]
  exact ⟨run, power, area, suspender, suspending⟩

theorem exec_saveAreaWritten_of_area (waits : s.hub.saveArea = some area) (good : canSave s area = true) :
    ∃ t, exec .saveAreaWritten s = .next t ∧ Suspended t := by
  change ∃ t, execSaveAreaWritten s = .next t ∧ Suspended t
  rw [execSaveAreaWritten, waits]
  dsimp only
  rw [if_neg (by simp [good])]
  refine ⟨_, rfl, ?_⟩
  split
  · refine Answered.suspended (Answered.refl _).logEvent.postStatus.postCompletion ?_
    exact ⟨rfl, rfl, rfl, rfl, rfl⟩
  · refine Answered.suspended (Answered.refl _).logEvent.postStatus ?_
    exact ⟨rfl, rfl, rfl, rfl, rfl⟩

theorem exec_planResume_of_host {host : List Byte} (due : cmdDue s q = true) (good : areaOk (takeCmd q id s) area = true)
    (held : s.run.st = .hold) (named : s.run.me ≠ none) (unasked : s.hub.starter = none) (unnamed : s.run.startAt = none)
    (space : (hallAddr area).space = 6) : exec (.planResume q id false area host true) s = .next (
      let m := Memory.writeBytes [] 0 (host.take saveSize)
      if !saveOk m (takeCmd q id s) then postCompletion q id 1 1 (takeCmd q id s)
      else endCmd q id 0 (resumePlan m (takeCmd q id s))) := by
  have held' : ¬((takeCmd q id s).run.st ≠ .hold ∨ (takeCmd q id s).run.me.isNone = true) := by
    rw [show (takeCmd q id s).run.st = .hold from held, show (takeCmd q id s).run.me = s.run.me from rfl]
    simp [named]
  have unasked' : ¬((takeCmd q id s).hub.starter.isSome ∨ (takeCmd q id s).run.startAt.isSome = true) := by
    rw [show (takeCmd q id s).hub.starter = none from unasked, show (takeCmd q id s).run.startAt = none from unnamed]
    decide
  change execPlanResume q id false area host true s = _
  rw [execPlanResume, onCmd_of_due due]
  dsimp only
  rw [if_neg (by simp [good]), if_neg held', if_neg unasked', if_neg (by simp), if_pos space]

end

/-- Settles O16, command by command. -/
theorem planCommandsAndSuspension : Obligations.PlanCommandsAndSuspension := by
  refine ⟨fun s q id delay area due => ⟨exec_planStart_of_steward due, exec_planStart_of_other due, fun running => ⟨?_, ?_, ?_⟩,
      exec_planUnload_of_still due, ?_, ?_⟩,
    fun s p q id area host => ⟨exec_suspendRequest_of_asked, exec_suspendRequest_of_decided,
      fun w => exec_suspendAnswerTimeout_of_asked, ?_, fun due good held named unasked unnamed space => ⟨?_, ?_⟩⟩⟩
  · rw [exec_planStop_of_due due, askStop_of_run (s := takeCmd q id s) running]
  · rw [exec_planStopAtBoundary_of_due due, askStop_of_run (s := takeCmd q id s) running]
  · exact exec_planUnload_of_run due running
  · intro running good unasked other
    rw [exec_planSuspend_of_run due running good unasked]
    exact congrArg _ (if_neg fun h => other h.1)
  · intro running good unasked steward staying
    rw [exec_planSuspend_of_run due running good unasked]
    exact congrArg _ (if_pos ⟨steward, staying⟩)
  · intro a waits good
    obtain ⟨t, answer, run, power, area, suspender, suspending⟩ := exec_saveAreaWritten_of_area waits good
    exact ⟨t, answer, run, power, area, suspender, suspending⟩
  · intro intact
    rw [exec_planResume_of_host due good held named unasked unnamed space]
    exact congrArg _ (if_neg (by simp [intact]))
  · intro broken
    rw [exec_planResume_of_host due good held named unasked unnamed space]
    exact congrArg _ (if_pos (by simp [broken]))

/-! ### Leases, licences, patches and RESET -/

section

variable {s : State} {q id base size addr len slot : Nat} {plan : Word64} {d : List Byte}

theorem hostAddrOk_one (address : addr < 2 ^ 44) : hostAddrOk addr 1 = true := by
  rw [hostAddrOk, decide_eq_true address, Nat.mod_one]
  rfl

theorem exec_hoardLeaseGrant_of_words (due : cmdDue s q = true) (words : leaseOkWords base size = true) :
    exec (.hoardLeaseGrant q id false plan base size) s = .next (
      let t := takeCmd q id s
      if t.hub.lease.isSome ∨ (planRanges t).any (overlaps (base, size + size / 2)) = true then endCmd q id 2 t
      else endCmd q id 0
        (withMapping (fun s => { s with hub := { s.hub with lease := some { planId := plan, base := base, size := size } } }) t)) := by
  change execHoardLeaseGrant q id false plan base size s = _
  rw [execHoardLeaseGrant, onCmd_of_due due, if_neg (by simp [words])]

theorem exec_hoardLeaseRevoke_of_lease {l : LeaseRec} (due : cmdDue s q = true) (lease : s.hub.lease = some l) (same : l.planId = plan) :
    exec (.hoardLeaseRevoke q id false plan base size) s = .next (endCmd q id 0 (revokeLease l (takeCmd q id s))) := by
  have lease' : (takeCmd q id s).hub.lease = some l := lease
  change execHoardLeaseRevoke q id false plan base size s = _
  rw [execHoardLeaseRevoke, onCmd_of_due due, lease']
  dsimp only
  rw [if_pos same]

/-- Whether a valid licence of this serial is there already. -/
def licTwice (d : List Byte) (s : State) : Bool :=
  (List.range 9).any (fun i => decide (licReason (licBytes s i) = 0) && decide (leAt (licBytes s i) 0x1C 4 = leAt d 0x1C 4))

/-- The lowest flash sector that holds no valid licence. -/
def licSector (s : State) : Option Nat := (List.range 8).find? (fun i => decide (licReason (SMap.get [] s.boot.flash i) ≠ 0))

theorem exec_licenceInstall_of_read (due : cmdDue s q = true) (address : addr < 2 ^ 44) :
    exec (.licenceInstall q id false addr d true) s = .next (
      let t := takeCmd q id s
      let d := slice d 0 160
      if licReason d ≠ 0 then licRefuse q id (licReason d) t
      else if licTwice d t then licRefuse q id 6 t
      else match licSector t with
        | none => licRefuse q id 5 t
        | some i => endCmd q id 0 (logEvent 0x5023 srcDevice [(8, leAt d 0x1C 4), (4, leAt d 0x18 1), (4, leAt d 0x19 1)]
            (modBoot (fun b => { b with flash := SMap.set [] b.flash i d }) t))) := by
  change execLicenceInstall q id false addr d true s = _
  rw [execLicenceInstall, onCmd_of_due due, if_neg (by simp [hostAddrOk_one address]), if_neg (by decide)]
  rfl

theorem exec_licenceInstall_of_unread (due : cmdDue s q = true) (address : addr < 2 ^ 44) :
    exec (.licenceInstall q id false addr d false) s = .next (endCmd q id 6 (takeCmd q id s)) := by
  change execLicenceInstall q id false addr d false s = _
  rw [execLicenceInstall, onCmd_of_due due, if_neg (by simp [hostAddrOk_one address]), if_pos (by decide)]

theorem exec_patchInstall_of_valid (due : cmdDue s q = true) (inside : slot < 16) (short : len ≤ 65536) (address : addr < 2 ^ 44)
    (valid : patchReason (slice d 0 len) slot = 0) : exec (.patchInstall q id false addr len slot d true true) s = .next (
      let t := takeCmd q id s
      endCmd q id 0 (logEvent 0x5071 srcDevice [(4, slot)]
        (let x : Patch := { valid := true, serial := leAt (slice d 0 len) 0x10 4, body := slice d 0 len }
         { t with hub := { t.hub with patches := SMap.set {} t.hub.patches slot x } }))) := by
  have words : ¬(16 ≤ slot ∨ 65536 < len ∨ hostAddrOk addr 1 = false) := by
    rw [hostAddrOk_one address]
    simp only [reduceCtorEq, or_false]
    omega
  change execPatchInstall q id false addr len slot d true true s = _
  rw [execPatchInstall, onCmd_of_due due, if_neg words, if_neg (by decide)]
  dsimp only
  rw [if_neg (not_not.2 valid), if_neg (by decide)]

theorem exec_patchClear_of_inside (due : cmdDue s q = true) (inside : slot < 16) : exec (.patchClear q id false slot) s = .next (
    let t := takeCmd q id s
    endCmd q id 0 { t with hub := { t.hub with patches := SMap.erase slot t.hub.patches } }) := by
  change execPatchClear q id false slot s = _
  rw [execPatchClear, onCmd_of_due due, if_neg (by omega)]

theorem exec_reset_of_due (due : cmdDue s q = true) : exec (.reset q id false) s = .next (
    let t := endCmd q id 0 (takeCmd q id s)
    { t with hub := { t.hub with resetDue := true, resetQueue := q } }) := by
  change execReset q id false s = _
  rw [execReset, onCmd_of_due due]

theorem exec_warmResetDelay : exec .warmResetDelay s = .next (if s.hub.resetDue && resetPerformed s then startWarm s else s) :=
  rfl

end

/-- Settles O17, command by command. -/
theorem leaseLicencePatchAndReset : Obligations.LeaseLicencePatchAndReset := by
  refine ⟨fun s q id base size addr len slot plan d due => ⟨?_, ?_, fun l => exec_hoardLeaseRevoke_of_lease due, ?_,
      exec_patchInstall_of_valid due, exec_patchClear_of_inside due, ⟨_, exec_reset_of_due due, rfl, rfl⟩⟩,
    fun s => ⟨?_, ?_⟩,
    fun s q id addr l due address => ⟨exec_licenceInstall_of_unread due address, ?_, ?_, ?_, ?_⟩⟩
  · intro words unleased apart
    rw [exec_hoardLeaseGrant_of_words due words]
    refine congrArg _ (if_neg ?_)
    rw [show (takeCmd q id s).hub.lease = none from unleased, apart]
    decide
  · intro words leased
    rw [exec_hoardLeaseGrant_of_words due words]
    exact congrArg _ (if_pos (.inl leased))
  · intro address bad
    rw [exec_licenceInstall_of_read due address]
    exact congrArg _ (if_pos bad)
  · intro due performed
    rw [exec_warmResetDelay, if_pos (by simp [due, performed])]
  · intro early
    rw [exec_warmResetDelay, if_neg]
    rcases early with early | early <;> simp [early]
  · intro bad
    rw [exec_licenceInstall_of_read due address]
    exact congrArg _ (if_pos bad)
  · intro good twice
    rw [exec_licenceInstall_of_read due address]
    exact congrArg _ ((if_neg (not_not.2 good)).trans (if_pos twice))
  · intro good once full
    have full' : licSector (takeCmd q id s) = none := full
    have once' : ¬licTwice (slice l 0 160) (takeCmd q id s) = true := by rw [show licTwice (slice l 0 160) (takeCmd q id s) = false from once]; decide
    rw [exec_licenceInstall_of_read due address]
    dsimp only
    rw [if_neg (not_not.2 good), if_neg once', full']
  · intro i good once room
    have room' : licSector (takeCmd q id s) = some i := room
    have once' : ¬licTwice (slice l 0 160) (takeCmd q id s) = true := by rw [show licTwice (slice l 0 160) (takeCmd q id s) = false from once]; decide
    rw [exec_licenceInstall_of_read due address]
    dsimp only
    rw [if_neg (not_not.2 good), if_neg once', room']

end Sys2Proof.Machine

/-! PROOFS. The control instructions of an engine (O20). -/

namespace Sys2Proof.Machine

open Sys2Proof

section

variable {s : State} {e : Nat} {w : Word64}

/-! ### Settling -/

theorem settle_of_going (going : (seqOf s e).ending = false) : settle e s = s := by
  rw [settle]
  dsimp only
  rw [if_neg (by simp [going])]

theorem settle_of_opens (opens : (seqOf s e).opens ≠ []) : settle e s = s := by
  rw [settle]
  dsimp only
  rw [if_neg (by simp [opens])]

/-- A program that has reached END with nothing outstanding ends; a hare's staging slots go with it. -/
theorem settle_of_idle (ending : (seqOf s e).ending = true) (opens : (seqOf s e).opens = []) (signals : (seqOf s e).signals = [])
    (sound : (seqOf s e).st ≠ .faulted) (plain : engClass e ≠ 3) :
    settle e s = setSeq e { seqOf s e with st := .ended, ending := false } s := by
  rw [settle]
  dsimp only
  rw [if_pos (by simp [ending, opens, signals, sound]), if_neg plain]

theorem seqOf_setSeq_self {q : Seq} (kept : q ≠ {}) : seqOf (setSeq e q s) e = q := SMap.get_set_self _ _ _ _ kept

theorem seqOf_modSeq_of_running {f : Seq → Seq} (running : (f (seqOf s e)).st = .running) : seqOf (modSeq e f s) e = f (seqOf s e) :=
  seqOf_modSeq_self _ _ _ (seq_running_ne running)

/-! ### Instructions at issue -/

theorem exec_nop_of_issue (issued : issueOf s e [0x00] = some w) : exec (.nop e) s = .next (nextPc e s) := by
  change execNop e s = _
  rw [execNop, onIssue_some _ issued]

theorem exec_errt_of_issue (issued : issueOf s e [0x04] = some w) :
    exec (.errt e) s = .next (modSeq e (fun q => { q with pc := q.pc + 1, errTally := fld w 16 16 }) s) := by
  change execErrt e s = _
  rw [execErrt, onIssue_some _ issued]

theorem exec_setx_of_issue (issued : issueOf s e [0x08] = some w) :
    exec (.setx e) s = .next (nextPc e (setXreg e (fld w 8 4) (fld w 32 32) s)) := by
  change execSetx e s = _
  rw [execSetx, onIssue_some _ issued]

theorem exec_addx_of_issue (issued : issueOf s e [0x09] = some w) :
    exec (.addx e) s = .next (nextPc e (setXreg e (fld w 8 4) (xreg s e (fld w 8 4) + fld w 32 32) s)) := by
  change execAddx e s = _
  rw [execAddx, onIssue_some _ issued]

theorem exec_signal_of_issue (issued : issueOf s e [0x03] = some w) : exec (.signal e) s = .next (modSeq e (fun q => { q with
    pc := q.pc + 1, signals := q.signals ++ [{ issue := q.issued, tally := fld w 16 16, n := fld w 32 32 }] }) s) := by
  change execSignal e s = _
  rw [execSignal, onIssue_some _ issued]

theorem exec_loopX_of_issue (issued : issueOf s e [0x0A] = some w) : exec (.loopX e) s = .next (
    if xreg s e (fld w 8 4) = 0 then nextPc e s
    else modSeq e (fun q => { q with pc := fld w 32 32 / 8 }) (setXreg e (fld w 8 4) (xreg s e (fld w 8 4) - 1) s)) := by
  change execLoopX e s = _
  rw [execLoopX, onIssue_some _ issued]

theorem exec_waitT_of_issue (issued : issueOf s e [0x02] = some w) : exec (.waitT e) s = .next (
    let t := tallyOf s (fld w 16 16)
    if fld w 32 32 ≤ t.count ∨ t.error = true then
      settle e (modSeq e (fun q => { q with pc := q.pc + 1, ending := t.error && bit w.toNat 8 }) s)
    else modSeq e (fun q => { q with
      st := .waiting, wait := some { tally := fld w 16 16, target := fld w 32 32, errEnd := bit w.toNat 8 } }) s) := by
  change execWaitT e s = _
  rw [execWaitT, onIssue_some _ issued]

/-- A WAIT whose target is met goes on: its engine was not ending, and does not end now. -/
theorem exec_waitT_of_met (issued : issueOf s e [0x02] = some w) (met : fld w 32 32 ≤ (tallyOf s (fld w 16 16)).count)
    (clean : (tallyOf s (fld w 16 16)).error = false) : exec (.waitT e) s = .next (nextPc e s) := by
  obtain ⟨running, going⟩ := running_of_issue issued
  have same : modSeq e (fun q => { q with pc := q.pc + 1, ending := false }) s = nextPc e s := by
    rw [modSeq, nextPc, modSeq, going]
  have onward : (seqOf (nextPc e s) e).ending = false := by
    rw [nextPc, seqOf_modSeq_of_running running]
    exact going
  rw [exec_waitT_of_issue issued]
  dsimp only
  rw [if_pos (.inl met), clean, Bool.false_and, same, settle_of_going onward]

theorem exec_endProg_of_issue (issued : issueOf s e [0x01] = some w) :
    exec (.endProg e) s = .next (settle e (modSeq e (fun q => { q with ending := true }) s)) := by
  change execEndProg e s = _
  rw [execEndProg, onIssue_some _ issued]

theorem exec_endProg_of_idle (issued : issueOf s e [0x01] = some w) (plain : engClass e ≠ 3) (opens : (seqOf s e).opens = [])
    (signals : (seqOf s e).signals = []) : Yields (.endProg e) s (fun t => (seqOf t e).st = .ended ∧ t = { s with eng := t.eng }) := by
  obtain ⟨running, -⟩ := running_of_issue issued
  have ending : seqOf (modSeq e (fun q => { q with ending := true }) s) e = { seqOf s e with ending := true } :=
    seqOf_modSeq_of_running running
  have settled : settle e (modSeq e (fun q => { q with ending := true }) s) = _ :=
    settle_of_idle (by rw [ending]) (by rw [ending]; exact opens) (by rw [ending]; exact signals)
      (by rw [ending]; simp [running]) plain
  refine ⟨_, (exec_endProg_of_issue issued).trans (congrArg _ settled), ?_, rfl⟩
  rw [seqOf_setSeq_self fun reset => absurd (congrArg Seq.st reset) (by simp)]

theorem exec_endProg_of_open (issued : issueOf s e [0x01] = some w) (opens : (seqOf s e).opens ≠ []) :
    exec (.endProg e) s = .next (modSeq e (fun q => { q with ending := true }) s) := by
  obtain ⟨running, -⟩ := running_of_issue issued
  rw [exec_endProg_of_issue issued, settle_of_opens]
  rw [seqOf_modSeq_of_running running]
  exact opens

/-! ### SIGNAL_APPLY -/

theorem exec_signalApply_of_oldest {g : PendSignal} {rest : List PendSignal} (oldest : (seqOf s e).signals = g :: rest) :
    ((seqOf s e).opens.any (fun i => decide (i < g.issue)) = true → exec (.signalApply e) s = .next s) ∧
    ((seqOf s e).opens.any (fun i => decide (i < g.issue)) = false → g.addr = none → exec (.signalApply e) s = .next (
      settle e (modSeq e (fun q => { q with signals := rest })
        (if tallyOpen s g.tally then tallyAdd g.tally g.n e s
        else addrFault 0x9003 e (mkHall (myLogical s) 3 (g.tally * 32)) s)))) := by
  change (_ → execSignalApply e s = _) ∧ (_ → _ → execSignalApply e s = _)
  rw [execSignalApply, oldest]
  dsimp only
  refine ⟨fun early => if_pos early, fun ready here => ?_⟩
  rw [if_neg (by simp [ready]), here, if_neg (by simp), applySignal, here]

end

/-- Settles O20, instruction by instruction. -/
theorem controlInstructions : Obligations.ControlInstructions := by
  refine ⟨fun s e w => ⟨exec_nop_of_issue, exec_errt_of_issue, exec_setx_of_issue, exec_addx_of_issue, exec_signal_of_issue⟩,
    fun s e w => ⟨?_, ?_, exec_waitT_of_met, ?_, ?_, exec_endProg_of_idle, exec_endProg_of_open⟩,
    fun s e g rest oldest => ⟨(exec_signalApply_of_oldest oldest).1, ?_, ?_⟩⟩
  · intro issued more
    rw [exec_loopX_of_issue issued, if_neg more]
  · intro issued done
    rw [exec_loopX_of_issue issued, if_pos done]
  · intro issued error ends
    rw [exec_waitT_of_issue issued]
    dsimp only
    rw [if_pos (.inr error), error, ends, Bool.and_true]
  · intro issued below clean
    rw [exec_waitT_of_issue issued]
    dsimp only
    rw [if_neg (by simp [below, clean])]
  · intro ready here opened
    rw [(exec_signalApply_of_oldest oldest).2 ready here, if_pos opened]
  · intro ready here closed
    rw [(exec_signalApply_of_oldest oldest).2 ready here, if_neg (by simp [closed])]

end Sys2Proof.Machine

/-! PROOFS. Current keeping of the matrix and vector engines (O22). -/

namespace Sys2Proof.Machine

open Sys2Proof

section

variable {s : State} {e : Nat} {w : Word64}

theorem exec_keep_of_on (issued : issueOf s e [0x0C] = some w) (on : keepOn s e = true) : exec (.keep e) s = .next (nextPc e (rowEnters e
    (modKeep e (fun k => if bit w.toNat 8 then { k with ramp := if k.density = 8 then .none else .up, hold := true }
      else { k with ramp := if k.density = 0 then .none else .down, hold := false }) (countGap e s)))) := by
  change execKeep e s = _
  rw [execKeep, onIssue_some _ issued]
  exact congrArg (fun t => Host.Outcome.next (nextPc e t)) (if_pos on)

/-! ### The tick of a ramp -/

theorem exec_keepRampTick_of_up (unit : keeps e = true) (up : (keepOf s e).ramp = .up) (on : keepOn s e = true)
    (below : (keepOf s e).density + 1 < 8) : exec (.keepRampTick e) s = .next (rowEnters e
      (modKeep e (fun k => { k with density := (keepOf s e).density + 1 }) (countDummies e (64 * (keepOf s e).density) s))) := by
  change execKeepRampTick e s = _
  have more : ¬ 8 ≤ (keepOf s e).density + 1 := by omega
  rw [execKeepRampTick]
  dsimp only
  rw [up, if_neg (by simp [unit, on]), if_pos rfl]
  simp [more]

theorem exec_keepRampTick_of_last (unit : keeps e = true) (down : (keepOf s e).ramp = .down) (on : keepOn s e = true)
    (one : (keepOf s e).density = 1) : exec (.keepRampTick e) s = .next (rowEnters e
      (modKeep e (fun k => { k with density := 0, ramp := .none }) (countDummies e 64 s))) := by
  change execKeepRampTick e s = _
  rw [execKeepRampTick]
  dsimp only
  rw [down, one, if_neg (by simp [unit, on]), if_neg (by decide)]
  rfl

theorem exec_keepGapExpire_of_idle (unit : keeps e = true) (free : (keepOf s e).hold = false) (still : (keepOf s e).ramp = .none)
    (dummies : 0 < (keepOf s e).density) (on : keepOn s e = true) (phase : s.run.between = false) : exec (.keepGapExpire e) s =
      .next (modKeep e (fun k => { k with ramp := .down }) (countDummies e (keepGap (powerClass s) / 8 * (keepOf s e).density +
        min (keepOf s e).density (keepGap (powerClass s) % 8)) s)) := by
  change execKeepGapExpire e s = _
  rw [execKeepGapExpire]
  dsimp only
  rw [if_neg (by simp [unit, free, still, on, phase]; omega)]

/-! ### force_off -/

theorem exec_meKeepAdminOff_of_die {die : Nat} {ve on : Bool} (inside : die < 8) :
    exec (.meKeepAdminOff die ve on) s = .next (setForceOff die ve on s) := by
  change execMeKeepAdminOff die ve on s = _
  rw [execMeKeepAdminOff, if_neg (by omega)]

theorem engClass_engId_bear {die u : Nat} (inside : die < 8) (unit : u < 16) : engClass (engId 0 die u) = 0 := by
  simp only [engClass, engId, bits]
  omega

theorem engDie_engId_bear {die u : Nat} (inside : die < 8) (unit : u < 16) : engDie (engId 0 die u) = die := by
  simp only [engDie, engId, bits]
  omega

/-- The bears' map is canonical, so that a bear reads what was written to it. -/
def BearsCanonical (s : State) : Prop := SMap.wf ({} : Bear) s.units.bear = true

theorem bearsCanonical_modBear (f : Bear → Bear) (canonical : BearsCanonical s) : BearsCanonical (modBear e f s) :=
  SMap.wf_modify _ _ _ _ canonical

theorem bearsCanonical_modKeep (f : KeepSt → KeepSt) (canonical : BearsCanonical s) : BearsCanonical (modKeep e f s) := by
  unfold modKeep
  split
  · exact bearsCanonical_modBear _ canonical
  · exact canonical

theorem bearsCanonical_countGap (canonical : BearsCanonical s) : BearsCanonical (countGap e s) := by
  unfold countGap countDummies
  split
  · split
    · exact bearsCanonical_modBear _ canonical
    · exact canonical
  · exact canonical

theorem keepOf_modKeep_reset_self (bear : engClass e = 0) (canonical : BearsCanonical s) : keepOf (modKeep e (fun _ => {}) s) e = {} := by
  rw [keepOf, modKeep, if_pos bear, if_pos bear, bearOf_modBear_self _ canonical]

theorem keepOf_modKeep_reset (bear : engClass e = 0) (canonical : BearsCanonical s) (done : keepOf s e = {}) (a : Nat) :
    keepOf (modKeep a (fun _ => {}) s) e = {} := by
  by_cases same : e = a
  · subst same
    exact keepOf_modKeep_reset_self bear canonical
  · rw [keepOf, if_pos bear] at done ⊢
    unfold modKeep
    split
    · rw [bearOf_modBear_ne _ _ same, done]
    · exact done

/-- Once an engine's dummies have been stopped, the engines that follow it leave them stopped. -/
theorem keepOf_forEach_reset (bear : engClass e = 0) {l : List Nat} (canonical : BearsCanonical s) (listed : e ∈ l ∨ keepOf s e = {}) :
    keepOf (forEach l (fun e s => modKeep e (fun _ => {}) s) s) e = {} := by
  induction l generalizing s with
  | nil => exact listed.resolve_left List.not_mem_nil
  | cons a l ih =>
    refine ih (s := modKeep a (fun _ => {}) s) (bearsCanonical_modKeep _ canonical) ?_
    rcases listed with listed | done
    · rcases List.mem_cons.1 listed with rfl | later
      · exact .inr (keepOf_modKeep_reset_self bear canonical)
      · exact .inl later
    · exact .inr (keepOf_modKeep_reset bear canonical done a)

theorem meOff_modKeep (f : KeepSt → KeepSt) : (modKeep e f s).units.meOff = s.units.meOff := by
  unfold modKeep
  split <;> rfl

theorem units_setForceOff_of_on {die : Nat} : (setForceOff die false true s).units =
    (forEach ((List.range 16).map (engId 0 die)) (fun e s => modKeep e (fun _ => {}) s)
      (let counted := forEach ((List.range 16).map (engId 0 die)) countGap s
       { counted with units := { counted.units with meOff := insertNat die counted.units.meOff } })).units := by
  unfold setForceOff
  extract_lets
  simp only [if_true, if_false, Bool.false_eq_true]
  split
  · exact logEvent_units ..
  · rfl

/-- After force_off the bears of the die keep no current and are marked. -/
theorem quiet_setForceOff {die u : Nat} (inside : die < 8) (unit : u < 16) (canonical : BearsCanonical s) :
    (keepOf (setForceOff die false true s) (engId 0 die u)).density = 0 ∧
    keepForced (setForceOff die false true s) (engId 0 die u) = true := by
  have bear := engClass_engId_bear inside unit
  have units := units_setForceOff_of_on (s := s) (die := die)
  have canonicalCounted := forEach_induct BearsCanonical countGap (fun _ _ => bearsCanonical_countGap)
    ((List.range 16).map (engId 0 die)) s canonical
  extract_lets counted at units
  generalize marked_eq : ({ counted with units := { counted.units with meOff := insertNat die counted.units.meOff } } : State) = marked at units
  have meOff : marked.units.meOff = insertNat die counted.units.meOff := by rw [← marked_eq]
  have canonicalMarked : BearsCanonical marked := by rw [← marked_eq]; exact canonicalCounted
  have off := keepOf_forEach_reset bear canonicalMarked (.inl (List.mem_map.2 ⟨u, List.mem_range.2 unit, rfl⟩) :
    engId 0 die u ∈ (List.range 16).map (engId 0 die) ∨ _)
  have kept := forEach_induct (fun t => t.units.meOff = marked.units.meOff) (fun e s => modKeep e (fun _ => {}) s)
    (fun _ _ same => (meOff_modKeep _).trans same) ((List.range 16).map (engId 0 die)) marked rfl
  constructor
  · rw [keepOf, bearOf, badgerOf, units]
    exact congrArg KeepSt.density off
  · rw [keepForced, if_pos bear, engDie_engId_bear inside unit, units, kept, meOff, List.contains_iff_mem, mem_insertNat]
    exact .inl rfl

end

/-- Settles O22, command by command; force_off by its passes over the bears of the die. -/
theorem currentKeeping : Obligations.CurrentKeeping := by
  refine fun s e die w => ⟨fun issued on up below => ?_, fun issued on down => ?_, exec_keepRampTick_of_up, exec_keepRampTick_of_last,
    fun unit free still dummies on phase => exec_keepGapExpire_of_idle unit free still dummies on phase,
    fun inside ve on => exec_meKeepAdminOff_of_die inside,
    fun inside canonical u unit => ⟨_, exec_meKeepAdminOff_of_die inside, quiet_setForceOff inside unit canonical⟩⟩
  · rw [exec_keep_of_on issued on, up]
    rfl
  · rw [exec_keep_of_on issued on, down]
    rfl

end Sys2Proof.Machine

/-! PROOFS. The instructions of a matrix engine (O23). -/

namespace Sys2Proof.Machine

open Sys2Proof

section

variable {s : State} {e dummy bank row : Nat} {w : Word64}

theorem runs_of_issue {ops : List Nat} (issued : issueOf s e ops = some w) : runs s e = true := by
  simp [runs, (running_of_issue issued).1]

/-! ### MMA and its life -/

/-- What an MMA leaves once the array is free for its tile: a first refused operand, or a poisoned one, makes it fault. -/
theorem exec_mma_of_free (issued : issueOf s e [0x10] = some w) (free : (bearOf s e).mmas.any (fun o => !o.swapped) = false) :
    exec (.mma e .ok .ok) s = .next (
      let rs := mmaRows s e w
      let bad := firstRefused (rs.flatMap (fun r => r.1.checks s e r.2))
      let psn := bad.isNone && rs.any (fun r => r.1.poison s)
      let o : MmaOp := {
        issue := (seqOf s e).issued, index := (seqOf s e).pc, word := w, fault := bad.isSome || psn
        fmtA := descFmt s e (fld w 12 10), fmtB := descFmt s e (fld w 22 10)
        tiles := if bad.isSome || psn then [] else [mmaTile s e w rs] }
      issueOpen e (nextPc e (modBear e (fun b => { b with mmas := b.mmas ++ [o] }) (operandPoison e psn (operandFault e bad s))))) := by
  change execMma e .ok .ok s = _
  rw [execMma, onIssue_some _ issued]
  dsimp only [eccNote, accNote]
  rw [if_neg (by simp [free]), if_pos (runs_of_issue issued)]

theorem exec_mma_of_busy (issued : issueOf s e [0x10] = some w) (busy : (bearOf s e).mmas.any (fun o => !o.swapped) = true) :
    exec (.mma e .ok .ok) s = .next s := by
  change execMma e .ok .ok s = _
  rw [execMma, onIssue_some _ issued, if_pos busy]

theorem exec_mmaSwap_of_waiting {parity : Bool} {o : MmaOp} (waiting : (bearOf s e).mmas.find? (fun o => !o.swapped) = some o)
    (first : o.refilling = false) : exec (.mmaSwap e parity dummy) s = .next (
      if parity then logEvent 0x6101 e [(2, e), (4, o.index)] (modBear e (fun b => { b with
        mmas := b.mmas.map (fun o => if o.swapped then o else { o with refilling := true }) })
        (if keepOn s e then countDummies e dummy s else s))
      else swapIn e dummy s) := by
  change execMmaSwap e parity dummy s = _
  rw [execMmaSwap, waiting]
  dsimp only
  rw [if_neg (by simp [first])]
  exact (apply_ite Host.Outcome.next _ _ _).symm

theorem exec_tileRefillDone_of_refilling {parity : Bool} (refilling : (bearOf s e).mmas.any (·.refilling) = true) :
    exec (.tileRefillDone e parity) s = .next (if parity then tileFault e (countGap e s)
      else swapIn e 0 (modBear e (fun b => { b with tileRetry := true }) (countGap e s))) := by
  change execTileRefillDone e parity s = _
  rw [execTileRefillDone, if_pos refilling]

theorem exec_meTileFault_of_swapped (swapped : (bearOf s e).mmas.any (·.swapped) = true) :
    exec (.meTileFault e) s = .next (tileFault e s) := by
  change execMeTileFault e s = _
  rw [execMeTileFault, if_pos swapped]

theorem exec_mmaComplete_of_swapped {o : MmaOp} {rest : List MmaOp} (oldest : (bearOf s e).mmas = o :: rest) (swapped : o.swapped = true) :
    exec (.mmaComplete e) s = .next (completeOp e o.issue (modBear e (fun b =>
      let b := if fld o.word 0 8 = 0x10 then applyMma o b else applyOmma o b
      { b with mmas := rest, mmaCount := satAdd 64 b.mmaCount 1, rows := satAdd 64 b.rows o.streamed }) (rowEnters e s))) := by
  change execMmaComplete e s = _
  rw [execMmaComplete, oldest]
  dsimp only
  rw [if_pos swapped]

/-! ### Compatibility mode and the scrub -/

theorem exec_cmode_of_open (issued : issueOf s e [0x31] = some w) (waits : allDone s e = false) : exec (.cmode e) s = .next s := by
  change execCmode e s = _
  rw [execCmode, onIssue_some _ issued, if_neg (by simp [waits])]

theorem exec_cmode_of_leave (issued : issueOf s e [0x31] = some w) (done : allDone s e = true) (leave : bit w.toNat 9 = false) :
    exec (.cmode e) s = .next (nextPc e (modBear e (fun b => { b with
      acc := [], compat := false, cub16 := false, instances := fld w 16 6 + 1, window := 0, aStride := 0, bStride := 0, cStride := 0 }) s)) := by
  change execCmode e s = _
  rw [execCmode, onIssue_some _ issued, if_pos done]
  dsimp only
  rw [leave]
  rfl

theorem exec_omma32_of_issue (issued : issueOf s e [0x40] = some w) : exec (.omma32 e .ok .ok) s = .next (issueOmma e .ok .ok w s) := by
  change execOmma32 e .ok .ok s = _
  rw [execOmma32, onIssue_some _ issued]

theorem exec_omma16_of_issue (issued : issueOf s e [0x41] = some w) : exec (.omma16 e .ok .ok) s = .next (issueOmma e .ok .ok w s) := by
  change execOmma16 e .ok .ok s = _
  rw [execOmma16, onIssue_some _ issued]

theorem issueOmma_of_free (free : (bearOf s e).mmas.any (fun o => !o.swapped) = false) (running : runs s e = true)
    (permitted : firstRefused (((cubRows (bearOf s e) w true).flatten ++ (cubRows (bearOf s e) w false).flatten).map
      (fun o => (o, spStage s e o (rowLen (ommaFmt w) (bearOf s e).cub) false))) = none)
    (clean : ((cubRows (bearOf s e) w true).flatten ++ (cubRows (bearOf s e) w false).flatten).any (fun o =>
      (spStage s e o (rowLen (ommaFmt w) (bearOf s e).cub) false).isNone &&
        poisoned s .sp o.toNat (rowLen (ommaFmt w) (bearOf s e).cub)) = false) :
    issueOmma e .ok .ok w s = issueOpen e (nextPc e (modBear e (fun b => { b with mmas := b.mmas ++ [{
      issue := (seqOf s e).issued, index := (seqOf s e).pc, word := w, fmtA := ommaFmt w, fmtB := ommaFmt w
      tiles := (List.zip (cubRows (bearOf s e) w true) (cubRows (bearOf s e) w false)).map (fun r =>
        { a := r.1.map (cubRow s e (ommaFmt w) (bearOf s e).cub)
          b := columns (bearOf s e).cub (r.2.map (cubRow s e (ommaFmt w) (bearOf s e).cub)) }) }] }) s)) := by
  unfold issueOmma
  dsimp only [eccNote, accNote]
  rw [if_neg (by simp [free]), if_pos running, permitted, clean]
  rfl

theorem exec_accScrub_of_idle {x : Ecc} (bear : engClass e = 0) (unit : engValid e = true) (inBank : bank < 2) (inRow : row < 512)
    (idle : (bearOf s e).mmas.all (fun o => o.bank != bank) = true) : exec (.accScrub e bank row x) s = .next (accNote e bank row x s) := by
  change execAccScrub e bank row x s = _
  rw [execAccScrub, if_pos ⟨bear, unit, inBank, inRow, idle⟩]

end

/-- Settles O23, from the rules of MMA, of its later steps, and of compatibility mode. -/
theorem matrixEngineInstructions : Obligations.MatrixEngineInstructions := by
  refine ⟨fun s e w issued => ⟨exec_mma_of_busy issued, fun free permitted clean => ?_, fun x free refused => ?_⟩,
    fun s e dummy o rest => ⟨fun waiting first => ⟨exec_mmaSwap_of_waiting waiting first, exec_mmaSwap_of_waiting waiting first⟩,
      fun refilling => ⟨exec_tileRefillDone_of_refilling refilling, exec_tileRefillDone_of_refilling refilling⟩,
      exec_meTileFault_of_swapped, exec_mmaComplete_of_swapped⟩,
    fun s e bank row k w => ⟨exec_cmode_of_open, exec_cmode_of_leave, exec_omma32_of_issue, exec_omma16_of_issue, ?_,
      fun bear unit inBank inRow idle => ⟨exec_accScrub_of_idle bear unit inBank inRow idle, exec_accScrub_of_idle bear unit inBank inRow idle⟩⟩⟩
  · rw [exec_mma_of_free issued free]
    dsimp only
    rw [permitted, clean]
    rfl
  · rw [exec_mma_of_free issued free]
    dsimp only
    rw [refused]
    rfl
  · rintro b rfl free running all n permitted clean
    exact ⟨_, issueOmma_of_free free running permitted clean, rfl, rfl, List.length_map _⟩

end Sys2Proof.Machine

/-! PROOFS. The drain group and the vector instructions (O25). -/

namespace Sys2Proof.Machine

open Sys2Proof

section

variable {s : State} {e dummy : Nat} {w : Word64}

/-! ### DRN, DZERO, ALOAD and ODRN -/

theorem exec_drn_of_busy (issued : issueOf s e [0x20] = some w)
    (busy : rowsBusy (bearOf s e) (drnOf s e w).bank (drnOf s e w).first (drnOf s e w).count = true) :
    exec (.drn e .ok .ok) s = .next s := by
  change execDrn e .ok .ok s = _
  rw [execDrn, onIssue_some _ issued]
  exact congrArg _ (if_pos busy)

theorem exec_drn_of_permitted (issued : issueOf s e [0x20] = some w)
    (idle : rowsBusy (bearOf s e) (drnOf s e w).bank (drnOf s e w).first (drnOf s e w).count = false)
    (permitted : firstRefused (drnChecks s e (drnOf s e w)) = none) (clean : drnPoison s e (drnOf s e w) = false) :
    exec (.drn e .ok .ok) s = .next (
      let t := forEach (List.range (drnOf s e w).count) (drainRow s e (drnOf s e w)) s
      issueOpen e (nextPc e (modBear e (fun b => { b with drains := b.drains ++ [(seqOf t e).issued] }) t))) := by
  change execDrn e .ok .ok s = _
  rw [execDrn, onIssue_some _ issued]
  dsimp only [eccNote, accNote]
  rw [if_neg (by simp [idle]), if_pos (runs_of_issue issued), permitted, clean]
  rfl

theorem exec_drnComplete_of_open {i : Nat} {rest : List Nat} (oldest : (bearOf s e).drains = i :: rest) : exec (.drnComplete e) s =
    .next (completeOp e i (modBear e (fun b => { b with drains := rest, drainCount := satAdd 64 b.drainCount 1 }) s)) := by
  change execDrnComplete e s = _
  rw [execDrnComplete, oldest]

theorem exec_dzero_of_busy (issued : issueOf s e [0x21] = some w)
    (busy : rowsBusy (bearOf s e) (fld w 8 1) (fld w 36 9) (fld w 45 9 + 1) = true) : exec (.dzero e) s = .next s := by
  change execDzero e s = _
  rw [execDzero, onIssue_some _ issued]
  exact congrArg _ (if_pos busy)

theorem exec_aload_of_open (issued : issueOf s e [0x23] = some w) (waits : allDone s e = false) : exec (.aload e .ok) s = .next s := by
  change execAload e .ok s = _
  rw [execAload, onIssue_some _ issued, if_neg (by simp [waits])]

theorem exec_aload_of_done (issued : issueOf s e [0x23] = some w) (done : allDone s e = true) {rows : Rows}
    (rows_eq : { base := descBase s e (fld w 16 10), stride := descStride s e (fld w 16 10), count := fld w 45 9 + 1, len := 768 } = rows)
    (permitted : firstRefused (rows.checks s e true) = none) (clean : ((List.range rows.count).any fun i =>
      (spStage s e (rows.at i) 768 false).isNone && poisoned s .sp (rows.at i).toNat 768) = false) :
    exec (.aload e .ok) s = .next (nextPc e (forEach (List.range rows.count)
      (aloadRow e (descBase s e (fld w 16 10)) rows.stride (fld w 8 1) (fld w 36 9)) s)) := by
  subst rows_eq
  change execAload e .ok s = _
  rw [execAload, onIssue_some _ issued, if_pos done]
  dsimp only [eccNote] at permitted clean ⊢
  rw [if_pos (runs_of_issue issued), permitted, clean]
  rfl

theorem exec_odrn_of_permitted (issued : issueOf s e [0x42] = some w)
    (idle : rowsBusy (bearOf s e) (fld w 13 1) (fld w 32 7) (fld w 40 7 + 1) = false) {all : List (Nat × Nat)}
    (all_eq : (List.range (bearOf s e).instances).flatMap (fun q => (List.range (fld w 40 7 + 1)).map (fun i => (q, i))) = all)
    (permitted : firstRefused (all.map (fun x => (odrnAt (bearOf s e) w x.1 x.2,
      spStage s e (odrnAt (bearOf s e) w x.1 x.2) ((bearOf s e).cub * odrnBytes (fld w 8 4)) true))) = none) :
    exec (.odrn e .ok) s = .next (nextPc e (forEach all
      (fun x => spWrite e false (odrnAt (bearOf s e) w x.1 x.2) (odrnRow (bearOf s e) w x.1 x.2)) s)) := by
  subst all_eq
  change execOdrn e .ok s = _
  rw [execOdrn, onIssue_some _ issued]
  dsimp only [accNote]
  rw [if_neg (by simp [idle]), if_pos (runs_of_issue issued), permitted]
  rfl

/-! ### CHAIN, ARGX, HSEL and the fatal error of a badger -/

theorem runs_keepReal : runs (keepReal e dummy s) e = runs s e := by
  unfold keepReal modKeep countDummies
  split_ifs <;> rfl

theorem exec_chain_of_issue (issued : issueOf s e [0x50] = some w) : exec (.chain e .ok false dummy) s = .next (
    let c := chainOf s e w
    let u := keepReal e dummy s
    veEnd e (VeRun.each (List.range c.rows) (runRow u e c ((List.range c.stages).map (c.stage u e))) { s := u })) := by
  change execChain e .ok false dummy s = _
  rw [execChain, onIssue_some _ issued]
  exact congrArg _ (if_pos (runs_keepReal.trans (runs_of_issue issued)))

theorem exec_argx_of_issue (issued : issueOf s e [0x51] = some w) : exec (.argx e .ok false) s = .next (veEnd e (
    if bit w.toNat 9 then VeRun.each (List.range (fld w 48 16 + 1))
      (fun j v => argxOne e w j ((List.range (fld w 32 16 + 1)).map (fun r => (r, j))) s v) { s := s }
    else VeRun.each (List.range (fld w 32 16 + 1))
      (fun r v => argxOne e w r ((List.range (fld w 48 16 + 1)).map (fun j => (r, j))) v.s v) { s := s })) := by
  change execArgx e .ok false s = _
  rw [execArgx, onIssue_some _ issued]
  exact congrArg _ (if_pos (runs_of_issue issued))

theorem exec_hsel_of_issue (issued : issueOf s e [0x52] = some w) : exec (.hsel e .ok false) s = .next (
    let n := fld (descWord s e (fld w 12 10) 2) 0 16 + 1
    let data := VeRun.gather (fun i v => sketchRead s e (fld w 12 10) i v) (List.range n) { s := s }
    let excl := if bit w.toNat 57 then VeRun.gather (fun i v => bitRead s e (fld w 12 10 + 1) 0 i v) (List.range n) data.2
      else ([], data.2)
    let qs := VeRun.gather (fun q v => sketchRead s e (fld w 22 10) q v) (List.range (fld w 8 3 + 1)) excl.2
    let list := (List.range n).map (fun i => (i, data.1.getD i 0, excl.1.getD i false))
    veEnd e (VeRun.each (List.zip (List.range (fld w 8 3 + 1)) qs.1) (fun x v =>
      let recs := hselRecords (fld w 42 8 + 1) (fld w 50 7) list x.2
      VeRun.each (List.zip (List.range recs.length) recs) (fun ir v => slotWrite e (fld w 32 10) x.1 ir.1 ir.2 v) v) qs.2)) := by
  change execHsel e .ok false s = _
  rw [execHsel, onIssue_some _ issued]
  exact congrArg _ (if_pos (runs_of_issue issued))

theorem exec_veEccFatal_of_going (badger : engClass e = 1) (unit : engValid e = true)
    (going : (seqOf s e).st = .running ∨ (seqOf s e).st = .waiting) : exec (.veEccFatal e) s =
      .next (engineFatal 0x6202 e [] (modBadger e (fun b => { b with eccFatal := true }) s)) := by
  change execVeEccFatal e s = _
  rw [execVeEccFatal, if_pos ⟨badger, unit, going⟩]

end

/-- Settles O25, instruction by instruction. -/
theorem drainsAndVectorInstructions : Obligations.DrainsAndVectorInstructions := by
  refine ⟨fun s e w => ⟨exec_drn_of_busy, exec_drn_of_permitted, fun _ _ => exec_drnComplete_of_open, exec_dzero_of_busy,
      exec_dzero_of_idle, exec_aload_of_open, fun issued done => exec_aload_of_done issued done rfl,
      fun issued idle => exec_odrn_of_permitted issued idle rfl⟩,
    fun s e dummy w => ⟨exec_chain_of_issue, fun issued columns => ?_, fun issued rows => ?_, exec_hsel_of_issue,
      exec_veEccFatal_of_going⟩⟩
  · rw [exec_argx_of_issue issued, if_pos columns]
  · rw [exec_argx_of_issue issued, if_neg (by simp [rows])]

end Sys2Proof.Machine

/-! PROOFS. The memory instructions, the fences and the CSR instructions of a fox core (O27). -/

namespace Sys2Proof.Machine

open Sys2Proof

theorem leVal_lt (d : List Byte) : leVal d < 256 ^ d.length := by
  induction d with
  | nil => simp [leVal]
  | cons b d ih =>
    have byte : b.toNat < 256 := b.isLt
    rw [leVal, List.length_cons, pow_succ]
    omega

theorem Memory.length_bytes (m : Memory) (a n : Nat) : (Memory.bytes m a n).length = n := by
  induction n generalizing a with
  | zero => rfl
  | succ n ih => rw [Memory.bytes, List.length_cons, ih]

/-- The value read from a store, written out again in its length, is the same value. -/
theorem leVal_leBytes_readStore (s : State) (st : Store) (a n : Nat) :
    leVal (leBytes n (leVal (readStore s st a n))) = leVal (readStore s st a n) := by
  rw [leVal_leBytes]
  refine Nat.mod_eq_of_lt ((leVal_lt _).trans_eq ?_)
  rw [readStore, Memory.length_bytes]

section

variable {s t : State} {e : Nat} {i : FoxIns} {a : Word64} {k : FoxCls} {ecc : Ecc} {host : List Byte} {ans : Option (List Byte)}

/-! ### The instruction at issue -/

/-- A fox core's FENCE r,rw after an atomic with aq. -/
def acquire (e : Nat) (i : FoxIns) (s : State) : State :=
  if bit i.w 26 then foxReadback e (modFox e (fun c => { c with acquired := true }) s) else s

theorem foxEndAq_done {d : List Byte} {f : List Byte → Fox → Fox} : foxEndAq e i a (.done d t) f s =
    acquire e i (foxRetire e ((seqOf t e).pc + i.len) (modFox e (f d) t)) := rfl

theorem exec_fcLoad_of_ins (ins : foxIns s e .load = some i) (scalar : i.w % 128 = 0x03) :
    exec (.fcLoad e ecc host) s = .next (foxScalarLoad e i ecc host none s) := by
  obtain ⟨-, fetch, cls⟩ := foxIns_spec ins
  change execFcLoad e ecc host s = _
  rw [execFcLoad, onFox_some _ ins, foxMemory, fetch]
  dsimp only
  rw [cls]
  dsimp only
  rw [if_pos (by simp [scalar])]

theorem exec_fcStore_of_ins (ins : foxIns s e .store = some i) (scalar : i.w % 128 = 0x23) :
    exec (.fcStore e) s = .next (foxScalarStore e i none s) := by
  obtain ⟨-, fetch, cls⟩ := foxIns_spec ins
  change execFcStore e s = _
  rw [execFcStore, onFox_some _ ins, foxMemory, fetch]
  dsimp only
  rw [cls]
  dsimp only
  rw [if_pos (by simp [scalar])]

theorem exec_sdf_of_ins (ins : foxIns s e .sdf = some i) : exec (.sdf e) s = .next (foxSdf e i none s) := by
  obtain ⟨-, fetch, cls⟩ := foxIns_spec ins
  change execSdf e s = _
  rw [execSdf, onFox_some _ ins, foxMemory, fetch]
  dsimp only
  rw [cls]

theorem exec_fcAmo_of_ins (ins : foxIns s e .amo = some i) : exec (.fcAmo e) s = .next (foxAmoIns e i none s) := by
  obtain ⟨-, fetch, cls⟩ := foxIns_spec ins
  change execFcAmo e s = _
  rw [execFcAmo, onFox_some _ ins, foxMemory, fetch]
  dsimp only
  rw [cls]

theorem exec_fadda_of_ins (ins : foxIns s e .fadda = some i) : exec (.fadda e) s = .next (foxFadda e i none s) := by
  obtain ⟨-, fetch, cls⟩ := foxIns_spec ins
  change execFadda e s = _
  rw [execFadda, onFox_some _ ins, foxMemory, fetch]
  dsimp only
  rw [cls]

theorem exec_fcLr_of_ins (ins : foxIns s e .lr = some i) : exec (.fcLr ⟨e, ecc⟩) s = .next (foxLrIns e i ecc none s) := by
  obtain ⟨-, fetch, cls⟩ := foxIns_spec ins
  change execFcLr ⟨e, ecc⟩ s = _
  rw [execFcLr, onFox_some _ ins, foxMemory, fetch]
  dsimp only
  rw [cls]

theorem exec_fcSc_of_ins (ins : foxIns s e .sc = some i) : exec (.fcSc e) s = .next (foxScIns e i none s) := by
  obtain ⟨-, fetch, cls⟩ := foxIns_spec ins
  change execFcSc e s = _
  rw [execFcSc, onFox_some _ ins, foxMemory, fetch]
  dsimp only
  rw [cls]

/-! ### The scratchpad of this device -/

theorem atomAt_of_clean {st : Store} {off op elem x swap : Nat} (clean : poisoned s st off (elemBytes elem) = false) :
    atomAt st off op elem x swap s = (leVal (readStore s st off (elemBytes elem)), false, setStore st ((storeOf s st).writeBytes off
      (leBytes (elemBytes elem) (atomResult op elem (leVal (readStore s st off (elemBytes elem))) x swap))) s) := by
  rw [atomAt]
  rw [if_neg (by simp [clean])]

/-- An atomic of a fox core on the scratchpad of this device that passes its checks returns the old value. -/
theorem foxAmo_sp {op elem x swap : Nat} (sp : (hallAddr a).space = 0) (own : isRemote s (hallAddr a) = false)
    (permitted : accessStage s e a (elemBytes elem) 1 true (amoMay s (hallAddr a) op elem) = none)
    (aligned : (hallAddr a).off % elemBytes elem = 0) (ordered : behindTsig s e (hallAddr a) (elemBytes elem) = false)
    (clean : poisoned s .sp (hallAddr a).off (elemBytes elem) = false) :
    foxAmo e a op elem x swap none s =
      .done (leBytes (elemBytes elem) (leVal (readStore s .sp (hallAddr a).off (elemBytes elem))))
        (setStore .sp ((storeOf s .sp).writeBytes (hallAddr a).off (leBytes (elemBytes elem)
          (atomResult op elem (leVal (readStore s .sp (hallAddr a).off (elemBytes elem))) x swap))) s) := by
  have uncached : cachedAt s (hallAddr a) = false := by simp [cachedAt, sp]
  rw [foxAmo]
  dsimp only
  rw [permitted]
  dsimp only
  rw [if_neg (by simp [aligned]), if_neg (by simp [ordered]), if_neg (by simp [uncached]), if_neg (by simp [own, uncached]),
    if_neg (by simp [uncached]), amoHere, sp, show spaceStore 0 = some .sp from rfl]
  dsimp only
  rw [if_neg (by simp), atomAt_of_clean clean]
  rfl

theorem foxScalarLoad_sp (scalar : i.w % 128 = 0x03) (legal : f3 i.w ≠ 7) (addr : a = (foxOf s e).rx (fRs1 i.w) + i64 (immI i.w))
    (sp : (hallAddr a).space = 0) (own : isRemote s (hallAddr a) = false) (permitted : foxCheck s e a (memBytes (f3 i.w)) false true = none)
    (ordered : behindTsig s e (hallAddr a) (memBytes (f3 i.w)) = false) (clean : poisoned s .sp (hallAddr a).off (memBytes (f3 i.w)) = false) :
    foxScalarLoad e i .ok [] none s = foxRetire e ((seqOf s e).pc + i.len) (modFox e
      (fun c => c.wx (fRd i.w) (loadValue (f3 i.w) (readStore s .sp (hallAddr a).off (memBytes (f3 i.w))))) s) := by
  rw [foxScalarLoad]
  rw [if_pos scalar, if_neg legal, ← addr, foxLoad_sp sp own permitted ordered clean, foxEnd]

theorem foxScalarStore_sp (scalar : i.w % 128 = 0x23) (legal : f3 i.w ≤ 3) (addr : a = (foxOf s e).rx (fRs1 i.w) + i64 (immS i.w))
    (sp : (hallAddr a).space = 0) (own : isRemote s (hallAddr a) = false) (permitted : foxCheck s e a (memBytes (f3 i.w)) true true = none)
    (ordered : behindTsig s e (hallAddr a) (memBytes (f3 i.w)) = false) :
    foxScalarStore e i none s = foxRetire e ((seqOf s e).pc + i.len) (modFox e (fun c => c)
      (writeStore .sp (hallAddr a).off (leBytes (memBytes (f3 i.w)) ((foxOf s e).rx (fRs2 i.w)).toNat) s)) := by
  have stored := foxStore_sp (e := e) (fl := false) (d := leBytes (memBytes (f3 i.w)) ((foxOf s e).rx (fRs2 i.w)).toNat) sp own
    (by rwa [leBytes_length]) (by rwa [leBytes_length]) (.inl rfl)
  rw [foxScalarStore]
  rw [if_pos scalar, if_neg (by omega), ← addr, stored]
  rfl

theorem foxSdf_sp (legal : f7 i.w = 0) (addr : a = (foxOf s e).rx (fRs1 i.w))
    (sp : (hallAddr a).space = 0) (own : isRemote s (hallAddr a) = false) (permitted : foxCheck s e a 8 true true = none)
    (ordered : behindTsig s e (hallAddr a) 8 = false) (aligned : (hallAddr a).off % 8 = 0) :
    foxSdf e i none s = foxRetire e ((seqOf s e).pc + i.len) (modFox e (fun c => c)
      (writeStore .sp (hallAddr a).off (leBytes 8 ((foxOf s e).rx (fRs2 i.w)).toNat) s)) := by
  have stored := foxStore_sp (e := e) (fl := true) (d := leBytes 8 ((foxOf s e).rx (fRs2 i.w)).toNat) sp own
    (by rwa [leBytes_length]) (by rwa [leBytes_length]) (.inr aligned)
  rw [foxSdf]
  rw [if_neg (by simp [legal]), ← addr, stored]
  rfl

theorem foxAmoIns_sp {op : Nat} (named : amoOp (bits i.w 27 5) = some op) (notCas : op ≠ 11) (width : f3 i.w = 2 ∨ f3 i.w = 3)
    (relaxed : bit i.w 25 = false) (addr : a = (foxOf s e).rx (fRs1 i.w)) (sp : (hallAddr a).space = 0)
    (own : isRemote s (hallAddr a) = false)
    (permitted : accessStage s e a (memBytes (f3 i.w)) 1 true (amoMay s (hallAddr a) op (f3 i.w - 2)) = none)
    (aligned : (hallAddr a).off % memBytes (f3 i.w) = 0) (ordered : ∀ n, behindTsig s e (hallAddr a) n = false)
    (clean : poisoned s .sp (hallAddr a).off (memBytes (f3 i.w)) = false) :
    foxAmoIns e i none s = acquire e i (foxRetire e ((seqOf s e).pc + i.len) (modFox e
      (fun c => c.wx (fRd i.w) (if f3 i.w = 2 then sx32 (leVal (readStore s .sp (hallAddr a).off (memBytes (f3 i.w))))
        else w64 (leVal (readStore s .sp (hallAddr a).off (memBytes (f3 i.w))))))
      (setStore .sp ((storeOf s .sp).writeBytes (hallAddr a).off (leBytes (memBytes (f3 i.w))
        (atomResult op (f3 i.w - 2) (leVal (readStore s .sp (hallAddr a).off (memBytes (f3 i.w))))
          ((foxOf s e).rx (fRs2 i.w)).toNat ((foxOf s e).rx (fRs2 i.w)).toNat))) s))) := by
  have bytes : memBytes (f3 i.w) = elemBytes (f3 i.w - 2) := by rcases width with two | three <;> simp [*, memBytes, elemBytes]
  have elem : (if f3 i.w = 2 then 0 else if f3 i.w = 3 then 1 else 4) = f3 i.w - 2 := by rcases width with two | three <;> simp [*]
  have same := leVal_leBytes_readStore s .sp (hallAddr a).off (elemBytes (f3 i.w - 2))
  have wide : f3 i.w ≠ 4 := by omega
  rw [bytes] at permitted aligned clean ⊢
  rw [foxAmoIns]
  dsimp only
  rw [named]
  dsimp only
  rw [if_neg (by omega), if_neg (by simp [relaxed]), elem, if_neg wide, if_neg notCas, ← addr,
    foxAmo_sp sp own permitted aligned (ordered _) clean, foxEndAq_done]
  simp only [if_neg wide]
  by_cases word : f3 i.w = 2
  · have whole : (leBytes (elemBytes (f3 i.w - 2)) (leVal (readStore s .sp (hallAddr a).off (elemBytes (f3 i.w - 2))))).take 4 = _ :=
      List.take_of_length_le (by simp [leBytes_length, word, elemBytes])
    simp only [if_pos word, whole, same]
    rfl
  · simp only [if_neg word, same]
    rfl

theorem foxFadda_sp (legal : f7 i.w ≤ 1) (addr : a = (foxOf s e).rx (fRs1 i.w)) (sp : (hallAddr a).space = 0)
    (own : isRemote s (hallAddr a) = false)
    (permitted : accessStage s e a (elemBytes (2 + f7 i.w)) 1 true (amoMay s (hallAddr a) 7 (2 + f7 i.w)) = none)
    (aligned : (hallAddr a).off % elemBytes (2 + f7 i.w) = 0) (ordered : ∀ n, behindTsig s e (hallAddr a) n = false)
    (clean : poisoned s .sp (hallAddr a).off (elemBytes (2 + f7 i.w)) = false) :
    foxFadda e i none s = foxRetire e ((seqOf s e).pc + i.len) (modFox e
      (fun c => c.wx (fRd i.w) (w64 (leVal (readStore s .sp (hallAddr a).off (elemBytes (2 + f7 i.w))))))
      (setStore .sp ((storeOf s .sp).writeBytes (hallAddr a).off (leBytes (elemBytes (2 + f7 i.w))
        (atomResult 7 (2 + f7 i.w) (leVal (readStore s .sp (hallAddr a).off (elemBytes (2 + f7 i.w))))
          ((foxOf s e).rx (fRs2 i.w)).toNat 0))) s)) := by
  rw [foxFadda]
  rw [if_neg (by omega), ← addr, foxAmo_sp sp own permitted aligned (ordered _) clean, foxEnd, leVal_leBytes_readStore]
  rfl

/-! ### Load-reserved and store-conditional -/

theorem l1Load_of_held {h : HAddr} {n : Nat} (held : (l1Of s e (l1Key (addrDev s h) (h.off / 64))).state = .shared ∨
      (l1Of s e (l1Key (addrDev s h) (h.off / 64))).state = .excl ∨ (l1Of s e (l1Key (addrDev s h) (h.off / 64))).state = .modif)
    (clean : (l1Of s e (l1Key (addrDev s h) (h.off / 64))).poison = false) : l1Load e h n .ok s =
      .done (slice (l1Of s e (l1Key (addrDev s h) (h.off / 64))).data (h.off % 64) n) s := by
  rw [l1Load]
  dsimp only [l1Fatal, l1Sense]
  rcases held with held | held | held <;> rw [held] <;> simp only [clean, Bool.false_eq_true, if_false]

theorem l1Store_of_owned {h : HAddr} {d : List Byte} (owned : (l1Of s e (l1Key (addrDev s h) (h.off / 64))).state = .excl ∨
      (l1Of s e (l1Key (addrDev s h) (h.off / 64))).state = .modif) : l1Store e h d s =
      .done [] (setL1 e (l1Key (addrDev s h) (h.off / 64)) { l1Of s e (l1Key (addrDev s h) (h.off / 64)) with
        state := .modif, data := lineWrite (l1Of s e (l1Key (addrDev s h) (h.off / 64))).data (h.off % 64) d } s) := by
  rw [l1Store]
  rcases owned with owned | owned <;> simp [owned]

theorem foxLr_of_held {n : Nat} (permitted : accessStage s e a n 1 false (accMay s (hallAddr a) n false 0) = none)
    (cached : cachedAt s (hallAddr a) = true) (aligned : (hallAddr a).off % n = 0) (ordered : behindTsig s e (hallAddr a) n = false)
    {l : L1Line} {k : Nat} (key : l1Key (addrDev s (hallAddr a)) ((hallAddr a).off / 64) = k) (line : l1Of s e k = l)
    (held : l.state = .shared ∨ l.state = .excl ∨ l.state = .modif) (clean : l.poison = false) :
    foxLr e a n .ok none s = .done (slice l.data ((hallAddr a).off % 64) n) (modFox e (fun c => { c with reservation := some k }) s) := by
  subst key line
  rw [foxLr]
  rw [if_neg (by simp), if_neg (by simp [permitted, cached]), if_neg (by simp [aligned]), if_neg (by simp [ordered]),
    l1Load_of_held held clean]

theorem foxLrIns_of_legal (width : f3 i.w = 2 ∨ f3 i.w = 3) (legal : fRs2 i.w = 0) (relaxed : bit i.w 25 = false) :
    foxLrIns e i ecc none s = foxEndAq e i ((foxOf s e).rx (fRs1 i.w)) (foxLr e ((foxOf s e).rx (fRs1 i.w)) (memBytes (f3 i.w)) ecc none s)
      (fun d c => c.wx (fRd i.w) (loadValue (f3 i.w) d)) s := by
  rw [foxLrIns]
  dsimp only
  rw [if_neg (by simp [legal]; omega), if_neg (by simp [relaxed])]

theorem foxScIns_of_legal (width : f3 i.w = 2 ∨ f3 i.w = 3) (relaxed : bit i.w 25 = false) :
    foxScIns e i none s = foxEndAq e i ((foxOf s e).rx (fRs1 i.w)) (foxSc e ((foxOf s e).rx (fRs1 i.w))
      (leBytes (memBytes (f3 i.w)) ((foxOf s e).rx (fRs2 i.w)).toNat) none s) (fun d c => c.wx (fRd i.w) (w64 (leVal d))) s := by
  rw [foxScIns]
  dsimp only
  rw [if_neg (by omega), if_neg (by simp [relaxed])]

/-- An SC that reaches its line stores and returns 0 with the reservation of the line, and returns 1 without. -/
theorem foxSc_of_cached {d : List Byte} (permitted : accessStage s e a d.length 1 true (accMay s (hallAddr a) d.length true 0) = none)
    (cached : cachedAt s (hallAddr a) = true) (aligned : (hallAddr a).off % d.length = 0)
    (ordered : behindTsig s e (hallAddr a) d.length = false) : foxSc e a d none s =
      if (foxOf s e).reservation = some (l1Key (addrDev s (hallAddr a)) ((hallAddr a).off / 64)) then
        match l1Store e (hallAddr a) d s with
        | .done _ s => .done [0] (modFox e (fun c => { c with reservation := none }) s)
        | r => r
      else .done [1] (modFox e (fun c => { c with reservation := none }) s) := by
  rw [foxSc]
  rw [if_neg (by simp), if_neg (by simp [permitted, cached]), if_neg (by simp [aligned]), if_neg (by simp [ordered])] <;> rfl

/-! ### Fences and CSRs -/

theorem exec_fcFence_of_ins (ins : foxIns s e .fence = some i) : exec (.fcFence e) s = .next (
    if f3 i.w = 1 then foxRetire e ((seqOf s e).pc + i.len) s
    else if f3 i.w ≠ 0 then foxIllegal e i s
    else if bits i.w 24 4 = 0 then foxRetire e ((seqOf s e).pc + i.len) s
    else if foxDrained s e then foxRetire e ((seqOf s e).pc + i.len) s
    else foxReadback e s) := by
  change execFcFence e s = _
  rw [execFcFence, onFox_some _ ins]

theorem exec_fcCsr_of_readable {old : Word64} (ins : foxIns s e .csr = some i) (read : csrRead s e (bits i.w 20 12) = some old) :
    exec (.fcCsr e) s = .next (
      let src := if f3 i.w < 4 then (foxOf s e).rx (fRs1 i.w) else w64 (fRs1 i.w)
      let writes := decide (f3 i.w % 4 = 1) || decide (fRs1 i.w ≠ 0)
      if writes && decide (0xC00 ≤ bits i.w 20 12) then foxIllegal e i s
      else
        let v := if f3 i.w % 4 = 1 then src else if f3 i.w % 4 = 2 then old ||| src else old &&& ~~~src
        let s := if bits i.w 20 12 = 0xC00 then useFree s else s
        foxRetire e ((seqOf s e).pc + i.len)
          (modFox e (fun c => (if writes then csrWrite c (bits i.w 20 12) v.toNat else c).wx (fRd i.w) old) s)) := by
  change execFcCsr e s = _
  rw [execFcCsr, onFox_some _ ins]
  dsimp only
  rw [read]

theorem exec_fcCsr_of_swap {old : Word64} (ins : foxIns s e .csr = some i) (read : csrRead s e (bits i.w 20 12) = some old)
    (swap : f3 i.w = 1) (writable : bits i.w 20 12 < 0xC00) : exec (.fcCsr e) s = .next (foxRetire e ((seqOf s e).pc + i.len)
      (modFox e (fun d => (csrWrite d (bits i.w 20 12) ((foxOf s e).rx (fRs1 i.w)).toNat).wx (fRd i.w) old) s)) := by
  rw [exec_fcCsr_of_readable ins read, swap]
  dsimp only
  rw [if_neg (by simp [writable]), if_neg (by omega)]
  rfl

theorem exec_fcCsr_of_read {old : Word64} (ins : foxIns s e .csr = some i) (read : csrRead s e (bits i.w 20 12) = some old)
    (set : f3 i.w = 2) (noSource : fRs1 i.w = 0) (fixed : bits i.w 20 12 ≠ 0xC00) :
    exec (.fcCsr e) s = .next (foxRetire e ((seqOf s e).pc + i.len) (modFox e (fun c => c.wx (fRd i.w) old) s)) := by
  rw [exec_fcCsr_of_readable ins read, set, noSource]
  dsimp only
  rw [if_neg (by simp), if_neg fixed]
  rfl

theorem exec_fcCsr_of_readOnly {old : Word64} (ins : foxIns s e .csr = some i) (read : csrRead s e (bits i.w 20 12) = some old)
    (swap : f3 i.w = 1) (fixed : 0xC00 ≤ bits i.w 20 12) : exec (.fcCsr e) s = .next (foxTrap e 2 i.raw s) := by
  rw [exec_fcCsr_of_readable ins read, swap]
  dsimp only
  rw [if_pos (by simp [fixed]), foxIllegal]

end

/-- Settles O27, from the rules of the scratchpad accesses, of LR and SC at a cached line, and of fences and CSRs. -/
theorem foxMemoryInstructions : Obligations.FoxMemoryInstructions := by
  refine ⟨fun s e i a => ?_, fun s e i => ?_, fun s e i => ?_⟩
  · intro c h n next aq sp own ordered
    refine ⟨fun ins scalar legal addr permitted clean => ?_, fun ins scalar legal addr permitted => ?_,
      fun ins legal addr permitted aligned => ?_, fun op ins named notCas width relaxed addr permitted aligned clean => ?_,
      fun ins legal addr => fun permitted aligned clean => ?_⟩
    · rw [exec_fcLoad_of_ins ins scalar, foxScalarLoad_sp scalar legal addr sp own permitted (ordered _) clean]
    · rw [exec_fcStore_of_ins ins scalar, foxScalarStore_sp scalar legal addr sp own permitted (ordered _)]
    · rw [exec_sdf_of_ins ins, foxSdf_sp legal addr sp own permitted (ordered _) aligned]
    · rw [exec_fcAmo_of_ins ins, foxAmoIns_sp named notCas width relaxed addr sp own permitted aligned ordered clean]
      rfl
    · rw [exec_fadda_of_ins ins, foxFadda_sp legal addr sp own permitted aligned ordered clean]
  · intro c a h n k l next aq width relaxed ordered
    have length : (leBytes (memBytes (f3 i.w)) ((foxOf s e).rx (fRs2 i.w)).toNat).length = n := leBytes_length ..
    refine ⟨fun ins legal permitted cached aligned held clean => ?_, fun ins permitted cached aligned reserved owned => ?_,
      fun ins permitted cached aligned unreserved => ?_, fun ins legal uncached => ?_, fun ins uncached => ?_⟩
    · rw [exec_fcLr_of_ins ins, foxLrIns_of_legal width legal relaxed, foxLr_of_held permitted cached aligned ordered rfl rfl held clean]
      rfl
    · rw [exec_fcSc_of_ins ins, foxScIns_of_legal width relaxed, foxSc_of_cached (by rwa [length]) cached (by rwa [length]) (by rwa [length]),
        if_pos reserved, l1Store_of_owned owned]
      rfl
    · rw [exec_fcSc_of_ins ins, foxScIns_of_legal width relaxed, foxSc_of_cached (by rwa [length]) cached (by rwa [length]) (by rwa [length]),
        if_neg unreserved]
      rfl
    · rw [exec_fcLr_of_ins ins, foxLrIns_of_legal width legal relaxed, foxLr]
      rw [if_neg (by simp), if_pos (.inr uncached)]
      rfl
    · rw [exec_fcSc_of_ins ins, foxScIns_of_legal width relaxed, foxSc]
      rw [if_neg (by simp), if_pos (.inr uncached)]
      rfl
  · intro c n next
    refine ⟨fun ins fenceI => ?_, fun ins fence before waits => ?_, fun ins fence before drained => ?_,
      fun old => exec_fcCsr_of_swap, fun old => exec_fcCsr_of_read, fun old => exec_fcCsr_of_readOnly, rfl, rfl, rfl, rfl⟩
    · rw [exec_fcFence_of_ins ins, if_pos fenceI]
    · rw [exec_fcFence_of_ins ins, if_neg (by omega), if_neg (by omega), if_neg before, if_neg (by simp [waits])]
    · rw [exec_fcFence_of_ins ins, if_neg (by omega), if_neg (by omega), if_neg before, if_pos drained]

end Sys2Proof.Machine

/-! PROOFS. The arithmetic, the traps and the device instructions of a fox core (O28, O29). -/

namespace Sys2Proof.Machine

open Sys2Proof

/-- A kept entry of a map reads its new value after a change of every value. -/
theorem SMap.get_mapVals_of_kept {α : Type} [DecidableEq α] (d : α) (m : SMap α) (f : Nat → α → α) (i : Nat) (present : SMap.get d m i ≠ d)
    (kept : f i (SMap.get d m i) ≠ d) : SMap.get d (SMap.mapVals d m f) i = f i (SMap.get d m i) := by
  induction m with
  | nil => exact absurd rfl present
  | cons x m ih =>
    unfold SMap.mapVals at ih ⊢
    rw [List.map_cons, List.filter_cons]
    by_cases here : i = x.1
    · subst here
      rw [SMap.get, if_pos rfl] at kept ⊢
      rw [if_pos (by simpa using kept), SMap.get, if_pos rfl]
    · rw [SMap.get, if_neg here] at present kept ⊢
      split
      · rw [SMap.get, if_neg here]
        exact ih present kept
      · exact ih present kept

section

variable {s t : State} {e : Nat} {i : FoxIns}

/-! ### Traps -/

/-- A program that has trapped: it has faulted, waits for nothing, and FC_FAULT.trap is set. -/
structure Trapped (e : Nat) (s : State) : Prop where
  st : (seqOf s e).st = .faulted
  wait : (seqOf s e).wait = none
  trap : (foxOf s e).trap = true

theorem Trapped.congr (trapped : Trapped e s) (seq : seqOf t e = seqOf s e) (fox : foxOf t e = foxOf s e) : Trapped e t :=
  ⟨by rw [seq, trapped.st], by rw [seq, trapped.wait], by rw [fox, trapped.trap]⟩

theorem fox_settle {a : Nat} : (settle a s).units.fox = s.units.fox := by
  unfold settle
  dsimp only
  split_ifs <;> rfl

theorem foxOf_setX_ne {a r : Nat} {v : Word64} (ne : e ≠ a) : foxOf (setX a r v s) e = foxOf s e := by
  unfold setX
  split
  · rfl
  · exact SMap.get_set_ne _ _ _ _ _ ne

theorem Trapped.releaseOne {n a : Nat} {tally : Tally} (trapped : Trapped e s) : Trapped e (releaseOne n tally a s) := by
  by_cases same : a = e
  · rw [Machine.releaseOne, same, trapped.wait]
    exact trapped
  · unfold Machine.releaseOne
    dsimp only
    have settled : ∀ q, Trapped e (settle a (setSeq a q s)) := fun q => by
      have kept := (sameButEngine_settle (e := a) (s := setSeq a q s)).2 e (Ne.symm same)
      refine trapped.congr (kept.trans (SMap.get_set_ne _ _ _ _ _ (Ne.symm same))) ?_
      rw [foxOf, fox_settle]
      rfl
    split
    · split
      · split
        · refine (settled _).congr ?_ (foxOf_setX_ne (Ne.symm same))
          unfold setX
          split <;> rfl
        · exact settled _
      · exact trapped
    · exact trapped

theorem notifyTally_eng_units {n : Nat} {tally : Tally} : (notifyTally n tally s).eng = s.eng ∧ (notifyTally n tally s).units = s.units := by
  unfold notifyTally
  exact forEach_induct (fun t => t.eng = s.eng ∧ t.units = s.units) _ (fun n t same => by simpa using same) _ _ ⟨rfl, rfl⟩

/-- A change of a tally wakes the core that yields and waited for it last. -/
def wakeYielding (n : Nat) (_ : Nat) (c : Fox) : Fox :=
  if c.yielding && c.lastTally == some n then { c with yielding := false } else c

theorem trap_wakeYielding (n k : Nat) (c : Fox) : (wakeYielding n k c).trap = c.trap := by
  unfold wakeYielding
  split <;> rfl

theorem Trapped.tallyChanged {n : Nat} (trapped : Trapped e s) : Trapped e (tallyChanged n s) := by
  unfold Machine.tallyChanged
  extract_lets tally released units' woken
  have held : Trapped e released := forEach_induct (Trapped e) _ (fun _ _ same => same.releaseOne) _ s trapped
  obtain ⟨eng, units⟩ := notifyTally_eng_units (s := woken) (n := n) (tally := tally)
  have present : foxOf released e ≠ {} := fun reset => by
    have trap := held.trap
    rw [reset] at trap
    exact Bool.noConfusion trap
  have kept : (foxOf woken e).trap = true := by
    have trap : (wakeYielding n e (foxOf released e)).trap = true := (trap_wakeYielding ..).trans held.trap
    refine (congrArg Fox.trap (SMap.get_mapVals_of_kept ({} : Fox) released.units.fox (wakeYielding n) e present fun reset => ?_)).trans trap
    rw [show wakeYielding n e (foxOf released e) = {} from reset] at trap
    exact Bool.noConfusion trap
  refine ⟨?_, ?_, ?_⟩
  · rw [seqOf, eng]
    exact held.st
  · rw [seqOf, eng]
    exact held.wait
  · rw [foxOf, units]
    exact kept

theorem Trapped.setTally {n : Nat} {tally : Tally} (trapped : Trapped e s) : Trapped e (setTally n tally s) :=
  ⟨trapped.st, trapped.wait, trapped.trap⟩

theorem Trapped.tallyError {n code eng : Nat} (trapped : Trapped e s) : Trapped e (tallyError n code eng s) :=
  trapped.setTally.tallyChanged

theorem Trapped.modSeq {f : Seq → Seq} (trapped : Trapped e s) (st : (f (seqOf s e)).st = .faulted) (wait : (f (seqOf s e)).wait = none) :
    Trapped e (modSeq e f s) := by
  have self : seqOf (Machine.modSeq e f s) e = f (seqOf s e) := seqOf_modSeq_self _ _ _ fun reset => by
    rw [reset] at st
    exact absurd st (by decide)
  exact ⟨by rw [self, st], by rw [self, wait], trapped.trap⟩

theorem foxOf_modFox_of_trap {f : Fox → Fox} (trap : (f (foxOf s e)).trap = true) : foxOf (modFox e f s) e = f (foxOf s e) :=
  SMap.get_modify_self _ _ _ _ fun reset => by
    have reset' : f (foxOf s e) = {} := reset
    rw [reset'] at trap
    exact Bool.noConfusion trap

theorem trap_modFox {f : Fox → Fox} (trap : (f (foxOf s e)).trap = true) : (foxOf (modFox e f s) e).trap = true := by
  rw [foxOf_modFox_of_trap trap, trap]

theorem Trapped.foxReadback (trapped : Trapped e s) : Trapped e (foxReadback e s) := by
  unfold Machine.foxReadback
  split
  · have marked : Trapped e (modFox e (fun c => { c with hostWrote := none, readbacks := c.readbacks ++ [(seqOf s e).issued] }) s) :=
      ⟨trapped.st, trapped.wait, trap_modFox trapped.trap⟩
    exact marked.modSeq trapped.st trapped.wait
  · exact trapped

theorem trapped_foxTrap {cause tval : Nat} : Trapped e (foxTrap e cause tval s) := by
  unfold foxTrap
  extract_lets logged marked
  have trap : (foxOf marked e).trap = true :=
    trap_modFox (f := fun c => { c with trap := true, pos := 0, busy := false, yielding := false }) (s := logged) rfl
  have stopped : seqOf (Machine.modSeq e (fun q => { q with st := .faulted, wait := none, ending := false }) marked) e =
      { seqOf marked e with st := .faulted, wait := none, ending := false } :=
    seqOf_modSeq_self _ _ _ fun reset => absurd (congrArg Seq.st reset) (by simp)
  have faulted : Trapped e (Machine.modSeq e (fun q => { q with st := .faulted, wait := none, ending := false }) marked) :=
    ⟨by rw [stopped], by rw [stopped], trap⟩
  exact Trapped.foxReadback (Trapped.tallyError faulted)

theorem mem_foxTrap {cause tval : Nat} : (foxTrap e cause tval s).mem = s.mem := by
  unfold foxTrap foxReadback
  dsimp only
  split <;> simp [engineError, issueOpen]

/-! ### Computing instructions -/

theorem exec_fcCompute_of_runs (runs : foxRuns s e = true) : exec (.fcCompute e) s = .next (foxCompute e s) := by
  change execFcCompute e s = _
  rw [execFcCompute, if_pos runs]

theorem foxCompute_of_ins (ins : foxIns s e .compute = some i) : foxCompute e s =
    match i.w % 128 with
    | 0x73 => if i.w = 0x73 then foxTrap e 8 0 s else if i.w = 0x00100073 then foxTrap e 3 (seqOf s e).pc s else foxIllegal e i s
    | 0x43 | 0x47 | 0x4B | 0x4F | 0x53 => foxPure e i (rvFloat (foxOf s e) ((seqOf s e).pc + i.len) i.w) s
    | 0x57 => foxPure e i (rvVec (foxOf s e) ((seqOf s e).pc + i.len) i.w) s
    | _ => foxPure e i (rvInt (foxOf s e) (seqOf s e).pc ((seqOf s e).pc + i.len) i.w) s := by
  obtain ⟨-, fetch, cls⟩ := foxIns_spec ins
  rw [foxCompute, fetch]
  dsimp only
  rw [if_neg (by simp [cls])] <;> rfl

theorem exec_fcCompute_of_int {next : Nat} {c : Fox} (ins : foxIns s e .compute = some i)
    (listed : i.w % 128 ∈ [0x33, 0x13, 0x3B, 0x1B, 0x37, 0x17, 0x6F, 0x67, 0x63])
    (result : rvInt (foxOf s e) (seqOf s e).pc ((seqOf s e).pc + i.len) i.w = some (c, next)) :
    exec (.fcCompute e) s = .next (foxRetire e next (modFox e (fun _ => c) s)) := by
  rw [exec_fcCompute_of_runs (foxIns_spec ins).1, foxCompute_of_ins ins, result]
  simp only [List.mem_cons, List.not_mem_nil, or_false] at listed
  rcases listed with opcode | opcode | opcode | opcode | opcode | opcode | opcode | opcode | opcode <;> rw [opcode] <;> rfl

theorem exec_fcCompute_of_float {next : Nat} {c : Fox} (ins : foxIns s e .compute = some i)
    (listed : i.w % 128 ∈ [0x43, 0x47, 0x4B, 0x4F, 0x53]) (result : rvFloat (foxOf s e) ((seqOf s e).pc + i.len) i.w = some (c, next)) :
    exec (.fcCompute e) s = .next (foxRetire e next (modFox e (fun _ => c) s)) := by
  rw [exec_fcCompute_of_runs (foxIns_spec ins).1, foxCompute_of_ins ins, result]
  simp only [List.mem_cons, List.not_mem_nil, or_false] at listed
  rcases listed with opcode | opcode | opcode | opcode | opcode <;> rw [opcode] <;> rfl

theorem exec_fcCompute_of_vector {next : Nat} {c : Fox} (ins : foxIns s e .compute = some i) (opcode : i.w % 128 = 0x57)
    (result : rvVec (foxOf s e) ((seqOf s e).pc + i.len) i.w = some (c, next)) :
    exec (.fcCompute e) s = .next (foxRetire e next (modFox e (fun _ => c) s)) := by
  rw [exec_fcCompute_of_runs (foxIns_spec ins).1, foxCompute_of_ins ins, result, opcode]
  rfl

theorem exec_fcCompute_of_ebreak (ins : foxIns s e .compute = some i) (ebreak : i.w = 0x00100073) :
    exec (.fcCompute e) s = .next (foxTrap e 3 (seqOf s e).pc s) := by
  rw [exec_fcCompute_of_runs (foxIns_spec ins).1, foxCompute_of_ins ins, ebreak, show 0x00100073 % 128 = 0x73 from rfl, if_neg (by decide), if_pos rfl]
  rfl

/-! ### Registers and arithmetic -/

theorem bit_30_of_f7 {w : Nat} : (f7 w = 0 → bit w 30 = false) ∧ (f7 w = 32 → bit w 30 = true) := by
  simp only [f7, bits, bit, Nat.shiftRight_eq_div_pow, beq_eq_false_iff_ne, beq_iff_eq]
  omega

theorem rx_wx {c : Fox} {r r' : Nat} {v : Word64} (real : r ≠ 0) (wf : SMap.wf 0 c.x = true) :
    (c.wx r v).rx r = v ∧ (r' ≠ r → (c.wx r v).rx r' = c.rx r') := by
  rw [Fox.wx, if_neg real]
  refine ⟨?_, fun ne => ?_⟩
  · rw [Fox.rx, if_neg real, SMap.get_set _ _ _ _ wf]
  · rw [Fox.rx, Fox.rx, SMap.get_set_ne _ _ _ _ _ ne]

theorem rvInt_of_op {c : Fox} {pc next w : Nat} (op : w % 128 = 0x33) : rvInt c pc next w =
    if f7 w = 1 then some (c.wx (fRd w) (w64 (mulDiv 64 (f3 w) (c.rx (fRs1 w)).toNat (c.rx (fRs2 w)).toNat)), next)
    else if f7 w = 0 ∨ (f7 w = 32 ∧ (f3 w = 0 ∨ f3 w = 5)) then
      some (c.wx (fRd w) (aluOp (f3 w) (bit w 30) (c.rx (fRs1 w)) (c.rx (fRs2 w))), next)
    else none := by
  rw [rvInt, op]
  rfl

/-- The integer arithmetic of a fox core, as its obligation asks for it. -/
theorem rvInt_arithmetic {c : Fox} {pc next w : Nat} {a b : Word64} (ra : a = c.rx (fRs1 w)) (rb : b = c.rx (fRs2 w)) :
    (w % 128 = 0x33 → f7 w = 0 → f3 w = 0 → rvInt c pc next w = some (c.wx (fRd w) (a + b), next)) ∧
    (w % 128 = 0x33 → f7 w = 32 → f3 w = 0 → rvInt c pc next w = some (c.wx (fRd w) (a - b), next)) ∧
    (w % 128 = 0x33 → f7 w = 0 → f3 w = 1 → rvInt c pc next w = some (c.wx (fRd w) (a <<< (b.toNat % 64)), next)) ∧
    (w % 128 = 0x33 → f7 w = 1 → f3 w = 4 → b = 0 → rvInt c pc next w = some (c.wx (fRd w) (BitVec.allOnes 64), next)) ∧
    (w % 128 = 0x33 → f7 w = 1 → f3 w = 6 → b = 0 → rvInt c pc next w = some (c.wx (fRd w) a, next)) ∧
    (w % 128 = 0x33 → f7 w = 1 → f3 w = 0 → rvInt c pc next w = some (c.wx (fRd w) (a * b), next)) := by
  subst ra rb
  refine ⟨fun op plain add => ?_, fun op alt sub => ?_, fun op plain sll => ?_, fun op mul div zero => ?_, fun op mul rem zero => ?_,
    fun op mul low => ?_⟩
  · rw [rvInt_of_op op, plain, add, bit_30_of_f7.1 plain, if_neg (by decide), if_pos (.inl rfl)]
    rfl
  · rw [rvInt_of_op op, alt, sub, bit_30_of_f7.2 alt, if_neg (by decide), if_pos (.inr ⟨rfl, .inl rfl⟩)]
    rfl
  · rw [rvInt_of_op op, plain, sll, if_neg (by decide), if_pos (.inl rfl)]
    rfl
  · rw [rvInt_of_op op, mul, div, zero, if_pos rfl]
    rfl
  · rw [rvInt_of_op op, mul, rem, zero, if_pos rfl]
    refine congrArg (fun v => some (c.wx (fRd w) v, next)) (BitVec.eq_of_toNat_eq ?_)
    simp [mulDiv, w64]
  · rw [rvInt_of_op op, mul, low, if_pos rfl]
    refine congrArg (fun v => some (c.wx (fRd w) v, next)) (BitVec.eq_of_toNat_eq ?_)
    simp [mulDiv, w64]

end

/-- Settles O28, opcode by opcode; a trap by what it leaves of its engine. -/
theorem foxArithmeticAndTraps : Obligations.FoxArithmeticAndTraps := by
  refine ⟨fun s e i c' next => ⟨exec_fcCompute_of_int, exec_fcCompute_of_float, exec_fcCompute_of_vector, fun runs fault => ?_,
      exec_fcCompute_of_ebreak, fun r runs illegal => ?_, fun cause tval => ⟨mem_foxTrap, trapped_foxTrap.st, trapped_foxTrap.trap⟩⟩,
    fun c pc next w a b ra rb => ?_⟩
  · rw [exec_fcCompute_of_runs runs, foxCompute, fault]
  · rw [exec_fcCompute_of_runs runs, foxCompute, illegal]
  · obtain ⟨add, sub, sll, div, rem, mul⟩ := rvInt_arithmetic (pc := pc) (next := next) ra rb
    refine ⟨rfl, fun _ => rfl, fun r v real wf => ⟨(rx_wx (r' := r) real wf).1, fun r' => (rx_wx real wf).2⟩, add, sub, sll, div, rem, mul,
      fun op beq => ?_, fun op => ?_, fun _ op => ?_⟩
    · rw [rvInt, op, ra, rb, beq]
      simp [branchTaken]
    · rw [rvInt, op]
      rfl
    · rw [rvInt, op]
      rfl

section

variable {s : State} {e : Nat} {i : FoxIns}

/-! ### Device instructions -/

theorem running_of_foxIns {k : FoxCls} (ins : foxIns s e k = some i) : (seqOf s e).st = .running := by
  have runs := (foxIns_spec ins).1
  simp only [foxRuns, Bool.and_eq_true, decide_eq_true_eq] at runs
  exact runs.1.1.1.1.2

theorem pc_foxReadback : (seqOf (foxReadback e s) e).pc = (seqOf s e).pc := by
  unfold foxReadback
  split
  · rw [issueOpen, seqOf_modSeq_self _ _ _ fun reset => absurd (congrArg Seq.opens reset) (by simp)]
    rfl
  · rfl

theorem exec_fend_of_ins (ins : foxIns s e .fend = some i) (legal : i.w = 0x0B) : exec (.fend e) s = .next (settle e (modSeq e
    (fun q => { q with ending := true }) (foxReadback e (modFox e (fun c => { c with instret := c.instret + 1 }) s)))) := by
  change execFend e s = _
  rw [execFend, onFox_some _ ins]
  dsimp only
  rw [if_neg (by simp [legal])]

theorem exec_tsig_of_open (ins : foxIns s e .tsig = some i) (legal : f7 i.w = 0)
    (opened : tallyCheck s e ((foxOf s e).rx (fRs1 i.w)) false = none) : exec (.tsig e) s = .next (foxRetire e ((seqOf s e).pc + i.len)
      (modSeq e (fun q => { q with signals := q.signals ++ [{
        issue := q.issued, tally := (hallAddr ((foxOf s e).rx (fRs1 i.w))).off / 32, n := ((foxOf s e).rx (fRs2 i.w)).toNat
        addr := if isRemote s (hallAddr ((foxOf s e).rx (fRs1 i.w))) then some ((foxOf s e).rx (fRs1 i.w)) else none }] })
        (foxReadback e s))) := by
  change execTsig e s = _
  rw [execTsig, onFox_some _ ins]
  dsimp only
  rw [if_neg (by simp [legal]), opened]
  dsimp only
  rw [seqOf_modSeq_self _ _ _ fun reset => absurd (congrArg Seq.signals reset) (by simp), pc_foxReadback]

/-- What TWAIT leaves, by what its checks and its tally say. -/
theorem exec_twait_of_ins (ins : foxIns s e .twait = some i) (legal : f7 i.w = 0) : exec (.twait e) s = .next (
    match tallyCheck s e ((foxOf s e).rx (fRs1 i.w)) true with
    | some code =>
      let u := modFox e (fun c => { c with operandFault := true }) (addrFault code e ((foxOf s e).rx (fRs1 i.w)) s)
      foxRetire e ((seqOf u e).pc + i.len) (setX e (fRd i.w) 1 u)
    | none =>
      let n := (hallAddr ((foxOf s e).rx (fRs1 i.w))).off / 32
      let u := modFox e (fun c => { c with lastTally := some n }) s
      if (tallyOf s n).error = true ∨ ((foxOf s e).rx (fRs2 i.w)).toNat ≤ (tallyOf s n).count then
        foxRetire e ((seqOf s e).pc + i.len) (setX e (fRd i.w) (if (tallyOf s n).error then 1 else 0) u)
      else
        modFox e (fun c => { c with instret := c.instret + 1 }) (modSeq e (fun q => { q with
          st := .waiting, wait := some { tally := n, target := ((foxOf s e).rx (fRs2 i.w)).toNat, rd := some (fRd i.w) } }) u)) := by
  change execTwait e s = _
  rw [execTwait, onFox_some _ ins]
  dsimp only
  rw [if_neg (by simp [legal])]
  rfl

theorem exec_terrt_of_open (ins : foxIns s e .terrt = some i) (legal : f7 i.w = 0)
    (opened : tallyCheck s e ((foxOf s e).rx (fRs1 i.w)) true = none) : exec (.terrt e) s = .next (foxRetire e ((seqOf s e).pc + i.len)
      (modSeq e (fun q => { q with errTally := (hallAddr ((foxOf s e).rx (fRs1 i.w))).off / 32 }) s)) := by
  change execTerrt e s = _
  rw [execTerrt, onFox_some _ ins]
  dsimp only
  rw [if_neg (by simp [legal]), opened]
  dsimp only
  rw [seqOf_modSeq_of_running (running_of_foxIns ins)]

theorem exec_prm_of_inside {p : Prog} (ins : foxIns s e .prm = some i) (legal : f7 i.w = 0) (prog : progOf s e = some p)
    (inside : ((foxOf s e).rx (fRs1 i.w)).toNat < p.paramWords) : exec (.prm e) s = .next (foxRetire e ((seqOf s e).pc + i.len)
      (setX e (fRd i.w) (paramAt s e ((foxOf s e).rx (fRs1 i.w)).toNat) s)) := by
  change execPrm e s = _
  rw [execPrm, onFox_some _ ins]
  dsimp only
  rw [if_neg (by simp [legal]), prog, if_pos inside]

theorem exec_ecallLog_of_ins (ins : foxIns s e .ecallLog = some i) : exec (.ecallLog e) s = .next (
    modSeq e (fun q => { q with pc := q.pc + 4 }) (if (foxOf s e).userLogged < 16 then
      logEvent 0x6320 e [(2, e), (8, ((foxOf s e).rx 10).toNat)] (modFox e (fun c => { c with userLogged := c.userLogged + 1 }) s)
      else modFox e (fun c => { c with userDrops := satAdd 64 c.userDrops 1 }) s)) := by
  change execEcallLog e s = _
  rw [execEcallLog, onFox_some _ ins]

theorem exec_ecallYield_of_ins (ins : foxIns s e .ecallYield = some i) : exec (.ecallYield e) s =
    .next (modFox e (fun c => { c with yielding := true }) (modSeq e (fun q => { q with pc := q.pc + 4 }) s)) := by
  change execEcallYield e s = _
  rw [execEcallYield, onFox_some _ ins]

theorem exec_fcEccFatal_of_going (core : engClass e = 2) (unit : engValid e = true)
    (going : (seqOf s e).st = .running ∨ (seqOf s e).st = .waiting) : exec (.fcEccFatal e) s = .next (foxEccStop e s) := by
  change execFcEccFatal e s = _
  rw [execFcEccFatal, if_pos ⟨core, unit, going⟩]

end

/-- Settles O29, instruction by instruction. -/
theorem foxDeviceInstructions : Obligations.FoxDeviceInstructions := by
  intro s e i c a t next n faulted
  refine ⟨exec_fend_of_ins, exec_tsig_of_open, fun ins legal opened met => ?_, fun ins legal opened clean below => ?_,
    fun code ins legal refused => ?_, exec_terrt_of_open, fun p => exec_prm_of_inside, fun ins room => ?_, fun ins full => ?_,
    exec_ecallYield_of_ins, rfl, exec_fcEccFatal_of_going⟩
  · rw [exec_twait_of_ins ins legal, opened]
    exact congrArg _ (if_pos met)
  · rw [exec_twait_of_ins ins legal, opened]
    exact congrArg _ (if_neg (by rw [clean]; simp; omega))
  · rw [exec_twait_of_ins ins legal, refused]
  · rw [exec_ecallLog_of_ins ins, if_pos room]
  · rw [exec_ecallLog_of_ins ins, if_neg (Nat.not_lt.2 full)]

end Sys2Proof.Machine

/-! PROOFS. The copies of a hare (O30). -/

namespace Sys2Proof.Machine

open Sys2Proof

section

variable {s : State} {e i : Nat} {w : Word64} {c : CopyRec}

/-! ### Issue -/

theorem firstSense_ok {a : Word64} : firstSense e a .ok s = s := by
  unfold firstSense
  split <;> rfl

theorem issueCopy_of_busy {ecc : Ecc} (busy : hareFree s e = false) : issueCopy e ecc w s = s := by
  rw [issueCopy, if_pos (by simp [busy])]

theorem issueCopy_of_down {ecc : Ecc} {d : Nat} (free : hareFree s e = true) (down : copyDown s (resolveCopy s e w) = some d) :
    issueCopy e ecc w s = refuseDown e (resolveCopy s e w) d (nextPc e s) := by
  have down' : copyDown (nextPc e s) (resolveCopy s e w) = some d := down
  rw [issueCopy, if_neg (by simp [free])]
  dsimp only
  rw [down']

theorem issueCopy_of_up (free : hareFree s e = true) (up : copyDown s (resolveCopy s e w) = none)
    (single : (resolveCopy s e w).mcast = none) : issueCopy e .ok w s = startCopy e (resolveCopy s e w) (nextPc e s) := by
  have up' : copyDown (nextPc e s) (resolveCopy s e w) = none := up
  rw [issueCopy, if_neg (by simp [free])]
  dsimp only
  rw [up', single]
  dsimp only
  rw [if_neg (by simp), firstSense_ok, ite_self]

theorem exec_copy_of_issue {ecc : Ecc} (issued : issueOf s e [0x60] = some w) : exec (.copy e ecc) s =
    .next (if bit w.toNat 9 then issueStaged e w s else issueCopy e ecc w s) := by
  change execCopy e ecc s = _
  rw [execCopy, onIssue_some _ issued]

theorem exec_gather_of_issue (issued : issueOf s e [0x61] = some w) : exec (.gather e) s = .next (issueCopy e .ok w s) := by
  change execGather e s = _
  rw [execGather, onIssue_some _ issued]

theorem exec_fill_of_issue (issued : issueOf s e [0x62] = some w) : exec (.fill e) s = .next (issueCopy e .ok w s) := by
  change execFill e s = _
  rw [execFill, onIssue_some _ issued]

/-! ### Domains that drain -/

theorem exec_ceDrainCut_of_mesh (tile : engClass e = 5) (down : domDown s (16 + engDie e) = true)
    (loading : (SMap.get {} s.units.ppe (engDie e)).load.map (·.1) = some i) : exec (.ceDrainCut e i) s = .next (cutMload (engDie e) s) := by
  change execCeDrainCut e i s = _
  rw [execCeDrainCut, if_pos tile, if_pos (by simp [down, loading])]

theorem exec_ceDrainCut_of_copy {d : Nat} (running : copyOf s e i = some c) (hare : engClass e ≠ 5) (down : copyDown s c = some d) :
    exec (.ceDrainCut e i) s = .next (stopCopy e i (copyErrors e c 0x9021
      (modHare e (fun h => { h with domainDown := true }) (logEvent 0x9021 e [(2, e), (4, c.index), (4, d)] s)))) := by
  change execCeDrainCut e i s = _
  rw [execCeDrainCut, if_neg hare, running]
  dsimp only
  rw [down]

/-! ### Chunks -/

theorem exec_chunkPerformed_of_over {ecc : Ecc × Ecc} {host : HostAnswer} (running : copyOf s e i = some c)
    (ended : c.stopped = true ∨ c.total ≤ c.sent) : exec (.chunkPerformed e i ecc host) s = .next s := by
  change execChunkPerformed e i ecc host s = _
  rw [execChunkPerformed, running]
  dsimp only
  rw [if_pos (by rcases ended with stopped | sent <;> simp [*])]

/-- A chunk of a copy within the device, with no host side, is read and written here. -/
theorem exec_chunkPerformed_of_here {ecc : Ecc × Ecc} {host : HostAnswer} (running : copyOf s e i = some c) (going : c.stopped = false)
    (more : c.sent < c.total) (first : behindCopy s e c = false) (plain : c.kind ≠ .gather) (src : srcRemoteOf s c = false)
    (dst : dstRemoteOf s c = false) (noHost : hostSourced c = false) :
    exec (.chunkPerformed e i ecc host) s = .next (chunkLocal e c ecc.1 host s) := by
  change execChunkPerformed e i ecc host s = _
  rw [execChunkPerformed, running]
  dsimp only
  rw [if_neg (by simp [going, first]; omega), if_neg plain, if_neg (by simp [src]), if_neg (by simp [dst]), if_neg (by simp [noHost])]

theorem issue_of_copyOf (running : copyOf s e i = some c) : c.issue = i := by
  have found := List.find?_some running
  simpa using found

theorem localReady_of_sp {a : Word64} {n : Nat} {write : Bool} (sp : (hallAddr a).space = 0) : localReady s a n write = true := by
  rw [localReady]
  rw [if_neg (by omega)]

theorem localSense_of_sp {a : Word64} {n : Nat} {lat : Bool} (sp : (hallAddr a).space = 0) : localSense e lat a n .ok s = s := by
  rw [localSense, sp]
  rfl

theorem localRead_of_sp {a : Word64} {n : Nat} {host : List Byte} (sp : (hallAddr a).space = 0) :
    localRead s a n host = (readStore s .sp (hallAddr a).off n, poisoned s .sp (hallAddr a).off n) := by
  rw [localRead, sp]
  rfl

theorem chunkLocal_of_sp (running : copyOf s e i = some c) (copies : c.kind = .copy) (noHost : hostSourced c = false)
    (src : (hallAddr (c.srcAt c.sent)).space = 0) (dst : (hallAddr (c.dstAt c.sent)).space = 0)
    (permitted : copyStage s e c c.sent (c.chunkEnd c.sent - c.sent) = none) :
    chunkLocal e c .ok (.data []) s = copySettle e i (landed e i c.sent (c.chunkEnd c.sent - c.sent)
      (modCopy e i (fun d => { d with sent := d.sent + (c.chunkEnd c.sent - c.sent) }) (localWrite e c (c.dstAt c.sent)
        (readStore s .sp (hallAddr (c.srcAt c.sent)).off (c.chunkEnd c.sent - c.sent))
        (poisoned s .sp (hallAddr (c.srcAt c.sent)).off (c.chunkEnd c.sent - c.sent)) s))) := by
  have issue := issue_of_copyOf running
  rw [chunkLocal]
  dsimp only
  rw [if_neg (by simp [noHost]), if_neg (by omega), permitted]
  dsimp only
  rw [if_neg (by simp [noHost]), if_neg (by simp [localReady_of_sp src]), if_neg (by simp [localReady_of_sp dst]),
    if_neg (by simp [noHost]), if_pos copies, localSense_of_sp src, issue, running]
  dsimp only
  rw [if_neg (by simp [noHost]), if_pos copies, localRead_of_sp src, if_neg (by simp [noHost])]

theorem chunkLocal_of_fill (running : copyOf s e i = some c) (fills : c.kind = .fill)
    (dst : (hallAddr (c.dstAt c.sent)).space = 0)
    (permitted : copyStage s e c c.sent (c.chunkEnd c.sent - c.sent) = none) :
    chunkLocal e c .ok (.data []) s = copySettle e i (landed e i c.sent (c.chunkEnd c.sent - c.sent)
      (modCopy e i (fun d => { d with sent := d.sent + (c.chunkEnd c.sent - c.sent) }) (localWrite e c (c.dstAt c.sent)
        ((List.replicate ((c.chunkEnd c.sent - c.sent) / 8 + 1) (leBytes 8 c.src.toNat)).flatten.take (c.chunkEnd c.sent - c.sent))
        false s))) := by
  have issue := issue_of_copyOf running
  have noHost : hostSourced c = false := by simp [hostSourced, fills]
  have noCopy : c.kind ≠ .copy := by simp [fills]
  rw [chunkLocal]
  dsimp only
  rw [if_neg (by simp [noHost]), if_neg (by omega), permitted]
  dsimp only
  rw [if_neg (by simp [noHost]), if_neg (by simp [noCopy]), if_neg (by simp [localReady_of_sp dst]),
    if_neg (by simp [noHost]), if_neg noCopy, issue, running]
  dsimp only
  rw [if_neg (by simp [noHost]), if_neg noCopy, if_neg (by simp [noHost])]

theorem exec_hostReadbackDone_of_copy {upto st : Nat} {rest : List Nat} (running : copyOf s e i = some c) (oldest : c.readbacks = upto :: rest) :
    exec (.hostReadbackDone e i st) s =
      let u := modHare e (fun h => { h with outstanding := h.outstanding - 1 }) s
      if st ≠ 0 then .next (hostErrorCopy e c (c.dstAt (upto - 1) &&& ~~~3#64) st u)
      else .next (copySettle e i (postUpto e i upto (modCopy e i (fun c => { c with readbacks := rest }) u))) := by
  change execHostReadbackDone e i st s = _
  rw [execHostReadbackDone, running]
  dsimp only
  rw [oldest]

end

/-- Settles O30, from the rules of issue, of a chunk within the device, and of a copy's read-backs and stops. -/
theorem hareCopies : Obligations.HareCopies := by
  refine ⟨fun s e w => ?_, fun s e i c running => ?_⟩
  · refine ⟨fun issued plain busy => ?_, fun issued plain free up single => ?_, fun d issued plain free down => ?_, fun issued staged => ?_,
      fun issued free up single => ?_, fun issued free up single => ?_, fun i => exec_ceDrainCut_of_mesh, rfl⟩
    · rw [exec_copy_of_issue issued, if_neg (by simp [plain]), issueCopy_of_busy busy]
    · rw [exec_copy_of_issue issued, if_neg (by simp [plain]), issueCopy_of_up free up single]
    · rw [exec_copy_of_issue issued, if_neg (by simp [plain]), issueCopy_of_down free down]
    · rw [exec_copy_of_issue issued, if_pos staged]
    · rw [exec_gather_of_issue issued, issueCopy_of_up free up single]
    · rw [exec_fill_of_issue issued, issueCopy_of_up free up single]
  · refine ⟨exec_chunkPerformed_of_over running, fun going more first copies src dst noHost srcSp dstSp permitted => ?_,
      fun going more first fills dst dstSp permitted => ?_, fun upto rest oldest => ⟨?_, fun st failed => ?_⟩,
      fun d => exec_ceDrainCut_of_copy running⟩
    · rw [exec_chunkPerformed_of_here running going more first (by simp [copies]) src dst noHost,
        chunkLocal_of_sp running copies noHost srcSp dstSp permitted]
    · rw [exec_chunkPerformed_of_here running going more first (by simp [fills]) (by simp [srcRemoteOf, fills]) dst
        (by simp [hostSourced, fills]), chunkLocal_of_fill running fills dstSp permitted]
    · rw [exec_hostReadbackDone_of_copy running oldest]
      exact if_neg (by simp)
    · rw [exec_hostReadbackDone_of_copy running oldest]
      exact if_pos failed

end Sys2Proof.Machine

/-! PROOFS. Staging slots, the scrubs and the HBM patrol (O31). -/

namespace Sys2Proof.Machine

open Sys2Proof

section

variable {s : State} {e die n k : Nat} {w : Word64}

/-! ### Staging -/

theorem exec_sopen_of_issue (issued : issueOf s e [0x64] = some w) : exec (.sopen e) s = .next (sopenLoop e w 1026 s) := by
  change execSopen e s = _
  rw [execSopen, onIssue_some _ issued]

theorem exec_spub_of_issue (issued : issueOf s e [0x65] = some w) : exec (.spub e) s = .next (spubLoop e w 1026 s) := by
  change execSpub e s = _
  rw [execSpub, onIssue_some _ issued]

theorem exec_scan_of_issue (issued : issueOf s e [0x67] = some w) : exec (.scan e) s =
    .next (nextPc e (forEach (List.range (fld w 30 10 + 1)) (fun i s =>
      if fld w 20 10 + i < 1024 ∧ stgMine s e (stgKey (engDie e) (fld w 20 10 + i)) = true
      then cancelStg (engDie e) (stgKey (engDie e) (fld w 20 10 + i)) s else stagingFault e 0x6501 (fld w 20 10 + i) s) s)) := by
  change execScan e s = _
  rw [execScan, onIssue_some _ issued]

theorem exec_sres_of_issue (issued : issueOf s e [0x66] = some w) : exec (.sres e) s = .next (
    match (hareOf s e).sres with
    | some _ => sresLoop e w (sresArgs s e w) 258 s
    | none => if sresWaits s e w then s else sresStart e w s) := by
  change execSres e s = _
  rw [execSres, onIssue_some _ issued] <;> rfl

theorem stgOf_setStg_self {g : StgSlot} (kept : g ≠ {}) : stgOf (setStg k g s) k = g := SMap.get_set_self _ _ _ _ kept

theorem stgOf_setStg_ne {g : StgSlot} {k' : Nat} (ne : k' ≠ k) : stgOf (setStg k g s) k' = stgOf s k' := SMap.get_set_ne _ _ _ _ _ ne

/-- A cancelled slot is free with the next generation. -/
theorem stgOf_cancelStg_self : stgOf (cancelStg die k s) k = { gen := (stgOf s k).gen + 1 } := by
  have kept : ({ gen := (stgOf s k).gen + 1 } : StgSlot) ≠ {} := fun reset => by simpa using congrArg StgSlot.gen reset
  unfold cancelStg freeStg modStg
  dsimp only
  split
  · exact stgOf_setStg_self kept
  · exact stgOf_setStg_self kept

theorem stgOf_cancelStg_ne {k' : Nat} (ne : k' ≠ k) : stgOf (cancelStg die k s) k' = stgOf s k' := by
  unfold cancelStg freeStg modStg
  dsimp only
  split
  · exact stgOf_setStg_ne ne
  · exact stgOf_setStg_ne ne

theorem mem_cancelStg : (cancelStg die k s).mem = s.mem := by
  unfold cancelStg freeStg
  dsimp only
  split <;> rfl

/-- A run-ahead copy whose sources all lie here, powered and free of a recall. -/
def PartsHere (s : State) (die n : Nat) : Prop :=
  ∀ p, p ∈ (stgOf s (stgKey die n)).parts →
    isRemote s (hallAddr p.src) = false ∧ downAt s p.src = none ∧ localReady s p.src p.len false = true

theorem exec_runaheadCopyDone_of_failed {host : List Byte} (flies : (stgOf s (stgKey die n)).run = .flight)
    (landed : (stgOf s (stgKey die n)).flight = 0) :
    exec (.runaheadCopyDone die n false host) s = .next (failRun die (stgKey die n) s) := by
  change execRunaheadCopyDone die n false host s = _
  rw [execRunaheadCopyDone]
  rw [if_neg (by simp [flies, landed]), if_pos (by simp)]

theorem exec_runaheadCopyDone_of_here {host : List Byte} {u : State} (flies : (stgOf s (stgKey die n)).run = .flight)
    (landed : (stgOf s (stgKey die n)).flight = 0) (here : PartsHere s die n)
    (read : runLocal (stgKey die n) host s (stgOf s (stgKey die n)).parts 0 = some u) :
    exec (.runaheadCopyDone die n true host) s = .next (modStg (stgKey die n) (fun g => { g with run := .done }) u) := by
  have up : (stgOf s (stgKey die n)).parts.any (fun p => (downAt s p.src).isSome) = false :=
    List.any_eq_false.2 fun p part => by simp [(here p part).2.1]
  have own : (stgOf s (stgKey die n)).parts.any (fun p => isRemote s (hallAddr p.src)) = false :=
    List.any_eq_false.2 fun p part => by simp [(here p part).1]
  have ready : (stgOf s (stgKey die n)).parts.any (fun p => !isRemote s (hallAddr p.src) && !localReady s p.src p.len false) = false :=
    List.any_eq_false.2 fun p part => by simp [(here p part).2.2]
  change execRunaheadCopyDone die n true host s = _
  rw [execRunaheadCopyDone]
  rw [if_neg (by simp [flies, landed]), if_neg (by simp [up]), if_neg (by simp [own]), if_neg (by simp [ready]), read]

end

section

variable {s : State} {a k : Nat} {x : Ecc} {last : Bool}

/-! ### Scrubs -/

theorem scrubLine_ok {st : Store} : scrubLine st a .ok s = s := by
  unfold scrubLine
  split <;> rfl

theorem exec_spScrubStep_of_lit (inside : a < 2 ^ 35) (lit : domDark s (domainOf .sp a) = false) : exec (.spScrubStep a x last) s =
    .next (if last then modEcc .sp a (fun r => { r with passes := satAdd 32 r.passes 1 }) (eccNote .sp a srcDevice x s)
      else eccNote .sp a srcDevice x s) := by
  change execSpScrubStep a x last s = _
  rw [execSpScrubStep, if_neg (not_or.2 ⟨Nat.not_le.2 inside, by simp [lit]⟩), scrubLine, if_neg (by simp [lit])]

theorem exec_csScrubStep_of_inside (inside : a < 2 ^ 29) : exec (.csScrubStep a .ok last) s = .next s := by
  change execCsScrubStep a .ok last s = _
  rw [execCsScrubStep, if_neg (by omega), scrubLine_ok]

theorem exec_hbmPatrol_of_trained (inside : a < 2 ^ 40) (trained : (SMap.get {} s.mem.hbmc (a / 2 ^ 36)).trained = true)
    (patrol : (SMap.get {} s.mem.hbmc (a / 2 ^ 36)).patrol = true) : exec (.hbmPatrol a .ok last) s = .next { s with mem := { s.mem with
      hbmc := SMap.modify {} s.mem.hbmc (a / 2 ^ 36) (fun h => { h with patrolBusy := !last }) } } := by
  change execHbmPatrol a .ok last s = _
  rw [execHbmPatrol]
  dsimp only
  rw [if_neg (not_or.2 ⟨Nat.not_le.2 inside, by rw [trained, patrol]; decide⟩), scrubLine_ok]

theorem exec_hbmPatrol_of_untrained (untrained : (SMap.get {} s.mem.hbmc (a / 2 ^ 36)).trained = false) :
    exec (.hbmPatrol a x last) s = .next s := by
  change execHbmPatrol a x last s = _
  rw [execHbmPatrol]
  dsimp only
  rw [if_pos (.inr (.inl untrained))]

/-- A record once a phase changes the log's marks and what a record changes. -/
theorem sameButLog_logOncePhase {code key src : Nat} {fs : List (Nat × Nat)} : SameButLog s (logOncePhase code key src fs s) := by
  unfold logOncePhase
  split
  · exact SameButLog.refl s
  · exact SameButLog.trans ⟨_, s.msix, s.hub.out, rfl⟩ (logEvent_same _ _ _ _)

theorem sameButLog_eccNote_corrected : SameButLog
    (modEcc .sp ((a + k) / 64 * 64) (fun r => { r with corrected := satAdd 32 r.corrected 1 }) s) (eccNote .sp a srcDevice (.corrected k) s) :=
  sameButLog_logOncePhase

end

/-- Settles O31, from the rules of the staging slots and of a scrubbed line. -/
theorem stagingAndScrub : Obligations.StagingAndScrub := by
  refine ⟨fun s e w => ?_, fun s a k => ?_⟩
  · refine ⟨exec_sopen_of_issue, exec_spub_of_issue, exec_scan_of_issue, fun issued first waits => ?_, fun issued first ready => ?_,
      fun issued going => ?_, fun die k => ?_, fun die n host u flies landed here =>
        ⟨exec_runaheadCopyDone_of_failed flies landed, exec_runaheadCopyDone_of_here flies landed here⟩⟩
    · rw [exec_sres_of_issue issued, first]
      exact congrArg _ (if_pos waits)
    · rw [exec_sres_of_issue issued, first]
      exact congrArg _ (if_neg (by simp [ready]))
    · obtain ⟨x, going⟩ := Option.ne_none_iff_exists'.1 going
      rw [exec_sres_of_issue issued, going]
    · rw [stgOf_cancelStg_self]
      exact ⟨rfl, rfl, mem_cancelStg, fun k' => stgOf_cancelStg_ne⟩
  · refine ⟨fun inside lit => ⟨?_, ?_, ?_⟩, fun inside => ⟨exec_csScrubStep_of_inside inside, exec_csScrubStep_of_inside inside⟩,
      fun inside trained patrol last => exec_hbmPatrol_of_trained inside trained patrol,
      fun untrained x last => exec_hbmPatrol_of_untrained untrained⟩
    · exact exec_spScrubStep_of_lit inside lit
    · exact exec_spScrubStep_of_lit inside lit
    · have mem := (sameButLog_eccNote_corrected (s := s) (a := a) (k := k)).mem
      obtain ⟨log, msix, out, same⟩ := sameButLog_eccNote_corrected (s := s) (a := a) (k := k)
      refine ⟨_, exec_spScrubStep_of_lit inside lit, ?_⟩
      rw [if_neg (by simp)]
      exact ⟨(congrArg Mem.sp mem).trans rfl, (congrArg Mem.hbm mem).trans rfl, (congrArg Mem.cs mem).trans rfl, by rw [same]; rfl,
        congrArg Mem.ecc mem⟩

end Sys2Proof.Machine

/-! PROOFS. The stream contexts: their control words, their stores and the service of appends (O32). -/

namespace Sys2Proof.Machine

open Sys2Proof

section

variable {s : State} {e c n v : Nat}

/-! ### Command words -/

theorem exec_streamAppend_of_alloc (alloc : (ctxOf s c).alloc = true) : exec (.streamAppend e c n) s = .next (ctxReach c (1 + n * 2 ^ 16) s) := by
  change execStreamAppend e c n s = _
  rw [execStreamAppend, if_pos alloc]

theorem exec_streamOpen_of_alloc (alloc : (ctxOf s c).alloc = true) : exec (.streamOpen e c) s = .next (ctxReach c 2 s) := by
  change execStreamOpen e c s = _
  rw [execStreamOpen, if_pos alloc]

theorem exec_streamClose_of_alloc (alloc : (ctxOf s c).alloc = true) : exec (.streamClose e c) s = .next (ctxReach c 3 s) := by
  change execStreamClose e c s = _
  rw [execStreamClose, if_pos alloc]

theorem exec_streamReset_of_alloc (alloc : (ctxOf s c).alloc = true) : exec (.streamReset e c) s = .next (ctxReach c 4 s) := by
  change execStreamReset e c s = _
  rw [execStreamReset, if_pos alloc]

theorem exec_streamAppend_of_unallocated (none : (ctxOf s c).alloc = false) : exec (.streamAppend e c n) s = .next (ctxRefuse e c 0xF8 s) := by
  change execStreamAppend e c n s = _
  rw [execStreamAppend, if_neg (by simp [none])]

theorem exec_streamReset_of_unallocated (none : (ctxOf s c).alloc = false) : exec (.streamReset e c) s = .next (ctxRefuse e c 0xF8 s) := by
  change execStreamReset e c s = _
  rw [execStreamReset, if_neg (by simp [none])]

theorem ctxReach_of_closing (closing : (ctxOf s c).closing = true) : ctxReach c v s = modCtx c (fun x => { x with later := x.later ++ [v] }) s := by
  rw [ctxReach, if_pos closing]

/-- A command word that does not wait for a CLOSE is carried out: its code in the low four bits, an append's count from bit 16. -/
theorem ctxReach_of_open (open' : (ctxOf s c).closing = false) : ctxReach c v s = ctxCommand c v s := by
  rw [ctxReach, if_neg (by simp [open'])]

theorem ctxCommand_append (small : n < 512) : ctxCommand c (1 + n * 2 ^ 16) s = ctxAppend c n s := by
  have count : bits (1 + n * 2 ^ 16) 16 9 = n := by simp only [bits, Nat.shiftRight_eq_div_pow]; omega
  have code : bits (1 + n * 2 ^ 16) 0 4 = 1 := by simp only [bits, Nat.shiftRight_eq_div_pow]; omega
  rw [ctxCommand]
  rw [count, code, if_neg (by omega), if_pos rfl]

theorem ctxCommand_open : ctxCommand c 2 s = ctxOpen c s := by
  rw [ctxCommand]
  exact (if_neg (by decide)).trans ((if_neg (by decide)).trans ((if_neg (by decide)).trans (if_pos (by decide))))

theorem ctxCommand_close : ctxCommand c 3 s = ctxClose c s := by
  rw [ctxCommand]
  exact (if_neg (by decide)).trans ((if_neg (by decide)).trans ((if_neg (by decide)).trans ((if_neg (by decide)).trans (if_pos (by decide)))))

theorem ctxCommand_reset : ctxCommand c 4 s = ctxReset c s := by
  rw [ctxCommand]
  exact (if_neg (by decide)).trans ((if_neg (by decide)).trans ((if_neg (by decide)).trans ((if_neg (by decide)).trans
    ((if_neg (by decide)).trans (if_pos (by decide))))))

theorem ctxAppend_of_fits (opened : (ctxOf s c).state = 1) (some : 0 < n) (small : n ≤ 256)
    (fits : (ctxOf s c).length + n ≤ (ctxOf s c).limit) : ctxAppend c n s =
      modStr (ctxDie c) (fun d => { d with appends := satAdd 64 d.appends 1 })
        (modCtx c (fun x => { (x.put 0x00 3 (x.length + n)) with queue := x.queue ++ [(x.length, n)] }) s) := by
  rw [ctxAppend]
  dsimp only
  rw [if_neg (by simp [opened]; omega), if_neg (by omega)]

theorem ctxAppend_of_bad (bad : (ctxOf s c).state ≠ 1 ∨ n = 0 ∨ 256 < n) :
    ctxAppend c n s = ctxFault c 0x6401 (ctxOf s c).length true s := by
  rw [ctxAppend, if_pos bad]

theorem ctxAppend_of_beyond (opened : (ctxOf s c).state = 1) (some : 0 < n) (small : n ≤ 256)
    (beyond : (ctxOf s c).limit < (ctxOf s c).length + n) : ctxAppend c n s = ctxFault c 0x6403 (ctxOf s c).length true s := by
  rw [ctxAppend]
  dsimp only
  rw [if_neg (by simp [opened]; omega), if_pos beyond]

theorem ctxOpen_of_written {u : State} (closed : (ctxOf s c).state = 0) (valid : ctxValid s c = true)
    (written : rowWrite c ((ctxOf s c).fld 0x30 8) (rowChanges s (ctxOf s c)) s = .ok u) : ctxOpen c s = modCtx c (fun x => x.put 0x08 1 1) u := by
  rw [ctxOpen, if_neg (by simp [closed]), if_neg (by simp [valid]), written]

theorem ctxOpen_of_refused {g : Option Nat × Nat} (closed : (ctxOf s c).state = 0) (valid : ctxValid s c = true)
    (refused : rowWrite c ((ctxOf s c).fld 0x30 8) (rowChanges s (ctxOf s c)) s = .error g) :
    ctxOpen c s = keyFault c (ctxOf s c).length g.1 (spAddr (g.2 : Nat)) s := by
  rw [ctxOpen, if_neg (by simp [closed]), if_neg (by simp [valid]), refused]

theorem ctxOpen_of_open (notClosed : (ctxOf s c).state ≠ 0) : ctxOpen c s = ctxFault c 0x6401 (ctxOf s c).length false s := by
  rw [ctxOpen, if_pos notClosed]

theorem ctxOpen_of_invalid (closed : (ctxOf s c).state = 0) (invalid : ctxValid s c = false) :
    ctxOpen c s = ctxFault c 0x6402 (ctxOf s c).length false s := by
  rw [ctxOpen]
  rw [if_neg (by simp [closed]), if_pos (by simp [invalid])]

theorem ctxClose_of_empty (opened : (ctxOf s c).state = 1 ∨ (ctxOf s c).state = 2) (empty : (ctxOf s c).queue = []) :
    ctxClose c s = modCtx c (fun x => x.put 0x08 1 0) s := by
  rw [ctxClose]
  rw [if_neg (by omega), if_pos (by simp [empty])]

theorem ctxClose_of_queued (opened : (ctxOf s c).state = 1 ∨ (ctxOf s c).state = 2) (queued : (ctxOf s c).queue ≠ []) :
    ctxClose c s = modCtx c (fun x => { x with closing := true }) s := by
  rw [ctxClose]
  rw [if_neg (by omega), if_neg (by simp [queued])]

theorem ctxReset_of_still (still : (ctxOf s c).state = 0 ∨ (ctxOf s c).state = 2) : ctxReset c s = modCtx c (fun x =>
    { (((((x.put 0x00 4 0).put 0x04 4 0).put 0x80 64 0).put 0xC0 8 0).put 0x08 1 0) with queue := [] }) s := by
  rw [ctxReset]
  dsimp only
  rw [if_neg (by omega)]

theorem exec_closeComplete_of_closing (closing : (ctxOf s c).closing = true) (empty : (ctxOf s c).queue = []) : exec (.closeComplete c) s =
    .next (ctxLater c (ctxOf s c).later (modCtx c (fun x => { (x.put 0x08 1 0) with closing := false, later := [] }) s)) := by
  change execCloseComplete c s = _
  rw [execCloseComplete]
  dsimp only
  rw [if_pos (by simp [closing, empty])]

end

section

variable {s : State} {e c off : Nat} {d : List Byte}

/-! ### Stores -/

theorem exec_contextStore_of_stored {t : State} (stored : ctxStore c off d s = some t) : exec (.contextStore e c off d) s = .next t := by
  change execContextStore e c off d s = _
  rw [execContextStore, stored]

theorem exec_contextStore_of_refused (refused : ctxStore c off d s = none) : exec (.contextStore e c off d) s = .next (ctxRefuse e c off s) := by
  change execContextStore e c off d s = _
  rw [execContextStore, refused]

/-- The offsets a store of `n` bytes touches. -/
theorem mem_touched {n o : Nat} : o ∈ (List.range n).map (· + off) ↔ off ≤ o ∧ o < off + n := by
  simp only [List.mem_map, List.mem_range]
  constructor
  · rintro ⟨j, small, rfl⟩
    omega
  · rintro ⟨low, high⟩
    exact ⟨o - off, by omega, by omega⟩

theorem not_ctxOwned_touched {n : Nat} (low : 0x0A ≤ off) (high : off + n ≤ 0x80) : ((List.range n).map (· + off)).any ctxOwned = false :=
  List.any_eq_false.2 fun o touched => by
    obtain ⟨above, below⟩ := mem_touched.1 touched
    simp only [ctxOwned, Bool.or_eq_true, decide_eq_true_eq]
    omega

theorem not_contains_touched {n : Nat} (low : 0x0A ≤ off) : ((List.range n).map (· + off)).contains 0x09 = false := by
  rw [List.contains_eq_mem, decide_eq_false_iff_not, mem_touched]
  omega

theorem ctxStore_of_fields (alloc : (ctxOf s c).alloc = true) (notOpen : (ctxOf s c).state ≠ 1) (low : 0x0A ≤ off)
    (high : off + d.length ≤ 0x80) : ctxStore c off d s = some (modCtx c (fun x => ctxBytes x off d) s) := by
  rw [ctxStore]
  rw [if_neg (by simp [alloc]; omega), if_neg (by omega), if_neg (by simp [not_ctxOwned_touched low high]),
    if_neg (by rw [not_contains_touched low]; simp), if_neg (by simp [notOpen])]

theorem ctxStore_of_owned (alloc : (ctxOf s c).alloc = true) (high : off + d.length ≤ 0xF8)
    (owned : ((List.range d.length).map (· + off)).any ctxOwned = true) : ctxStore c off d s = none := by
  rw [ctxStore]
  rw [if_neg (by simp [alloc]; omega), if_neg (by omega), if_pos owned]

theorem ctxStore_of_open (alloc : (ctxOf s c).alloc = true) (opened : (ctxOf s c).state = 1) (some : 0 < d.length) (low : 0x0A ≤ off)
    (high : off + d.length ≤ 0x60) : ctxStore c off d s = none := by
  have first : ((List.range d.length).map (· + off)).any (fun o => decide (o < 0x60 ∨ 0x68 ≤ o)) = true :=
    List.any_eq_true.2 ⟨off, mem_touched.2 ⟨le_rfl, by omega⟩, by simp; omega⟩
  rw [ctxStore]
  rw [if_neg (by simp [alloc]; omega), if_neg (by omega), if_neg (by simp [not_ctxOwned_touched low (by omega : off + d.length ≤ 0x80)]),
    if_neg (by rw [not_contains_touched low]; simp), if_pos ⟨opened, first⟩]

theorem ctxStore_of_control (alloc : (ctxOf s c).alloc = true) (control : off = 0xF8) (whole : d.length = 8) :
    ctxStore c off d s = some (ctxReach c (leVal d) s) := by
  rw [ctxStore]
  rw [if_neg (by simp [alloc]; omega), if_pos (by omega), if_pos ⟨control, whole⟩]

/-! A refused store changes no context. -/

theorem ctx_settle {a : Nat} : (settle a s).units.ctx = s.units.ctx := by
  unfold settle dropSlots
  dsimp only
  split_ifs <;> rfl

theorem ctx_setX {a r : Nat} {v : Word64} : (setX a r v s).units.ctx = s.units.ctx := by
  unfold setX
  split <;> rfl

theorem ctx_releaseOne {n a : Nat} {tally : Tally} : (releaseOne n tally a s).units.ctx = s.units.ctx := by
  unfold releaseOne
  dsimp only
  split
  · split
    · split
      · exact ctx_setX.trans ctx_settle
      · exact ctx_settle
    · rfl
  · rfl

theorem ctx_tallyChanged {n : Nat} : (tallyChanged n s).units.ctx = s.units.ctx := by
  unfold tallyChanged
  extract_lets tally released units' woken
  rw [(notifyTally_eng_units (s := woken)).2]
  exact forEach_induct (fun t => t.units.ctx = s.units.ctx) _ (fun _ _ same => ctx_releaseOne.trans same) _ _ rfl

theorem ctx_addrFault {code : Nat} {a : Word64} : (addrFault code e a s).units.ctx = s.units.ctx := by
  unfold addrFault
  dsimp only
  split
  · exact ctx_tallyChanged.trans (congrArg Units.ctx (logEvent_units ..))
  · exact congrArg Units.ctx (logEvent_units ..)

theorem mem_addrFault {code : Nat} {a : Word64} : (addrFault code e a s).mem = s.mem := by
  unfold addrFault engineError
  dsimp only
  split <;> simp

end

section

variable {s : State} {c p n : Nat} {rest : List (Nat × Nat)} {ecc : Ecc}

/-! ### Appends -/

theorem exec_appendServe_of_down (oldest : (ctxOf s c).queue = (p, n) :: rest) (down : ctxDown s c = true) :
    exec (.appendServe c ecc) s = .next (ctxFault c 0x6405 (ctxOf s c).sketched false s) := by
  change execAppendServe c ecc s = _
  rw [execAppendServe]
  rw [oldest]
  dsimp only
  rw [if_pos down]

/-- The oldest append of a context whose domains are up, by the path that sketches it. -/
theorem exec_appendServe_of_up (oldest : (ctxOf s c).queue = (p, n) :: rest) (up : ctxDown s c = false) :
    exec (.appendServe c ecc) s = if (ctxOf s c).digital then .next (postAppend c s)
      else if appendsHeld s c && decide ((ctxOf s c).sketched < p + n) then .next s
      else .next (postAppend c (serveTo c (p + n) ecc n s)) := by
  change execAppendServe c ecc s = _
  rw [execAppendServe]
  rw [oldest]
  dsimp only
  rw [if_neg (by simp [up])]

theorem postAppend_of_performed (oldest : (ctxOf s c).queue = (p, n) :: rest) (sketched : p + n ≤ (ctxOf s c).sketched)
    (landed : (ctxOf s c).flight = 0) : postAppend c s =
      tallyAdd ((ctxOf s c).fld 0x0E 2) n (ctxEngine c) (modCtx c (fun x => { x with queue := rest }) s) := by
  rw [postAppend]
  rw [oldest]
  dsimp only
  rw [if_pos ⟨sketched, landed⟩]

theorem exec_digitalSketchJob_of_digital (oldest : (ctxOf s c).queue = (p, n) :: rest) (up : ctxDown s c = false)
    (digital : (ctxOf s c).digital = true) : exec (.digitalSketchJob c ecc) s = .next (serveTo c (p + n) ecc 16 s) := by
  change execDigitalSketchJob c ecc s = _
  rw [execDigitalSketchJob]
  rw [oldest]
  dsimp only
  rw [if_neg (by simp [digital]), if_neg (by simp [up])]

theorem exec_digitalSketchJob_of_analog (oldest : (ctxOf s c).queue = (p, n) :: rest) (analog : (ctxOf s c).digital = false) :
    exec (.digitalSketchJob c ecc) s = .next s := by
  change execDigitalSketchJob c ecc s = _
  rw [execDigitalSketchJob]
  rw [oldest]
  dsimp only
  rw [if_pos analog]

end

/-- Settles O32, from the rules of the command words, of the stores and of the appends. -/
theorem streamsAndContexts : Obligations.StreamsAndContexts := by
  refine ⟨fun s e c n => fun small => ?_, fun s e c off d => ?_, fun s c p n rest => fun oldest => ?_⟩
  · refine ⟨fun alloc closing => ?_, fun alloc open' opened some' most fits => ?_, fun alloc open' bad => ?_,
      fun alloc open' opened some' most beyond => ?_, fun u alloc open' closed valid written => ?_, fun g alloc open' closed valid refused => ?_,
      fun alloc open' notClosed => ?_, fun alloc open' closed invalid => ?_, fun alloc open' opened empty => ?_,
      fun alloc open' opened queued => ?_, exec_closeComplete_of_closing, fun alloc open' still => ?_,
      fun none => ⟨exec_streamAppend_of_unallocated none, exec_streamReset_of_unallocated none⟩⟩
    · rw [exec_streamAppend_of_alloc alloc, ctxReach_of_closing closing]
    · rw [exec_streamAppend_of_alloc alloc, ctxReach_of_open open', ctxCommand_append small, ctxAppend_of_fits opened some' most fits]
    · rw [exec_streamAppend_of_alloc alloc, ctxReach_of_open open', ctxCommand_append small, ctxAppend_of_bad bad]
    · rw [exec_streamAppend_of_alloc alloc, ctxReach_of_open open', ctxCommand_append small, ctxAppend_of_beyond opened some' most beyond]
    · rw [exec_streamOpen_of_alloc alloc, ctxReach_of_open open', ctxCommand_open, ctxOpen_of_written closed valid written]
    · rw [exec_streamOpen_of_alloc alloc, ctxReach_of_open open', ctxCommand_open, ctxOpen_of_refused closed valid refused]
    · rw [exec_streamOpen_of_alloc alloc, ctxReach_of_open open', ctxCommand_open, ctxOpen_of_open notClosed]
    · rw [exec_streamOpen_of_alloc alloc, ctxReach_of_open open', ctxCommand_open, ctxOpen_of_invalid closed invalid]
    · rw [exec_streamClose_of_alloc alloc, ctxReach_of_open open', ctxCommand_close, ctxClose_of_empty opened empty]
    · rw [exec_streamClose_of_alloc alloc, ctxReach_of_open open', ctxCommand_close, ctxClose_of_queued opened queued]
    · rw [exec_streamReset_of_alloc alloc, ctxReach_of_open open', ctxCommand_reset, ctxReset_of_still still]
  · refine ⟨fun alloc notOpen _ low high => ?_, fun alloc high owned => ?_, fun alloc opened some' low high => ?_,
      fun alloc control whole => ?_, fun c' => congrArg (fun m => SMap.get ({} : Ctx) m c') ctx_addrFault, mem_addrFault⟩
    · exact exec_contextStore_of_stored (ctxStore_of_fields alloc notOpen low high)
    · exact exec_contextStore_of_refused (ctxStore_of_owned alloc high owned)
    · exact exec_contextStore_of_refused (ctxStore_of_open alloc opened some' low high)
    · exact exec_contextStore_of_stored (ctxStore_of_control alloc control whole)
  · refine ⟨exec_appendServe_of_down oldest, fun up analog held less => ?_, fun up analog free => ?_,
      fun up digital sketched landed => ?_, exec_digitalSketchJob_of_digital oldest, exec_digitalSketchJob_of_analog oldest⟩
    · rw [exec_appendServe_of_up oldest up, if_neg (by simp [show (ctxOf s c).digital = false from analog]),
        if_pos (by rw [held]; simpa using less)]
    · rw [exec_appendServe_of_up oldest up, if_neg (by simp [show (ctxOf s c).digital = false from analog]), if_neg (by simp [free])]
    · rw [exec_appendServe_of_up oldest up, if_pos digital, postAppend_of_performed oldest sketched landed]

end Sys2Proof.Machine

/-! PROOFS. The projection engines: their instructions and their calibration (O33). -/

namespace Sys2Proof.Machine

open Sys2Proof

section

variable {s : State} {e k : Nat} {w : Word64}

/-! ### Instructions -/

/-- An instruction of a projection engine whose domain is up is carried out, unless the mesh loads or recalibrates. -/
theorem onPpe_of_issue {op : Nat} (f : Word64 → State → State) (up : domDown s (16 + engDie e) = false)
    (issued : issueOf s e [op] = some w) : onPpe e op s f = .next (
      if (ppeOf s (engDie e)).mesh = .loading ∨ (ppeOf s (engDie e)).mesh = .recal then s else f w s) := by
  rw [onPpe, onIssue_some _ issued, if_neg (by simp [up])]

theorem onPpe_of_ready {op : Nat} (f : Word64 → State → State) (up : domDown s (16 + engDie e) = false) (issued : issueOf s e [op] = some w)
    (loaded : (ppeOf s (engDie e)).mesh ≠ .loading) (still : (ppeOf s (engDie e)).mesh ≠ .recal) : onPpe e op s f = .next (f w s) := by
  rw [onPpe_of_issue f up issued, if_neg (by simp [loaded, still])]

theorem exec_mload_of_frozen (up : domDown s (16 + engDie e) = false) (issued : issueOf s e [0x70] = some w)
    (loaded : (ppeOf s (engDie e)).mesh ≠ .loading) (still : (ppeOf s (engDie e)).mesh ≠ .recal) (frozen : s.frozen = true)
    {rows : Rows} (rows_eq : { base := descBase s e (fld w 8 10), stride := descStride s e (fld w 8 10), count := 64, len := 256 } = rows)
    (permitted : firstRefused (rows.checks s e true) = none) (clean : rows.poison s = false) : exec (.mload e .ok) s = .next (
      let mat := (List.range 64).map (fun i => unpack 0x12 64 (rows.bytes s i))
      let mode := ((progOf s e).map (·.mode)).getD 0
      if badMatrix mat then mloadRefused e 0x7A01 (logEvent 0x7A01 e [(2, e), (4, (seqOf s e).pc)] s)
      else nextPc e (issueOpen e (modPpe (engDie e) (fun p => { p with
        mesh := .loading, record := none
        load := some ((seqOf s e).issued, { w := mat, fold := if mode = 0 then descWord s e (fld w 8 10) 2 else 0, mode := mode }) }) s))) := by
  subst rows_eq
  change execMload e .ok s = _
  rw [execMload, onPpe_of_ready _ up issued loaded still]
  dsimp only [eccNote]
  rw [if_neg (by simp [frozen]), permitted]
  dsimp only
  rw [if_neg (by simp [(running_of_issue issued).1]), if_neg (by rw [clean]; decide)]

theorem exec_mload_of_thawed (up : domDown s (16 + engDie e) = false) (issued : issueOf s e [0x70] = some w)
    (loaded : (ppeOf s (engDie e)).mesh ≠ .loading) (still : (ppeOf s (engDie e)).mesh ≠ .recal) (thawed : s.frozen = false)
    (mode : ((progOf s e).map (·.mode)).getD 0 = 1) : exec (.mload e .ok) s =
      .next (mloadRefused e 0x7A03 (logEvent 0x7A03 e [(2, e), (4, (seqOf s e).pc)] s)) := by
  change execMload e .ok s = _
  rw [execMload, onPpe_of_ready _ up issued loaded still]
  exact congrArg _ (if_pos ⟨mode, thawed⟩)

theorem exec_mloadComplete_of_load {i : Nat} {r : MatRec} (tile : engClass e = 5) (load : (ppeOf s (engDie e)).load = some (i, r)) :
    exec (.mloadComplete e) s = .next (completeOp e i
      (modPpe (engDie e) (fun p => { p with mesh := meshOf (some r), record := some r, load := none }) s)) := by
  change execMloadComplete e s = _
  rw [execMloadComplete, load]
  dsimp only
  rw [if_neg (by simp [tile])]

theorem exec_sketch_of_busy (up : domDown s (16 + engDie e) = false) (issued : issueOf s e [0x71] = some w)
    (busy : (ppeOf s (engDie e)).mesh = .loading ∨ (ppeOf s (engDie e)).mesh = .recal) : exec (.sketch e .ok) s = .next s := by
  change execSketch e .ok s = _
  rw [execSketch, onPpe_of_issue _ up issued, if_pos busy]

/-- SKETCH takes its vectors in order; with a mesh in another state it writes zeros. -/
theorem exec_sketch_of_ready (up : domDown s (16 + engDie e) = false) (issued : issueOf s e [0x71] = some w)
    (loaded : (ppeOf s (engDie e)).mesh ≠ .loading) (still : (ppeOf s (engDie e)).mesh ≠ .recal) : exec (.sketch e .ok) s = .next (
      let d := fld w 8 10
      let n := if bit w.toNat 28 then 128 else 64
      let inp : Rows := { base := descBase s e d, stride := descStride s e d, count := fld w 32 24 + 1, len := rowLen (descFmt s e d) n }
      let wrong := decide ((ppeOf s (engDie e)).mesh ≠ .sketch)
      ppeEnd e (if wrong then some (ppeOf s (engDie e)).mesh else none) ((List.range inp.count).foldl
        (sketchOne e (descFmt s e d) inp (descBase s e (fld w 18 10)) n wrong) { s := s })) := by
  change execSketch e .ok s = _
  rw [execSketch, onPpe_of_ready _ up issued loaded still]
  dsimp only [eccNote]
  rw [if_neg (by simp [(running_of_issue issued).1])]

/-- MVM takes its vectors in order; with a mesh in another state it writes zeros. -/
theorem exec_mvm_of_ready (up : domDown s (16 + engDie e) = false) (issued : issueOf s e [0x72] = some w)
    (loaded : (ppeOf s (engDie e)).mesh ≠ .loading) (still : (ppeOf s (engDie e)).mesh ≠ .recal) : exec (.mvm e .ok) s = .next (
      let d := fld w 8 10
      let o := fld w 18 10
      let inp : Rows := { base := descBase s e d, stride := descStride s e d, count := fld w 32 24 + 1, len := 64 }
      let wrong := decide ((ppeOf s (engDie e)).mesh ≠ .frozen)
      ppeEnd e (if wrong then some (ppeOf s (engDie e)).mesh else none) ((List.range inp.count).foldl
        (mvmOne e (fld w 29 3) inp (descBase s e o) (descStride s e o) wrong) { s := s })) := by
  change execMvm e .ok s = _
  rw [execMvm, onPpe_of_ready _ up issued loaded still]
  dsimp only [eccNote]
  rw [if_neg (by simp [(running_of_issue issued).1])]

/-! ### Calibration -/

theorem exec_ppeChannelCal_of_lit {ok : Bool} (inside : k < 8) (lit : (domOf s (16 + k)).st = .on ∨ (domOf s (16 + k)).st = .draining)
    (spare : (ppeOf s k).spareUsed = false) : exec (.ppeChannelCal k ok) s = .next (
      let next := modPpe k (fun p => { p with turn := (p.turn + 1) % 130, chanCals := satAdd 32 p.chanCals 1 }) s
      if ok then modPpe k (fun q => { q with
        inSpare := if (ppeOf s k).turn < 65 then (ppeOf s k).turn else q.inSpare
        outSpare := if (ppeOf s k).turn < 65 then q.outSpare else (ppeOf s k).turn - 65 }) next
      else channelBad k (ppeOf s k).turn next) := by
  change execPpeChannelCal k ok s = _
  rw [execPpeChannelCal]
  dsimp only
  rw [if_neg]
  · rfl
  · rcases lit with lit | lit <;> simp [lit, spare, inside]

theorem exec_ppeRecalDone_of_recal {ok : Bool} {us : Nat} (recal : (ppeOf s k).mesh = .recal) :
    exec (.ppeRecalDone k ok none us) s = .next (afterRecal (recalDone k ok none us s)) := by
  change execPpeRecalDone k ok none us s = _
  rw [execPpeRecalDone, if_neg (by simp [recal])]

/-- A full recalibration puts the record back, and is recorded by whether it reached its bounds. -/
theorem recalDone_of_no_channel {ok : Bool} {us : Nat} : recalDone k ok none us s =
    let done := modPpe k (fun q => { q with
      mesh := meshOf q.record, overdue := false, lastRecal := s.time.hall.sec % 2 ^ 32
      recals := satAdd 16 q.recals 1, recalTemp := (sensorOf s (98 + 3 * k)).reading }) s
    if ok then logEvent 0x7A10 (engId 5 k 0) [(4, k), (4, (ppeOf s k).cause), (8, us)] (calResults done)
    else ppeFatal k 0x7A12 [(4, k)] done := by
  rw [recalDone]

theorem channelBad_of_used {c : Nat} (used : (ppeOf s k).spareUsed = true) : channelBad k c s = ppeFatal k 0x7A16 [(4, c)] s := by
  rw [channelBad, if_pos used]

theorem exec_ppeCalOverdue_of_passed (inside : k < 8) (due : (ppeOf s k).overdue = false) (up : domDown s (16 + k) = false)
    (passed : calPassed s k = true) : exec (.ppeCalOverdue k) s = .next (logEvent 0x7A11 (engId 5 k 0)
      [(4, k), (8, ppeAge s k), (8, ofInt 64 (ppeDrift s k))] (modPpe k (fun p => { p with overdue := true }) s)) := by
  change execPpeCalOverdue k s = _
  rw [execPpeCalOverdue, if_neg (by simp [due, up, passed, inside])]

theorem ppeOf_modPpe_self {f : Ppe → Ppe} (kept : f (ppeOf s k) ≠ {}) : ppeOf (modPpe k f s) k = f (ppeOf s k) :=
  SMap.get_modify_self _ _ _ _ kept

theorem ppeOf_modPpe_ne {f : Ppe → Ppe} {k' : Nat} (ne : k' ≠ k) : ppeOf (modPpe k f s) k' = ppeOf s k' := SMap.get_modify_ne _ _ _ _ _ ne

theorem ppeOf_logEvent {code src : Nat} {fs : List (Nat × Nat)} : ppeOf (logEvent code src fs s) k = ppeOf s k := by
  rw [ppeOf, logEvent_units, ppeOf]

end

/-- Settles O33, from the rules of the instructions and of the calibration. -/
theorem projectionEngine : Obligations.ProjectionEngine := by
  refine ⟨fun s e w => fun up => ?_, fun s k us c inside => ?_⟩
  · refine ⟨fun issued loaded still frozen => fun permitted clean => ⟨fun good => ?_, fun bad => ?_⟩,
      fun issued loaded still => exec_mload_of_thawed up issued loaded still, fun i r => exec_mloadComplete_of_load,
      exec_sketch_of_busy up, fun issued ready => ?_, fun issued wrong => ?_, fun issued ready => ?_, fun issued wrong => ?_⟩
    · rw [exec_mload_of_frozen up issued loaded still frozen rfl permitted clean]
      exact congrArg _ (if_neg (by rw [good]; decide))
    · rw [exec_mload_of_frozen up issued loaded still frozen rfl permitted clean]
      exact congrArg _ (if_pos bad)
    · have mesh : (ppeOf s (engDie e)).mesh = .sketch := ready
      rw [exec_sketch_of_ready up issued (by simp [mesh]) (by simp [mesh]), mesh]
      rfl
    · have mesh : (ppeOf s (engDie e)).mesh = .empty ∨ (ppeOf s (engDie e)).mesh = .frozen := wrong
      have other : decide ((ppeOf s (engDie e)).mesh ≠ .sketch) = true := by rcases mesh with mesh | mesh <;> simp [mesh]
      rw [exec_sketch_of_ready up issued (by rcases mesh with mesh | mesh <;> simp [mesh]) (by rcases mesh with mesh | mesh <;> simp [mesh]), other]
      rfl
    · have mesh : (ppeOf s (engDie e)).mesh = .frozen := ready
      rw [exec_mvm_of_ready up issued (by simp [mesh]) (by simp [mesh]), mesh]
      rfl
    · have mesh : (ppeOf s (engDie e)).mesh = .empty ∨ (ppeOf s (engDie e)).mesh = .sketch := wrong
      have other : decide ((ppeOf s (engDie e)).mesh ≠ .frozen) = true := by rcases mesh with mesh | mesh <;> simp [mesh]
      rw [exec_mvm_of_ready up issued (by rcases mesh with mesh | mesh <;> simp [mesh]) (by rcases mesh with mesh | mesh <;> simp [mesh]), other]
      rfl
  · refine ⟨fun lit spare => ⟨?_, ?_⟩,
      fun recal => ⟨?_, ?_⟩, channelBad_of_used,
      fun due dark passed => ⟨_, exec_ppeCalOverdue_of_passed inside due dark passed, ?_, logEvent_mem .., logEvent_eng .., fun k' ne => ?_⟩⟩
    · rw [exec_ppeChannelCal_of_lit inside lit spare]
      exact congrArg _ (if_pos rfl)
    · rw [exec_ppeChannelCal_of_lit inside lit spare]
      exact congrArg _ (if_neg Bool.false_ne_true)
    · rw [exec_ppeRecalDone_of_recal recal, recalDone_of_no_channel]
      exact congrArg (fun t => Host.Outcome.next (afterRecal t)) (if_pos rfl)
    · rw [exec_ppeRecalDone_of_recal recal, recalDone_of_no_channel]
      exact congrArg (fun t => Host.Outcome.next (afterRecal t)) (if_neg Bool.false_ne_true)
    · rw [ppeOf_logEvent, ppeOf_modPpe_self fun reset => absurd (congrArg Ppe.overdue reset) (by simp)]
    · rw [ppeOf_logEvent, ppeOf_modPpe_ne ne]

end Sys2Proof.Machine

/-! PROOFS. The laser feeds and the rings (O34). -/

namespace Sys2Proof.Machine

open Sys2Proof

section

variable {s : State} {k line : Nat} {b : Bool} {avg low : Int}

/-! ### Laser feeds -/

/-- What a tone check leaves, by its result and by what the feed was. -/
theorem exec_toneCheck {passed : Bool} : exec (.toneCheck k b passed line) s =
    let f' := { feedOf s k b with tones := passed }
    let t := setFeed k b { f' with ok := feedHealthy f' } s
    if !passed && (feedOf s k b).tones then .next (feedGone k b false (logEvent 0x7004 srcDevice [(4, k), (4, b2n b), (4, line)] t))
    else if passed && !(feedOf s k b).ok && feedHealthy f' then .next (feedBack k b (logEvent 0x7006 srcDevice [] t))
    else .next t := rfl

theorem feedHealthy_of_silent {f : Feed} (silent : f.tones = false) : feedHealthy f = false := by
  rw [feedHealthy, silent, Bool.and_false]

theorem exec_toneCheck_of_failed (tones : (feedOf s k b).tones = true) : exec (.toneCheck k b false line) s =
    .next (feedGone k b false (logEvent 0x7004 srcDevice [(4, k), (4, b2n b), (4, line)]
      (setFeed k b { feedOf s k b with tones := false, ok := false } s))) := by
  have silent : feedHealthy { feedOf s k b with tones := false } = false := feedHealthy_of_silent rfl
  rw [exec_toneCheck]
  dsimp only at silent ⊢
  rw [silent, if_pos (by simp [tones])]

theorem exec_toneCheck_of_good (tones : (feedOf s k b).tones = true) (healthy : (feedOf s k b).ok = feedHealthy (feedOf s k b))
    (ok : (feedOf s k b).ok = true) : exec (.toneCheck k b true line) s = .next (setFeed k b (feedOf s k b) s) := by
  rw [exec_toneCheck]
  generalize feedOf s k b = f at tones healthy ok ⊢
  obtain ⟨_, _, avg, minLine⟩ := f
  obtain rfl : _ = true := tones
  dsimp only at healthy ok ⊢
  rw [if_neg (by simp), if_neg (by simp [ok]), ← healthy]

theorem exec_toneCheck_of_back (out : (feedOf s k b).ok = false) (healthy : feedHealthy { feedOf s k b with tones := true } = true) :
    exec (.toneCheck k b true line) s =
      .next (feedBack k b (logEvent 0x7006 srcDevice [] (setFeed k b { feedOf s k b with tones := true, ok := true } s))) := by
  rw [exec_toneCheck]
  dsimp only at healthy ⊢
  rw [healthy, if_neg (by simp), if_pos (by simp [out])]

theorem tileOf_modTile_self {f : Tile → Tile} (kept : f (tileOf s k) ≠ {}) : tileOf (modTile k f s) k = f (tileOf s k) :=
  SMap.get_modify_self _ _ _ _ kept

theorem feedGone_of_standby {lost : Bool} (active : activeFeed s k = b2n b) (standby : feedUsable s k (!b) = true) :
    feedGone k b lost s = switchFeed k (!b) s := by
  rw [feedGone, if_neg (by simp [active]), if_pos standby]

theorem exec_feedRelockDone_of_failover (failover : (tileOf s k).failover = true) : exec (.feedRelockDone k) s =
    .next (modTile k (fun t => { t with failover := false, notice := true }) s) := by
  change execFeedRelockDone k s = _
  rw [execFeedRelockDone, if_pos failover]

theorem feedBack_of_unusable (out : feedUsable s k b = false) : feedBack k b s = s := by
  rw [feedBack, if_pos (by simp [out])]

theorem feedBack_of_none (usable : feedUsable s k b = true) (none : activeFeed s k = 2) : feedBack k b s = startFeed k b s := by
  rw [feedBack, if_neg (by simp [usable]), if_pos none]

theorem b2n_not_ne (b : Bool) : b2n (!b) ≠ 2 ∧ b2n (!b) ≠ b2n b := by cases b <;> decide

/-- A restored feed is the standby of an active feed that is usable, and takes over from one that is not. -/
theorem feedBack_of_other (usable : feedUsable s k b = true) (other : activeFeed s k = b2n (!b)) :
    feedBack k b s = if feedUsable s k (!b) = false then switchFeed k b s else s := by
  obtain ⟨some', ne⟩ := b2n_not_ne b
  rw [feedBack, if_neg (by simp [usable]), other, if_neg some']
  by_cases standby : feedUsable s k (!b) = false
  · rw [if_pos ⟨ne, standby⟩, if_pos standby]
  · rw [if_neg (fun h => standby h.2), if_neg standby]

end

section

variable {s : State} {port r k : Nat} {rx : Bool}

/-! ### Rings -/

theorem ringOf_modRing_self {f : Ring → Ring} (kept : f (ringOf s port rx r) ≠ {}) :
    ringOf (modRing port rx r f s) port rx r = f (ringOf s port rx r) := SMap.get_modify_self _ _ _ _ kept

theorem exec_ringSweepDone_of_sweeping {found : Bool} (sweeping : (ringOf s port rx r).state = .sweeping) :
    exec (.ringSweepDone port rx r found) s = if found then .next (modRing port rx r (fun g => { g with state := .locked }) s)
      else .next (ringWrong port rx r 3 s) := by
  change execRingSweepDone port rx r found s = _
  rw [execRingSweepDone, if_neg (by simp [sweeping])]

theorem exec_ringLock_of_failed (locking : (ringOf s port rx r).state = .tuning ∨ (ringOf s port rx r).state = .locked) :
    exec (.ringLock port rx r false) s = .next (ringWrong port rx r 0 s) := by
  change execRingLock port rx r false s = _
  rw [execRingLock, if_neg (by rcases locking with h | h <;> simp [h]), if_pos (by simp)]

theorem exec_ringLock_of_free (locking : (ringOf s port rx r).state = .tuning ∨ (ringOf s port rx r).state = .locked)
    (free : laneOfRing (modRing port rx r (fun g => { g with state := .verified }) s) port rx r = none) :
    exec (.ringLock port rx r true) s = .next (modRing port rx r (fun g => { g with state := .verified }) s) := by
  change execRingLock port rx r true s = _
  rw [execRingLock, if_neg (by rcases locking with h | h <;> simp [h]), if_neg (by simp)]
  dsimp only
  rw [free]

theorem exec_ringLock_of_lane (locking : (ringOf s port rx r).state = .tuning ∨ (ringOf s port rx r).state = .locked)
    (lane : laneOfRing (modRing port rx r (fun g => { g with state := .verified }) s) port rx r = some k) :
    exec (.ringLock port rx r true) s = .next (laneAcquire k (modRing port rx r (fun g => { g with state := .verified }) s)) := by
  change execRingLock port rx r true s = _
  rw [execRingLock, if_neg (by rcases locking with h | h <;> simp [h]), if_neg (by simp)]
  dsimp only
  rw [lane]

theorem exec_retuneTimeout_of_tuning (tuning : (ringOf s port rx r).state = .tuning) : exec (.retuneTimeout port rx r) s =
    .next (modRing port rx r (fun g => { g with state := .sweeping }) s) := by
  change execRetuneTimeout port rx r s = _
  rw [execRetuneTimeout, if_pos tuning]

theorem exec_ringToneCheckDone_of_passed : exec (.ringToneCheckDone port rx r true) s = .next s := by
  change execRingToneCheckDone port rx r true s = _
  rw [execRingToneCheckDone]
  exact if_pos (by simp)

/-- A verified ring whose tone check fails is at fault, unless a lane in use shows that the feed is. -/
theorem exec_ringToneCheckDone_of_failed (verified : (ringOf s port rx r).state = .verified) :
    exec (.ringToneCheckDone port rx r false) s =
      if (laneOfRing s port rx r).any (fun k => laneLive (laneOf s k) 0 && decide ((laneOf s k).wrongIdent = 0)) then
        .next (feedGone (tileOfPort port) (activeFeed s (tileOfPort port) == 1) false
          (let v := logEvent 0x7004 srcDevice [(4, tileOfPort port), (4, activeFeed s (tileOfPort port)), (4, (ringOf s port rx r).line)] s
           setFeed (tileOfPort port) (activeFeed s (tileOfPort port) == 1)
             { feedOf v (tileOfPort port) (activeFeed s (tileOfPort port) == 1) with tones := false, ok := false } v))
      else .next (ringWrong port rx r 1 s) := by
  change execRingToneCheckDone port rx r false s = _
  rw [execRingToneCheckDone]
  dsimp only
  rw [if_neg (by simp [verified])]

theorem rings_routePacket {p : Packet} : (routePacket p s).fab.rings = s.fab.rings := by
  unfold routePacket
  split
  · rfl
  · split
    · unfold enqueue countEscape
      dsimp only
      split_ifs <;> rfl
    · rfl

theorem rings_countFlap {burst takeOut : Bool} : (countFlap k burst takeOut s).2.fab.rings = s.fab.rings := by
  unfold countFlap
  dsimp only
  split
  · exact (congrArg Fab.rings (logEvent_fab ..)).trans rfl
  · rfl

theorem rings_unplannedClose {reason : Nat} {own burst : Bool} : (unplannedClose k reason own burst s).fab.rings = s.fab.rings := by
  unfold unplannedClose
  extract_lets l logged x closed
  split
  · rfl
  · have first : logged.fab.rings = s.fab.rings := by
      unfold logged
      split
      · exact congrArg Fab.rings (logEvent_fab ..)
      · rfl
    have flap : x.2.fab.rings = logged.fab.rings := by
      unfold x
      split
      · rfl
      · exact rings_countFlap
    exact rings_routePacket.trans (flap.trans first)

theorem rings_ringLaneOut {reason : Nat} : (ringLaneOut k reason s).fab.rings = s.fab.rings := by
  unfold ringLaneOut
  split
  · exact rings_unplannedClose
  · exact rings_unplannedClose
  · rfl
  · rfl

/-- A ring's first wrong line sweeps it. -/
theorem ringOf_ringWrong_of_first {check : Nat} (first : (ringOf s port rx r).fails = 0) (line : check ≠ 3) :
    (ringOf (ringWrong port rx r check s) port rx r).state = .sweeping ∧ (ringOf (ringWrong port rx r check s) port rx r).fails = 1 := by
  unfold ringWrong
  extract_lets g reason lane logged swept
  rw [if_pos ⟨first, line⟩]
  have ring : ringOf swept port rx r = { ringOf logged port rx r with state := .sweeping, fails := 1 } :=
    ringOf_modRing_self fun reset => absurd (congrArg Ring.fails reset) (by simp)
  have kept : ∀ t : State, t.fab.rings = swept.fab.rings → (ringOf t port rx r).state = .sweeping ∧ (ringOf t port rx r).fails = 1 :=
    fun t same => by
      have eq : ringOf t port rx r = ringOf swept port rx r := by rw [ringOf, same, ringOf]
      rw [eq, ring]
      exact ⟨rfl, rfl⟩
  clear_value lane
  cases lane with
  | none => exact kept _ rfl
  | some k => exact kept _ rings_ringLaneOut

theorem exec_spareMove_of_verified {loopOk : Bool} {sp old : Nat}
    (spare : (if rx then (portOf s (lanePort k)).rxSpare else (portOf s (lanePort k)).txSpare) = sp)
    (ring : laneRing (laneOf s k) rx = old) (real : sp < 9) (real' : old < 9)
    (verified : (ringOf s (lanePort k) rx sp).state = .verified)
    (line : (ringOf s (lanePort k) rx sp).line = (if rx then rxLine k else laneLine k)) :
    exec (.spareMove k rx loopOk) s =
      let u := modPort (lanePort k) (fun p => if rx then { p with rxSpare := 15 } else { p with txSpare := 15 })
        (logEvent 0x7105 srcDevice [] (modLane k (fun l =>
          if rx then { l with rxRing := sp, repair := l.repair.map (fun x => { x with tried := x.tried ++ [sp] }) }
          else { l with txRing := sp, swapWanted := false }) s))
      if loopOk then .next (modPort (lanePort k) (fun p => if rx then { p with rxSpare := old } else { p with txSpare := old })
        (parkRing (lanePort k) rx old u))
      else .next (ringFaulty (lanePort k) rx old u) := by
  subst spare ring
  change execSpareMove k rx loopOk s = _
  rw [execSpareMove]
  exact if_neg (by simp [verified, line, real, real'])

end

section

variable {s : State} {k : Nat} {b : Bool}

/-! ### A lost feed with a healthy standby -/

theorem tileOf_modTile_of_active {f : Tile → Tile} (fed : (f (tileOf s k)).active ≠ 2) : tileOf (modTile k f s) k = f (tileOf s k) :=
  tileOf_modTile_self fun reset => fed (by rw [reset])

theorem b2n_ne_two (b : Bool) : b2n b ≠ 2 := by cases b <;> decide

theorem tileOf_setFeed {f : Feed} (inside : k < 8) (fed : (tileOf s k).active ≠ 2) :
    tileOf (setFeed k b f s) k = if b then { tileOf s k with b := f } else { tileOf s k with a := f } := by
  rw [setFeed, if_neg (by omega)]
  refine tileOf_modTile_of_active ?_
  split <;> exact fed

theorem tileOf_logEvent {code src : Nat} {fs : List (Nat × Nat)} : tileOf (logEvent code src fs s) k = tileOf s k := by
  rw [tileOf, logEvent_fab, tileOf]

/-- The tile of a feed that takes over: it is active, the switch is counted, and the tile is in fail-over. -/
theorem tileOf_switchFeed (inside : k < 8) : (tileOf (switchFeed k b s) k).active = b2n b ∧ (tileOf (switchFeed k b s) k).failover = true ∧
    (tileOf (switchFeed k b s) k).switches = satAdd 32 (tileOf s k).switches 1 := by
  unfold switchFeed
  extract_lets set hub hubSwitched switched logged
  have active : tileOf set k = { tileOf s k with active := b2n b } := by
    unfold set
    rw [setActive, if_neg (by omega)]
    exact tileOf_modTile_of_active (b2n_ne_two b)
  have tile : tileOf switched k = { tileOf set k with
      switches := satAdd 32 (tileOf set k).switches 1, failover := true, switchedAt := nowNs set } :=
    tileOf_modTile_self fun reset => absurd (congrArg Tile.failover reset) (by simp)
  have final : ∀ t : State, tileOf t k = tileOf switched k → (tileOf t k).active = b2n b ∧ (tileOf t k).failover = true ∧
      (tileOf t k).switches = satAdd 32 (tileOf s k).switches 1 := fun t same => by
    rw [same, tile, active]
    exact ⟨rfl, rfl, rfl⟩
  rw [if_neg (by omega)]
  split
  · exact final _ (tileOf_logEvent.trans tileOf_logEvent)
  · exact final _ tileOf_logEvent

theorem mem_eng_switchFeed : (switchFeed k b s).mem = s.mem ∧ (switchFeed k b s).eng = s.eng := by
  unfold switchFeed setActive
  dsimp only
  split_ifs <;> simp

theorem feedUsable_other_setFeed {f : Feed} (inside : k < 8) (fed : (tileOf s k).active ≠ 2) :
    feedUsable (setFeed k b f s) k (!b) = feedUsable s k (!b) := by
  have other : k ≠ 8 := by omega
  rw [feedUsable, feedUsable, feedOf, feedOf, if_neg other, if_neg other, tileOf_setFeed inside fed]
  cases b <;> rfl

theorem exec_laserFeedLost_of_standby {avg low : Int} (inside : k < 8) (active : activeFeed s k = b2n b)
    (standby : feedUsable s k (!b) = true) : Yields (.laserFeedLost k b avg low) s (fun t =>
      (tileOf t k).active = b2n (!b) ∧ (tileOf t k).failover = true ∧
      (tileOf t k).switches = satAdd 32 (tileOf s k).switches 1 ∧ t.mem = s.mem ∧ t.eng = s.eng) := by
  have other : k ≠ 8 := by omega
  have active' : (tileOf s k).active = b2n b := by rwa [activeFeed, if_neg other] at active
  have fed : (tileOf s k).active ≠ 2 := by rw [active']; exact b2n_ne_two b
  generalize lost_eq : setFeed k b { feedOf s k b with ok := false, avg := avg, minLine := low } s = lost
  generalize logged_eq : logEvent 0x7001 srcDevice [(4, k), (8, powerBits (feedOf lost k false).avg), (8, powerBits (feedOf lost k true).avg)]
    lost = logged
  have tile : tileOf logged k = tileOf lost k := by rw [← logged_eq, tileOf_logEvent]
  have tileLost := tileOf_setFeed (b := b) (f := { feedOf s k b with ok := false, avg := avg, minLine := low }) inside fed
  rw [lost_eq] at tileLost
  have kept : (tileOf logged k).active = (tileOf s k).active ∧ (tileOf logged k).switches = (tileOf s k).switches := by
    rw [tile, tileLost]
    split <;> exact ⟨rfl, rfl⟩
  have usable : feedUsable logged k (!b) = true := by
    have same : feedUsable logged k (!b) = feedUsable lost k (!b) := by
      rw [feedUsable, feedUsable, feedOf, feedOf, if_neg other, if_neg other, tile]
    rw [same, ← lost_eq, feedUsable_other_setFeed inside fed, standby]
  have run : exec (.laserFeedLost k b avg low) s = .next (feedGone k b true logged) := by
    rw [← logged_eq, ← lost_eq]
    rfl
  have gone : feedGone k b true logged = switchFeed k (!b) logged :=
    feedGone_of_standby (by rw [activeFeed, if_neg other, kept.1, active']) usable
  obtain ⟨on, failover, switches⟩ := tileOf_switchFeed (s := logged) (b := !b) inside
  obtain ⟨mem, eng⟩ := mem_eng_switchFeed (s := logged) (k := k) (b := !b)
  have untouched : logged.mem = s.mem ∧ logged.eng = s.eng := by
    rw [← logged_eq, ← lost_eq, logEvent_mem, logEvent_eng, setFeed, if_neg other]
    exact ⟨rfl, rfl⟩
  refine ⟨_, run.trans (congrArg _ gone), on, failover, by rw [switches, kept.2], mem.trans untouched.1, eng.trans untouched.2⟩

end

/-- Settles O34, from the rules of the feeds and of the rings. -/
theorem laserFeedsAndRings : Obligations.LaserFeedsAndRings := by
  refine ⟨fun s k line b avg low => ?_, fun s port r k rx => ?_⟩
  · refine ⟨exec_toneCheck_of_failed, exec_toneCheck_of_good, exec_toneCheck_of_back, rfl, rfl, exec_laserFeedLost_of_standby,
      exec_feedRelockDone_of_failover, rfl, rfl, feedBack_of_unusable, feedBack_of_none, fun usable other standby => ?_,
      fun usable other out => ?_⟩
    · rw [feedBack_of_other usable other, if_neg (by simp [standby])]
    · rw [feedBack_of_other usable other, if_pos out]
  · refine ⟨fun sweeping => ⟨?_, ?_⟩, fun locking => ⟨exec_ringLock_of_failed locking, exec_ringLock_of_free locking, exec_ringLock_of_lane locking⟩,
      exec_retuneTimeout_of_tuning, fun verified => ⟨exec_ringToneCheckDone_of_passed, fun idle => ?_, fun inUse => ?_⟩,
      fun check first line => ringOf_ringWrong_of_first first line, fun real real' verified line => ⟨?_, ?_⟩⟩
    · rw [exec_ringSweepDone_of_sweeping sweeping, if_pos rfl]
    · rw [exec_ringSweepDone_of_sweeping sweeping, if_neg (by simp)]
    · rw [exec_ringToneCheckDone_of_failed verified]
      exact if_neg (by rw [idle]; decide)
    · rw [exec_ringToneCheckDone_of_failed verified]
      exact if_pos inUse
    · rw [exec_spareMove_of_verified rfl rfl real real' verified line]
      exact if_pos rfl
    · rw [exec_spareMove_of_verified rfl rfl real real' verified line]
      exact if_neg Bool.false_ne_true

end Sys2Proof.Machine

/-! PROOFS. The frames of a lane, its timers and closes, its errors and repairs (O35). -/

namespace Sys2Proof.Machine

open Sys2Proof

section

variable {s : State} {k rtt : Nat} {f : Frame} {read : List Packet}

/-! ### Frames -/

theorem exec_frameReceive {places values : List Nat} :
    exec (.frameReceive k f places values read rtt) s = .next (frameReceive k f (places.zip values) read rtt s) := rfl

theorem frameReceive_of_deaf {errs : List (Nat × Nat)} (deaf : laneListens (laneOf s k) = false) : frameReceive k f errs read rtt s = s := by
  rw [frameReceive, if_pos (by simp [deaf])]

/-- A frame heard is discarded for an uncorrectable codeword or a wrong checksum, else taken as the decoder reads it. -/
theorem frameReceive_of_bad {errs : List (Nat × Nat)} (listens : laneListens (laneOf s k) = true) (bad : 0 < badWords errs) :
    frameReceive k f errs read rtt s = discardFrame k (modLane k (fun l => { l with unclassed := l.unclassed + badWords errs })
      (countCorrected k (correctedSymbols errs) s)) := by
  rw [frameReceive, if_neg (by simp [listens]), if_pos (by omega)]

theorem frameReceive_of_unread {errs : List (Nat × Nat)} (listens : laneListens (laneOf s k) = true) (good : badWords errs = 0)
    (unread : readFrame f errs read = none) : frameReceive k f errs read rtt s = discardFrame k (countCorrected k (correctedSymbols errs) s) := by
  rw [frameReceive, if_neg (by simp [listens]), if_neg (by omega), unread]

theorem frameReceive_of_read {errs : List (Nat × Nat)} {g : Frame} (listens : laneListens (laneOf s k) = true) (good : badWords errs = 0)
    (got : readFrame f errs read = some g) :
    frameReceive k f errs read rtt s = takeFrame k g rtt (countCorrected k (correctedSymbols errs) s) := by
  rw [frameReceive, if_neg (by simp [listens]), if_neg (by omega), got]

theorem readFrame_of_residue {errs : List (Nat × Nat)} (right : messageResidue errs = 0) : readFrame f errs read = some f := by
  rw [readFrame, if_pos right]

/-- A frame without a wrong symbol is taken as it was sent. -/
theorem exec_frameReceive_of_clean (listens : laneListens (laneOf s k) = true) :
    exec (.frameReceive k f [] [] read rtt) s = .next (takeFrame k f rtt s) := by
  have uncorrected : countCorrected k (correctedSymbols []) s = s := by rw [countCorrected, if_pos (by decide)]
  rw [exec_frameReceive, List.zip_nil_left, frameReceive_of_read listens (by decide) (readFrame_of_residue (by decide)), uncorrected]

theorem takeFrame_of_other (other : f.sender ≠ (laneOf s k).far ∨ f.port ≠ lanePort k ∨ f.line ≠ rxLine k) :
    takeFrame k f rtt s = wrongIdentity k f s := by
  rw [takeFrame, if_pos other]

/-- A lane in ACQUIRING takes TRAIN frames only. -/
theorem takeFrame_of_acquiring (sender : f.sender = (laneOf s k).far) (port : f.port = lanePort k) (line : f.line = rxLine k)
    (acquiring : (laneOf s k).state = .acquiring) : (f.kind ≠ .train → takeFrame k f rtt s = s) ∧
    (f.kind = .train → takeFrame k f rtt s = laneUp k (modLane k (fun q => { q with
      rxTrain := q.rxTrain + 1, farTrain := true, trainRtt := rtt, wrongIdent := 0, txOne := q.txOne || decide (8 ≤ q.rxTrain + 1)
      rxTrain1 := if f.trainByte = 1 then q.rxTrain1 + 1 else 0 }) s)) := by
  rw [takeFrame, if_neg (by simp [sender, port, line]), acquiring]
  constructor
  · intro other
    generalize f.kind = kind at other ⊢
    cases kind with
    | train => exact absurd rfl other
    | _ => rfl
  · intro train
    rw [train]

/-- A lane past its acquisition takes DATA in sequence and IDLE, and ignores TRAIN. -/
theorem takeFrame_of_settled (sender : f.sender = (laneOf s k).far) (port : f.port = lanePort k) (line : f.line = rxLine k)
    (settled : (laneOf s k).state ≠ .acquiring) : (f.kind = .train → takeFrame k f rtt s = s) ∧
    (f.kind = .idle → takeFrame k f rtt s = finishPlanned k (takeFlags k f (takeHeader k f s))) ∧
    (f.kind = .data → takeFrame k f rtt s = if f.seq ≠ (laneOf s k).nextRx then discardFrame k s
      else takeFlags k f (forEach f.packets (deliver k) (modLane k (fun q => { q with
        nextRx := (q.nextRx + 1) % 256, nakSent := false, closing := q.closing.map (fun c => { c with sent := false }) })
        (takeHeader k f s)))) := by
  rw [takeFrame, if_neg (by simp [sender, port, line])]
  generalize (laneOf s k).state = state at settled ⊢
  refine ⟨fun kind => ?_, fun kind => ?_, fun kind => ?_⟩ <;> rw [kind] <;> cases state with
    | acquiring => exact absurd rfl settled
    | _ => rfl

theorem laneListens_of_out {l : Lane} (out : l.state = .unused ∨ l.state = .down ∨ l.state = .held ∨ l.state = .admin) :
    laneListens l = false := by
  rcases out with out | out | out | out <;> rw [laneListens, out] <;> rfl

end

section

variable {s : State} {k : Nat} {f : SentFrame} {rest : List SentFrame}

/-! ### Timers and closes -/

theorem exec_retryTimeout_of_oldest (oldest : (laneOf s k).unacked = f :: rest) : exec (.retryTimeout k) s =
    if f.resent ≥ 16 then .next (unplannedClose k 2 true false s)
    else .next (modLane k (fun l => { l with unacked := l.unacked.map (fun f => { f with again := true }) }) s) := by
  change execRetryTimeout k s = _
  rw [execRetryTimeout]
  rw [oldest]

theorem exec_lossOfFrame_of_carrying {burst : Bool} (carrying : (laneOf s k).state = .up ∨ (laneOf s k).state = .marked) :
    exec (.lossOfFrame ⟨k, burst⟩) s = .next (unplannedClose k 1 true burst s) := by
  change execLossOfFrame ⟨k, burst⟩ s = _
  rw [execLossOfFrame, if_pos carrying]

theorem exec_acquireTimeout_of_heard (acquiring : (laneOf s k).state = .acquiring) (heard : (laneOf s k).farTrain = true) :
    exec (.acquireTimeout k) s = .next (modLane k (fun l => { l.fresh with state := .down }) s) := by
  change execAcquireTimeout k s = _
  rw [execAcquireTimeout, if_pos ⟨acquiring, heard⟩]

theorem exec_downRetry_of_named (down : (laneOf s k).state = .down) (named : (laneOf s k).named = true) :
    exec (.downRetry k) s = .next (tuneLane k s) := by
  change execDownRetry k s = _
  rw [execDownRetry, if_neg (by simp [down]), if_pos named]

theorem exec_laneHoldEnd {u : State} (due : (if (laneOf s k).holdDue then modLane k (fun l => { l with holdDue := false }) s else s) = u) :
    exec (.laneHoldEnd k) s = if (laneOf u k).state ≠ .held then .next u
      else if (laneOf u k).named then .next (tuneLane k u) else .next (unuseLane k u) := by
  subst due
  rfl

theorem exec_plannedCloseTimeout_of_planned {c : Closing} (closing : (laneOf s k).closing = some c) (planned : c.planned = true) :
    exec (.plannedCloseTimeout k) s = .next (unplannedClose k 1 true false s) := by
  change execPlannedCloseTimeout k s = _
  rw [execPlannedCloseTimeout, closing]
  exact if_pos planned

theorem exec_laneCloseTimeout_of_unplanned {c : Closing} (closing : (laneOf s k).closing = some c) (unplanned : c.planned = false)
    (state : (laneOf s k).state = .closing) : exec (.laneCloseTimeout k) s =
      .next (afterClose k (modLane k (fun l => { l with unacked := [] })
        (let u := logEvent 0x7204 srcDevice [] s
         forEach (((laneOf s k).unacked.map (·.packets)).flatten.flatMap (unsent u (laneOf s k).far))
          (fun p s => dropPacket p 0x7204 2 s) u))) := by
  change execLaneCloseTimeout k s = _
  rw [execLaneCloseTimeout]
  dsimp only
  rw [closing]
  dsimp only
  rw [if_neg (by simp [unplanned, state])]

theorem exec_holdTimeReset_of_quiet
    (quiet : (((laneOf s k).lastFlap.toList ++ (laneOf s k).flapTimes).all fun t => decide (t + 1200000000000 ≤ nowNs s)) = true) :
    exec (.holdTimeReset k) s = .next (modLane k (fun l => { l with holdTime := 10, holdLevel := 0, flapTimes := [] }) s) := by
  change execHoldTimeReset k s = _
  rw [execHoldTimeReset, if_pos quiet]

/-- A close record of the far end: the lane closes, and what the far end has not got goes back to the queue. -/
theorem exec_close_of_record {p : Packet} {port line seq reason j : Nat} {u : State} (record : p.body = .msg (.close port line seq reason))
    (lane : laneKey port ((32 - line) % 32) = j)
    (closed : (if (laneOf (takeIngress p s) j).far = p.source then unplannedClose j reason false false (takeIngress p s)
      else takeIngress p s) = u)
    (state : (laneOf u j).state = .closing) (far : (laneOf u j).far = p.source) (unplanned : (laneOf u j).closing.map (·.planned) = some false) :
    exec (.close p) s = .next (afterClose j (modLane j (fun l => { l with
      unacked := [], queue := (((laneOf u j).unacked.filter (fun f =>
        decide (0 < (f.seq + 256 - seq) % 256) && decide ((f.seq + 256 - seq) % 256 ≤ 128))).map (·.packets)).flatten ++ l.queue }) u)) := by
  subst lane
  obtain ⟨c, closing, planned⟩ := Option.map_eq_some_iff.1 unplanned
  change execClose p s = _
  rw [execClose, record]
  dsimp only
  simp only [decide_eq_true_eq]
  rw [closed, closing]
  dsimp only
  rw [if_neg (by simp [planned, state, far])]

end

section

variable {s : State} {k n lanes port : Nat}

/-! ### Errors, repairs and cabling -/

theorem exec_ucwClassify_of_retuned (counted : n ≤ (laneOf s k).unclassed) (some : 0 < n) : exec (.ucwClassify k n lanes 1 [] true) s =
    .next (modLane k (fun l => { l with burst := satAdd 32 l.burst n }) (modLane k (fun l => { l with unclassed := l.unclassed - n }) s)) := by
  change execUcwClassify k n lanes 1 [] true s = _
  rw [execUcwClassify]
  dsimp only
  rw [Nat.min_eq_left counted, if_neg (by omega), if_pos rfl]

theorem exec_ucwClassify_of_burst (counted : n ≤ (laneOf s k).unclassed) (some : 0 < n) (many : 8 ≤ lanes) :
    exec (.ucwClassify k n lanes 2 [] false) s = .next (logEvery 0x7301 0 10000000 srcDevice [(4, lanes)]
      (modLane k (fun l => { l with burst := satAdd 32 l.burst n }) (modLane k (fun l => { l with unclassed := l.unclassed - n }) s))) := by
  change execUcwClassify k n lanes 2 [] false s = _
  rw [execUcwClassify]
  dsimp only
  rw [Nat.min_eq_left counted, if_neg (by omega), if_neg (by simp), if_pos (by simp [many])]
  rfl

theorem exec_repairObservationEnd_of_marked {r : Repair} (repair : (laneOf s k).repair = some r) (marked : (laneOf s k).state = .marked) :
    exec (.repairObservationEnd k) s = if !r.crossed then
        .next (modLane k (fun l => { l with state := .up, repair := none, markedFlag := false, swapReq := false }) s)
      else .next (repairStep k (r.step + 1) r.rule (modLane k (fun l => { l with swapReq := false }) s)) := by
  change execRepairObservationEnd k s = _
  rw [execRepairObservationEnd]
  rw [repair]
  dsimp only
  rw [if_neg (by simp [marked])]

theorem exec_laneDisagreeTimer_of_same : exec (.laneDisagreeTimer k (laneOf s k).state.code) s = .next s := by
  change execLaneDisagreeTimer k _ s = _
  rw [execLaneDisagreeTimer, if_pos rfl]

theorem exec_laneDisagreeTimer_of_other {reported : Nat} (other : reported ≠ (laneOf s k).state.code) :
    exec (.laneDisagreeTimer k reported) s = .next (logEvent 0x7209 srcDevice []
      (let u := modPort (lanePort k) (fun p => { p with disagree := satAdd 32 p.disagree 1 }) s
       { u with hub := { u.hub with sensor600 := true, mgmtDiffer := insertNat (4096 + k) u.hub.mgmtDiffer } })) := by
  change execLaneDisagreeTimer k _ s = _
  rw [execLaneDisagreeTimer, if_neg other]

/-- A cabling check that has found this device's port at the far end of it. -/
structure Cabled (port : Nat) (s : State) : Prop where
  cabled : (portOf s port).cabled = true
  cabling : (portOf s port).cabling = false
  train0 : (portOf s port).train0 = none

theorem Cabled.congr {t : State} (cabled : Cabled port s) (same : portOf t port = portOf s port) : Cabled port t :=
  ⟨by rw [same, cabled.cabled], by rw [same, cabled.cabling], by rw [same, cabled.train0]⟩

theorem portOf_modPort_self {f : Port → Port} (kept : f (portOf s n) ≠ {}) : portOf (modPort n f s) n = f (portOf s n) :=
  SMap.get_modify_self _ _ _ _ kept

theorem portOf_modPort_ne {f : Port → Port} (ne : port ≠ n) : portOf (modPort n f s) port = portOf s port := SMap.get_modify_ne _ _ _ _ _ ne

theorem Cabled.moveSpareRole {rx : Bool} {r : Option Nat} (cabled : Cabled port s) : Cabled port (moveSpareRole n rx r s) := by
  unfold Machine.moveSpareRole
  split
  · next r =>
    by_cases same : port = n
    · subst same
      have self : portOf (modPort port (fun p => if rx then { p with rxSpare := r } else { p with txSpare := r }) s) port =
          if rx then { portOf s port with rxSpare := r } else { portOf s port with txSpare := r } := by
        refine portOf_modPort_self fun reset => ?_
        have off := congrArg Port.cabled reset
        split at off
        · exact absurd (cabled.cabled.symm.trans off) (by simp)
        · exact absurd (cabled.cabled.symm.trans off) (by simp)
      refine ⟨?_, ?_, ?_⟩ <;> rw [self] <;> split
      · exact cabled.cabled
      · exact cabled.cabled
      · exact cabled.cabling
      · exact cabled.cabling
      · exact cabled.train0
      · exact cabled.train0
    · exact cabled.congr (portOf_modPort_ne same)
  · exact cabled

theorem portOf_tuneRing {rx : Bool} {r line : Nat} : portOf (tuneRing n rx r line s) port = portOf s port := by
  unfold tuneRing
  split <;> rfl

theorem Cabled.startCabling (cabled : Cabled port s) : Cabled port (startCabling n s) := by
  by_cases same : n = port
  · subst same
    rw [Machine.startCabling, if_pos (by simp [cabled.cabled])]
    exact cabled
  · unfold Machine.startCabling
    dsimp only
    split
    · exact cabled
    · refine cabled.congr (Eq.trans ?_ (portOf_modPort_ne (f := fun p => { p with cabling := true }) (Ne.symm same)))
      split_ifs <;> simp only [portOf_tuneRing]

theorem Cabled.modLane {f : Lane → Lane} (cabled : Cabled port s) : Cabled port (modLane k f s) := cabled.congr rfl

theorem Cabled.tuneRing {rx : Bool} {r line : Nat} (cabled : Cabled port s) : Cabled port (tuneRing n rx r line s) :=
  cabled.congr portOf_tuneRing

protected theorem Cabled.ite {c : Prop} {inst : Decidable c} {t : State} (ht : Cabled port s) (hf : Cabled port t) :
    Cabled port (@ite _ c inst s t) := by
  split
  · exact ht
  · exact hf

theorem Cabled.tuneLane (cabled : Cabled port s) : Cabled port (tuneLane k s) := by
  unfold Machine.tuneLane
  dsimp only
  refine .ite cabled.modLane (.ite cabled.modLane (.ite cabled.modLane (.ite cabled.modLane ?_)))
  split
  · exact .ite cabled.startCabling.moveSpareRole.moveSpareRole.modLane.tuneRing.tuneRing.modLane
      cabled.startCabling.moveSpareRole.moveSpareRole.modLane.tuneRing.tuneRing
  · exact .ite cabled.startCabling.modLane cabled.startCabling.modLane

theorem Cabled.laneAcquire (cabled : Cabled port s) : Cabled port (laneAcquire k s) := by
  unfold Machine.laneAcquire
  split
  · exact cabled.modLane
  · exact cabled

/-- A cabling check that passes lets the port's tuning lanes acquire and its lanes that were down for the cabling tune. -/
def cableLanes (port : Nat) (u : State) : State :=
  forEach (((portLanes u port).filter (fun e => decide (e.2.state = .tuning))).map (·.1)) laneAcquire
    (forEach (((portLanes u port).filter (fun e =>
      decide (e.2.state = .down) && decide (e.2.downReason = 4) && e.2.named)).map (·.1)) tuneLane u)

/-- The spare ring of a port that has served its cabling check is parked. -/
def parkCabling (port : Nat) (rx : Bool) (p : Port) (s : State) : State :=
  if (if rx then p.rxSpare else p.txSpare) < 9 ∧ (ringOf s port rx (if rx then p.rxSpare else p.txSpare)).line = 0 then
    parkRing port rx (if rx then p.rxSpare else p.txSpare) s else s

theorem exec_planeCablingCheck_of_passed : exec (.planeCablingCheck port (some (s.fab.position, port))) s =
    .next (cableLanes port (modPort port (fun p => { p with cabled := true, cablingTried := true, cabling := false, train0 := none })
      (if (portOf s port).cabling then parkCabling port true (portOf s port) (parkCabling port false (portOf s port) s) else s))) := by
  change execPlaneCablingCheck port _ s = _
  unfold execPlaneCablingCheck
  exact if_pos rfl

theorem cabled_cableLanes (cabled : Cabled port s) : Cabled port (cableLanes port s) :=
  forEach_induct (Cabled port) _ (fun _ _ kept => kept.laneAcquire) _ _
    (forEach_induct (Cabled port) _ (fun _ _ kept => kept.tuneLane) _ _ cabled)

theorem cabled_modPort : Cabled port (modPort port (fun p => { p with cabled := true, cablingTried := true, cabling := false, train0 := none }) s) := by
  have self : portOf (modPort port (fun p => { p with cabled := true, cablingTried := true, cabling := false, train0 := none }) s) port =
      { portOf s port with cabled := true, cablingTried := true, cabling := false, train0 := none } :=
    portOf_modPort_self fun reset => absurd (congrArg Port.cabled reset) (by simp)
  exact ⟨by rw [self], by rw [self], by rw [self]⟩

/-- The lanes of a port whose cabling check found another sender go down for it. -/
theorem exec_planeCablingCheck_of_other {seen : Option (Nat × Nat)} (other : seen ≠ some (s.fab.position, port)) :
    Yields (.planeCablingCheck port seen) s (fun t => (portOf t port).cabled = false ∧ (portOf t port).cablingTried = true) := by
  have run : exec (.planeCablingCheck port seen) s = execPlaneCablingCheck port seen s := rfl
  unfold execPlaneCablingCheck at run
  rw [if_neg other] at run
  refine ⟨_, run, ?_⟩
  generalize marked_eq : modPort port (fun p => { p with cabled := false, cablingTried := true }) s = marked
  have self : portOf marked port = { portOf s port with cabled := false, cablingTried := true } := by
    rw [← marked_eq]
    exact portOf_modPort_self fun reset => absurd (congrArg Port.cablingTried reset) (by simp)
  have ports : ∀ t : State, t.fab.ports = marked.fab.ports → (portOf t port).cabled = false ∧ (portOf t port).cablingTried = true :=
    fun t same => by
      have eq : portOf t port = portOf marked port := by rw [portOf, same, portOf]
      rw [eq, self]
      exact ⟨rfl, rfl⟩
  refine ports _ ((congrArg Fab.ports (logEvery_fab ..)).trans ?_)
  refine forEach_induct (fun t => t.fab.ports = marked.fab.ports) _ (fun _ _ same => ?_) _ _ rfl
  exact same

end

/-- Settles O35, from the rules of the frames, of the timers and closes, and of the repairs. -/
theorem lanesAndFrames : Obligations.LanesAndFrames := by
  refine ⟨fun s k rtt f => ?_, fun s k => ?_, fun s k n lanes port => ?_⟩
  · refine ⟨rfl, fun places values read => ⟨fun deaf => ?_, fun listens bad => ?_, fun listens good unread => ?_,
      fun g listens good got => ?_, readFrame_of_residue⟩, fun read listens other => ?_, fun read listens sender port line => ?_,
      laneListens_of_out⟩
    · rw [exec_frameReceive, frameReceive_of_deaf deaf]
    · rw [exec_frameReceive, frameReceive_of_bad listens bad]
    · rw [exec_frameReceive, frameReceive_of_unread listens good unread]
    · rw [exec_frameReceive, frameReceive_of_read listens good got]
    · rw [exec_frameReceive_of_clean listens, takeFrame_of_other other]
    · rw [exec_frameReceive_of_clean listens]
      refine ⟨fun settled data inOrder => ?_, fun settled data outOfOrder => ?_, fun settled idle => ?_, fun settled train => ?_,
        fun acquiring other => ?_, fun acquiring train => ?_⟩
      · rw [(takeFrame_of_settled sender port line settled).2.2 data, if_neg (not_not.2 inOrder)]
      · rw [(takeFrame_of_settled sender port line settled).2.2 data, if_pos outOfOrder]
      · rw [(takeFrame_of_settled sender port line settled).2.1 idle]
      · rw [(takeFrame_of_settled sender port line settled).1 train]
      · rw [(takeFrame_of_acquiring sender port line acquiring).1 other]
      · rw [(takeFrame_of_acquiring sender port line acquiring).2 train]
  · refine ⟨fun f rest oldest few => ?_, fun f rest oldest many => ?_, fun burst => exec_lossOfFrame_of_carrying, exec_acquireTimeout_of_heard,
      exec_downRetry_of_named, ⟨fun held named => ?_, fun held unnamed => ?_, fun free => ?_⟩, fun c => exec_plannedCloseTimeout_of_planned,
      fun c => exec_laneCloseTimeout_of_unplanned, exec_holdTimeReset_of_quiet,
      fun p port line seq reason record => exec_close_of_record record rfl rfl⟩
    · rw [exec_retryTimeout_of_oldest oldest, if_neg (by omega)]
    · rw [exec_retryTimeout_of_oldest oldest, if_pos many]
    · rw [exec_laneHoldEnd rfl, if_neg (not_not.2 held), if_pos named]
    · rw [exec_laneHoldEnd rfl, if_neg (not_not.2 held), if_neg (by rw [unnamed]; decide)]
    · rw [exec_laneHoldEnd rfl, if_pos free]
  · refine ⟨exec_ucwClassify_of_retuned, exec_ucwClassify_of_burst, fun r repair marked uncrossed => ?_, fun r repair marked crossed => ?_,
      exec_laneDisagreeTimer_of_same, fun reported => exec_laneDisagreeTimer_of_other, fun idle => ?_,
      ⟨_, exec_planeCablingCheck_of_passed, ?_⟩, fun seen => exec_planeCablingCheck_of_other⟩
    · rw [exec_repairObservationEnd_of_marked repair marked, if_pos (by simp [uncrossed])]
    · rw [exec_repairObservationEnd_of_marked repair marked, if_neg (by simp [crossed])]
    · rw [exec_planeCablingCheck_of_passed, if_neg (by simp [idle])]
      rfl
    · obtain ⟨cabled, cabling, train0⟩ := cabled_cableLanes cabled_modPort
      exact ⟨cabled, cabling, train0⟩

end Sys2Proof.Machine

/-! PROOFS. Packets on their way, and the order of flagged packets (O36). -/

namespace Sys2Proof.Machine

open Sys2Proof

section

variable {s : State} {k i : Nat} {p q : Packet} {h : HeldPacket}

/-! ### Packets on their way -/

theorem exec_packetForward_of_transit (waits : s.fab.transit.find? (fun e => e.2 == p) = some (k, p)) : exec (.packetForward p) s =
    let u := freeCreditOf k p { s with fab := { s.fab with transit := s.fab.transit.erase (k, p), forwarded := satAdd 64 s.fab.forwarded 1 } }
    if p.hops ≥ 7 then .next (deadDrop 0x8032 p u) else .next (routePacket p u) := by
  change execPacketForward p s = _
  rw [execPacketForward, waits]

theorem exec_packetForward_of_none (none : s.fab.transit.find? (fun e => e.2 == p) = none) : exec (.packetForward p) s = .next s := by
  change execPacketForward p s = _
  rw [execPacketForward, none]

theorem exec_escapeCreditTimeout_of_waiting (queued : (laneOf s k).queue.contains p = true) (channel : p.vc < 3)
    (other : p.source ≠ myLogical s) : exec (.escapeCreditTimeout k p) s =
      let u := modLane k (fun l => { l with queue := l.queue.erase p }) s
      .next (routePacket { escapePacket p with hops := p.hops - 1 }
        { u with fab := { u.fab with escaped := satAdd 64 u.fab.escaped 1 } }) := by
  change execEscapeCreditTimeout k p s = _
  rw [execEscapeCreditTimeout]
  exact if_pos (by rw [queued]; simp [channel, other])

theorem exec_escapeCreditTimeout_of_own (own : p.source = myLogical s) : exec (.escapeCreditTimeout k p) s = .next s := by
  change execEscapeCreditTimeout k p s = _
  rw [execEscapeCreditTimeout]
  exact if_neg (by simp [own])

theorem exec_detourWaitTimeout_of_detour {dst j : Nat} (held : s.fab.held.find? (fun h => h.p == p) = some h) (dest : destPos s p = some dst)
    (detour : detourHop s p dst = some (j, q)) :
    exec (.detourWaitTimeout p) s = .next (enqueue j p q { s with fab := { s.fab with held := s.fab.held.erase h } }) := by
  change execDetourWaitTimeout p s = _
  rw [execDetourWaitTimeout, held]
  dsimp only
  rw [dest]
  dsimp only
  rw [detour]

theorem exec_packetHoldTimeout_of_held (held : s.fab.held.find? (fun h => h.p == p) = some h) : exec (.packetHoldTimeout p) s =
    .next (deadDrop 0x8031 p { s with fab := { s.fab with held := s.fab.held.erase h } }) := by
  change execPacketHoldTimeout p s = _
  rw [execPacketHoldTimeout, held]

theorem deadDrops_deadDrop {code : Nat} (unanswered : p.vc = 3 ∨ p.cls = 1) :
    (deadDrop code p s).fab.deadDrops = satAdd 64 s.fab.deadDrops 1 := by
  rw [deadDrop, dropPacket, if_pos unanswered]
  exact congrArg Fab.deadDrops sameButLog_logOncePhase.fab

theorem routePacket_same : routePacket p s = { s with fab := (routePacket p s).fab } := by
  unfold routePacket
  split
  · rfl
  · split <;> rfl

theorem ingress_routePacket_of_here (here : destPos s p = some s.fab.position) : (routePacket p s).fab.ingress = s.fab.ingress ++ [p] := by
  rw [routePacket, if_pos here]

theorem lanes_routePacket_of_hop (away : destPos s p ≠ some s.fab.position) (hop : chooseHop s p = .ok (i, q)) :
    (routePacket p s).fab.lanes = (modLane i (fun l => { l with queue := l.queue ++ [{ q with hops := q.hops + 1 }] }) s).fab.lanes := by
  rw [routePacket, if_neg away, hop]
  rfl

/-! ### The order of flagged packets -/

theorem exec_orderSkip_of_msg {n : Nat} (msg : p.body = .msg (.orderSkip n)) : exec (.orderSkip p) s =
    let v := logEvent 0x8033 srcDevice [(2, p.source), (4, n)] (takeIngress p s)
    .next (orderApplied p.source n { v with fab := { v.fab with skipMarked := SMap.set 0 v.fab.skipMarked p.source 0x8033 } }) := by
  change execOrderSkip p s = _
  rw [execOrderSkip, msg]

theorem exec_orderRetry_of_sent {n : Nat} (msg : p.body = .msg (.orderRetry n))
    (sent : (takeIngress p s).fab.flaggedSent.find? (fun q => q.tag == p.tag && q.dest == p.source && q.order == n) = some q) :
    exec (.orderRetry p) s = .next { takeIngress p s with fab := { (takeIngress p s).fab with
      orderResend := (takeIngress p s).fab.orderResend ++ [q] } } := by
  change execOrderRetry p s = _
  rw [execOrderRetry, msg]
  dsimp only
  rw [sent]

theorem exec_orderRetryResend_of_waiting (waits : s.fab.orderResend.contains p = true) : exec (.orderRetryResend p) s =
    .next (routePacket p { s with fab := { s.fab with orderResend := s.fab.orderResend.erase p } }) := by
  change execOrderRetryResend p s = _
  rw [execOrderRetryResend, if_pos waits]

/-- A count applied lets the held packets of its source that carry it reach the ingress, and no others. -/
theorem orderApplied_releases {src n : Nat} (wf : SMap.wf 0 s.fab.applied = true) :
    let a := (SMap.get 0 s.fab.applied src + n) % 65536
    SMap.get 0 (orderApplied src n s).fab.applied src = a ∧
    (orderApplied src n s).fab.ingress = s.fab.ingress ++ s.fab.flaggedHeld.filter (fun p => p.source == src && p.order == a) ∧
    ∀ x, x ∈ (orderApplied src n s).fab.flaggedHeld ↔ x ∈ s.fab.flaggedHeld ∧ ¬(x.source = src ∧ x.order = a) := by
  have count := SMap.get_set 0 s.fab.applied src ((SMap.get 0 s.fab.applied src + n) % 65536) wf
  unfold orderApplied releaseFlagged
  dsimp only
  rw [count]
  refine ⟨rfl, rfl, fun x => ?_⟩
  simp [List.mem_filter, imp_iff_not_or]

end

/-- Settles O36, from the rules of a packet's way and of the order of flagged packets. -/
theorem packetsAndFlaggedOrder : Obligations.PacketsAndFlaggedOrder := by
  refine ⟨fun s k i p h => ⟨fun waits => ?_, exec_packetForward_of_none, exec_escapeCreditTimeout_of_waiting, exec_escapeCreditTimeout_of_own,
      fun held dst j q => exec_detourWaitTimeout_of_detour held, exec_packetHoldTimeout_of_held, deadDrops_deadDrop, routePacket_same,
      ingress_routePacket_of_here, fun away q => lanes_routePacket_of_hop away⟩,
    fun s p q n => ⟨exec_orderSkip_of_msg, exec_orderRetry_of_sent, exec_orderRetryResend_of_waiting, fun wf src => orderApplied_releases wf⟩⟩
  rw [exec_packetForward_of_transit waits]
  dsimp only
  by_cases last : p.hops < 7
  · rw [if_neg (by omega), if_pos last]
  · rw [if_pos (by omega), if_neg last]

end Sys2Proof.Machine

/-! PROOFS. Multicast writes and the tree (O38); remote requests served at their home (O39). -/

namespace Sys2Proof.Machine

open Sys2Proof

/-! ### Multicast writes and the tree -/

section

variable {s : State} {p : Packet} {t : Nat}

theorem exec_orphanTimeout_of_tree (tier : t ≤ 2) (tree : s.fab.mode = 1) (off : tierCoord t s.fab.position ≠ tierCoord t s.fab.root) :
    exec (.orphanTimeout t) s =
      let me := s.fab.position
      let i := (tierCoord t me + 32 - tierCoord t s.fab.root) % 32
      let parent := withCoord t me ((treeParent (tierPlanes t) i + tierCoord t s.fab.root) % 32)
      let link := (laneOf s (laneKey (tierBase t + uplinkPlane s t) (lineTo t me parent))).state
      if link = .up ∨ link = .marked then .next s
      else .next (askAdopt t (uplinkPlane s t) (logEvery 0x8040 t 10000000000 srcDevice [(4, t), (2, parent)] s)) := by
  change execOrphanTimeout t s = _
  rw [execOrphanTimeout]
  exact if_neg (not_or.2 ⟨Nat.not_lt.2 tier, not_or.2 ⟨not_not.2 tree, off⟩⟩)

theorem exec_orphanTimeout_of_lane (plain : s.fab.mode ≠ 1) : exec (.orphanTimeout t) s = .next s := by
  change execOrphanTimeout t s = _
  rw [execOrphanTimeout]
  exact if_pos (.inr (.inl plain))

theorem exec_adoptRetry_of_orphan (tier : t ≤ 2) (tree : s.fab.mode = 1) (orphan : SMap.get 0 s.fab.orphan t ≠ 0) :
    exec (.adoptRetry t) s =
      let me := s.fab.position
      let i := (tierCoord t me + 32 - tierCoord t s.fab.root) % 32
      let parent := withCoord t me ((treeParent (tierPlanes t) i + tierCoord t s.fab.root) % 32)
      .next (askAdopt t (SMap.get 0 s.fab.orphan t % tierPlanes t)
        (logEvery 0x8040 t 10000000000 srcDevice [(4, t), (2, parent)] s)) := by
  change execAdoptRetry t s = _
  rw [execAdoptRetry]
  exact if_neg (not_or.2 ⟨orphan, not_or.2 ⟨not_not.2 tree, Nat.not_lt.2 tier⟩⟩)

theorem exec_adoptRetry_of_lane (plain : s.fab.mode ≠ 1) : exec (.adoptRetry t) s = .next s := by
  change execAdoptRetry t s = _
  rw [execAdoptRetry]
  exact if_pos (.inr (.inl plain))

theorem exec_adopt_of_msg {orphan plane : Nat} (msg : p.body = .msg (.adopt orphan t plane)) (tier : t ≤ 2) (inTier : plane < tierPlanes t) :
    exec (.adopt p) s =
      let u := takeIngress p s
      if 8 ≤ ((portLanes u (tierBase t + plane)).filter (fun e => e.2.named)).length then .next u
      else .next (nameLane (tierBase t + plane) orphan
        { u with fab := { u.fab with adoptees := insertNat (laneKey (tierBase t + plane) (lineTo t u.fab.position orphan)) u.fab.adoptees } }) := by
  change execAdopt p s = _
  rw [execAdopt, msg]
  exact if_neg (not_or.2 ⟨Nat.not_lt.2 tier, Nat.not_le.2 inTier⟩)

end

/-- Settles O38, command by command: a write's copies and its own part, the orphan's questions, the root's answer, the change of tree. -/
theorem multicastAndTree : Obligations.MulticastAndTree := by
  unfold Obligations.MulticastAndTree
  intro s p t
  refine ⟨⟨fun mine => if_pos mine, fun other => if_neg (other ▸ Bool.false_ne_true)⟩, fun tier tree off => ?_,
    fun plain => ⟨exec_orphanTimeout_of_lane plain, exec_adoptRetry_of_lane plain⟩, fun orphan plane msg tier inTier => ?_, rfl, rfl⟩
  · refine ⟨fun notUp notMarked => ?_, fun linked => ?_, fun orphan => exec_adoptRetry_of_orphan tier tree orphan⟩
    · rw [exec_orphanTimeout_of_tree tier tree off]
      exact if_neg (not_or.2 ⟨notUp, notMarked⟩)
    · rw [exec_orphanTimeout_of_tree tier tree off]
      exact if_pos linked
  · rw [exec_adopt_of_msg msg tier inTier]
    exact ⟨fun room => if_neg (Nat.not_le.2 room), fun full => if_pos full⟩

/-! ### Requests served at their home -/

section

variable {s u : State} {p : Packet} {n : Nat}

theorem serveRemote_of_refused {ecc : Ecc} {g : Nat} (on : downAt u (localForm u (memOf p).addr) = none) (kind : p.ptype ≠ 4)
    (may : unitRefuses p u = false)
    (stage : accessStage u srcRemote (localForm u (memOf p).addr) (remoteLen p) (remoteAlign p) (decide (p.ptype ≠ 0))
      (remoteMay p.ptype (memOf p).op (memOf p).elem (hallAddr (memOf p).addr) (remoteLen p)) = some g) :
    serveRemote ecc p u = refuseRemote p (stageCode g) true u := by
  rw [serveRemote]
  dsimp only
  rw [on]
  dsimp only
  rw [may, Bool.not_false, Bool.and_true, decide_eq_false kind, Bool.false_and, Bool.false_and, if_neg Bool.false_ne_true, stage]

theorem serveRemote_of_passes {ecc : Ecc} (on : downAt u (localForm u (memOf p).addr) = none) (may : unitRefuses p u = false)
    (stage : accessStage u srcRemote (localForm u (memOf p).addr) (remoteLen p) (remoteAlign p) (decide (p.ptype ≠ 0))
      (remoteMay p.ptype (memOf p).op (memOf p).elem (hallAddr (memOf p).addr) (remoteLen p)) = none)
    (whole : p.ptype = 4 → remoteLen p % elemBytes (memOf p).elem = 0) (space : (hallAddr (memOf p).addr).space ≠ 2) :
    serveRemote ecc p u = servePacket ecc p u := by
  have part : (decide (p.ptype = 4) && decide (remoteLen p % elemBytes (memOf p).elem ≠ 0)) = false := by
    rw [Bool.and_eq_false_imp]
    exact fun four => decide_eq_false (not_not.2 (whole (of_decide_eq_true four)))
  rw [serveRemote]
  dsimp only
  rw [on]
  dsimp only
  rw [may, Bool.not_false, Bool.and_true, part, Bool.false_and, if_neg Bool.false_ne_true, stage]
  exact if_neg (fun held => space held.1)

theorem exec_rd_of_space {ecc : Ecc} (space : (hallAddr (memOf p).addr).space ≠ 5) :
    exec (.rd p ecc) s = .next (serveRemote ecc { p with ptype := 0x00 } (takeIngress p s)) :=
  congrArg Host.Outcome.next (if_neg space)

theorem unitRefuses_of_store (space : (hallAddr (memOf p).addr).space = 0) : unitRefuses p u = false := by
  rw [unitRefuses]
  rw [space]
  rfl

/-- An ordered request counts as applied once it is served (R341). -/
def appliedWhere (ordered : Bool) (src : Nat) (s : State) : State := if ordered then orderApplied src 1 s else s

theorem servePacket_of_sp {ecc : Ecc} (space : (hallAddr (memOf p).addr).space = 0) (plain : p.flagged = false) :
    servePacket ecc p u = appliedWhere (isOrdered p.ptype) p.source (serveStore .sp ecc p u) := by
  rw [servePacket]
  dsimp only
  rw [space, plain]
  rfl

theorem serveRemote_sp {ecc : Ecc} (on : downAt u (localForm u (memOf p).addr) = none)
    (stage : accessStage u srcRemote (localForm u (memOf p).addr) (remoteLen p) (remoteAlign p) (decide (p.ptype ≠ 0))
      (remoteMay p.ptype (memOf p).op (memOf p).elem (hallAddr (memOf p).addr) (remoteLen p)) = none)
    (whole : p.ptype = 4 → remoteLen p % elemBytes (memOf p).elem = 0) (space : (hallAddr (memOf p).addr).space = 0) (plain : p.flagged = false) :
    serveRemote ecc p u = appliedWhere (isOrdered p.ptype) p.source (serveStore .sp ecc p u) := by
  rw [serveRemote_of_passes on (unitRefuses_of_store space) stage whole (fun two => absurd (space.symm.trans two) (by decide)),
    servePacket_of_sp space plain]

theorem mem_orderApplied {src : Nat} : (orderApplied src n s).mem = s.mem := rfl

theorem mem_routePacket : (routePacket p s).mem = s.mem := by rw [routePacket_same]

theorem mem_refuseRemote {code : Nat} {record : Bool} : (refuseRemote p code record s).mem = s.mem := by
  have noted : (if record then logEvent code srcRemote [(2, srcRemote), (8, (memOf p).addr.toNat)] s else s).mem = s.mem := by
    cases record with
    | true => exact logEvent_mem ..
    | false => rfl
  rw [refuseRemote]
  dsimp only
  by_cases ordered : isOrdered p.ptype = true
  · rw [if_pos ordered, mem_orderApplied, respondErr, respond, mem_routePacket]
    by_cases plain : (isOrdered p.ptype && !p.flagged) = true
    · rw [if_pos plain]
      exact noted
    · rw [if_neg plain]
      exact noted
  · rw [if_neg ordered, respondErr, respond, mem_routePacket, if_neg (fun both => ordered (Bool.and_eq_true_iff.1 both).1)]
    exact noted

theorem SMap.erase_of_get_default {α : Type} [DecidableEq α] (d : α) {lo i : Nat} : ∀ {m : SMap α}, SMap.wfFrom d lo m = true → SMap.get d m i = d →
    SMap.erase i m = m
  | [], _, _ => rfl
  | (j, v) :: m, sorted, absent => by
    obtain ⟨⟨-, here⟩, later⟩ : (lo ≤ j ∧ v ≠ d) ∧ SMap.wfFrom d (j + 1) m = true := by simpa [SMap.wfFrom] using sorted
    by_cases same : i = j
    · exact absurd (by simpa [SMap.get, same] using absent) here
    · have rest : SMap.get d m i = d := by simpa [SMap.get, same] using absent
      simp [SMap.erase, same, SMap.erase_of_get_default d later rest]

theorem stage_of_sig (space : (hallAddr (memOf p).addr).space = 3) (sig : p.ptype = 5)
    (stage : accessStage u srcRemote (localForm u (memOf p).addr) 8 32 true true = none) :
    accessStage u srcRemote (localForm u (memOf p).addr) (remoteLen p) (remoteAlign p) (decide (p.ptype ≠ 0))
      (remoteMay p.ptype (memOf p).op (memOf p).elem (hallAddr (memOf p).addr) (remoteLen p)) = none := by
  have len : remoteLen p = 8 := by unfold remoteLen; rw [sig]; rfl
  have align : remoteAlign p = 32 := by unfold remoteAlign; rw [sig]; rfl
  have may : remoteMay p.ptype (memOf p).op (memOf p).elem (hallAddr (memOf p).addr) (remoteLen p) = true := by
    rw [sig]
    exact decide_eq_true space
  rw [may, len, align]
  simpa [sig] using stage

theorem serveRemote_sig (space : (hallAddr (memOf p).addr).space = 3) (sig : p.ptype = 5) (on : downAt u (localForm u (memOf p).addr) = none)
    (stage : accessStage u srcRemote (localForm u (memOf p).addr) 8 32 true true = none)
    (opened : tallyOpen u ((hallAddr (memOf p).addr).off / 32) = true) (clean : (memOf p).err = false)
    (unmarked : SMap.get 0 u.fab.skipMarked p.source = 0) (sorted : SMap.wf 0 u.fab.skipMarked = true) {ecc : Ecc} :
    serveRemote ecc p u = orderApplied p.source 1 (respondAck p 0 false false
      (tallyAdd ((hallAddr (memOf p).addr).off / 32) ((memOf p).operand.toNat % 2 ^ 64) srcRemote u)) := by
  have same : (takeMark p.source u) = (0, u) := by
    rw [takeMark, unmarked, SMap.erase_of_get_default 0 sorted unmarked]
  have may : unitRefuses p u = false := by
    rw [unitRefuses]
    rw [if_pos space, if_pos (.inr sig), tallyMay]
    simp [opened]
    omega
  rw [serveRemote_of_passes on may (stage_of_sig space sig stage) (by simp [sig]) (by simp [space]),
    servePacket]
  dsimp only
  rw [space, sig]
  change orderApplied p.source 1 (if tallyOpen u ((hallAddr (memOf p).addr).off / 32) = true then serveSig p u else u) = _
  rw [if_pos opened, serveSig]
  rw [same, clean]
  rfl

end

/-- Settles O39: a request that passes the checks meets no refusal of `serveRemote`, and its store's part is then the request's own. -/
theorem remoteRequestsServed : Obligations.RemoteRequestsServed := by
  unfold Obligations.RemoteRequestsServed
  refine ⟨fun s p => ?_, fun s p => ?_⟩
  · intro u m h served passes space plain
    refine ⟨fun pass => ?_, fun pass => ?_, fun pass => ?_, fun pass whole => ?_, fun g on refused => ⟨?_, mem_refuseRemote⟩⟩
    · exact (exec_rd_of_space (fun five => absurd (space.symm.trans five) (by decide))).trans
        (congrArg Host.Outcome.next (serveRemote_sp pass.2 pass.1 (fun four => absurd four (by simp)) space plain))
    · exact congrArg Host.Outcome.next (serveRemote_sp pass.2 pass.1 (fun four => absurd four (by simp)) space plain)
    · exact congrArg Host.Outcome.next (serveRemote_sp pass.2 pass.1 (fun four => absurd four (by simp)) space plain)
    · exact congrArg Host.Outcome.next (serveRemote_sp pass.2 pass.1 (fun _ => whole) space plain)
    · exact congrArg Host.Outcome.next (serveRemote_of_refused (p := { p with ptype := 0x01 }) on (by simp) (unitRefuses_of_store space) refused)
  · exact fun space on stage opened clean unmarked sorted => congrArg Host.Outcome.next
      (serveRemote_sig (p := { p with ptype := 0x05 }) space rfl on stage opened clean unmarked sorted)

end Sys2Proof.Machine

/-! PROOFS. Responses, request slots, timeouts and retries (O40). -/

namespace Sys2Proof.Machine

open Sys2Proof

section

variable {s : State} {p : Packet}

theorem freshAnswer_takeIngress : freshAnswer (takeIngress p s) p = freshAnswer s p := rfl

theorem exec_rdData_of_late (late : freshAnswer s p = false) : exec (.rdData p) s = .next (lateAnswer (takeIngress p s)) := by
  change execRdData p s = _
  rw [execRdData, late]
  rfl

theorem exec_rdData_of_slot (fresh : freshAnswer s p = true) (plain : ∀ e j n l, (slotOf s p.tag).use ≠ .hare e j n l) :
    exec (.rdData p) s = .next (takeData p (takeIngress p s)) := by
  change execRdData p s = _
  rw [execRdData, fresh, Bool.not_true, if_neg Bool.false_ne_true]
  cases used : (slotOf s p.tag).use with
  | hare e j n l => exact absurd used (plain e j n l)
  | _ => rfl

theorem exec_rdData_of_hare {e j n l : Nat} (fresh : freshAnswer s p = true) (used : (slotOf s p.tag).use = .hare e j n l)
    (takes : hareCanTake s e j n l = true) : exec (.rdData p) s = .next (takeData p (takeIngress p s)) := by
  change execRdData p s = _
  rw [execRdData, fresh, Bool.not_true, if_neg Bool.false_ne_true, used]
  exact if_pos takes

theorem exec_ack_of_late (late : freshAnswer s p = false) : exec (.ack p) s = .next (lateAnswer (takeIngress p s)) :=
  if_neg (fun fresh => Bool.false_ne_true (late.symm.trans fresh))

theorem exec_ack_of_fresh (fresh : freshAnswer s p = true) : exec (.ack p) s = .next (takeAck p (takeIngress p s)) := if_pos fresh

theorem slotAnswered_of_last {i d : Nat} (last : (slotOf s i).waiting = [d]) : slotAnswered i d s = (closeSlot i s, true) := by
  rw [slotAnswered]
  exact if_pos (by rw [last]; simp)

theorem takeAck_of_fox {core issue : Nat} (used : (slotOf s p.tag).use = .fox core issue) (last : (slotOf s p.tag).waiting = [p.source])
    (clean : (memOf p).err = false) : takeAck p s = completeOp core issue (closeSlot p.tag s) := by
  rw [takeAck]
  rw [slotAnswered_of_last last, used, clean]
  rfl

theorem exec_err_of_late (shared : p.tag ≠ 0xFFFF) (late : freshAnswer s p = false) :
    exec (.err p) s = .next (lateAnswer (takeIngress p s)) :=
  (if_neg shared).trans (if_neg (fun fresh => Bool.false_ne_true (late.symm.trans fresh)))

theorem exec_err_of_fresh (shared : p.tag ≠ 0xFFFF) (fresh : freshAnswer s p = true) :
    exec (.err p) s = .next (takeErr p (takeIngress p s)) :=
  (if_neg shared).trans (if_pos fresh)

theorem exec_retry_of_late (shared : p.tag ≠ 0xFFFF) (late : freshAnswer s p = false) :
    exec (.retry p) s = .next (lateAnswer (takeIngress p s)) := by
  change execRetry p s = _
  rw [execRetry]
  exact (if_neg shared).trans (if_pos (by rw [freshAnswer_takeIngress, late]; rfl))

/-- The slot with one more destination whose request is to be sent again. -/
def keptForRetry (p : Packet) (k : Slot) (s : State) : State :=
  { s with remote := { s.remote with slots := SMap.set {} s.remote.slots p.tag { k with retry := k.retry ++ [p.source] } } }

/-- A collective's engine counts the requests it is to send again. -/
def countRetry (use : SlotUse) (s : State) : State :=
  match use with
  | .pack e => modPack e (fun q => { q with retries := satAdd 64 q.retries 1 }) s
  | _ => s

theorem countRetry_of_plain {use : SlotUse} (plain : ∀ e, use ≠ .pack e) : countRetry use s = s := by
  cases use with
  | pack e => exact absurd rfl (plain e)
  | _ => rfl

theorem exec_retry_of_fresh (shared : p.tag ≠ 0xFFFF) (fresh : freshAnswer s p = true) :
    exec (.retry p) s = .next (keptForRetry p (slotOf (takeIngress p s) p.tag)
      (countRetry (slotOf (takeIngress p s) p.tag).use (takeIngress p s))) := by
  change execRetry p s = _
  rw [execRetry]
  exact (if_neg shared).trans (if_neg (by rw [freshAnswer_takeIngress, fresh]; decide))

theorem exec_retry_of_plain (shared : p.tag ≠ 0xFFFF) (fresh : freshAnswer s p = true)
    (plain : ∀ e, (slotOf (takeIngress p s) p.tag).use ≠ .pack e) :
    exec (.retry p) s = .next (keptForRetry p (slotOf (takeIngress p s) p.tag) (takeIngress p s)) := by
  rw [exec_retry_of_fresh shared fresh, countRetry_of_plain plain]

theorem exec_retry_of_pack {e : Nat} (shared : p.tag ≠ 0xFFFF) (fresh : freshAnswer s p = true)
    (used : (slotOf (takeIngress p s) p.tag).use = .pack e) :
    exec (.retry p) s = .next (keptForRetry p (slotOf (takeIngress p s) p.tag)
      (modPack e (fun q => { q with retries := satAdd 64 q.retries 1 }) (takeIngress p s))) := by
  rw [exec_retry_of_fresh shared fresh, used]
  rfl

theorem exec_retryResend_of_line {core key : Nat} : exec (.retryResend 0xFFFF core key) s =
    if (l1Of s core key).retry then
      .next (sendCoh (l1Request (l1Of s core key)) (keyHome key) (keyHome key) (keyLine key) core 0xFFFF 0 false (l1Of s core key).poison []
        (modL1 core key (fun l => { l with retry := false }) s))
    else .next s := by
  change execRetryResend 0xFFFF core key s = _
  rw [execRetryResend]
  exact if_pos rfl

/-- Two loops whose steps agree, and keep `P`, wherever `P` holds end alike. -/
theorem forEach_congr_under {α : Type} (P : State → Prop) {f g : α → State → State} (keeps : ∀ a t, P t → P (f a t))
    (agree : ∀ a t, P t → f a t = g a t) (l : List α) {t : State} (start : P t) : forEach l f t = forEach l g t := by
  unfold forEach
  induction l generalizing t with
  | nil => rfl
  | cons a l ih => exact (ih (keeps a t start)).trans (congrArg (fun v => l.foldl (fun s a => g a s) v) (agree a t start))

theorem slotOf_routePacket {i : Nat} : slotOf (routePacket p s) i = slotOf s i := by rw [routePacket_same]; rfl

theorem packet_cleared_retry {i : Nat} (busy : (slotOf s i).busy = true) : (slotOf
    { s with remote := { s.remote with slots := SMap.set {} s.remote.slots i { slotOf s i with retry := [] } } } i).packet = (slotOf s i).packet := by
  have cleared : SMap.get {} (SMap.set {} s.remote.slots i { slotOf s i with retry := [] }) i = { slotOf s i with retry := [] } :=
    SMap.get_set_self _ _ _ _ (fun reset => by simpa [busy] using congrArg Slot.busy reset)
  have packet := congrArg Slot.packet cleared
  exact packet

theorem exec_retryResend_of_slot {i core key : Nat} (other : i ≠ 0xFFFF) (busy : (slotOf s i).busy = true) :
    exec (.retryResend i core key) s = .next (forEach (slotOf s i).retry (fun d t => routePacket
      { (slotOf s i).packet with dest := d, phys := false, mcast := false, hops := 0 } t)
      { s with remote := { s.remote with slots := SMap.set {} s.remote.slots i { slotOf s i with retry := [] } } }) := by
  change execRetryResend i core key s = _
  rw [execRetryResend, if_neg other]
  exact if_pos busy

/-- The statement reads the packet from the slot as each request is sent again: routing leaves the slot alone. -/
theorem resent_packet_kept {i : Nat} (l : List Nat) (busy : (slotOf s i).busy = true) :
    forEach l (fun d t => routePacket { (slotOf s i).packet with dest := d, phys := false, mcast := false, hops := 0 } t)
      { s with remote := { s.remote with slots := SMap.set {} s.remote.slots i { slotOf s i with retry := [] } } } =
    forEach l (fun d t => routePacket { (slotOf t i).packet with dest := d, phys := false, mcast := false, hops := 0 } t)
      { s with remote := { s.remote with slots := SMap.set {} s.remote.slots i { slotOf s i with retry := [] } } } :=
  forEach_congr_under (fun t => (slotOf t i).packet = (slotOf s i).packet)
    (fun _ _ same => (congrArg Slot.packet slotOf_routePacket).trans same) (fun _ _ same => by rw [same]) l
    (packet_cleared_retry busy)

end

/-- Settles O40: each answer by whether it is fresh and by the use of its slot. -/
theorem responsesAndSlots : Obligations.ResponsesAndSlots := by
  unfold Obligations.ResponsesAndSlots
  intro s p i
  exact ⟨fun late => ⟨exec_rdData_of_late late, exec_ack_of_late late⟩,
    fun late shared => ⟨exec_err_of_late shared late, exec_retry_of_late shared late⟩, fun fresh plain => exec_rdData_of_slot fresh plain,
    fun e j n l fresh used takes => exec_rdData_of_hare fresh used takes, fun fresh => exec_ack_of_fresh fresh,
    fun core issue fresh used last clean => (exec_ack_of_fresh fresh).trans (congrArg Host.Outcome.next (takeAck_of_fox used last clean)),
    fun fresh shared => exec_err_of_fresh shared fresh, fun fresh shared plain => exec_retry_of_plain shared fresh plain,
    fun e fresh shared used => exec_retry_of_pack shared fresh used, fun shared => ⟨if_pos shared, if_pos shared⟩,
    fun core key => ⟨fun quiet => exec_retryResend_of_line.trans (if_neg (quiet ▸ Bool.false_ne_true)),
      fun retry => exec_retryResend_of_line.trans (if_pos retry)⟩,
    fun busy => if_pos busy, fun free => if_neg (free ▸ Bool.false_ne_true),
    fun other busy core key => (exec_retryResend_of_slot other busy).trans (congrArg Host.Outcome.next (resent_packet_kept _ busy))⟩

end Sys2Proof.Machine

/-! PROOFS. Coherence at the home (O42) and at an L1 (O43). -/

namespace Sys2Proof.Machine

open Sys2Proof

section

variable {s u : State} {p : Packet} {req : HomeReq} {line : Nat}

/-! ### Requests -/

theorem homeRequest_of_homed (homed : cohHomed p = true) (on : domDown u (lineDie (packetLine p)) = false) :
    homeRequest req p u =
      if dirStable (dirOf u (packetLine p)) && (dirOf u (packetLine p)).wait.isEmpty then dirStart (packetLine p) req u
      else if 64 ≤ sliceWait u (packetLine p) then
        sendCoh 0x58 p.source (myLogical u) (packetLine p) (memOf p).core p.tag (memOf p).slotGen false false []
          (modCounts (packetLine p) (fun c => { c with retries := satAdd 64 c.retries 1 }) u)
      else modDir (packetLine p) (fun d => { d with wait := d.wait ++ [req] }) u := by
  rw [homeRequest]
  exact (if_neg (by rw [homed]; decide)).trans (if_neg (by rw [on]; decide))

theorem homeRequest_of_stable (homed : cohHomed p = true) (on : domDown u (lineDie (packetLine p)) = false)
    (stable : dirStable (dirOf u (packetLine p)) = true) (free : (dirOf u (packetLine p)).wait = []) :
    homeRequest req p u = dirStart (packetLine p) req u := by
  rw [homeRequest_of_homed homed on, stable, free]
  rfl

theorem homeRequest_of_room (homed : cohHomed p = true) (on : domDown u (lineDie (packetLine p)) = false)
    (working : dirStable (dirOf u (packetLine p)) = false) (room : sliceWait u (packetLine p) < 64) :
    homeRequest req p u = modDir (packetLine p) (fun d => { d with wait := d.wait ++ [req] }) u := by
  rw [homeRequest_of_homed homed on, working]
  exact if_neg (Nat.not_le.2 room)

theorem homeRequest_of_full (homed : cohHomed p = true) (on : domDown u (lineDie (packetLine p)) = false)
    (working : dirStable (dirOf u (packetLine p)) = false) (full : 64 ≤ sliceWait u (packetLine p)) :
    homeRequest req p u = sendCoh 0x58 p.source (myLogical u) (packetLine p) (memOf p).core p.tag (memOf p).slotGen false false []
      (modCounts (packetLine p) (fun c => { c with retries := satAdd 64 c.retries 1 }) u) := by
  rw [homeRequest_of_homed homed on, working]
  exact if_pos full

theorem dirStable_of_state {d : Dir} (state : d.state = .inv ∨ d.state = .shared ∨ d.state = .em) : dirStable d = true := decide_eq_true state

theorem dirStart_gets_of_inv (state : (dirOf u line).state = .inv) : dirStart line (.gets p) u =
    dirDone .em 0 (senderCode p) line (answerCoh 0x51 line p (modCounts line (fun c => { c with gets := satAdd 64 c.gets 1 }) u)) := by
  rw [dirStart]
  rw [state]

theorem dirStart_gets_of_shared (state : (dirOf u line).state = .shared) : dirStart line (.gets p) u =
    dirDone .shared ((dirOf u line).sharers ||| 2 ^ settIndex p.source) 0 line
      (answerCoh 0x50 line p (modCounts line (fun c => { c with gets := satAdd 64 c.gets 1 }) u)) := by
  rw [dirStart]
  rw [state]

theorem dirStart_gets_of_owned (state : (dirOf u line).state = .em) : dirStart line (.gets p) u =
    snoopOwner line false (.gets p) false (modCounts line (fun c => { c with gets := satAdd 64 c.gets 1 }) u) := by
  rw [dirStart]
  rw [state]

theorem dirStart_getm_of_inv {up : Bool} (state : (dirOf u line).state = .inv) : dirStart line (.getm p up) u =
    grantM line p false (modCounts line (fun c => { c with getm := satAdd 64 c.getm 1 }) u) := by
  rw [dirStart]
  dsimp only
  rw [state]

/-! ### Evictions and answers -/

theorem homePut_of_owner {dirty : Bool} (mine : (dirOf u (packetLine p)).owner = senderCode p) (state : (dirOf u (packetLine p)).state = .em) :
    homePut dirty p u = homeNext (packetLine p) (wbAck p (dirDone .inv 0 0 (packetLine p)
      (if dirty then ownerData (packetLine p) (memOf p) u else u))) := by
  rw [homePut]
  exact if_pos (by simp [mine, state])

theorem homePut_of_other {dirty : Bool} (other : (dirOf u (packetLine p)).owner ≠ senderCode p) :
    homePut dirty p u = wbAck p (strayNote (packetLine p) u) := by
  rw [homePut]
  exact (if_neg (by simp [other])).trans (if_neg (by simp [other]))

theorem exec_snpData_of_snooped (state : (dirOf (takeIngress p s) (packetLine p)).state = .bSnp)
    (owner : (dirOf (takeIngress p s) (packetLine p)).owner = senderCode p) :
    exec (.snpData p) s = .next (homeNext (packetLine p) (dirAnswered (packetLine p)
      (if (memOf p).err || (memOf p).poison then ownerData (packetLine p) (memOf p) (takeIngress p s) else takeIngress p s))) := by
  change execSnpData p s = _
  rw [execSnpData]
  exact if_pos ⟨state, owner⟩

theorem exec_invAck_of_last (state : (dirOf (takeIngress p s) (packetLine p)).state = .bInv)
    (last : (dirOf (takeIngress p s) (packetLine p)).acks = [p.source]) :
    exec (.invAck p) s = .next (homeNext (packetLine p) (dirAcked (packetLine p)
      (modDir (packetLine p) (fun d => { d with acks := [] }) (takeIngress p s)))) := by
  have none : (dirOf (takeIngress p s) (packetLine p)).acks.erase p.source = [] := by rw [last]; simp
  change execInvAck p s = _
  rw [execInvAck]
  refine (if_pos ⟨state, by rw [last]; simp⟩).trans ?_
  dsimp only
  rw [none]
  rfl

theorem exec_invAck_of_other (state : (dirOf (takeIngress p s) (packetLine p)).state ≠ .bInv) : exec (.invAck p) s = .next (takeIngress p s) := by
  change execInvAck p s = _
  rw [execInvAck]
  exact if_neg (fun both => state both.1)

theorem exec_dataInFlight_of_put {q : Packet} (put : (dirOf (takeIngress p s) (packetLine p)).put = some q) :
    exec (.dataInFlight p) s = .next (wbAck q (modDir (packetLine p) (fun d => { d with put := none }) (takeIngress p s))) := by
  change execDataInFlight p s = _
  rw [execDataInFlight]
  rw [put]

theorem exec_dataInFlight_of_snooped (unput : (dirOf (takeIngress p s) (packetLine p)).put = none)
    (state : (dirOf (takeIngress p s) (packetLine p)).state = .bSnp)
    (owner : (dirOf (takeIngress p s) (packetLine p)).owner = senderCode p) :
    exec (.dataInFlight p) s = .next (modDir (packetLine p) (fun d => { d with state := .bXwb }) (takeIngress p s)) := by
  change execDataInFlight p s = _
  rw [execDataInFlight]
  rw [unput]
  exact if_pos ⟨state, owner⟩

theorem exec_homeWaitTimeout_of_stable (state : (dirOf s line).state = .inv ∨ (dirOf s line).state = .shared ∨ (dirOf s line).state = .em) :
    exec (.homeWaitTimeout line) s = .next s := by
  have idle : (dirOf s line).state ≠ .bInv ∧ ¬((dirOf s line).state = .bSnp ∨ (dirOf s line).state = .bXwb) := by
    rcases state with state | state | state <;> rw [state] <;> decide
  change execHomeWaitTimeout line s = _
  rw [execHomeWaitTimeout]
  exact (if_neg idle.1).trans (if_neg idle.2)

/-- The event of each device whose INV_ACK never came. -/
def ackTimeouts (line : Nat) (s : State) : State :=
  forEach (dirOf s line).acks
    (fun dev t => logEvent 0x9040 srcDevice [(8, (mkHall (myLogical s) 2 (line * 64)).toNat), (2, dev), (2, 0x55)] t) s

theorem sameButLog_ackTimeouts : SameButLog s (ackTimeouts line s) :=
  forEach_induct (SameButLog s) _ (fun _ _ same => same.trans (logEvent_same ..)) _ _ (SameButLog.refl s)

theorem exec_homeWaitTimeout_of_acks (state : (dirOf s line).state = .bInv) : exec (.homeWaitTimeout line) s =
    .next (homeNext line (dirAcked line (modCounts line (fun c => { c with snoopTimeout := true }) (ackTimeouts line s)))) := by
  change execHomeWaitTimeout line s = _
  rw [execHomeWaitTimeout]
  exact if_pos state

end

/-- Settles O42: each request by its line's state, each notice and answer by the line's owner and transaction. -/
theorem homeDirectory : Obligations.HomeDirectory := by
  unfold Obligations.HomeDirectory
  refine ⟨fun s p => ?_, fun s p line => ?_⟩
  · intro u line d counted homed on
    have start : ∀ (req : HomeReq), (d.state = .inv ∨ d.state = .shared ∨ d.state = .em) → d.wait = [] → homeRequest req p u = dirStart line req u :=
      fun req state free => homeRequest_of_stable homed on (dirStable_of_state state) free
    exact ⟨fun stable free => ⟨congrArg Host.Outcome.next (homeRequest_of_stable homed on stable free),
        congrArg Host.Outcome.next (homeRequest_of_stable homed on stable free),
        congrArg Host.Outcome.next (homeRequest_of_stable homed on stable free)⟩,
      fun working room => congrArg Host.Outcome.next (homeRequest_of_room homed on working room),
      fun working full => congrArg Host.Outcome.next (homeRequest_of_full homed on working full),
      fun state free => congrArg Host.Outcome.next ((start _ (.inl state) free).trans (dirStart_gets_of_inv state)),
      fun state free => congrArg Host.Outcome.next ((start _ (.inr (.inl state)) free).trans (dirStart_gets_of_shared state)),
      fun state free => congrArg Host.Outcome.next ((start _ (.inr (.inr state)) free).trans (dirStart_gets_of_owned state)),
      fun state free => congrArg Host.Outcome.next ((start _ (.inl state) free).trans (dirStart_getm_of_inv state))⟩
  · refine ⟨fun mine state => ⟨congrArg Host.Outcome.next (homePut_of_owner mine state), congrArg Host.Outcome.next (homePut_of_owner mine state)⟩,
      fun other => ⟨congrArg Host.Outcome.next (homePut_of_other other), congrArg Host.Outcome.next (homePut_of_other other)⟩,
      fun state owner clean whole => ?_, fun state owner dirty => ?_, fun state last => exec_invAck_of_last state last,
      fun state => exec_invAck_of_other state, fun q put => exec_dataInFlight_of_put put,
      fun unput state owner => exec_dataInFlight_of_snooped unput state owner, fun state => exec_homeWaitTimeout_of_stable state,
      fun state => ⟨ackTimeouts line s, ?_, exec_homeWaitTimeout_of_acks state⟩⟩
    · rw [exec_snpData_of_snooped state owner, clean, whole]
      rfl
    · rw [exec_snpData_of_snooped state owner, dirty]
      rfl
    · obtain ⟨log, msix, out, same⟩ := sameButLog_ackTimeouts (s := s) (line := line)
      rw [same]
      rfl

section

variable {s : State} {p : Packet}

theorem exec_snpShare_of_owned (owned : (l1Of s (memOf p).core (grantKey s p)).state = .excl ∨
      (l1Of s (memOf p).core (grantKey s p)).state = .modif) :
    exec (.snpShare p) s = .next (modL1 (memOf p).core (grantKey s p) (fun l => { l with state := .shared })
      (snoopData (memOf p).core (grantKey s p) (l1Of s (memOf p).core (grantKey s p)) (takeIngress p s))) := by
  change Host.Outcome.next (snoop false p s) = _
  rw [snoop]
  dsimp only
  rcases owned with owned | owned <;> rw [owned] <;> rfl

theorem exec_snpInv_of_owned (owned : (l1Of s (memOf p).core (grantKey s p)).state = .excl ∨
      (l1Of s (memOf p).core (grantKey s p)).state = .modif) :
    exec (.snpInv p) s = .next (setL1 (memOf p).core (grantKey s p) {} (dropReservation (memOf p).core (grantKey s p)
      (snoopData (memOf p).core (grantKey s p) (l1Of s (memOf p).core (grantKey s p)) (takeIngress p s)))) := by
  change Host.Outcome.next (snoop true p s) = _
  rw [snoop]
  dsimp only
  rcases owned with owned | owned <;> rw [owned] <;> rfl

theorem exec_snpShare_of_inv (absent : (l1Of s (memOf p).core (grantKey s p)).state = .inv) :
    exec (.snpShare p) s = .next (sendCoh 0x56 (keyHome (grantKey s p)) (keyHome (grantKey s p)) (keyLine (grantKey s p)) (memOf p).core
      0 0 false false [] (takeIngress p s)) := by
  change Host.Outcome.next (snoop false p s) = _
  rw [snoop]
  dsimp only
  rw [absent]
  exact congrArg Host.Outcome.next (if_neg (by simp [l1Leaving, absent]))

theorem exec_snpInv_of_coming (coming : (l1Of s (memOf p).core (grantKey s p)).state = .isD ∨
      (l1Of s (memOf p).core (grantKey s p)).state = .imD ∨ (l1Of s (memOf p).core (grantKey s p)).state = .smG) :
    exec (.snpInv p) s = .next s := by
  change Host.Outcome.next (snoop true p s) = _
  rw [snoop]
  dsimp only
  rcases coming with coming | coming | coming <;> rw [coming]

theorem takeGrant_of_fresh {st : L1State} (fresh : grantFresh (takeIngress p s) p = true)
    (kept : (l1Of s (memOf p).core (grantKey s p)).state ≠ .isDI) :
    takeGrant st p s = foxResume (memOf p).core none (modL1 (memOf p).core (grantKey s p) (granted st p)
      (if st = .modif then l1InvalOthers (memOf p).core (grantKey s p) (l1CloseSlot (takeIngress p s) p (grantKey s p))
        else l1CloseSlot (takeIngress p s) p (grantKey s p))) := by
  rw [takeGrant]
  exact (if_neg (by rw [fresh]; decide)).trans (if_neg kept)

theorem takeGrant_of_late {st : L1State} (late : grantFresh (takeIngress p s) p = false) : takeGrant st p s = lateGrant p (takeIngress p s) := by
  rw [takeGrant]
  exact if_pos (by rw [late]; rfl)

theorem exec_wbAck_of_late (late : grantFresh (takeIngress p s) p = false)
    (leaving : l1Leaving (l1Of s (memOf p).core (grantKey s p)) = true) :
    exec (.wbAck p) s = .next (setL1 (memOf p).core (grantKey s p) {} (takeIngress p s)) := by
  change execWbAck p s = _
  rw [execWbAck]
  rw [late]
  exact congrArg Host.Outcome.next (if_pos leaving)

theorem exec_wbAck_of_fresh (fresh : grantFresh (takeIngress p s) p = true)
    (leaving : l1Leaving (l1Of (l1CloseSlot (takeIngress p s) p (grantKey s p)) (memOf p).core (grantKey s p)) = true) :
    exec (.wbAck p) s = .next (setL1 (memOf p).core (grantKey s p) {} (l1CloseSlot (takeIngress p s) p (grantKey s p))) := by
  change execWbAck p s = _
  rw [execWbAck]
  rw [fresh]
  exact congrArg Host.Outcome.next (if_pos leaving)

end

/-- Settles O43: a snoop by the state of the line it names, a grant by whether it is fresh. -/
theorem l1Coherence : Obligations.L1Coherence := by
  unfold Obligations.L1Coherence
  intro s p u e k l fresh
  exact ⟨fun owned => ⟨exec_snpShare_of_owned owned, exec_snpInv_of_owned owned⟩, fun absent => exec_snpShare_of_inv absent,
    fun coming => exec_snpInv_of_coming coming, rfl, rfl, rfl, rfl, rfl, fun new kept => takeGrant_of_fresh new kept,
    fun new kept => takeGrant_of_fresh new kept, fun new kept => takeGrant_of_fresh new kept, fun new kept => takeGrant_of_fresh new kept,
    fun st late => takeGrant_of_late late, fun late leaving => exec_wbAck_of_late late leaving,
    fun new leaving => exec_wbAck_of_fresh new leaving⟩

end Sys2Proof.Machine

/-! PROOFS. Collectives, and the order of their sums (O44). -/

namespace Sys2Proof.Machine

open Sys2Proof

section

variable {s : State} {e k : Nat} {w : Word64} {p : Packet} {b : CollBody} {c : Coll} {ecc work : Ecc}

/-- The pack unit's program after a COLL: the next instruction and the next sequence number. -/
def collIssued (e : Nat) (w : Word64) (s : State) : State :=
  modPack e (fun k => { k with next := (k.next + 1) % 2 ^ 32, last := (resolveColl s e w).1.seq }) (nextPc e s)

theorem exec_coll_of_busy (issued : issueOf s e [0x80] = some w) (busy : (packOf s e).coll.isSome = true) :
    exec (.coll ⟨e, ecc⟩) s = .next s := by
  change execColl ⟨e, ecc⟩ s = _
  rw [execColl, onIssue_some _ issued]
  exact congrArg Host.Outcome.next (if_pos busy)

theorem exec_coll_of_free (issued : issueOf s e [0x80] = some w) (free : (packOf s e).coll = none) :
    exec (.coll ⟨e, ecc⟩) s =
      let r := resolveColl s e w
      .next (if r.2 < r.1.need then engineError e 0x6611 (tallyError r.1.tally 0x6611 e
          (modPack e (fun k => { k with workShort := true }) (logEvent 0x6611 e [(2, e), (8, r.1.need)] (collIssued e w s))))
        else startColl e r.1 ecc (modPack e (fun k => { k with coll := some r.1 }) (issueOpen e (collIssued e w s)))) := by
  change execColl ⟨e, ecc⟩ s = _
  rw [execColl, onIssue_some _ issued]
  exact congrArg Host.Outcome.next (if_neg (by rw [free]; decide))

theorem exec_collData_of_single (body : p.body = .coll b) (single : p.mcast = false) :
    exec (.collData p) s = .next (collServe p b (takeIngress p s)) := by
  change execCollData p s = _
  rw [execCollData]
  dsimp only
  rw [body, single]
  exact congrArg Host.Outcome.next (if_pos (by simp))

theorem collServe_of_coll (coll : (packOf s (engId 4 b.die 0)).coll = some c) : collServe p b s =
    let e := engId 4 b.die 0
    if b.seq < c.seq then collMismatch e p b s
    else if c.seq < b.seq then collAnswer 0x58 p 0 s
    else if b.digest ≠ c.digest then collMismatch e p b s
    else if b.stage < 3 ∧ c.stage < b.stage then collAnswer 0x58 p 0 s
    else collAnswer 0x11 p 0 (collTake e c b s) := by
  rw [collServe]
  dsimp only
  rw [coll]

theorem collServe_of_mine (coll : (packOf s (engId 4 b.die 0)).coll = some c) (seq : b.seq = c.seq) (digest : b.digest = c.digest)
    (reached : b.stage ≤ c.stage ∨ 3 ≤ b.stage) :
    collServe p b s = collAnswer 0x11 p 0 (collTake (engId 4 b.die 0) c b s) := by
  rw [collServe_of_coll coll]
  dsimp only
  rw [if_neg (by omega), if_neg (by omega), if_neg (not_not.2 digest), if_neg (by omega)]

theorem collServe_of_ahead (coll : (packOf s (engId 4 b.die 0)).coll = some c) (ahead : c.seq < b.seq) :
    collServe p b s = collAnswer 0x58 p 0 s := by
  rw [collServe_of_coll coll]
  dsimp only
  rw [if_neg (by omega), if_pos ahead]

theorem collServe_of_mismatch (coll : (packOf s (engId 4 b.die 0)).coll = some c) (seq : b.seq = c.seq) (digest : b.digest ≠ c.digest) :
    collServe p b s = collMismatch (engId 4 b.die 0) p b s := by
  rw [collServe_of_coll coll]
  dsimp only
  rw [if_neg (by omega), if_neg (by omega), if_pos digest]

/-- Every operand of a chunk but the device's own is there, or is known to be missing. -/
def operandsPresent (s : State) (c : Coll) (k : Nat) : Prop :=
  ∀ j, j < c.m c.stage → j ≠ c.idx c.stage (myLogical s) →
    let lo := (c.span (myLogical s) c.stage).1 + 2048 * k
    c.present c.stage j lo (min 2048 ((c.span (myLogical s) c.stage).1 + (c.span (myLogical s) c.stage).2 - lo)) = true

theorem exec_collChunkSum_of_ready (coll : (packOf s e).coll = some c) (sums : c.kind < 2) (stage : c.stage < 3)
    (inside : k < c.chunks (myLogical s)) (fresh : c.summed.contains k = false) (present : operandsPresent s c k) :
    exec (.collChunkSum e k (ecc, work) .held) s = .next (afterSums e (sumChunk e c k ecc work s)) := by
  change execCollChunkSum e k (ecc, work) .held s = _
  rw [execCollChunkSum, coll]
  refine (if_neg ?_).trans (if_pos rfl)
  rw [fresh, decide_eq_true sums, decide_eq_true stage, decide_eq_true inside]
  have all : ((List.range (c.m c.stage)).filter (fun j => j != c.idx c.stage (myLogical s))).all
      (fun j => c.present c.stage j ((c.span (myLogical s) c.stage).1 + 2048 * k) (min 2048 ((c.span (myLogical s) c.stage).1 +
        (c.span (myLogical s) c.stage).2 - ((c.span (myLogical s) c.stage).1 + 2048 * k)))) = true := by
    rw [List.all_eq_true]
    intro j listed
    rw [List.mem_filter, List.mem_range, bne_iff_ne] at listed
    exact present j listed.1 listed.2
  rw [all]
  decide

theorem exec_collChunkSum_of_done (coll : (packOf s e).coll = some c) (done : c.summed.contains k = true) :
    exec (.collChunkSum e k (ecc, work) .held) s = .next s := by
  change execCollChunkSum e k (ecc, work) .held s = _
  rw [execCollChunkSum, coll]
  exact if_pos (by rw [done]; simp)

theorem exec_collComplete_of_coll (coll : (packOf s e).coll = some c) : exec (.collComplete e) s =
    if c.complete (myLogical s) then .next (completeOp e c.issue (tallyAdd c.tally 1 e
      (modPack e (fun k => { k with coll := none, colls := satAdd 64 k.colls 1 }) s)))
    else .next s := by
  change execCollComplete e s = _
  rw [execCollComplete, coll]

end

/-! ### The order of a sum (R387) -/

theorem treeSum_single (f a : Nat) : treeSum f [a] = a := by
  cases f with
  | zero => rfl
  | succ f => rfl

theorem treeSum_pair (f a b : Nat) : treeSum (f + 1) [a, b] = add32 a b := treeSum_single f _

theorem length_treePairs : ∀ l : List Nat, (treePairs l).length = (l.length + 1) / 2
  | [] => rfl
  | [_] => by simp [treePairs]
  | a :: b :: l => by
    rw [treePairs, List.length_cons, length_treePairs l, List.length_cons, List.length_cons]
    omega

theorem getD_treePairs : ∀ (l : List Nat) (i : Nat), 2 * i + 1 < l.length →
    (treePairs l).getD i 0 = add32 (l.getD (2 * i) 0) (l.getD (2 * i + 1) 0)
  | [], i, inside => absurd inside (by simp)
  | [_], i, inside => absurd inside (by simp)
  | a :: b :: l, 0, _ => rfl
  | a :: b :: l, i + 1, inside => by
    rw [treePairs, List.getD_cons_succ, getD_treePairs l i (by rw [List.length_cons, List.length_cons] at inside; omega)]
    rfl

/-- Settles O44: each command by the collective in progress, and the sum by induction on its operands. -/
theorem collectives : Obligations.Collectives := by
  unfold Obligations.Collectives
  refine ⟨fun s e k w p b c ecc work => ?_, fun a b c d l f => ⟨treeSum_single f a, treeSum_pair f a b, treeSum_pair f _ c, treeSum_pair f _ _,
    length_treePairs l, getD_treePairs l⟩⟩
  refine ⟨fun issued busy => exec_coll_of_busy issued busy, fun issued free enough => ?_, fun issued free short => ?_,
    fun body single => exec_collData_of_single body single,
    fun coll => ⟨fun seq digest reached => collServe_of_mine coll seq digest reached, fun ahead => collServe_of_ahead coll ahead,
      fun seq digest => collServe_of_mismatch coll seq digest⟩,
    fun coll => ⟨fun sums stage inside fresh present => exec_collChunkSum_of_ready coll sums stage inside fresh present,
      fun done => exec_collChunkSum_of_done coll done, fun whole => ?_, fun part => ?_⟩⟩
  · rw [exec_coll_of_free issued free]
    exact congrArg Host.Outcome.next (if_neg (Nat.not_lt.2 enough))
  · rw [exec_coll_of_free issued free]
    exact congrArg Host.Outcome.next (if_pos short)
  · rw [exec_collComplete_of_coll coll]
    exact if_pos whole
  · rw [exec_collComplete_of_coll coll]
    exact if_neg (part ▸ Bool.false_ne_true)

end Sys2Proof.Machine

/-! PROOFS. Arrivals, mirror, seal and readies of an epoch boundary (O47). -/

namespace Sys2Proof.Machine

open Sys2Proof

section

variable {s u v : State} {p : Packet} {c : Nat} {ts : List (Nat × HallTime)}

/-! ### Gathering -/

theorem gather_of_some_missing {old new : List Nat} {up : Msg} {done : State → State} (missing : allIn (gatherFor v).1 new = false) :
    gather old new up done v = v := by
  rw [gather]
  exact if_neg (by rw [missing]; simp)

theorem gather_of_last {old new : List Nat} {up : Msg} {done : State → State} (all : allIn (gatherFor v).1 new = true)
    (first : allIn (gatherFor v).1 old = false) (top : (gatherFor v).2 = none) : gather old new up done v = done v := by
  rw [gather]
  refine (if_pos (by rw [all, first]; rfl)).trans ?_
  rw [top]

theorem gather_of_last_up {old new : List Nat} {up : Msg} {done : State → State} {pos : Nat} (all : allIn (gatherFor v).1 new = true)
    (first : allIn (gatherFor v).1 old = false) (top : (gatherFor v).2 = some pos) : gather old new up done v = sendMsgPos up pos v := by
  rw [gather]
  refine (if_pos (by rw [all, first]; rfl)).trans ?_
  rw [top]

/-! ### Arrivals -/

theorem exec_arrive_of_later (msg : msgOf p = some (.arrive c ts)) (later : nextCommit s < c) : exec (.arrive p) s = .next s := by
  change execArrive p s = _
  rw [execArrive, msg]
  exact if_pos later

theorem exec_arrive_of_other (msg : msgOf p = some (.arrive c ts)) (due : c ≤ nextCommit s)
    (other : c ≠ nextCommit (takeIngress p s) ∨ ours p (takeIngress p s) = false) : exec (.arrive p) s = .next (takeIngress p s) := by
  change execArrive p s = _
  rw [execArrive, msg]
  exact (if_neg (Nat.not_lt.2 due)).trans (if_pos other)

/-- The arrivals known with those of an ARRIVE. -/
def arrivedWith (ts : List (Nat × HallTime)) (s : State) : State :=
  { s with epoch := { s.epoch with arrivals := mergeTimes s.epoch.arrivals ts } }

/-- A row's gatherer notes how its row lags, once its row has arrived. -/
def lagNoted (old new : List Nat) (s : State) : State :=
  if allIn (gatherFor s).1 new && !allIn (gatherFor s).1 old && (gatherFor s).2.isSome &&
    decide (rowGatherer s (posRow s.fab.position) = some s.fab.position) then lagRow true (posRow s.fab.position) s else s

theorem exec_arrive_of_next (msg : msgOf p = some (.arrive c ts)) (due : c ≤ nextCommit s) (next : c = nextCommit (takeIngress p s))
    (mine : ours p (takeIngress p s) = true) : exec (.arrive p) s =
      let u := takeIngress p s
      let new := mergeTimes u.epoch.arrivals ts
      let v := arrivedWith ts u
      .next (gather (u.epoch.arrivals.map (·.1)) (new.map (·.1)) (.arrive c (new.filter (fun x => (gatherFor v).1.contains x.1))) (arrivalsDone c)
        (lagNoted (u.epoch.arrivals.map (·.1)) (new.map (·.1)) v)) := by
  change execArrive p s = _
  rw [execArrive, msg]
  exact (if_neg (Nat.not_lt.2 due)).trans (if_neg (not_or.2 ⟨not_not.2 next, by rw [mine]; decide⟩))

theorem lagNoted_of_some_missing {old new : List Nat} (missing : allIn (gatherFor v).1 new = false) : lagNoted old new v = v := by
  rw [lagNoted]
  exact if_neg (by rw [missing]; simp)

theorem lagNoted_of_top {old new : List Nat} (top : (gatherFor v).2 = none) : lagNoted old new v = v := by
  rw [lagNoted]
  exact if_neg (by rw [top]; simp)

theorem lagNoted_of_other {old new : List Nat} (other : rowGatherer v (posRow v.fab.position) ≠ some v.fab.position) : lagNoted old new v = v := by
  rw [lagNoted]
  exact if_neg (by rw [decide_eq_false other]; simp)

/-! ### The mirror -/

theorem exec_mirror_of_later (msg : msgOf p = some (.mirror c)) (later : nextCommit s < c) : exec (.mirror p) s = .next s := by
  change execMirror p s = _
  rw [execMirror, msg]
  exact if_pos later

theorem exec_mirror_of_arrived (msg : msgOf p = some (.mirror c)) (due : c ≤ nextCommit s)
    (member : epochMember (relayMsg p (takeIngress p s)) = true) (mine : ours p (relayMsg p (takeIngress p s)) = true)
    (next : c = nextCommit (relayMsg p (takeIngress p s))) (stage : (relayMsg p (takeIngress p s)).epoch.stage = .arrived) :
    exec (.mirror p) s = .next (startMirror c (relayMsg p (takeIngress p s))) := by
  change execMirror p s = _
  rw [execMirror, msg]
  exact (if_neg (Nat.not_lt.2 due)).trans (if_pos (by rw [member, mine, decide_eq_true next, decide_eq_true stage]; rfl))

theorem startMirror_of_none (none : (mySections s).shards = []) (running : s.run.st ≠ .hold) :
    startMirror c s = sendReady c { s with epoch := { s.epoch with stage := .mirroring } } := by
  rw [startMirror]
  dsimp only
  rw [if_neg running]
  exact if_pos (by rw [show (mySections { s with epoch := { s.epoch with stage := .mirroring } }).shards = [] from none]; rfl)

theorem exec_hoardData_of_mirror (kind : (memOf p).op = 0) : exec (.hoardData p) s = .next (takeHoardData p (takeIngress p s)) := by
  change execHoardData p s = _
  rw [execHoardData]
  exact if_pos kind

theorem takeHoardData_of_none (none : hoardOf u p.phys = none) : takeHoardData p u = refuseRemote p 0x9003 true u := by
  rw [takeHoardData]
  dsimp only
  rw [none]

theorem takeHoardData_of_other {h : Nat × Nat} (hoard : hoardOf u p.phys = some h) (other : fromPartner p u = false) :
    takeHoardData p u = refuseRemote p 0x9003 true u := by
  rw [takeHoardData]
  dsimp only
  rw [hoard]
  exact if_neg (by rw [other]; simp)

theorem takeHoardData_of_partner {h : Nat × Nat} (hoard : hoardOf u p.phys = some h) (partner : fromPartner p u = true)
    (fits : (hallAddr (memOf p).addr).off + (memOf p).data.length ≤ h.2)
    (half : hoardHalfOk p ((hallAddr (memOf p).addr).off / max 1 (h.2 / 2)) u = true) :
    takeHoardData p u = respondAck p 0 false false (sealCopy p (h.1 + (hallAddr (memOf p).addr).off / max 1 (h.2 / 2) * (h.2 / 2))
      (tallyAdd 65284 (memOf p).data.length srcDevice (hoardWrite h.1 p u))) := by
  rw [takeHoardData]
  dsimp only
  rw [hoard]
  exact if_pos (by rw [partner, decide_eq_true fits, half]; rfl)

theorem exec_hoardData_of_awaited (kind : (memOf p).op ≠ 0) (awaits : awaitsCopy (takeIngress p s) = true) :
    exec (.hoardData p) s = .next (takeCopyData p (takeIngress p s)) := by
  change execHoardData p s = _
  rw [execHoardData]
  exact (if_neg kind).trans (if_pos awaits)

theorem exec_hoardData_of_unasked (kind : (memOf p).op ≠ 0) (unasked : awaitsCopy (takeIngress p s) = false) :
    exec (.hoardData p) s = .next (refuseRemote p 0x9003 true (takeIngress p s)) := by
  change execHoardData p s = _
  rw [execHoardData]
  exact (if_neg kind).trans (if_neg (unasked ▸ Bool.false_ne_true))

/-! ### Seal and readies -/

theorem exec_sealed_of_msg {n : Nat} (msg : msgOf p = some (.sealed c n)) : exec (.sealed p) s =
    let u := takeIngress p s
    if u.epoch.stage = .mirroring ∧ c = nextCommit u then
      .next (sendReady c { u with epoch := { u.epoch with lost := false, xfers := u.epoch.xfers.filter (fun x => decide (x.kind ≠ .mirror)) } })
    else .next u := by
  change execSealed p s = _
  rw [execSealed]
  dsimp only
  rw [msg]

/-- The readies known with those of a READY. -/
def readyWith (ds : List Nat) (s : State) : State :=
  { s with epoch := { s.epoch with readies := ds.foldl (fun acc d => insertNat d acc) s.epoch.readies } }

/-- What the coordinator does once every device is ready, and a START that waits for that commit. -/
def boundaryReady (c : Nat) (s : State) : State :=
  match (readiesDone c s).hub.starter with
  | some w => if (readiesDone c s).epoch.has && decide ((readiesDone c s).epoch.commit = c)
      then sendStart w (readiesDone c s).hub.startDelay (readiesDone c s) else readiesDone c s
  | none => readiesDone c s

theorem exec_ready_of_later {ds : List Nat} (msg : msgOf p = some (.ready c ds)) (later : nextCommit s < c) : exec (.ready p) s = .next s := by
  change execReady p s = _
  rw [execReady, msg]
  exact if_pos later

theorem exec_ready_of_next {ds : List Nat} (msg : msgOf p = some (.ready c ds)) (due : c ≤ nextCommit s) (next : c = nextCommit (takeIngress p s))
    (mine : ours p (takeIngress p s) = true) : exec (.ready p) s =
      let u := takeIngress p s
      let new := ds.foldl (fun acc d => insertNat d acc) u.epoch.readies
      let v := readyWith ds u
      .next (gather u.epoch.readies new (.ready c (new.filter (gatherFor v).1.contains)) (boundaryReady c) v) := by
  change execReady p s = _
  rw [execReady, msg]
  exact (if_neg (Nat.not_lt.2 due)).trans (if_neg (not_or.2 ⟨not_not.2 next, by rw [mine]; decide⟩))

end

/-- Settles O47: a report is gathered once its commit is due, mirror data goes where its partner's half is. -/
theorem epochMirrorAndArrivals : Obligations.EpochMirrorAndArrivals := by
  unfold Obligations.EpochMirrorAndArrivals
  refine ⟨fun s p c ts msg => ⟨fun later => exec_arrive_of_later msg later, fun due other => exec_arrive_of_other msg due other,
    fun due next mine => ⟨fun missing => ?_, fun all first => ⟨fun top => ?_, fun pos top other => ?_⟩⟩⟩, fun s p c => ?_⟩
  · rw [exec_arrive_of_next msg due next mine]
    dsimp only
    rw [lagNoted_of_some_missing (v := arrivedWith ts (takeIngress p s)) missing]
    exact congrArg Host.Outcome.next (gather_of_some_missing missing)
  · rw [exec_arrive_of_next msg due next mine]
    dsimp only
    rw [lagNoted_of_top (v := arrivedWith ts (takeIngress p s)) top]
    exact congrArg Host.Outcome.next (gather_of_last all first top)
  · rw [exec_arrive_of_next msg due next mine]
    dsimp only
    rw [lagNoted_of_other (v := arrivedWith ts (takeIngress p s)) other]
    exact congrArg Host.Outcome.next (gather_of_last_up all first top)
  · refine ⟨fun msg => ⟨fun later => exec_mirror_of_later msg later,
        fun due member mine next stage => exec_mirror_of_arrived msg due member mine next stage⟩,
      fun t none running => startMirror_of_none none running,
      fun kind none => (exec_hoardData_of_mirror kind).trans (congrArg Host.Outcome.next (takeHoardData_of_none none)),
      fun h kind hoard other => (exec_hoardData_of_mirror kind).trans (congrArg Host.Outcome.next (takeHoardData_of_other hoard other)),
      fun h => fun kind hoard partner fits half =>
        (exec_hoardData_of_mirror kind).trans (congrArg Host.Outcome.next (takeHoardData_of_partner hoard partner fits half)),
      fun kind awaits => exec_hoardData_of_awaited kind awaits, fun kind unasked => exec_hoardData_of_unasked kind unasked,
      fun n msg => ⟨fun stage next => (exec_sealed_of_msg msg).trans (if_pos ⟨stage, next⟩),
        fun stage => (exec_sealed_of_msg msg).trans (if_neg (fun both => stage both.1))⟩,
      fun ds msg => ⟨fun later => exec_ready_of_later msg later, fun due next mine missing => ?_,
        fun due next mine all first pos top => ?_⟩⟩
    · exact (exec_ready_of_next msg due next mine).trans (congrArg Host.Outcome.next (gather_of_some_missing missing))
    · exact (exec_ready_of_next msg due next mine).trans (congrArg Host.Outcome.next (gather_of_last_up all first top))

end Sys2Proof.Machine

/-! PROOFS. The commit and the keep of an epoch boundary (O48); faults, stops and liveness (O49). -/

namespace Sys2Proof.Machine

open Sys2Proof

section

variable {s v : State} {p : Packet} {c : Nat} {t : HallTime} {sw : List Swap}

/-! ### The commit -/

theorem exec_commit_of_logical (msg : msgOf p = some (.commit c t sw)) (logical : p.phys = false) :
    exec (.commit p) s = .next (deputyCommit p c t (takeIngress p s)) := by
  change execCommit p s = _
  rw [execCommit, msg]
  exact if_neg (logical ▸ Bool.false_ne_true)

theorem deputyCommit_of_next (member : epochMember s = true) (next : c = nextCommit s) :
    deputyCommit p c t s = sendMsg (.commitAck c) p.source (setCommit c t s) := by
  rw [deputyCommit]
  exact if_pos (by rw [member, decide_eq_true next]; rfl)

theorem deputyCommit_of_other (other : c ≠ nextCommit s) : deputyCommit p c t s = s := by
  rw [deputyCommit]
  exact if_neg (by rw [decide_eq_false other]; simp)

theorem exec_commit_of_broadcast (msg : msgOf p = some (.commit c t sw)) (broadcast : p.phys = true)
    (mine : ours p (relayMsg p (takeIngress p s)) = true) : exec (.commit p) s = .next (memberCommit c t sw (relayMsg p (takeIngress p s))) := by
  change execCommit p s = _
  rw [execCommit, msg]
  exact (if_pos broadcast).trans (congrArg Host.Outcome.next (if_pos mine))

theorem epoch_setCommit : (setCommit c t v).epoch =
    { v.epoch with has := true, commit := c, passes := v.run.passes, next := v.run.phase, began := hallNs t, keepValid := false } := by
  rw [setCommit]
  exact logEvery_epoch ..

theorem run_setCommit : (setCommit c t v).run = v.run := by
  rw [setCommit]
  exact logEvery_run ..

theorem memberCommit_of_ready (member : epochMember v = true) (next : c = nextCommit v) (ready : v.epoch.stage = .ready) :
    memberCommit c t sw v =
      let w := setCommit c t v
      { w with epoch := { w.epoch with stage := .keep, keepValid := false, swaps := sw, arrivals := [], readies := [], restoreds := [] } } := by
  rw [memberCommit, if_pos member]
  dsimp only
  rw [if_pos next]
  exact if_neg (not_or.2 ⟨by rw [epoch_setCommit]; simp, by rw [epoch_setCommit]; simpa using ready⟩)

theorem exec_commitAck_of_msg (msg : msgOf p = some (.commitAck c)) (sent : (takeIngress p s).epoch.commitSent = true)
    (next : c = nextCommit (takeIngress p s)) : exec (.commitAck p) s =
      .next (match (commitEffective c (takeIngress p s)).hub.starter with
        | some w => sendStart w (commitEffective c (takeIngress p s)).hub.startDelay (commitEffective c (takeIngress p s))
        | none => commitEffective c (takeIngress p s)) := by
  change execCommitAck p s = _
  rw [execCommitAck]
  dsimp only
  rw [msg]
  exact if_pos ⟨sent, next⟩

theorem exec_commitAck_of_none (msg : msgOf p = some (.commitAck c)) (sent : (takeIngress p s).epoch.commitSent = true)
    (next : c = nextCommit (takeIngress p s)) (none : (commitEffective c (takeIngress p s)).hub.starter = none) :
    exec (.commitAck p) s = .next (commitEffective c (takeIngress p s)) := by
  rw [exec_commitAck_of_msg msg sent next, none]

theorem exec_commitAck_of_starter {w : Waiter} (msg : msgOf p = some (.commitAck c)) (sent : (takeIngress p s).epoch.commitSent = true)
    (next : c = nextCommit (takeIngress p s)) (starter : (commitEffective c (takeIngress p s)).hub.starter = some w) :
    exec (.commitAck p) s =
      .next (sendStart w (commitEffective c (takeIngress p s)).hub.startDelay (commitEffective c (takeIngress p s))) := by
  rw [exec_commitAck_of_msg msg sent next, starter]

theorem exec_commitAck_of_unsent (msg : msgOf p = some (.commitAck c)) (unsent : (takeIngress p s).epoch.commitSent = false) :
    exec (.commitAck p) s = .next (takeIngress p s) := by
  change execCommitAck p s = _
  rw [execCommitAck]
  dsimp only
  rw [msg]
  exact if_neg (fun both => Bool.false_ne_true (unsent.symm.trans both.1))

/-! ### The keep and the swap's copy -/

/-- The keep written, and the boundary's length noted. -/
def boundaryKept (s : State) : State :=
  { writeKeep s with epoch := { (writeKeep s).epoch with
    boundaryUs := min ((durationNs (writeKeep s) (writeKeep s).epoch.boundaryAt (nowNs (writeKeep s))).toNat / 1000) (2 ^ 32 - 1) } }

theorem exec_keepWriteDone_of_other (other : s.epoch.stage ≠ .keep) : exec .keepWriteDone s = .next s := by
  change execKeepWriteDone s = _
  rw [execKeepWriteDone]
  exact if_pos (.inl other)

theorem exec_keepWriteDone_of_keep (stage : s.epoch.stage = .keep) (unkept : s.epoch.keepValid = false) : exec .keepWriteDone s =
    .next (if (boundaryKept s).epoch.swaps.isEmpty then finishBoundary (boundaryKept s) else sendSwap (boundaryKept s)) := by
  change execKeepWriteDone s = _
  rw [execKeepWriteDone]
  exact if_neg (not_or.2 ⟨not_not.2 stage, unkept ▸ Bool.false_ne_true⟩)

/-- The spare as it takes up a straggler's identity. -/
def asLogical (d : Nat) (s : State) : State := placePlan { s with run := { s.run with me := some d } }

theorem exec_swapCopyDone_of_whole {w : Swap} (swap : s.epoch.swaps.find? (fun w => w.spare == s.fab.position) = some w)
    (spare : s.run.me = none) (began : s.epoch.got ≠ 0) (whole : s.epoch.got = copyField s.epoch.incoming 0 0x18 8) :
    exec .swapCopyDone s =
      let v := asLogical w.logical s
      let n := copyField s.epoch.incoming 0 0x08 8
      if !headerOk s.epoch.incoming 0 n v || !v.epoch.incomingBad.isEmpty then .next { v with run := { v.run with me := none } }
      else .next (
        let x := applyShards s.epoch.incoming [] 0 (applyRecord s.epoch.incoming 0
          (putRange s.epoch.incoming [] 0 .hbm (keepBase v) (copySize v) v))
        let y := { x with epoch := { x.epoch with
          stage := .keep, has := true, commit := n, passes := x.run.passes, next := x.run.phase, keepValid := true, incoming := [], got := 0 } }
        sendMsgPos (.restored y.epoch.serial [w.logical]) (coordPos y) y) := by
  change execSwapCopyDone s = _
  rw [execSwapCopyDone, swap]
  exact if_neg (not_or.2 ⟨by rw [spare]; decide, not_or.2 ⟨began, not_not.2 whole⟩⟩)

end

/-- Settles O48: a commit by who sends it and by the member's stage, the keep and the copy by what they hold. -/
theorem epochCommitAndKeep : Obligations.EpochCommitAndKeep := by
  unfold Obligations.EpochCommitAndKeep
  refine ⟨fun s p c t sw => ⟨fun msg logical => ⟨fun member next => ?_, fun other => ?_⟩, fun msg broadcast mine member next ready => ?_,
      fun v => ?_, fun msg => ⟨fun sent next none => exec_commitAck_of_none msg sent next none,
        fun sent next w starter => exec_commitAck_of_starter msg sent next starter, fun unsent => exec_commitAck_of_unsent msg unsent⟩⟩,
    fun s => ⟨fun other => exec_keepWriteDone_of_other other, fun stage unkept none => ?_, fun stage unkept nonempty => ?_, rfl,
      fun w swap spare began whole => ?_⟩⟩
  · rw [exec_commit_of_logical msg logical, deputyCommit_of_next member next]
  · rw [exec_commit_of_logical msg logical, deputyCommit_of_other other]
  · rw [exec_commit_of_broadcast msg broadcast mine]
    exact congrArg Host.Outcome.next (memberCommit_of_ready member next ready)
  · rw [epoch_setCommit, run_setCommit]
    exact ⟨rfl, rfl, rfl, rfl, rfl⟩
  · exact (exec_keepWriteDone_of_keep stage unkept).trans (congrArg Host.Outcome.next (if_pos (List.isEmpty_iff.2 none)))
  · exact (exec_keepWriteDone_of_keep stage unkept).trans
      (congrArg Host.Outcome.next (if_neg (fun none => nonempty (List.isEmpty_iff.1 none))))
  · exact ⟨fun bad => (exec_swapCopyDone_of_whole swap spare began whole).trans (if_pos (Bool.or_eq_true_iff.2 (.inl (congrArg not bad)))),
      fun good clean => (exec_swapCopyDone_of_whole swap spare began whole).trans (if_neg (fun bad => by
        rcases Bool.or_eq_true_iff.1 bad with bad | bad
        · exact Bool.false_ne_true ((congrArg not good).symm.trans bad)
        · exact Bool.false_ne_true ((congrArg (fun l => !List.isEmpty l) clean).symm.trans bad)))⟩

section

variable {s u : State} {p : Packet} {d n : Nat}

/-! ### Faults and stops -/

theorem exec_fault_of_member {cause src : Nat} {self : Bool} (msg : msgOf p = some (.fault cause src self))
    (runs : planRuns (takeIngress p s) = true) (member : fromMember p (takeIngress p s) = true) :
    exec (.fault p) s =
      let u := takeIngress p s
      if cause = 0xA00A ∨ (epochRec u).isNone = true then .next (unrecoverable [p.source] u)
      else if self then .next (declareLost p.source 2 u)
      else .next (startRollback [] u) := by
  change execFault p s = _
  rw [execFault]
  dsimp only
  rw [msg]
  exact if_neg (by rw [runs, member]; decide)

theorem exec_stop_of_active {st : Nat} (msg : msgOf p = some (.stop st)) (mine : ours p (relayMsg p (takeIngress p s)) = true)
    (active : (relayMsg p (takeIngress p s)).run.st = .run ∨ (relayMsg p (takeIngress p s)).run.st = .hold ∨
      (relayMsg p (takeIngress p s)).run.st = .waiting) :
    exec (.stop p) s = .next (endPlan st (relayMsg p (takeIngress p s))) := by
  change execStop p s = _
  rw [execStop]
  rw [msg]
  exact if_pos ⟨mine, active⟩

theorem exec_stopReq_of_other {later : Bool} (msg : msgOf p = some (.stopReq later)) (other : isCoordinator (takeIngress p s) = false) :
    exec (.stopReq p) s = .next (takeIngress p s) := by
  change execStopReq p s = _
  rw [execStopReq]
  dsimp only
  rw [msg]
  exact if_pos (by rw [other]; simp)

theorem exec_stopReq_of_member {later : Bool} (msg : msgOf p = some (.stopReq later)) (member : fromMember p (takeIngress p s) = true)
    (coordinator : isCoordinator (takeIngress p s) = true) : exec (.stopReq p) s =
      let u := takeIngress p s
      if later && decide (u.run.st ≠ .waiting) then .next { u with run := { u.run with stopAtBoundary := true } }
      else .next (broadcastMsg (.stop 2) u) := by
  change execStopReq p s = _
  rw [execStopReq]
  dsimp only
  rw [msg]
  exact if_neg (by rw [member, coordinator]; decide)

/-! ### Liveness -/

theorem exec_suspect_of_fresh {pos : Nat} (msg : msgOf p = some (.suspect d)) (located : physOf (takeIngress p s) d = some pos)
    (runs : planRuns (takeIngress p s) = true) (member : fromMember p (takeIngress p s) = true)
    (fresh : (takeIngress p s).epoch.confirming.any (fun e => e.1 == d) = false) :
    exec (.suspect p) s =
      let u := takeIngress p s
      .next (sendProbe pos { u with epoch := { u.epoch with
        confirming := SMap.set 0 u.epoch.confirming d 1
        causes := SMap.set 0 u.epoch.causes d (if (if p.phys then some p.source else physOf u p.source) = probedBy u pos then 0 else 1) } }) := by
  change execSuspect p s = _
  rw [execSuspect]
  dsimp only
  rw [msg]
  dsimp only
  rw [located]
  exact if_neg (by rw [runs, member, fresh]; decide)

theorem exec_suspect_of_absent (msg : msgOf p = some (.suspect d)) (absent : physOf (takeIngress p s) d = none) :
    exec (.suspect p) s = .next (takeIngress p s) := by
  change execSuspect p s = _
  rw [execSuspect]
  dsimp only
  rw [msg]
  dsimp only
  rw [absent]

theorem exec_probe_of_msg (msg : msgOf p = some (.probe n)) : exec (.probe p) s =
    .next (if p.phys then sendMsgPos (.probeAck n) p.source (takeIngress p s) else sendMsg (.probeAck n) p.source (takeIngress p s)) := by
  change execProbe p s = _
  rw [execProbe]
  rw [msg]

theorem exec_probeAck_of_active (msg : msgOf p = some (.probeAck n)) (active : posActive (takeIngress p s) p.source = true) :
    exec (.probeAck p) s =
      let u := takeIngress p s
      .next { u with epoch := { u.epoch with
        awaiting := u.epoch.awaiting.filter (· ≠ p.source), missed := SMap.erase p.source u.epoch.missed
        confirming := SMap.erase (SMap.get {} (roster u) p.source).logical u.epoch.confirming } } := by
  change execProbeAck p s = _
  rw [execProbeAck]
  dsimp only
  rw [msg]
  dsimp only
  rw [if_pos active]

theorem exec_probeTick_of_runs (runs : spanRuns s = true) : exec .probeTick s =
    if s.epoch.confirming.isEmpty then .next (forEach (probeTargets s) probeOne
      { s with epoch := { s.epoch with awaiting := s.epoch.awaiting.filter (probeTargets s).contains } })
    else .next (forEach (s.epoch.confirming.map (·.1)) confirmOne s) := by
  change execProbeTick s = _
  rw [execProbeTick]
  exact if_neg (by rw [runs]; decide)

theorem exec_probeTick_of_idle (idle : spanRuns s = false) : exec .probeTick s = .next s := by
  change execProbeTick s = _
  rw [execProbeTick]
  exact if_pos (by rw [idle]; rfl)

theorem confirmOne_of_located {pos : Nat} (confirming : SMap.get 0 s.epoch.confirming d ≠ 0) (located : physOf s d = some pos) :
    confirmOne d s =
      let n := SMap.get 0 s.epoch.confirming d
      if n < 3 then sendProbe pos { s with epoch := { s.epoch with confirming := SMap.set 0 s.epoch.confirming d (n + 1) } }
      else declareLost d (SMap.get 0 s.epoch.causes d) { s with epoch := { s.epoch with confirming := SMap.erase d s.epoch.confirming } } := by
  obtain ⟨n, count⟩ := Nat.exists_eq_succ_of_ne_zero confirming
  rw [confirmOne, located, count] <;> rfl

end

/-- Settles O49: a fault and a stop by what the plan does, a probe's answer by the position it comes from. -/
theorem faultsStopsAndLiveness : Obligations.FaultsStopsAndLiveness := by
  unfold Obligations.FaultsStopsAndLiveness
  refine ⟨fun s p => ⟨fun cause src self msg runs member => ⟨fun copy => ?_, fun plain => ?_, fun r copied epochs lost => ?_,
        fun r copied epochs kept => ?_⟩, fun st msg mine active => exec_stop_of_active msg mine active,
      fun later msg => ⟨fun other => exec_stopReq_of_other msg other, fun member coordinator => ⟨fun now => ?_, fun atEnd running => ?_⟩⟩⟩,
    fun s p d n => ⟨fun pos msg located runs member fresh => exec_suspect_of_fresh msg located runs member fresh,
      fun msg absent => exec_suspect_of_absent msg absent, fun msg => exec_probe_of_msg msg,
      fun msg active => exec_probeAck_of_active msg active, fun idle => exec_probeTick_of_idle idle,
      fun runs none => (exec_probeTick_of_runs runs).trans (if_pos (List.isEmpty_iff.2 none)),
      fun runs nonempty => (exec_probeTick_of_runs runs).trans (if_neg (fun none => nonempty (List.isEmpty_iff.1 none))),
      fun confirming pos located => ⟨fun few => (confirmOne_of_located confirming located).trans (if_pos few),
        fun many => (confirmOne_of_located confirming located).trans (if_neg (Nat.not_lt.2 many))⟩⟩⟩
  · exact (exec_fault_of_member msg runs member).trans (if_pos (.inl copy))
  · exact (exec_fault_of_member msg runs member).trans (if_pos (.inr (by rw [plain]; rfl)))
  · exact (exec_fault_of_member msg runs member).trans ((if_neg (not_or.2 ⟨copied, by rw [epochs]; simp⟩)).trans (if_pos lost))
  · exact (exec_fault_of_member msg runs member).trans
      ((if_neg (not_or.2 ⟨copied, by rw [epochs]; simp⟩)).trans (if_neg (kept ▸ Bool.false_ne_true)))
  · exact (exec_stopReq_of_member msg member coordinator).trans (if_neg (fun both => by
      obtain ⟨atEnd, running⟩ := Bool.and_eq_true_iff.1 both
      have awake : (takeIngress p s).run.st ≠ .waiting := of_decide_eq_true running
      exact now.elim (fun now => Bool.false_ne_true (now.symm.trans atEnd)) awake))
  · exact (exec_stopReq_of_member msg member coordinator).trans (if_pos (by rw [atEnd, decide_eq_true running]; rfl))

end Sys2Proof.Machine

/-! PROOFS. Rollback, restore, restart and the wait for a spare (O50). -/

namespace Sys2Proof.Machine

open Sys2Proof

section

variable {s u v : State} {p : Packet} {n : Nat}

/-! ### Rollback -/

theorem exec_rollback_of_msg {target serial next : Nat} {lost : List Lost} {passes : List (Nat × Nat)}
    (msg : msgOf p = some (.rollback target serial lost next passes)) : exec (.rollback p) s =
      let u := relayMsg p (takeIngress p s)
      if !ours p u then .next (rollbackForeign target lost u)
      else if serial ≤ u.epoch.serial ∨ (u.run.st ≠ .run ∧ u.run.st ≠ .hold ∧ u.run.st ≠ .waiting) then .next u
      else .next (rollbackHere target serial lost next passes u) := by
  change execRollback p s = _
  rw [execRollback]
  dsimp only
  rw [msg]

theorem exec_rollback_of_foreign {target serial next : Nat} {lost : List Lost} {passes : List (Nat × Nat)}
    (msg : msgOf p = some (.rollback target serial lost next passes)) (foreign : ours p (relayMsg p (takeIngress p s)) = false) :
    exec (.rollback p) s = .next (rollbackForeign target lost (relayMsg p (takeIngress p s))) :=
  (exec_rollback_of_msg msg).trans (if_pos (congrArg not foreign))

theorem exec_rollback_of_old {target serial next : Nat} {lost : List Lost} {passes : List (Nat × Nat)}
    (msg : msgOf p = some (.rollback target serial lost next passes)) (mine : ours p (relayMsg p (takeIngress p s)) = true)
    (old : serial ≤ (relayMsg p (takeIngress p s)).epoch.serial) : exec (.rollback p) s = .next (relayMsg p (takeIngress p s)) :=
  (exec_rollback_of_msg msg).trans ((if_neg (by rw [mine]; decide)).trans (if_pos (.inl old)))

theorem exec_rollback_of_new {target serial next : Nat} {lost : List Lost} {passes : List (Nat × Nat)}
    (msg : msgOf p = some (.rollback target serial lost next passes)) (mine : ours p (relayMsg p (takeIngress p s)) = true)
    (new : (relayMsg p (takeIngress p s)).epoch.serial < serial) (active : (relayMsg p (takeIngress p s)).run.st = .run ∨
      (relayMsg p (takeIngress p s)).run.st = .hold ∨ (relayMsg p (takeIngress p s)).run.st = .waiting) :
    exec (.rollback p) s = .next (rollbackHere target serial lost next passes (relayMsg p (takeIngress p s))) := by
  refine (exec_rollback_of_msg msg).trans ((if_neg (by rw [mine]; decide)).trans (if_neg (not_or.2 ⟨Nat.not_le.2 new, ?_⟩)))
  rintro ⟨noRun, noHold, noWait⟩
  exact active.elim noRun (fun active => active.elim noHold noWait)

/-! ### Restore -/

/-- A device that has still to restore, with every transfer it waits for complete. -/
def restoreOpen (s : State) : Prop :=
  s.epoch.stage = .rollback ∧ s.epoch.restored = false ∧ s.epoch.placed = false ∧ s.run.me.isSome = true ∧
    s.epoch.xfers.any (fun x => !x.phys && decide (x.acked < x.size)) = false

/-- A device is the spare of a device that is lost. -/
def isSpare (s : State) : Bool := s.epoch.lostList.any (fun l => l.spare == some s.fab.position)

theorem exec_restoreDone_of_other (other : s.epoch.stage ≠ .rollback) : exec .restoreDone s = .next s := by
  change execRestoreDone s = _
  rw [execRestoreDone]
  exact if_pos (.inl other)

theorem exec_restoreDone_of_open (opened : restoreOpen s) : exec .restoreDone s =
    if s.epoch.noCopy then .next (noIntactCopy s)
    else if isSpare s && (mySections s).shards.isEmpty then .next (restoreHere restoreImage s)
    else if isSpare s then
      if s.epoch.got < copySize s then .next s
      else if !headerOk s.epoch.incoming 0 s.epoch.target s || !s.epoch.incomingBad.isEmpty then .next (noIntactCopy s)
      else .next (restoreHere restoreIncoming s)
    else if !(keepBad s).isEmpty then
      if fetching s then .next s
      else if partnerHolds s then .next (fetchLines s)
      else .next (noIntactCopy s)
    else if !headerOk s.mem.hbm (keepBase s) s.epoch.target s then .next (noIntactCopy s)
    else .next (restoreHere restoreKeep s) := by
  obtain ⟨stage, unrestored, unplaced, member, landed⟩ := opened
  change execRestoreDone s = _
  rw [execRestoreDone]
  refine (if_neg ?_).trans (if_neg (landed ▸ Bool.false_ne_true))
  rw [unrestored, unplaced, Option.isNone_eq_false_iff.2 member]
  simp [stage]

theorem exec_restoreDone_of_noCopy (opened : restoreOpen s) (lost : s.epoch.noCopy = true) : exec .restoreDone s = .next (noIntactCopy s) :=
  (exec_restoreDone_of_open opened).trans (if_pos lost)

theorem exec_restoreDone_of_bare (opened : restoreOpen s) (copy : s.epoch.noCopy = false) (spare : isSpare s = true)
    (bare : (mySections s).shards = []) : exec .restoreDone s = .next (restoreHere restoreImage s) := by
  rw [exec_restoreDone_of_open opened, copy, spare, bare]
  rfl

theorem exec_restoreDone_of_spare (opened : restoreOpen s) (copy : s.epoch.noCopy = false) (spare : isSpare s = true)
    (shards : (mySections s).shards ≠ []) (whole : copySize s ≤ s.epoch.got) : exec .restoreDone s =
      if !headerOk s.epoch.incoming 0 s.epoch.target s || !s.epoch.incomingBad.isEmpty then .next (noIntactCopy s)
      else .next (restoreHere restoreIncoming s) := by
  rw [exec_restoreDone_of_open opened, copy, spare, List.isEmpty_eq_false_iff.2 shards]
  exact if_neg (Nat.not_lt.2 whole)

theorem exec_restoreDone_of_keep (opened : restoreOpen s) (copy : s.epoch.noCopy = false) (member : isSpare s = false)
    (clean : keepBad s = []) : exec .restoreDone s =
      if !headerOk s.mem.hbm (keepBase s) s.epoch.target s then .next (noIntactCopy s) else .next (restoreHere restoreKeep s) := by
  rw [exec_restoreDone_of_open opened, copy, member, clean]
  rfl

theorem exec_restoreDone_of_badKeep (opened : restoreOpen s) (copy : s.epoch.noCopy = false) (member : isSpare s = false)
    (bad : keepBad s ≠ []) (idle : fetching s = false) : exec .restoreDone s =
      if partnerHolds s then .next (fetchLines s) else .next (noIntactCopy s) := by
  rw [exec_restoreDone_of_open opened, copy, member, List.isEmpty_eq_false_iff.2 bad, idle]
  rfl

theorem restoreTested_of_good {failed : List LineTest} {restore : State → State} (good : (testLines failed s).2 = none) :
    restoreTested failed restore s = placedHere (restore (zeroAllPoisoned (testLines failed s).1)) := by
  rw [restoreTested]
  dsimp only
  rw [good]

theorem restoreTested_of_fatal {failed : List LineTest} {restore : State → State} {st : Store} (fatal : (testLines failed s).2 = some st) :
    restoreTested failed restore s = epochFault (fatalCode st) srcDevice true
      { (testLines failed s).1 with epoch := { (testLines failed s).1.epoch with restored := true } } := by
  rw [restoreTested]
  dsimp only
  rw [fatal]

theorem placedHere_of_idle (idle : recalling (restartRecal s) = false) : placedHere s = restoredHere (restartRecal s) := by
  rw [placedHere]
  exact if_neg (idle ▸ Bool.false_ne_true)

theorem placedHere_of_recal (busy : recalling (restartRecal s) = true) :
    placedHere s = { restartRecal s with epoch := { (restartRecal s).epoch with placed := true } } := by
  rw [placedHere]
  exact if_pos busy

/-! ### Restart -/

theorem exec_restored_of_later {ds : List Nat} (msg : msgOf p = some (.restored n ds)) (later : s.epoch.serial < n) :
    exec (.restored p) s = .next s := by
  change execRestored p s = _
  rw [execRestored, msg]
  exact if_pos later

theorem exec_restored_of_other {ds : List Nat} (msg : msgOf p = some (.restored n ds)) (due : n ≤ s.epoch.serial)
    (other : n ≠ (takeIngress p s).epoch.serial) : exec (.restored p) s = .next (takeIngress p s) := by
  change execRestored p s = _
  rw [execRestored, msg]
  exact (if_neg (Nat.not_lt.2 due)).trans (if_pos (.inl other))

/-- The restored devices known with those of a RESTORED. -/
def restoredWith (ds : List Nat) (s : State) : State :=
  { s with epoch := { s.epoch with restoreds := ds.foldl (fun acc d => insertNat d acc) s.epoch.restoreds } }

/-- The coordinator names a restart, unless a lost device is still without a spare. -/
def restartUnlessShort (s : State) : State := if s.epoch.lostSent.any (fun l => l.spare.isNone) then s else sendRestart s

theorem exec_restored_of_present {ds : List Nat} (msg : msgOf p = some (.restored n ds)) (due : n ≤ s.epoch.serial)
    (present : n = (takeIngress p s).epoch.serial) (mine : ours p (takeIngress p s) = true) (plain : (takeIngress p s).epoch.swaps = []) :
    exec (.restored p) s =
      let u := takeIngress p s
      let new := ds.foldl (fun acc d => insertNat d acc) u.epoch.restoreds
      let w := restoredWith ds u
      .next (gather u.epoch.restoreds new (.restored n (new.filter (gatherFor w).1.contains)) restartUnlessShort w) := by
  change execRestored p s = _
  rw [execRestored, msg]
  refine (if_neg (Nat.not_lt.2 due)).trans ((if_neg (not_or.2 ⟨not_not.2 present, by rw [mine]; decide⟩)).trans ?_)
  exact if_neg (fun swaps => Bool.false_ne_true ((congrArg (fun l => !List.isEmpty l) plain).symm.trans swaps))

theorem restartUnlessShort_of_spares (spares : s.epoch.lostSent.any (fun l => l.spare.isNone) = false) :
    restartUnlessShort s = broadcastMsg (.restart (hallPlus s.time.hall 100000)) s := by
  rw [restartUnlessShort]
  exact if_neg (spares ▸ Bool.false_ne_true)

theorem exec_restart_of_rollback {t : HallTime} (msg : msgOf p = some (.restart t)) (mine : ours p (relayMsg p (takeIngress p s)) = true)
    (stage : (relayMsg p (takeIngress p s)).epoch.stage = .rollback) : exec (.restart p) s =
      .next { relayMsg p (takeIngress p s) with epoch := { (relayMsg p (takeIngress p s)).epoch with restartAt := some t } } := by
  change execRestart p s = _
  rw [execRestart]
  dsimp only
  rw [msg]
  exact if_neg (not_or.2 ⟨by rw [mine]; decide, fun away => away.1 stage⟩)

theorem exec_restartTime_of_none (unset : s.epoch.restartAt = none) : exec .restartTime s = .next s := by
  change execRestartTime s = _
  rw [execRestartTime, unset]

theorem exec_restartTime_of_restored {t : HallTime} (set : s.epoch.restartAt = some t) (plain : s.epoch.swaps = [])
    (ready : s.run.me = none ∨ s.epoch.restored = true) : exec .restartTime s = .next (restartHere t (reachTime t s)) := by
  change execRestartTime s = _
  rw [execRestartTime, set]
  dsimp only
  rw [plain]
  refine (if_neg Bool.false_ne_true).trans (if_neg ?_)
  rcases ready with ready | ready <;> simp [ready]

theorem exec_restartTime_of_swapped {t : HallTime} (set : s.epoch.restartAt = some t) (swaps : s.epoch.swaps ≠ [])
    (ready : s.run.me = none ∨ s.epoch.keepValid = true) : exec .restartTime s = .next (resumeSwap t (reachTime t s)) := by
  change execRestartTime s = _
  rw [execRestartTime, set]
  dsimp only
  rw [List.isEmpty_eq_false_iff.2 swaps]
  refine (if_pos rfl).trans (if_neg ?_)
  rcases ready with ready | ready <;> simp [ready]

theorem exec_noSpare_of_other (other : s.run.st ≠ .waiting) : exec .noSpare s = .next s := by
  change execNoSpare s = _
  rw [execNoSpare]
  exact if_pos other

theorem exec_noSpare_of_waiting (waiting : s.run.st = .waiting) : exec .noSpare s =
    let l := logEvent 0xA009 srcDevice [] s
    .next (if isCoordinator l && l.epoch.lostSent.any (fun m => m.spare.isNone && (freeSpare l [] m.physical).isSome) then startRollback [] l
      else l) := by
  change execNoSpare s = _
  rw [execNoSpare]
  exact if_neg (not_not.2 waiting)

end

/-- Settles O50: the rollback by its serial, the restore by what copy is left, the restart by what the device waits for. -/
theorem rollbackAndRestart : Obligations.RollbackAndRestart := by
  unfold Obligations.RollbackAndRestart
  refine ⟨fun s p target serial lost next passes failed => ?_, fun s p n => ?_⟩
  · intro u spare opened
    refine ⟨fun msg => ⟨fun foreign => exec_rollback_of_foreign msg foreign, fun mine old => exec_rollback_of_old msg mine old,
        fun mine new active => exec_rollback_of_new msg mine new active⟩, fun other => exec_restoreDone_of_other other,
      fun opened lost => exec_restoreDone_of_noCopy opened lost,
      fun opened copy => ⟨fun spare bare => exec_restoreDone_of_bare opened copy spare bare,
        fun spare shards whole => ⟨fun bad => ?_, fun good clean => ?_⟩, fun member clean good => ?_, fun member clean bad => ?_,
        fun member bad idle => ⟨fun holds => ?_, fun lost => ?_⟩⟩,
      fun restore => ⟨rfl, fun good => restoreTested_of_good good, fun st fatal => restoreTested_of_fatal fatal⟩,
      fun idle => placedHere_of_idle idle, fun busy => placedHere_of_recal busy⟩
    · exact (exec_restoreDone_of_spare opened copy spare shards whole).trans (if_pos (by rw [bad]; rfl))
    · exact (exec_restoreDone_of_spare opened copy spare shards whole).trans (if_neg (by rw [good, clean]; decide))
    · exact (exec_restoreDone_of_keep opened copy member clean).trans (if_neg (by rw [good]; decide))
    · exact (exec_restoreDone_of_keep opened copy member clean).trans (if_pos (by rw [bad]; rfl))
    · exact (exec_restoreDone_of_badKeep opened copy member bad idle).trans (if_pos holds)
    · exact (exec_restoreDone_of_badKeep opened copy member bad idle).trans (if_neg (lost ▸ Bool.false_ne_true))
  · refine ⟨fun ds msg => ⟨fun later => exec_restored_of_later msg later, fun past other => exec_restored_of_other msg past.le other,
        fun due present mine plain missing => ?_, fun due present mine plain all first top spares => ?_⟩,
      fun t msg mine stage => exec_restart_of_rollback msg mine stage, fun unset => exec_restartTime_of_none unset,
      fun t set plain ready => exec_restartTime_of_restored set plain ready,
      fun t set swaps ready => exec_restartTime_of_swapped set swaps ready, fun other => exec_noSpare_of_other other,
      fun waiting => ⟨fun other => ?_, fun coordinator free => ?_⟩⟩
    · exact (exec_restored_of_present msg due.le present mine plain).trans (congrArg Host.Outcome.next (gather_of_some_missing missing))
    · exact (exec_restored_of_present msg due.le present mine plain).trans (congrArg Host.Outcome.next
        ((gather_of_last all first top).trans (restartUnlessShort_of_spares spares)))
    · exact (exec_noSpare_of_waiting waiting).trans (congrArg Host.Outcome.next (if_neg (by rw [other]; simp)))
    · exact (exec_noSpare_of_waiting waiting).trans (congrArg Host.Outcome.next (if_pos (by rw [coordinator, free]; rfl)))

end Sys2Proof.Machine

/-! PROOFS. Time exchanges, their loss, and the second boundary (O51). -/

namespace Sys2Proof.Machine

open Sys2Proof

/-- The loss of a reference that has not qualified starts its count of good seconds again (R431). -/
theorem exec_timeRefLost_of_unqualified {s : State} (unqualified : s.time.refOk = false) :
    exec (.timeRefLost true) s = .next (modTime (fun t => { t with refRun := 0 }) s) := by
  change execTimeRefLost true s = _
  rw [execTimeRefLost]
  exact if_neg (unqualified ▸ Bool.false_ne_true)

/-- A device whose reference has had one good second of the three it needs to qualify. -/
def referenceAfterOneSecond : State := { time := { refRun := 1 } }

/-- Refutes O51: the loss of REF_10M_IN before it has qualified is said to leave the state as it was, but it ends the run of good seconds:
with one good second counted, the command sets the count back to 0. -/
theorem not_hallTimeRules : ¬ Obligations.HallTimeRules := by
  unfold Obligations.HallTimeRules
  rintro ⟨-, -, boundary⟩
  obtain ⟨-, -, -, -, -, -, -, -, unchanged, -, -⟩ := boundary referenceAfterOneSecond true
  have counted : modTime (fun t => { t with refRun := 0 }) referenceAfterOneSecond = referenceAfterOneSecond :=
    Host.Outcome.next.inj ((exec_timeRefLost_of_unqualified rfl).symm.trans (unchanged rfl))
  exact absurd (congrArg (fun s => s.time.refRun) counted) (by decide)

end Sys2Proof.Machine

/-! PROOFS. Changes of an adaptive rail (O52) and power domains (O54). -/

namespace Sys2Proof.Machine

open Sys2Proof

section

variable {s : State} {r mv : Nat}

/-! ### Rails -/

theorem exec_avsResponse_current {t : Nat} (present : r < s.power.rails.length) :
    exec (.avsResponse r (.current t)) s = .next (modRail r (fun x => { x with current := min t 65535 }) s) := by
  change execAvsResponse r (.current t) s = _
  unfold execAvsResponse
  exact if_neg (Nat.not_le.2 present)

theorem exec_avsResponse_ack (present : r < s.power.rails.length) : exec (.avsResponse r .ack) s =
    .next (if (railOf s r).change = some .written then modRail r (fun x => { x with change := some .reading }) s else s) := by
  change execAvsResponse r .ack s = _
  unfold execAvsResponse
  exact if_neg (Nat.not_le.2 present)

theorem exec_avsResponse_volts (present : r < s.power.rails.length) : exec (.avsResponse r (.volts mv)) s =
    .next (if (railOf s r).change = some .reading ∧ farMv mv (railOf s r).request ≤ 10 then confirmRail r s else s) := by
  change execAvsResponse r (.volts mv) s = _
  unfold execAvsResponse
  exact if_neg (Nat.not_le.2 present)

theorem exec_avsResponse_notDone {st : Nat} (present : r < s.power.rails.length) : exec (.avsResponse r (.notDone st)) s =
    if (railOf s r).change ≠ some .written then .next s
    else .next (railFail r (railOf s r).gap .retry (logEvery 0x2021 r 1000000000 srcDevice [(2, st)]
      (modRail r (fun x => { x with notDone := satAdd 16 x.notDone 1 }) s))) := by
  change execAvsResponse r (.notDone st) s = _
  unfold execAvsResponse
  exact if_neg (Nat.not_le.2 present)

/-- A reply whose frame is bad is counted and recorded (R446). -/
def badFrameNoted (r frame : Nat) (s : State) : State :=
  logEvery 0x2020 r 1000000000 srcDevice [(4, r), (8, frame)] (modRail r (fun x => { x with crc := satAdd 16 x.crc 1 }) s)

theorem exec_avsResponse_bad {frame : Nat} (present : r < s.power.rails.length) : exec (.avsResponse r (.bad frame mv)) s =
    if (railOf s r).change ≠ some .written then .next (badFrameNoted r frame s)
    else if farMv mv (railOf s r).request ≤ 10 then .next (modRail r (fun x => { x with change := some .reading }) (badFrameNoted r frame s))
    else .next (railFail r (farMv mv (railOf s r).request) .written (badFrameNoted r frame s)) := by
  change execAvsResponse r (.bad frame mv) s = _
  unfold execAvsResponse
  exact if_neg (Nat.not_le.2 present)

theorem exec_avsReadbackTimeout_of_reading (reading : (railOf s r).change = some .reading) : exec (.avsReadbackTimeout r mv) s =
    .next (railFail r (farMv mv (railOf s r).request) .written
      (logEvery 0x2022 r 1000000000 srcDevice [(8, (railOf s r).request), (8, mv)] (modRail r (fun x => { x with readback := satAdd 16 x.readback 1 }) s))) := by
  change execAvsReadbackTimeout r mv s = _
  rw [execAvsReadbackTimeout]
  exact if_pos reading

theorem exec_railFaultClear_of_served (served : HostServed s) :
    exec (.railFaultClear r) s = .next (modRail r (fun x => { x with faulted := false, fails := 0 }) (hostPosted s)) := by
  change execRailFaultClear r s = _
  rw [execRailFaultClear, onHost_of_served served]
  rfl

theorem railOf_modRail_self {f : Rail → Rail} (present : r < s.power.rails.length) : railOf (modRail r f s) r = f (railOf s r) := by
  change (s.power.rails.modify r f).getD r {} = f (s.power.rails.getD r {})
  rw [List.getD_eq_getElem?_getD, List.getD_eq_getElem?_getD, List.getElem?_modify_eq, List.getElem?_eq_getElem present]
  rfl

theorem railFail_of_third {gap : Nat} {next : AvsStage} (nearer : (railOf s r).gap ≤ gap) (second : (railOf s r).fails = 2) :
    railFail r gap next s = logEvent 0x2023 srcDevice [(4, r), (8, (railOf s r).confirmed)]
      (modRail r (fun x => { x with fails := 3, faulted := true, change := none, after := none }) s) := by
  rw [railFail]
  rw [if_neg (Nat.not_lt.2 nearer), second]
  exact if_pos (Nat.le_refl 3)

theorem railFail_of_early {gap : Nat} {next : AvsStage} (nearer : (railOf s r).gap ≤ gap) (early : (railOf s r).fails < 2) :
    railFail r gap next s =
      modRail r (fun y => { y with fails := (railOf s r).fails + 1, gap := min gap y.gap, change := some next }) s := by
  rw [railFail]
  rw [if_neg (Nat.not_lt.2 nearer)]
  exact if_neg (by omega)

theorem railOf_railFail_of_third {gap : Nat} {next : AvsStage} (present : r < s.power.rails.length) (nearer : (railOf s r).gap ≤ gap)
    (second : (railOf s r).fails = 2) : railOf (railFail r gap next s) r =
      { railOf s r with fails := 3, faulted := true, change := none, after := none } := by
  rw [railFail_of_third nearer second]
  exact (congrArg (fun p => p.rails.getD r {}) (logEvent_power ..)).trans (railOf_modRail_self present)

end

/-- Settles O52: a reply by the stage of the change it answers, a failure by how many came before it. -/
theorem railChanges : Obligations.RailChanges := by
  unfold Obligations.RailChanges
  intro s r mv st frame t present
  refine ⟨exec_avsResponse_current present, fun written => ?_, fun other => ?_, fun reading near => ?_, fun far => ?_, fun written => ?_,
    ⟨fun written far => ?_, fun written near => ?_, fun none => ?_⟩, fun reading => exec_avsReadbackTimeout_of_reading reading,
    fun retry => congrArg Host.Outcome.next (if_pos retry), fun other => congrArg Host.Outcome.next (if_neg other),
    fun served => exec_railFaultClear_of_served served, fun gap next nearer second => ?_, fun gap next nearer early => railFail_of_early nearer early⟩
  · exact (exec_avsResponse_ack present).trans (congrArg Host.Outcome.next (if_pos written))
  · exact (exec_avsResponse_ack present).trans (congrArg Host.Outcome.next (if_neg other))
  · exact (exec_avsResponse_volts present).trans (congrArg Host.Outcome.next (if_pos ⟨reading, near⟩))
  · exact (exec_avsResponse_volts present).trans (congrArg Host.Outcome.next (if_neg (fun both => Nat.not_le.2 far both.2)))
  · exact (exec_avsResponse_notDone present).trans (if_neg (not_not.2 written))
  · exact (exec_avsResponse_bad present).trans ((if_neg (not_not.2 written)).trans (if_neg (Nat.not_le.2 far)))
  · exact (exec_avsResponse_bad present).trans ((if_neg (not_not.2 written)).trans (if_pos near))
  · exact (exec_avsResponse_bad present).trans (if_pos (by rw [none]; decide))
  · rw [railOf_railFail_of_third present nearer second]
    exact ⟨rfl, rfl, rfl⟩

section

variable {s : State} {q id d : Nat} {force ok : Bool}

/-! ### Power domains -/

/-- A command that waits for its domain. -/
def waitsForDom (q id d : Nat) (s : State) : State :=
  { s with hub := { s.hub with domWaiters := s.hub.domWaiters ++ [(d, { queue := q, cmdId := id % 65536 })] } }

/-- DOMAIN_POWER_OFF on a domain that is on (R463). -/
def powerOffOn (q id d : Nat) (force : Bool) (s : State) : State :=
  if !(domTree d).any (domUsed s) then waitsForDom q id d (drainDom 0 d s)
  else if !force then endCmd q id 2 s
  else if planRuns s ∨ s.run.st = .hold then
    waitsForDom q id d (sendMsg (.stopReq true) (coordinatorOf s) (modDom d (fun x => { x with forced := true }) s))
  else waitsForDom q id d (drainDom 1 d s)

theorem exec_domainPowerOff_of_off (inside : d < 24) (due : cmdDue s q = true) (off : (domOf (takeCmd q id s) d).st = .off) :
    exec (.domainPowerOff q id false d force) s = .next (endCmd q id 0 (takeCmd q id s)) := by
  change execDomainPowerOff q id false d force s = _
  rw [execDomainPowerOff, onCmd_of_due due]
  dsimp only
  rw [if_neg (Nat.not_le.2 inside), off]

theorem exec_domainPowerOff_of_failed (inside : d < 24) (due : cmdDue s q = true) (failed : (domOf (takeCmd q id s) d).st = .failed) :
    exec (.domainPowerOff q id false d force) s = .next (endCmd q id 0 (modDom d (fun x => { x with st := .off }) (takeCmd q id s))) := by
  change execDomainPowerOff q id false d force s = _
  rw [execDomainPowerOff, onCmd_of_due due]
  dsimp only
  rw [if_neg (Nat.not_le.2 inside), failed]

theorem exec_domainPowerOff_of_draining (inside : d < 24) (due : cmdDue s q = true) (draining : (domOf (takeCmd q id s) d).st = .draining) :
    exec (.domainPowerOff q id false d force) s = .next (waitsForDom q id d (takeCmd q id s)) := by
  change execDomainPowerOff q id false d force s = _
  rw [execDomainPowerOff, onCmd_of_due due]
  dsimp only
  rw [if_neg (Nat.not_le.2 inside), draining]
  rfl

theorem exec_domainPowerOff_of_on (inside : d < 24) (due : cmdDue s q = true) (on : (domOf (takeCmd q id s) d).st = .on) :
    exec (.domainPowerOff q id false d force) s = .next (powerOffOn q id d force (takeCmd q id s)) := by
  change execDomainPowerOff q id false d force s = _
  rw [execDomainPowerOff, onCmd_of_due due]
  dsimp only
  rw [if_neg (Nat.not_le.2 inside), on]
  rfl

theorem powerOffOn_of_unused (unused : (domTree d).any (domUsed s) = false) :
    powerOffOn q id d force s = waitsForDom q id d (drainDom 0 d s) := by
  rw [powerOffOn]
  exact if_pos (by rw [unused]; rfl)

theorem powerOffOn_of_used (used : (domTree d).any (domUsed s) = true) : powerOffOn q id d force s =
    if !force then endCmd q id 2 s
    else if planRuns s ∨ s.run.st = .hold then
      waitsForDom q id d (sendMsg (.stopReq true) (coordinatorOf s) (modDom d (fun x => { x with forced := true }) s))
    else waitsForDom q id d (drainDom 1 d s) := by
  rw [powerOffOn]
  exact if_neg (by rw [used]; decide)

theorem exec_domainPowerOn_of_due (inside : d < 24) (due : cmdDue s q = true) : exec (.domainPowerOn q id false d) s =
    let t := takeCmd q id s
    .next (if (domOf t d).adminOff || (domOf t (d % 8)).adminOff then endCmd q id 2 t
      else if (domOf t d).st = .on then endCmd q id 0 t
      else raiseDom d (waitsForDom q id d t)) := by
  change execDomainPowerOn q id false d s = _
  rw [execDomainPowerOn, onCmd_of_due due]
  exact congrArg Host.Outcome.next (if_neg (Nat.not_le.2 inside))

theorem exec_domainOffComplete_of_other (other : (domOf s d).st ≠ .draining) : exec (.domainOffComplete d) s = .next s := by
  change execDomainOffComplete d s = _
  rw [execDomainOffComplete]
  exact if_pos (.inl other)

theorem exec_domainOffComplete_of_drained (inside : d < 24) (draining : (domOf s d).st = .draining)
    (alone : ((domTree d).filter (· ≠ d)).any (fun i => decide ((domOf s i).st = .draining)) = false) (stays : (domOf s d).upPending = false) :
    exec (.domainOffComplete d) s = .next (answerDom d 0 (modDom d (fun x => { x with upPending := false })
      (logEvent 0x2031 srcDevice [(4, d), (4, (domOf s d).cause)] (openSwitch d s)))) := by
  change execDomainOffComplete d s = _
  rw [execDomainOffComplete]
  refine (if_neg (not_or.2 ⟨not_not.2 draining, Nat.not_le.2 inside⟩)).trans ((if_neg (alone ▸ Bool.false_ne_true)).trans ?_)
  exact if_neg (by rw [stays]; simp)

theorem exec_domainOnComplete_of_other (other : (domOf s d).st ≠ .waking) : exec (.domainOnComplete d ok) s = .next s := by
  change execDomainOnComplete d ok s = _
  rw [execDomainOnComplete]
  exact if_pos (.inl other)

theorem exec_domainOnComplete_of_waking (inside : d < 24) (waking : (domOf s d).st = .waking)
    (based : d < 8 ∨ (domOf s (d % 8)).st ≠ .waking) : exec (.domainOnComplete d ok) s =
      if ok && canRise s d then .next (answerDom d 0 (logEvent 0x2032 srcDevice [] (domOn d s)))
      else .next (answerDom d 7 (logEvent 0x2031 srcDevice [(4, d), (4, 3)] (modDom d (fun x => { x with st := .failed }) s))) := by
  change execDomainOnComplete d ok s = _
  rw [execDomainOnComplete]
  refine (if_neg (not_or.2 ⟨not_not.2 waking, Nat.not_le.2 inside⟩)).trans (if_neg ?_)
  rintro ⟨upper, waits⟩
  exact based.elim (fun lower => Nat.not_lt.2 upper lower) (fun up => up waits)

end

/-- Settles O54: each command and completion by the state of the domain it names. -/
theorem powerDomains : Obligations.PowerDomains := by
  unfold Obligations.PowerDomains
  intro s q id d force ok inside t waits
  refine ⟨fun due => ⟨fun off => exec_domainPowerOff_of_off inside due off, fun failed => exec_domainPowerOff_of_failed inside due failed,
      fun draining => exec_domainPowerOff_of_draining inside due draining, fun on unused => ?_, fun on used plain => ?_,
      fun on used forced plan => ?_, fun on used forced idle unheld => ?_, fun disabled => ?_,
      fun enabled rooted => ⟨fun on => ?_, fun off => ?_⟩⟩,
    fun other => exec_domainOffComplete_of_other other,
    fun draining alone stays => exec_domainOffComplete_of_drained inside draining alone stays,
    fun other => exec_domainOnComplete_of_other other, fun waking based => ⟨fun good rises => ?_, fun bad => ?_⟩⟩
  · exact (exec_domainPowerOff_of_on inside due on).trans (congrArg Host.Outcome.next (powerOffOn_of_unused unused))
  · exact (exec_domainPowerOff_of_on inside due on).trans
      (congrArg Host.Outcome.next ((powerOffOn_of_used used).trans (if_pos (by rw [plain]; rfl))))
  · exact (exec_domainPowerOff_of_on inside due on).trans
      (congrArg Host.Outcome.next ((powerOffOn_of_used used).trans ((if_neg (by rw [forced]; decide)).trans (if_pos plan))))
  · exact (exec_domainPowerOff_of_on inside due on).trans
      (congrArg Host.Outcome.next ((powerOffOn_of_used used).trans
        ((if_neg (by rw [forced]; decide)).trans (if_neg (not_or.2 ⟨idle ▸ Bool.false_ne_true, unheld⟩)))))
  · exact (exec_domainPowerOn_of_due inside due).trans (congrArg Host.Outcome.next (if_pos (Bool.or_eq_true_iff.2 (.inl disabled))))
  · exact (exec_domainPowerOn_of_due inside due).trans
      (congrArg Host.Outcome.next ((if_neg (fun disabled => Bool.false_ne_true
        ((Bool.or_eq_false_iff.2 ⟨enabled, rooted⟩).symm.trans disabled))).trans (if_pos on)))
  · exact (exec_domainPowerOn_of_due inside due).trans
      (congrArg Host.Outcome.next ((if_neg (fun disabled => Bool.false_ne_true
        ((Bool.or_eq_false_iff.2 ⟨enabled, rooted⟩).symm.trans disabled))).trans (if_neg off)))
  · exact (exec_domainOnComplete_of_waking inside waking based).trans (if_pos (Bool.and_eq_true_iff.2 ⟨good, rises⟩))
  · refine (exec_domainOnComplete_of_waking inside waking based).trans (if_neg (fun both => ?_))
    obtain ⟨good, rises⟩ := Bool.and_eq_true_iff.1 both
    exact bad.elim (fun bad => Bool.false_ne_true (bad.symm.trans good)) (fun low => Bool.false_ne_true (low.symm.trans rises))

end Sys2Proof.Machine

/-! PROOFS. Resets and boot steps (O57). -/

namespace Sys2Proof.Machine

open Sys2Proof

section

variable {s : State} {r : BootResult} {n stack : Nat}

/-! ### Resets -/

theorem exec_warmRstN_of_powered {ns : Nat} (powered : s.power.pwrOk = true) : exec (.warmRstN ns) s =
    if ns < 900 then .next s else if ns < 1000 then .fault .warmResetForbidden else .next (startWarm s) := by
  change execWarmRstN ns s = _
  rw [execWarmRstN, powered]
  by_cases short : ns < 900
  · rw [if_pos short, if_pos (by rw [decide_eq_true short]; rfl)]
  · rw [if_neg short, if_neg (by rw [decide_eq_false short]; decide)]

theorem exec_warmRstN_of_unpowered {ns : Nat} (unpowered : s.power.pwrOk = false) : exec (.warmRstN ns) s = .next s := by
  change execWarmRstN ns s = _
  rw [execWarmRstN, unpowered]
  rfl

theorem startWarm_of_fast (ever : s.boot.everReady = true) (untripped : s.power.tripped = false) :
    startWarm s = modBoot (fun b => { b with path := .warm }) (warmState s) := by
  rw [startWarm, ever, untripped]
  rfl

theorem startWarm_of_cold (slow : s.boot.everReady = false ∨ s.power.tripped = true) :
    startWarm s = logEvent 0x5002 srcDevice [(4, if s.power.tripped then 4 else 0)]
      (modBoot (fun b => { b with path := .cold, step := 1, fallback := true }) (warmState s)) := by
  rw [startWarm]
  exact if_neg (by rcases slow with slow | slow <;> simp [slow])

theorem boot_startWarm_of_cold (slow : s.boot.everReady = false ∨ s.power.tripped = true) :
    (startWarm s).boot = { (warmState s).boot with path := .cold, step := 1, fallback := true } := by
  rw [startWarm_of_cold slow]
  exact logEvent_boot ..

/-! ### Boot steps -/

theorem exec_bootStepComplete_of_stopped (stopped : s.boot.path = .none ∨ s.power.pwrOk = false ∨ s.boot.testRun = true ∨
      s.boot.clkLost = true ∨ (s.power.tripped = true ∧ 3 ≤ s.boot.step)) : exec (.bootStepComplete r) s = .next s := by
  change execBootStepComplete r s = _
  rw [execBootStepComplete]
  exact if_pos stopped

/-- Nothing keeps the boot path under way from its next step. -/
def bootGoes (s : State) : Prop := s.power.pwrOk = true ∧ s.boot.testRun = false ∧ s.boot.clkLost = false ∧ s.power.tripped = false

theorem bootGoes.not_stopped (goes : bootGoes s) (path : s.boot.path ≠ .none) : ¬(s.boot.path = .none ∨ s.power.pwrOk = false ∨
    s.boot.testRun = true ∨ s.boot.clkLost = true ∨ (s.power.tripped = true ∧ 3 ≤ s.boot.step)) := by
  obtain ⟨powered, untested, clocked, untripped⟩ := goes
  rw [powered, untested, clocked, untripped]
  simpa using path

theorem exec_bootStepComplete_of_cold (goes : bootGoes s) (path : s.boot.path = .cold) : exec (.bootStepComplete r) s =
    .next (coldStep (s.boot.step + 1) r (modBoot (fun b => { b with step := s.boot.step + 1 }) s)) := by
  change execBootStepComplete r s = _
  rw [execBootStepComplete]
  refine (if_neg (goes.not_stopped (by rw [path]; decide))).trans ?_
  dsimp only
  rw [path]
  rfl

theorem exec_bootStepComplete_of_warm (goes : bootGoes s) (path : s.boot.path = .warm) : exec (.bootStepComplete r) s =
    .next (warmStep (s.boot.step + 1) r (modBoot (fun b => { b with step := s.boot.step + 1 }) s)) := by
  change execBootStepComplete r s = _
  rw [execBootStepComplete]
  refine (if_neg (goes.not_stopped (by rw [path]; decide))).trans ?_
  dsimp only
  rw [path]
  rfl

theorem exec_bootStepComplete_of_wake (goes : bootGoes s) (path : s.boot.path = .wake) : exec (.bootStepComplete r) s =
    .next (wakeStep (s.boot.wakeStep + 1) r (modBoot (fun b => { b with wakeStep := s.boot.wakeStep + 1 }) s)) := by
  change execBootStepComplete r s = _
  rw [execBootStepComplete]
  refine (if_neg (goes.not_stopped (by rw [path]; decide))).trans ?_
  dsimp only
  rw [path]
  rfl

protected theorem SameButFabric.applyTree {s₀ : State} {root : Nat} (h : SameButFabric s₀ s) : SameButFabric s₀ (applyTree root s) := by
  unfold applyTree
  exact SameButFabric.applyLanes h.frame

/-- The device as it reaches READY, before its tree is applied. -/
def inService (warm : Bool) (us : Nat) (s : State) : State :=
  modBoot (fun b => { b with path := .none, warm := warm, everReady := true, bootUs := us })
    { s with hub := { s.hub with ready := true }, power := { s.power with st := .run, waking := false } }

theorem bootReady_same {warm : Bool} {us : Nat} : SameButFabric (inService warm us s) (bootReady warm us s) := by
  unfold bootReady
  refine SameButFabric.refreshParent (SameButFabric.applyTree (SameButFabric.logEvent ?_))
  exact SameButFabric.refl (inService warm us s)

theorem bootReady_ready {warm : Bool} {us : Nat} : (bootReady warm us s).hub.ready = true :=
  congrArg (fun t => t.hub.ready) bootReady_same

theorem boot_bootReady {warm : Bool} {us : Nat} :
    (bootReady warm us s).boot = { s.boot with path := .none, warm := warm, everReady := true, bootUs := us } :=
  congrArg State.boot bootReady_same

theorem coldStep_of_last (last : 8 ≤ n) : coldStep n r s = bootReady false r.us { s with hub := { s.hub with l0 := r.l0 } } := by
  obtain ⟨m, rfl⟩ := Nat.exists_eq_add_of_le' last
  rfl

theorem exec_hbmStoredBad_of_untrained (stacked : stack < 16) (untrained : (SMap.get {} s.mem.hbmc stack).trained = false)
    (present : s.boot.absentStacks.contains stack = false) (on : (domOf s (8 + stack / 2)).st = .on) :
    exec (.hbmStoredBad stack) s = .next (logEvent 0x5051 srcDevice []
      { s with mem := { s.mem with hbmc := SMap.modify {} s.mem.hbmc stack (fun h => { h with trained := true }) } }) := by
  change execHbmStoredBad stack s = _
  rw [execHbmStoredBad]
  refine if_neg (not_or.2 ⟨Nat.not_le.2 stacked, not_or.2 ⟨?_, not_or.2 ⟨present ▸ Bool.false_ne_true, not_not.2 on⟩⟩⟩)
  rw [untrained]
  exact Bool.false_ne_true

theorem exec_fabricTrained_of_first (ready : s.hub.ready = true) (first : s.boot.trained = false) (tried : fabricTried s = true) :
    exec .fabricTrained s = .next (logEvent 0x5007 srcDevice [] (modBoot (fun b => { b with trained := true }) s)) := by
  change execFabricTrained s = _
  rw [execFabricTrained]
  exact if_pos (by rw [ready, first, tried]; rfl)

theorem exec_fabricTrained_of_other (other : s.hub.ready = false ∨ s.boot.trained = true ∨ fabricTried s = false) :
    exec .fabricTrained s = .next s := by
  change execFabricTrained s = _
  rw [execFabricTrained]
  exact if_neg (by rcases other with other | other | other <;> rw [other] <;> simp)

end

/-- Settles O57: the resets by what they keep, the boot steps by the path under way. -/
theorem resetsAndBoot : Obligations.ResetsAndBoot := by
  unfold Obligations.ResetsAndBoot
  refine ⟨fun s ns => ⟨fun powered => ⟨unpowered s, congrArg Host.Outcome.next (if_pos powered), rfl, rfl, rfl, rfl, rfl, rfl, rfl, rfl, rfl⟩,
      fun off => ⟨congrArg Host.Outcome.next (if_neg (off ▸ Bool.false_ne_true)), exec_warmRstN_of_unpowered off,
        coldState s, congrArg Host.Outcome.next (if_neg (off ▸ Bool.false_ne_true)), rfl, rfl, rfl, rfl⟩,
      fun powered => ⟨congrArg Host.Outcome.next (if_pos powered), fun long => ?_, fun short => ?_, fun long short => ?_,
        congrArg Host.Outcome.next (if_pos powered), congrArg Host.Outcome.next (if_pos powered)⟩,
      fun ever untripped => ?_, fun slow => ?_⟩,
    fun s r stack => ⟨fun idle => exec_bootStepComplete_of_stopped (.inl idle),
      fun tripped third => exec_bootStepComplete_of_stopped (.inr (.inr (.inr (.inr ⟨tripped, third⟩)))),
      fun tested => exec_bootStepComplete_of_stopped (.inr (.inr (.inl tested))),
      fun unclocked => exec_bootStepComplete_of_stopped (.inr (.inr (.inr (.inl unclocked)))),
      fun powered untested clocked untripped => ⟨fun path => exec_bootStepComplete_of_cold ⟨powered, untested, clocked, untripped⟩ path,
        fun path => exec_bootStepComplete_of_warm ⟨powered, untested, clocked, untripped⟩ path,
        fun path => exec_bootStepComplete_of_wake ⟨powered, untested, clocked, untripped⟩ path⟩,
      rfl, fun n last => ?_, fun stacked untrained present on => exec_hbmStoredBad_of_untrained stacked untrained present on,
      fun ready first tried => exec_fabricTrained_of_first ready first tried, fun other => exec_fabricTrained_of_other other⟩⟩
  · rw [exec_warmRstN_of_powered powered, if_neg (by omega), if_neg (by omega)]
  · rw [exec_warmRstN_of_powered powered, if_pos short]
  · rw [exec_warmRstN_of_powered powered, if_neg (by omega), if_pos short]
  · rw [startWarm_of_fast ever untripped]
    exact ⟨rfl, rfl, rfl, rfl, rfl, rfl⟩
  · rw [boot_startWarm_of_cold slow]
    exact ⟨rfl, rfl⟩
  · rw [coldStep_of_last last, boot_bootReady]
    exact ⟨bootReady_ready, rfl, rfl⟩

end Sys2Proof.Machine

/-! PROOFS. Events inside the package, the calibration store and the management path (O58). -/

namespace Sys2Proof.Machine

open Sys2Proof

/-! ### What a domain's fall leaves of boot's findings -/

section

variable {s₀ s : State}

theorem SameButFabric.boot {t : State} (h : SameButFabric s t) : t.boot = s.boot := by
  rw [show t = _ from h]

theorem SameButFabric.routePacket {p : Packet} (h : SameButFabric s₀ s) : SameButFabric s₀ (routePacket p s) := by
  rw [routePacket_same]
  exact h.frame

theorem SameButFabric.sendMsgPos {m : Msg} {pos : Nat} (h : SameButFabric s₀ s) : SameButFabric s₀ (sendMsgPos m pos s) :=
  SameButFabric.routePacket h

theorem SameButFabric.sendMsg {m : Msg} {dev : Nat} (h : SameButFabric s₀ s) : SameButFabric s₀ (sendMsg m dev s) := by
  unfold Machine.sendMsg
  split
  · exact h.sendMsgPos
  · exact h.routePacket

theorem SameButFabric.countFlap {k : Nat} {burst takeOut : Bool} (h : SameButFabric s₀ s) : SameButFabric s₀ (countFlap k burst takeOut s).2 := by
  unfold Machine.countFlap
  dsimp only
  split
  · exact h.modLane.logEvent
  · exact h.modLane

theorem SameButFabric.unplannedClose {k reason : Nat} {own burst : Bool} (h : SameButFabric s₀ s) :
    SameButFabric s₀ (unplannedClose k reason own burst s) := by
  unfold Machine.unplannedClose
  refine h.ite (SameButFabric.modLane ?_).sendMsgPos
  split
  · exact h.logEvent.ite h
  · exact (h.logEvent.ite h).countFlap

theorem SameButFabric.closeTile {k : Nat} (h : SameButFabric s₀ s) : SameButFabric s₀ (closeTile k s) := by
  unfold Machine.closeTile
  refine h.forEach fun _ _ h => ?_
  split
  · exact h.unplannedClose
  · exact h.unplannedClose
  · exact h
  · exact h.modLane

end

section

variable {s : State}

theorem boot_engineError {e code : Nat} : (engineError e code s).boot = s.boot := by
  simp [engineError]

theorem boot_cutMload {k : Nat} : (cutMload k s).boot = s.boot := by
  unfold cutMload
  split
  · rfl
  · simp [completeOp, boot_engineError]

theorem boot_loseTile {k : Nat} : (loseTile k s).boot = s.boot :=
  boot_cutMload.trans (SameButFabric.refl s).closeTile.boot

theorem boot_openSwitch {d : Nat} : (openSwitch d s).boot = s.boot := by
  unfold openSwitch
  dsimp only
  split_ifs
  · rfl
  · rfl
  · exact boot_loseTile

theorem boot_epochFault {cause e : Nat} {self : Bool} : (epochFault cause e self s).boot = s.boot := by
  unfold epochFault
  split
  · exact (SameButFabric.refl _).sendMsg.boot.trans (logEvent_boot ..)
  · rfl

end

section

variable {s : State} {k m n pos : Nat} {up : Bool} {ins : TapIns}

/-! ### Links, straps and the test port -/

theorem exec_ucieRetrain_of_on (tile : k < 8) (link : m < 8) (on : domDown s (16 + k) = false) : exec (.ucieRetrain k m) s =
    .next (logEvent 0x5034 srcDevice []
      (modBoot (fun b => { b with links := SMap.modify {} b.links k (fun l => { l with retrains := satAdd 16 l.retrains 1 }) }) s)) := by
  change execUcieRetrain k m s = _
  rw [execUcieRetrain]
  exact if_neg (not_or.2 ⟨Nat.not_le.2 tile, not_or.2 ⟨Nat.not_le.2 link, on ▸ Bool.false_ne_true⟩⟩)

/-- A hub link's errors counted. -/
def linkErrors (k n : Nat) (s : State) : State :=
  modBoot (fun b => { b with hubLinks := SMap.modify {} b.hubLinks k (fun h => { h with errors := satAdd 32 h.errors n }) }) s

/-- A die whose hub link has used its spares is unreachable, and its domains have failed (R505). -/
def dieUnreachable (k : Nat) (s : State) : State :=
  forEach (domTree k) (fun d s => modDom d (fun x => { x with st := .failed }) (openSwitch d s))
    (modBoot (fun b => { b with absentDies := insertNat k b.absentDies })
      (logEvent 0x5033 srcDevice [] (modBoot (fun b => { b with hubLinks := SMap.modify {} b.hubLinks k (fun h => { h with failed := true }) }) s)))

theorem exec_hubLinkSpare_of_link (die : k < 8) (works : (SMap.get {} s.boot.hubLinks k).failed = false) (on : domDown s k = false) :
    exec (.hubLinkSpare k n true) s =
      let v := linkErrors k n s
      if n ≤ 16 then .next v
      else if (SMap.get {} s.boot.hubLinks k).up then
        .next (if (domTree k).any (domUsed v) then epochFault 0x5033 srcDevice true (dieUnreachable k v) else dieUnreachable k v)
      else .next (logEvent 0x5032 srcDevice []
        (modBoot (fun b => { b with hubLinks := SMap.modify {} b.hubLinks k (fun h => { h with up := true }) }) v)) := by
  change execHubLinkSpare k n true s = _
  rw [execHubLinkSpare]
  exact if_neg (not_or.2 ⟨Nat.not_le.2 die, not_or.2 ⟨by rw [works]; exact Bool.false_ne_true, on ▸ Bool.false_ne_true⟩⟩)

theorem exec_hubLinkSpare_of_few (die : k < 8) (works : (SMap.get {} s.boot.hubLinks k).failed = false) (on : domDown s k = false)
    (few : n ≤ 16) : exec (.hubLinkSpare k n up) s = .next (linkErrors k n s) := by
  change execHubLinkSpare k n up s = _
  rw [execHubLinkSpare]
  exact (if_neg (not_or.2 ⟨Nat.not_le.2 die, not_or.2 ⟨by rw [works]; exact Bool.false_ne_true, on ▸ Bool.false_ne_true⟩⟩)).trans (if_pos few)

theorem boot_dieUnreachable : (dieUnreachable k s).boot =
    { s.boot with
      hubLinks := SMap.modify {} s.boot.hubLinks k (fun h => { h with failed := true })
      absentDies := insertNat k s.boot.absentDies } := by
  rw [dieUnreachable, forEach_keeps State.boot _ (fun d t => (modDom_boot ..).trans boot_openSwitch), modBoot_boot, logEvent_boot, modBoot_boot]

theorem absentDies_dieUnreachable : (dieUnreachable k s).boot.absentDies.contains k = true := by
  rw [boot_dieUnreachable]
  exact List.contains_iff_mem.2 (mem_insertNat.2 (.inl rfl))

theorem exec_posStrapChanged_of_first (powered : s.power.pwrOk = true) (moved : pos ≠ s.fab.position) (first : s.boot.strapLogged = false) :
    exec (.posStrapChanged pos) s =
      .next (logEvent 0x5080 srcDevice [(2, s.fab.position), (2, pos)] (modBoot (fun b => { b with strapLogged := true }) s)) := by
  change execPosStrapChanged pos s = _
  rw [execPosStrapChanged]
  exact if_pos (by rw [powered, decide_eq_true moved, first]; rfl)

theorem exec_posStrapChanged_of_known (known : pos = s.fab.position ∨ s.boot.strapLogged = true) : exec (.posStrapChanged pos) s = .next s := by
  change execPosStrapChanged pos s = _
  rw [execPosStrapChanged]
  exact if_neg (by rcases known with known | known <;> simp [known])

theorem exec_tapInstruction_of_open (opened : tapOpen ins = true) : exec (.tapInstruction ins) s = .next (modBoot (fun b => { b with tap := ins }) s) := by
  change execTapInstruction ins s = _
  rw [execTapInstruction]
  exact if_pos opened

theorem exec_tapInstruction_of_ready (test : tapOpen ins = false) (ready : s.hub.ready = true) : exec (.tapInstruction ins) s =
    .next (if s.boot.testLogged then modBoot (fun b => { b with tap := .bypass }) s
      else logEvent 0x5060 srcDevice [] (modBoot (fun b => { b with testLogged := true }) (modBoot (fun b => { b with tap := .bypass }) s))) := by
  change execTapInstruction ins s = _
  rw [execTapInstruction]
  exact (if_neg (test ▸ Bool.false_ne_true)).trans (if_pos (by rw [ready]; rfl))

theorem exec_tapInstruction_of_boot (test : tapOpen ins = false) (unready : s.hub.ready = false) (awake : s.power.st ≠ .watch) :
    exec (.tapInstruction ins) s = .next (modBoot (fun b => { b with testRun := true }) (modBoot (fun b => { b with tap := ins }) s)) := by
  change execTapInstruction ins s = _
  rw [execTapInstruction]
  exact (if_neg (test ▸ Bool.false_ne_true)).trans (if_neg (by rw [unready, decide_eq_false awake]; decide))

/-! ### The calibration store -/

/-- The write of a calibration slot as it starts. -/
def calWriteStarted (s : State) : State :=
  { modBoot (fun b => { b with
      writeBusy := true, writeDue := false, writeAgain := false, retried := false, otherValid := false
      recalDue := false, recalWrite := if b.recalDue then some s.time.hall.sec else b.recalWrite
      cal := SMap.set {} b.cal (1 - b.slot) { header := calHeader ((s.boot.seq + 1) % 2 ^ 32) (calBody s), body := calBody s } }) s with
    free := s.free + 1 }

theorem exec_calWriteStart_of_due (ready : s.hub.ready = true) (due : s.boot.writeDue = true ∨ recalWriteDue s = true)
    (idle : s.boot.writeBusy = false) : exec .calWriteStart s = .next (calWriteStarted s) := by
  change execCalWriteStart s = _
  rw [execCalWriteStart]
  exact if_pos (by rw [ready, idle]; rcases due with due | due <;> simp [due])

theorem exec_calWriteStart_of_none (written : s.boot.writeDue = false) (recent : recalWriteDue s = false) : exec .calWriteStart s = .next s := by
  change execCalWriteStart s = _
  rw [execCalWriteStart]
  exact if_neg (by rw [written, recent]; simp)

theorem exec_calWritten_of_busy {ok : Bool} (busy : s.boot.writeBusy = true) : exec (.calWritten ok) s =
    if ok then .next (logEvent 0x5042 srcDevice [] (modBoot commitSlot s))
    else if !s.boot.retried then .next (modBoot (fun b => { b with retried := true }) s)
    else .next (logEvent 0x5043 srcDevice [] (modBoot (fun b => { b with
      writeBusy := false, writeDue := b.writeDue || b.writeAgain, writeAgain := false, failed := satAdd 32 b.failed 1 }) s)) := by
  change execCalWritten ok s = _
  rw [execCalWritten]
  exact if_neg (by rw [busy]; decide)

theorem exec_calWritten_of_idle {ok : Bool} (idle : s.boot.writeBusy = false) : exec (.calWritten ok) s = .next s := by
  change execCalWritten ok s = _
  rw [execCalWritten]
  exact if_pos (by rw [idle]; rfl)

/-! ### The management path -/

theorem exec_pldmGetSensor_of_up (powered : s.power.pwrOk = true) (clocked : s.boot.clkLost = false)
    (up : s.hub.ready = true ∨ 1 ≤ s.boot.step ∨ s.power.st = .watch) :
    exec (.pldmGetSensor n) s = .next { s with hub := { s.hub with pldm := pldmSensor s n } } := by
  change execPldmGetSensor n s = _
  rw [execPldmGetSensor]
  exact if_pos (by rw [powered, clocked]; rcases up with up | up | up <;> simp [up])

theorem exec_pldmGetSensor_of_off (off : s.power.pwrOk = false) : exec (.pldmGetSensor n) s = .next s := by
  change execPldmGetSensor n s = _
  rw [execPldmGetSensor]
  exact if_neg (by rw [off]; simp)

theorem pldmSensor_of_temperature (first : 1 ≤ n) (last : n ≤ 144) : pldmSensor s n = some (sensorOf s (n - 1)).reading := by
  rw [pldmSensor]
  exact if_pos ⟨first, last⟩

theorem pldmSensor_of_rail (first : 200 ≤ n) (last : n ≤ 206) : pldmSensor s n = some ((railOf s (n - 200)).confirmed : Int) := by
  rw [pldmSensor, if_neg (by omega)]
  exact if_pos ⟨first, last⟩

/-- An administrative disable of a domain, in force and recorded. -/
def domDisabled (d : Nat) (s : State) : State :=
  drainDom 2 d (logEvent 0x2033 srcDevice [] (modDom d (fun x => { x with adminOff := true }) s))

theorem exec_mgmtDomainDisable_of_domain {d : Nat} {off : Bool} (inside : d < 24) : exec (.mgmtDomainDisable d off) s =
    let v := logEvent 0x1301 srcDevice [(4, 1000 + d), (8, b2n off)] s
    if !off then .next (modDom d (fun x => { x with adminOff := false }) v)
    else .next (if (domTree d).any (domUsed v) then epochFault 0x2033 srcDevice ((domTree d).any (identityNeeds v)) (domDisabled d v)
      else domDisabled d v) := by
  change execMgmtDomainDisable d off s = _
  rw [execMgmtDomainDisable]
  exact if_neg (Nat.not_le.2 inside)

/-- A disagreement of the two paths, counted, with sensor 600 raised. -/
def differNoted (unit : Nat) (s : State) : State :=
  { s with hub := { s.hub with
    mgmtDisagree := satAdd 32 s.hub.mgmtDisagree 1, sensor600 := true, mgmtDiffer := insertNat unit s.hub.mgmtDiffer } }

/-- A disagreement about a temperature sensor is recorded as the sensor's too. -/
def sensorDiffers (unit : Nat) (s : State) : State :=
  if unit < 144 then logEvent 0x3009 srcDevice [] (modThm (fun t => { t with disagree := satAdd 16 t.disagree 1 }) s) else s

theorem exec_mgmtDisagree_of_differ {unit mgmt data : Nat} (differ : mgmt ≠ data) : exec (.mgmtDisagree unit mgmt data false) s =
    .next (msixSend (sensorDiffers unit (differNoted unit s)).hub.vLink
      (logEvent 0x1300 srcDevice [(4, unit), (2, mgmt), (2, data)] (sensorDiffers unit (differNoted unit s)))) := by
  change execMgmtDisagree unit mgmt data false s = _
  rw [execMgmtDisagree]
  exact (if_neg Bool.false_ne_true).trans (if_neg differ)

theorem exec_mgmtDisagree_of_equal {unit mgmt : Nat} : exec (.mgmtDisagree unit mgmt mgmt false) s = .next s := by
  change execMgmtDisagree unit mgmt mgmt false s = _
  rw [execMgmtDisagree]
  exact (if_neg Bool.false_ne_true).trans (if_pos rfl)

theorem hub_sensorDiffers {unit : Nat} : (sensorDiffers unit s).hub = { s.hub with out := (sensorDiffers unit s).hub.out } := by
  unfold sensorDiffers
  split
  · exact (logEvent_same ..).hub
  · rfl

theorem mem_sensorDiffers {unit : Nat} : (sensorDiffers unit s).mem = s.mem := by
  unfold sensorDiffers
  split
  · exact logEvent_mem ..
  · rfl

/-- What a disagreement leaves: sensor 600 raised, one more counted, every byte of memory as it was. -/
theorem mgmtDisagree_yields {unit mgmt data : Nat} (differ : mgmt ≠ data) : Yields (.mgmtDisagree unit mgmt data false) s (fun t =>
    t.hub.sensor600 = true ∧ t.hub.mgmtDisagree = satAdd 32 s.hub.mgmtDisagree 1 ∧ t.mem = s.mem) := by
  refine ⟨_, exec_mgmtDisagree_of_differ differ, ?_⟩
  generalize (sensorDiffers unit (differNoted unit s)).hub.vLink = vector
  have same := (logEvent_same 0x1300 srcDevice [(4, unit), (2, mgmt), (2, data)] (sensorDiffers unit (differNoted unit s))).trans
    (msixSend_same vector (logEvent 0x1300 srcDevice [(4, unit), (2, mgmt), (2, data)] (sensorDiffers unit (differNoted unit s))))
  rw [same.hub, same.mem, mem_sensorDiffers, hub_sensorDiffers]
  exact ⟨rfl, rfl, rfl⟩

end

/-- Settles O58: each event by what it finds of the link, the strap, the slot or the domain it names. -/
theorem packageAndManagement : Obligations.PackageAndManagement := by
  unfold Obligations.PackageAndManagement
  refine ⟨fun s k m n pos up ins => ⟨fun tile link on => exec_ucieRetrain_of_on tile link on, fun die works on fresh many => ?_,
      fun die works on used many => ?_, fun die works on few => exec_hubLinkSpare_of_few die works on few,
      fun powered moved first => exec_posStrapChanged_of_first powered moved first, fun known => exec_posStrapChanged_of_known known,
      ⟨fun opened => exec_tapInstruction_of_open opened, fun test ready first => ?_, fun test ready logged => ?_,
        fun test unready awake => exec_tapInstruction_of_boot test unready awake⟩,
      fun ready => ⟨_, if_pos ready, rfl, rfl⟩,
      fun ready due idle => ⟨calWriteStarted s, exec_calWriteStart_of_due ready due idle, rfl, rfl, rfl, rfl, rfl⟩,
      fun written recent => exec_calWriteStart_of_none written recent, fun idle => exec_calWritten_of_idle idle,
      fun busy => ⟨_, exec_calWritten_of_busy busy, ?_⟩, fun busy first => ?_, fun busy retried => ?_⟩,
    fun s n d unit mgmt data off => ⟨fun powered clocked up => exec_pldmGetSensor_of_up powered clocked up,
      fun off => exec_pldmGetSensor_of_off off, fun first last => pldmSensor_of_temperature first last,
      fun first last => pldmSensor_of_rail first last,
      fun inside => ⟨fun enabled => ?_, fun disabled unused => ?_, fun disabled used => ?_⟩, fun beyond => if_pos beyond,
      fun port => if_neg (Nat.not_le.2 port), fun beyond => if_pos beyond, rfl, exec_mgmtDisagree_of_equal, fun differ => mgmtDisagree_yields differ⟩⟩
  · rw [exec_hubLinkSpare_of_link die works on]
    dsimp only
    rw [if_neg (Nat.not_le.2 many), fresh]
    rfl
  · refine ⟨_, (exec_hubLinkSpare_of_link die works on).trans ((if_neg (Nat.not_le.2 many)).trans (if_pos used)), ?_⟩
    split
    · rw [boot_epochFault]
      exact absentDies_dieUnreachable
    · exact absentDies_dieUnreachable
  · rw [exec_tapInstruction_of_ready test ready, first]
    rfl
  · rw [exec_tapInstruction_of_ready test ready, logged]
    rfl
  · dsimp only
    rw [logEvent_boot]
    exact ⟨rfl, rfl, rfl, rfl, rfl⟩
  · rw [exec_calWritten_of_busy busy, first]
    rfl
  · refine ⟨_, (exec_calWritten_of_busy busy).trans ((if_neg Bool.false_ne_true).trans (if_neg (by rw [retried]; decide))), ?_⟩
    dsimp only
    rw [logEvent_boot]
    exact ⟨rfl, rfl, rfl⟩
  · rw [exec_mgmtDomainDisable_of_domain inside, enabled]
    rfl
  · exact (exec_mgmtDomainDisable_of_domain inside).trans ((if_neg (by rw [disabled]; decide)).trans
      (congrArg Host.Outcome.next (if_neg (fun used => Bool.false_ne_true (unused.symm.trans used)))))
  · exact (exec_mgmtDomainDisable_of_domain inside).trans ((if_neg (by rw [disabled]; decide)).trans
      (congrArg Host.Outcome.next (if_pos used)))

end Sys2Proof.Machine
